-- ==== Sys2Proof/Word.lean ====
section
/-! DEFINITION. The word types of the TN-960 and their plainest arithmetic (R2, R3). -/

namespace Sys2Proof

/-- A 64-bit scalar register. -/
abbrev Word := BitVec 64

/-- A 32-bit instruction word or vector lane. -/
abbrev Word32 := BitVec 32

/-- A byte of memory. -/
abbrev Byte := BitVec 8

end Sys2Proof
end

