-- ==== Sys2Proof/Machine/Numbers.lean ====
section
/-! DEFINITION. The formats of numbers and their arithmetic: values, one rounding, overflow, conversions, sums, Q4E, the
three-part split and the verdict word (ch. 03). A value is exact until `roundTo` narrows it. -/

namespace Sys2Proof.Machine

/-- The floating-point formats of R29. -/
inductive FFmt where
  | f32 | f16 | bf16 | e4m3 | e5m2
deriving DecidableEq, Repr

/-- Width of a format (R29). -/
def FFmt.width : FFmt → Nat
  | .f32 => 32
  | .f16 => 16
  | .bf16 => 16
  | .e4m3 => 8
  | .e5m2 => 8

/-- Fraction bits of a format (R29). -/
def FFmt.frac : FFmt → Nat
  | .f32 => 23
  | .f16 => 10
  | .bf16 => 7
  | .e4m3 => 3
  | .e5m2 => 2

/-- Exponent bias of a format (R29). -/
def FFmt.bias : FFmt → Nat
  | .f32 => 127
  | .f16 => 15
  | .bf16 => 127
  | .e4m3 => 7
  | .e5m2 => 15

/-- The magnitude bits of the largest finite value (R29). -/
def FFmt.maxMag : FFmt → Nat
  | .f32 => 0x7F7FFFFF
  | .f16 => 0x7BFF
  | .bf16 => 0x7F7F
  | .e4m3 => 0x7E
  | .e5m2 => 0x7B

/-- The default NaN (R29, R31). -/
def FFmt.nan : FFmt → Nat
  | .f32 => 0x7FC00000
  | .f16 => 0x7E00
  | .bf16 => 0x7FC0
  | .e4m3 => 0x7F
  | .e5m2 => 0x7E

/-- Magnitude bits of infinity; E4M3 has none, and its NaN stands there (R29, R38). -/
def FFmt.infMag : FFmt → Nat
  | .f32 => 0x7F800000
  | .f16 => 0x7C00
  | .bf16 => 0x7F80
  | .e4m3 => 0x7F
  | .e5m2 => 0x7C

/-- The sign bit's weight. -/
def FFmt.signBit (f : FFmt) : Nat := 2 ^ (f.width - 1)

/-- The exponent of the smallest normal value. -/
def FFmt.emin (f : FFmt) : Int := 1 - (f.bias : Int)

/-- The rounding modes of VMODE.RM (R41). -/
inductive RMode where
  | rne | rtz | rup | rdn
deriving DecidableEq, Repr

/-- VMODE.RM as a mode (R41). -/
def RMode.ofBits (b : BitVec 2) : RMode :=
  match b.toNat with
  | 0 => .rne
  | 1 => .rtz
  | 2 => .rup
  | _ => .rdn

/-- The sticky flags an operation raises (R41) and the values it converted to E4M3 as zero (R39). -/
structure Fl where
  nv : Bool := false
  dz : Bool := false
  ovf : Bool := false
  uf : Bool := false
  nx : Bool := false
  rsumov : Bool := false
  under : Nat := 0
deriving DecidableEq, Repr

/-- No flag. -/
def Fl.none : Fl := {}

/-- Flags gather. -/
def Fl.join (a b : Fl) : Fl :=
  ⟨a.nv || b.nv, a.dz || b.dz, a.ovf || b.ovf, a.uf || b.uf, a.nx || b.nx, a.rsumov || b.rsumov, a.under + b.under⟩

/-- VMODE with the flags set, the count added and saturated (R39, R41). -/
def Fl.apply (f : Fl) (vmode : BitVec 64) : BitVec 64 :=
  let bit (b : Bool) (n : Nat) : BitVec 64 := if b then BitVec.ofNat 64 (2 ^ n) else 0
  let flags := bit f.nv 6 ||| bit f.dz 7 ||| bit f.ovf 8 ||| bit f.uf 9 ||| bit f.nx 10 ||| bit f.rsumov 11
  let cnt := min 0xFFFFFFFF ((vmode.extractLsb' 32 32).toNat + f.under)
  BitVec.ofNat 32 cnt ++ ((vmode.extractLsb' 0 32) ||| (flags.extractLsb' 0 32))

/-- An exact value: NaN, an infinity, or a signed dyadic number m × 2^e. -/
inductive Val where
  | nan
  | inf (neg : Bool)
  | fin (neg : Bool) (m : Nat) (e : Int)
deriving DecidableEq, Repr

/-- The value of a bit pattern (R29). -/
def FFmt.val (f : FFmt) (bits : Nat) : Val :=
  let neg := decide (bits / f.signBit % 2 = 1)
  let mag := bits % f.signBit
  if mag > f.maxMag then (if mag = f.infMag ∧ f ≠ .e4m3 then .inf neg else .nan)
  else
    let ex := mag / 2 ^ f.frac
    let fr := mag % 2 ^ f.frac
    if ex = 0 then .fin neg fr (f.emin - f.frac)
    else .fin neg (fr + 2 ^ f.frac) (f.emin - f.frac + ((ex : Int) - 1))

/-- A subnormal pattern. -/
def FFmt.subnormal (f : FFmt) (bits : Nat) : Bool :=
  let mag := bits % f.signBit
  decide (mag ≠ 0) && decide (mag < 2 ^ f.frac)

/-- A source with FTZ = 1: subnormals of FP32, FP16 and BF16 read as zero of the same sign (R40). -/
def FFmt.flushSrc (f : FFmt) (ftz : Bool) (bits : Nat) : Nat :=
  if ftz && f.subnormal bits && f != .e4m3 && f != .e5m2 then bits / f.signBit % 2 * f.signBit else bits

/-- A verdict word (R52). -/
def isVerdict (w : BitVec 32) : Bool :=
  w.extractLsb' 23 8 == 0xFF && w.extractLsb' 22 1 == 0 && w.extractLsb' 21 1 == 1

/-- The verdict word of R51. -/
def mkVerdict (v : Bool) (kind : BitVec 2) (chunks : Nat) : BitVec 32 :=
  BitVec.ofBool v ++ 0xFF#8 ++ 0#1 ++ 1#1 ++ 0#3 ++ kind ++ BitVec.ofNat 16 (min 0xFFFF chunks)

/-- A signalling NaN that is not a verdict word (R31). -/
def FFmt.snan (f : FFmt) (bits : Nat) : Bool :=
  match f with
  | .e4m3 => false
  | .e5m2 => false
  | .f32 =>
    decide (f.val bits = .nan) && decide (bits / 2 ^ 22 % 2 = 0) && !isVerdict (BitVec.ofNat 32 bits)
  | _ => decide (f.val bits = .nan) && decide (bits / 2 ^ (f.frac - 1) % 2 = 0)

/-- floor(log2 (n / d)) for n, d > 0. -/
def ratLog2 (n d : Nat) : Int :=
  let l : Int := (n.log2 : Int) - d.log2
  let ge : Bool := if 0 ≤ l then decide (d <<< l.toNat ≤ n) else decide (d ≤ n <<< (-l).toNat)
  if ge then l else l - 1

/-- n / d × 2^s as a fraction. -/
def ratScale (n d : Nat) (s : Int) : Nat × Nat :=
  if 0 ≤ s then (n <<< s.toNat, d) else (n, d <<< (-s).toNat)

/-- The magnitude n / d rounded to an integer, and whether that was inexact. -/
def quantize (mode : RMode) (neg : Bool) (n d : Nat) : Nat × Bool :=
  let k := n / d
  let r := n % d
  let up : Bool := match mode with
    | .rne => decide (2 * r > d) || (decide (2 * r = d) && decide (k % 2 = 1))
    | .rtz => false
    | .rup => decide (r ≠ 0) && !neg
    | .rdn => decide (r ≠ 0) && neg
  (if up then k + 1 else k, decide (r ≠ 0))

/-- How an operation narrows: its mode, whether it saturates E4M3 and E5M2 (R38), whether it flushes results (R40). -/
structure Narrow where
  mode : RMode
  sat : Bool
  ftz : Bool
deriving DecidableEq, Repr

/-- rne, no saturation, subnormals kept. -/
def Narrow.rne : Narrow := ⟨.rne, false, false⟩

/-- Magnitude bits of an overflowing result (R38). -/
def overflowMag (f : FFmt) (o : Narrow) (neg : Bool) : Nat :=
  let toward : Bool := match o.mode with
    | .rne => false
    | .rtz => true
    | .rup => neg
    | .rdn => !neg
  if toward then f.maxMag
  else match f with
    | .e4m3 => if o.sat then f.maxMag else f.infMag
    | .e5m2 => if o.sat then f.maxMag else f.infMag
    | _ => f.infMag

/-- The bits of an E4M3 NaN carry sign 0 (R31); every other pattern takes the sign. -/
def withSign (f : FFmt) (neg : Bool) (mag : Nat) : Nat :=
  if f = .e4m3 ∧ mag = f.nan then mag else if neg then f.signBit + mag else mag

/-- The finite value n / d × 2^e (n, d > 0) rounded once to a format (R37, R38, R40, R41). -/
def roundRat (f : FFmt) (o : Narrow) (neg : Bool) (n d : Nat) (e : Int) : Nat × Fl :=
  let E := ratLog2 n d + e
  let top := max E f.emin
  let (sn, sd) := ratScale n d (e - (top - f.frac))
  let (k, inexact) := quantize o.mode neg sn sd
  let mag := k + (top - f.emin).toNat * 2 ^ f.frac
  if mag > f.maxMag then (withSign f neg (overflowMag f o neg), { ovf := true, nx := true })
  else
    let (tn, td) := ratScale n d (e - (E - f.frac))
    let tiny : Bool := decide (E < f.emin) &&
      !(decide (E = f.emin - 1) && decide ((quantize o.mode neg tn td).1 = 2 ^ (f.frac + 1)))
    if o.ftz && f.subnormal mag && f != .e4m3 && f != .e5m2 then
      (withSign f neg 0, { uf := true, nx := true })
    else
      let under : Nat := if f = .e4m3 ∧ mag = 0 then 1 else 0
      (withSign f neg mag, ⟨false, false, false, tiny && inexact, inexact, false, under⟩)

/-- An exact value rounded once to a format (R37, R38). -/
def roundTo (f : FFmt) (o : Narrow) : Val → Nat × Fl
  | .nan => (f.nan, {})
  | .inf neg =>
    match f with
    | .e4m3 => if o.sat then (withSign f neg f.maxMag, { ovf := true, nx := true }) else (f.nan, { nv := true })
    | .e5m2 => if o.sat then (withSign f neg f.maxMag, { ovf := true, nx := true }) else (withSign f neg f.infMag, {})
    | _ => (withSign f neg f.infMag, {})
  | .fin neg m e => if m = 0 then (withSign f neg 0, {}) else roundRat f o neg m 1 e

/-- A signed dyadic number as an integer multiple of 2^e', for e' at most its exponent. -/
def scaledInt (neg : Bool) (m : Nat) (e e' : Int) : Int :=
  let x : Int := ((m <<< (e - e').toNat : Nat) : Int)
  if neg then -x else x

/-- The exact sum, with the signs of zero that R31 gives, and whether it is invalid. -/
def addV (mode : RMode) : Val → Val → Val × Bool
  | .nan, _ => (.nan, false)
  | _, .nan => (.nan, false)
  | .inf a, .inf b => if a = b then (.inf a, false) else (.nan, true)
  | .inf a, _ => (.inf a, false)
  | _, .inf b => (.inf b, false)
  | .fin na ma ea, .fin nb mb eb =>
    let e := min ea eb
    let x := scaledInt na ma ea e + scaledInt nb mb eb e
    if x = 0 then
      (.fin (if ma = 0 ∧ mb = 0 ∧ na = nb then na else decide (mode = .rdn)) 0 e, false)
    else (.fin (decide (x < 0)) x.natAbs e, false)

/-- The value with its sign inverted. -/
def negV : Val → Val
  | .nan => .nan
  | .inf n => .inf (!n)
  | .fin n m e => .fin (!n) m e

/-- The exact product, and whether it is invalid (R31). -/
def mulV : Val → Val → Val × Bool
  | .nan, _ => (.nan, false)
  | _, .nan => (.nan, false)
  | .inf a, .inf b => (.inf (a != b), false)
  | .inf a, .fin b m _ => if m = 0 then (.nan, true) else (.inf (a != b), false)
  | .fin a m _, .inf b => if m = 0 then (.nan, true) else (.inf (a != b), false)
  | .fin a ma ea, .fin b mb eb => (.fin (a != b) (ma * mb) (ea + eb), false)

/-- The order of two finite values or infinities: negative, zero or positive difference. -/
def cmpV : Val → Val → Int
  | .inf a, .inf b => if a = b then 0 else if a then -1 else 1
  | .inf a, _ => if a then -1 else 1
  | _, .inf b => if b then 1 else -1
  | .fin na ma ea, .fin nb mb eb =>
    let e := min ea eb
    scaledInt na ma ea e - scaledInt nb mb eb e
  | _, _ => 0

/-- A value is NaN. -/
def Val.isNan : Val → Bool
  | .nan => true
  | _ => false

/-- A value is finite. -/
def Val.isFin : Val → Bool
  | .fin _ _ _ => true
  | _ => false

/-- A value is zero. -/
def Val.isZero : Val → Bool
  | .fin _ m _ => decide (m = 0)
  | _ => false

/-- The value of an integer. -/
def Val.ofInt (x : Int) : Val := .fin (decide (x < 0)) x.natAbs 0

/-- Conversion to an integer format of `w` bits, signed or natural (R38): the bits and the flags. A finite value beyond the format
overflows: it saturates, and sets OF and NX as every overflow and NV as the integer row adds. -/
def toIntFmt (mode : RMode) (w : Nat) (signed : Bool) (v : Val) : Nat × Fl :=
  let lo : Int := if signed then -(2 ^ (w - 1) : Nat) else 0
  let hi : Int := if signed then (2 ^ (w - 1) : Nat) - 1 else (2 ^ w : Nat) - 1
  let bits (x : Int) : Nat := (x % ((2 ^ w : Nat) : Int)).toNat
  match v with
  | .nan => (0, { nv := true })
  | .inf neg => (bits (if neg then lo else hi), { nv := true })
  | .fin neg m e =>
    let (n, d) := ratScale m 1 e
    let (k, inexact) := quantize mode neg n d
    let x : Int := if neg then -(k : Int) else k
    if x < lo then (bits lo, { nv := true, ovf := true, nx := true })
    else if x > hi then (bits hi, { nv := true, ovf := true, nx := true })
    else (bits x, { nx := inexact })

/-- The integer a pattern of `w` bits holds. -/
def ofIntFmt (w : Nat) (signed : Bool) (bits : Nat) : Int :=
  let b := bits % 2 ^ w
  if signed && decide (2 ^ (w - 1) ≤ b) then (b : Int) - (2 ^ w : Nat) else b

/-- A format's source pattern as an operation reads it: flushed if it must be, with NV for a signalling NaN (R31, R40). -/
def readSrc (f : FFmt) (ftz : Bool) (bits : Nat) : Val × Fl :=
  (f.val (f.flushSrc ftz bits), { nv := f.snan bits })

/-- Addition (R31, R36). -/
def fAdd (f : FFmt) (o : Narrow) (a b : Nat) : Nat × Fl :=
  let (x, fa) := readSrc f o.ftz a
  let (y, fb) := readSrc f o.ftz b
  let (v, bad) := addV o.mode x y
  let (r, fr) := roundTo f o v
  (r, (fa.join fb).join (fr.join { nv := bad }))

/-- The pattern with its sign inverted. -/
def FFmt.negate (f : FFmt) (a : Nat) : Nat :=
  if a / f.signBit % 2 = 1 then a - f.signBit else a + f.signBit

/-- Subtraction: the addition of the negated second source. -/
def fSub (f : FFmt) (o : Narrow) (a b : Nat) : Nat × Fl :=
  let (x, fa) := readSrc f o.ftz a
  let (y, fb) := readSrc f o.ftz b
  let (v, bad) := addV o.mode x (negV y)
  let (r, fr) := roundTo f o v
  (r, (fa.join fb).join (fr.join { nv := bad }))

/-- Multiplication. -/
def fMul (f : FFmt) (o : Narrow) (a b : Nat) : Nat × Fl :=
  let (x, fa) := readSrc f o.ftz a
  let (y, fb) := readSrc f o.ftz b
  let (v, bad) := mulV x y
  let (r, fr) := roundTo f o v
  (r, (fa.join fb).join (fr.join { nv := bad }))

/-- c + a × b, or c − a × b, with one rounding (R36). -/
def fMulAdd (f : FFmt) (o : Narrow) (sub : Bool) (a b c : Nat) : Nat × Fl :=
  let (x, fa) := readSrc f o.ftz a
  let (y, fb) := readSrc f o.ftz b
  let (z, fc) := readSrc f o.ftz c
  let (p, bad) := mulV x y
  let (v, bad') := addV o.mode (if sub then negV p else p) z
  let (r, fr) := roundTo f o v
  (r, ((fa.join fb).join fc).join (fr.join { nv := bad || bad' }))

/-- Conversion between floating-point formats (R37, R38, R40); into the same format a value is kept and a NaN becomes the
default one (R120, R154). -/
def fCvt (src dst : FFmt) (o : Narrow) (a : Nat) : Nat × Fl :=
  let (x, fa) := readSrc src o.ftz a
  if src = dst then (if x.isNan then dst.nan else src.flushSrc o.ftz a, fa)
  else
    let (r, fr) := roundTo dst o x
    (r, fa.join fr)

/-! Q4E (R32 to R35). -/

/-- Slot k of a group. -/
def q4Slot (g : Nat) (k : Nat) : Nat := g / 2 ^ (4 * (k % 4)) % 16

/-- The slots that hold a leading escape (R33). -/
def q4Leading (g : Nat) : List Nat :=
  (List.range 4).filter fun k => decide (q4Slot g k = 8) && decide (q4Slot g (k + 3) ≠ 8)

/-- The value of a normal slot. -/
def q4Normal (x : Nat) : Val := Val.ofInt (if x < 8 then (x : Int) else (x : Int) - 16)

/-- The four values of a group before scaling; none is a format conflict (R33). -/
def q4Decode (g : Nat) : Option (List Val) :=
  let escapes := (List.range 4).filter fun k => decide (q4Slot g k = 8)
  match q4Leading g with
  | [] => if escapes = [] then some ((List.range 4).map fun k => q4Normal (q4Slot g k)) else none
  | [k] => some ((List.range 4).map fun j =>
      if j = k then FFmt.e4m3.val (q4Slot g (k + 2) * 16 + q4Slot g (k + 1))
      else if j = (k + 3) % 4 then q4Normal (q4Slot g j)
      else .fin false 0 0)
  | _ => none

/-- An exact quotient: a special value, or (−1)^neg × n / d × 2^e. -/
inductive Quot where
  | nan
  | inf (neg : Bool)
  | rat (neg : Bool) (n d : Nat) (e : Int)
deriving DecidableEq, Repr

/-- x / c for a scale c that is finite and not zero. -/
def quotV (x c : Val) : Quot :=
  match x, c with
  | .nan, _ => .nan
  | .inf a, .fin b _ _ => .inf (a != b)
  | .fin a m e, .fin b mc ec => .rat (a != b) m mc (e - ec)
  | _, _ => .nan

/-- rne of a quotient to an integer magnitude; infinities and NaN count as above 7. -/
def Quot.rneMag : Quot → Nat
  | .rat _ n d e => let (a, b) := ratScale n d e; (quantize .rne false a b).1
  | _ => 8

/-- The quotient is below zero. -/
def Quot.neg : Quot → Bool
  | .nan => false
  | .inf n => n
  | .rat n _ _ _ => n

/-- Quotient b ranks strictly above quotient a (R35). -/
def Quot.below : Quot → Quot → Bool
  | .nan, _ => false
  | _, .nan => true
  | .inf _, _ => false
  | _, .inf _ => true
  | .rat _ n d e, .rat _ n' d' e' =>
    let m := min e e'
    decide ((n <<< (e - m).toNat) * d' < (n' <<< (e' - m).toNat) * d)

/-- The index of the largest-ranked candidate among those listed; ties to the lower index (R35). -/
def q4Pick (q : List Quot) (cand : List Nat) : Nat :=
  match cand with
  | [] => 0
  | k :: rest => rest.foldl (fun best j => if (q.getD best .nan).below (q.getD j .nan) then j else best) k

/-- A slot's two's-complement bits for a signed magnitude of at most 7. -/
def q4Bits (neg : Bool) (mag : Nat) : Nat := if neg ∧ mag ≠ 0 then 16 - mag else mag

/-- The quotient equals the signed integer. -/
def Quot.eqInt (q : Quot) (neg : Bool) (mag : Nat) : Bool :=
  match q with
  | .rat qn n d e =>
    let (a, b) := ratScale n d e
    decide (a = mag * b) && (decide (mag = 0) || decide (qn = neg))
  | _ => false

/-- rne of a quotient to E4M3, saturated to 448, with the rule for magnitudes below 8 (R35): byte, saturated, inexact. -/
def q4Outlier : Quot → Nat × Bool × Bool
  | .nan => (0x7F, false, false)
  | .inf neg => (if neg then 0xFE else 0x7E, true, true)
  | .rat neg n d e =>
    if n = 0 then (if neg then 0xD0 else 0x50, false, true)
    else
      let (r, fl) := roundRat .e4m3 ⟨.rne, true, false⟩ neg n d e
      let mag := r % 128
      if mag < 0x50 then (if neg then 0xD0 else 0x50, false, true) else (r, fl.ovf, fl.nx)

/-- Conversion of a group of four values with a scale (R35). `snan` marks signalling sources. -/
def q4Encode (x : List Val) (snan : List Bool) (c : Val) : Nat × Fl :=
  if c.isZero || !c.isFin then (0, { nv := true })
  else
    let q := x.map fun v => quotV v c
    let n := q.map Quot.rneMag
    let cand := (List.range 4).filter fun j => decide (7 < n.getD j 0)
    let norm (j : Nat) : Nat × Fl :=
      let qj := q.getD j .nan
      let mag := n.getD j 0
      match qj with
      | .nan => (0, { nv := true })
      | _ =>
        if mag > 7 then (q4Bits qj.neg 7, { ovf := true, nx := true })
        else (q4Bits qj.neg mag, { nx := !qj.eqInt qj.neg mag })
    match cand with
    | [] =>
      (List.range 4).foldl (fun (acc : Nat × Fl) j =>
        let (b, f) := norm j
        (acc.1 + b * 2 ^ (4 * j), acc.2.join f)) (0, {})
    | _ =>
      let k := q4Pick q cand
      let (e, sat, inexact) := q4Outlier (q.getD k .nan)
      let j := (k + 3) % 4
      let (b, f) := norm j
      (8 * 2 ^ (4 * k) + e % 16 * 2 ^ (4 * ((k + 1) % 4)) + e / 16 * 2 ^ (4 * ((k + 2) % 4)) + b * 2 ^ (4 * j),
        f.join { nv := snan.getD k false, ovf := sat, nx := inexact })

/-! The three-part split (R49) and the compensated pair (R45). -/

/-- The exact difference of two values that R49 forms. -/
def subV (a b : Val) : Val := (addV .rne a (negV b)).1

/-- VSPLIT of one FP32 element: three BF16 patterns and its flags. Which flags the three roundings set the manual does not state: here
UF and NX are those of the last rounding, and an infinite source sets NV (log entry 69). -/
def split3 (a : Nat) : Nat × Nat × Nat × Fl :=
  let x := FFmt.f32.val a
  match x with
  | .nan => (FFmt.bf16.nan, FFmt.bf16.nan, FFmt.bf16.nan, { nv := FFmt.f32.snan a })
  | .inf neg => (withSign .bf16 neg FFmt.bf16.infMag, FFmt.bf16.nan, FFmt.bf16.nan, { nv := true })
  | .fin _ _ _ =>
    let (r1, f1) := roundTo .bf16 .rne x
    let (a1, g1) := if f1.ovf then roundTo .bf16 ⟨.rtz, false, false⟩ x else (r1, f1)
    let d1 := subV x (FFmt.bf16.val a1)
    let (a2, _) := roundTo .bf16 .rne d1
    let d2 := subV d1 (FFmt.bf16.val a2)
    let (a3, g3) := roundTo .bf16 .rne d2
    (a1, a2, a3, { g1 with uf := g3.uf, nx := g3.nx, ovf := false })

/-- The addition of two pairs of R45: rounded sum, error term, flags. -/
def pairAdd (ftz : Bool) (p1 p2 : Nat × Nat) : (Nat × Nat) × Fl :=
  let o : Narrow := ⟨.rne, false, ftz⟩
  let (s, fs) := fAdd .f32 o p1.1 p2.1
  match FFmt.f32.val s with
  | .fin _ _ _ =>
    let x := FFmt.f32.val (FFmt.f32.flushSrc ftz p1.1)
    let y := FFmt.f32.val (FFmt.f32.flushSrc ftz p2.1)
    let t := subV (addV .rne x y).1 (FFmt.f32.val s)
    let e := (addV .rne (addV .rne (FFmt.f32.val p1.2) (FFmt.f32.val p2.2)).1 t).1
    let (er, fe) := roundTo .f32 o e
    ((s, er), fs.join fe)
  | _ => ((s, 0), { fs with rsumov := fs.ovf })

end Sys2Proof.Machine
end

