-- ==== Sys2Proof/Config.lean ====
section
/-! DEFINITION. The free values: what the manual leaves open and the machine nevertheless produces. Each is a constant with no
body, so no proof can lean on a value of it. State.fresh is the counter that makes a value fresh. -/

namespace Sys2Proof

/-- A free choice among the moves that are open to the machine (log entry 1). -/
opaque Config.freeMove : Nat → Nat

/-- The cycles a step takes, as PERFA, PERFE, PERFF, PERFH and the dies' cycle counts see them (log entry 2). -/
opaque Config.freeCycles : Nat → Nat

/-- How many of a step's cycles the sequencer spent waiting for LDS or LDG data, as PERFF sees them (log entry 2). -/
opaque Config.freeStall : Nat → Nat

/-- Which of the results that R158 allows a special function gives (log entry 3). -/
opaque Config.freeUlp : Nat → BitVec 7 → BitVec 32 → BitVec 32

/-- Bits that another agent supplies and the manual does not give: SPDM message bodies, digests, certificates and signatures
(log entry 4). -/
opaque Config.freeBytes : Nat → List (BitVec 8)

/-- The reeve cycles of a handler's global access whose home is on the other die, and how far accepted chases have got (R379; log
entry 5). -/
opaque Config.freeReeveCycles : Nat → Nat

/-- Which of several equal choices a unit makes where the manual gives no rule: a slice's, a merge's or a binding's place, and values that
it does not state (log entries 6, 10, 18, 21 and 95). The second argument tells the choices of one step apart. -/
opaque Config.freeMerge : Nat → Nat → Nat

/-- Choices between two: whether a line is absent from the L2, so that a read of it counts (R257) or raises an event (R373; log entries 9 and
10), and the choices of log entries 4, 55, 87, 91, 104 and 105. The second argument tells the choices of one step apart. -/
opaque Config.freeMiss : Nat → Nat → Bool

/-- Which of the free slot numbers a new Hearth entry takes (R363, R367; log entry 12). -/
opaque Config.freeSlot : Nat → Nat

/-- Which of the threshold values held at or after a block's start a key plane is scored against (R330; log entry 13). -/
opaque Config.freeThreshold : Nat → Nat → Nat

/-- The KIND of the fault record of an SQLD, which has no template (R399): by its offset and count. -/
opaque Config.freeKind : Nat → Nat → BitVec 8

/-- The template number in the fault record of an SQLD, which has no template (R399): by its offset and count. -/
opaque Config.freeTemplate : Nat → Nat → BitVec 6

end Sys2Proof
end

