-- ==== Sys2Proof/Syntax.lean ====
section
/-! DEFINITION. The instructions and steps of the TN-960, one constructor per row of spec/opcode_table.json (R53 to R65).
The first 220 are 32-bit words; an operand is the field of R54 that holds it, high field first. The others are the
table's steps without a word (spec/95_what_each_step_holds.md): their operands say which agent, entry or value they concern. -/

namespace Sys2Proof

/-- Where a soft error strikes (R143, R416). -/
inductive ErrSite where
  /-- a word of a core's scratchpad buffer W (0), A (1) or C (2) -/
  | scratch (die core : Nat) (buf : BitVec 2)
  /-- a 64-byte line of the near or far tier -/
  | mem
  /-- a clean line in a cache of the device, whose parity fails (R408) -/
  | cache
deriving DecidableEq, Repr

/-- A barrier operation another module sends to a pod barrier homed here (R265, R274). -/
inductive PodBarOp where
  | join (kind mode : BitVec 2)
  | drop (mode : BitVec 2)
  | arrive (fault ginc : Bool)
  | bytes (n : Nat) (fault : Bool)
  | expect (n : BitVec 64)
  | wait (token : BitVec 32)
  | fill (v : BitVec 64)
  | get
  | test
  | lockWait (holder : BitVec 64) (group : BitVec 16) (prio : BitVec 8)
  | release (holder : BitVec 64)
  /-- a lock held by a context whose group has been aborted or discarded (R277) -/
  | abandon (holder : BitVec 64)
  /-- a context whose group is saved or stops leaves the waiters: of a phase by its token, of a future without one, or of a lock (R278) -/
  | leave (token : Option (BitVec 32))
  | lockLeave (holder : BitVec 64)
deriving DecidableEq, Repr

/-- A firmware image as Olulas's ROM finds it (R412): the digest of the key that signed it, its version, and whether the signature over the
image holds. -/
structure FwImage where
  key : BitVec 256
  version : Nat
  signed_ : Bool
deriving DecidableEq, Repr

/-- How a function's self-test ended, and the image of its firmware; the image of a function that runs none is not looked at (R409, R412). -/
structure SelfTest where
  pass : Bool
  img : FwImage
deriving DecidableEq, Repr

/-- A request another module sends to this one over Kolnel (R385). Offsets are in the near tier (R244). -/
inductive PodReq where
  | load (off size : Nat)
  | store (off : Nat) (bytes : List (BitVec 8))
  | atom (op : BitVec 4) (sz : BitVec 1) (off : Nat) (v : BitVec 64)
  | cas (sz : BitVec 1) (off : Nat) (e v : BitVec 64)
  | red (op : BitVec 4) (sz : BitVec 1) (off : Nat) (v : BitVec 64)
  | barrier (n : Nat) (op : PodBarOp)
deriving DecidableEq, Repr

/-- An untagged RoCEv2 message of a queue pair (R394). The address space and the address are those that the queue pair's
posted entry, or the message, gives. -/
inductive RoceMsg where
  | send (aspace : BitVec 12) (va : BitVec 64) (bytes : List (BitVec 8))
  | write (aspace : BitVec 12) (va : BitVec 64) (bytes : List (BitVec 8))
  | read (aspace : BitVec 12) (va : BitVec 64) (len : Nat)
  | noBuffer
deriving DecidableEq, Repr

/-- The rows of the opcode table. -/
inductive Instr where
  /-- ADD (R111). Adds two scalar registers at the selected width. -/
  | add (d : BitVec 5) (a : BitVec 5) (b : BitVec 5) (w : BitVec 2) (g : BitVec 3)
  /-- SUB (R111). Subtracts one scalar register from another at the selected width. -/
  | sub (d : BitVec 5) (a : BitVec 5) (b : BitVec 5) (w : BitVec 2) (g : BitVec 3)
  /-- MUL (R111). Multiplies two scalar registers and keeps the low bits. -/
  | mul (d : BitVec 5) (a : BitVec 5) (b : BitVec 5) (w : BitVec 2) (g : BitVec 3)
  /-- MULH (R111). Gives the high half of a signed product. -/
  | mulh (d : BitVec 5) (a : BitVec 5) (b : BitVec 5) (w : BitVec 2) (g : BitVec 3)
  /-- MULHN (R111). Gives the high half of a natural product. -/
  | mulhn (d : BitVec 5) (a : BitVec 5) (b : BitVec 5) (w : BitVec 2) (g : BitVec 3)
  /-- DIV (R111). Signed division truncated toward zero; division by zero gives all ones. -/
  | div (d : BitVec 5) (a : BitVec 5) (b : BitVec 5) (w : BitVec 2) (g : BitVec 3)
  /-- DIVN (R111). Natural division; division by zero gives all ones. -/
  | divn (d : BitVec 5) (a : BitVec 5) (b : BitVec 5) (w : BitVec 2) (g : BitVec 3)
  /-- REM (R111). Signed remainder carrying the dividend's sign. -/
  | rem (d : BitVec 5) (a : BitVec 5) (b : BitVec 5) (w : BitVec 2) (g : BitVec 3)
  /-- REMN (R111). Natural remainder. -/
  | remn (d : BitVec 5) (a : BitVec 5) (b : BitVec 5) (w : BitVec 2) (g : BitVec 3)
  /-- AND (R111). Bitwise AND of two scalar registers. -/
  | and (d : BitVec 5) (a : BitVec 5) (b : BitVec 5) (w : BitVec 2) (g : BitVec 3)
  /-- OR (R111). Bitwise OR of two scalar registers. -/
  | or (d : BitVec 5) (a : BitVec 5) (b : BitVec 5) (w : BitVec 2) (g : BitVec 3)
  /-- XOR (R111). Bitwise XOR of two scalar registers. -/
  | xor (d : BitVec 5) (a : BitVec 5) (b : BitVec 5) (w : BitVec 2) (g : BitVec 3)
  /-- ANDN (R111). Bitwise AND of the first source with the complement of the second. -/
  | andn (d : BitVec 5) (a : BitVec 5) (b : BitVec 5) (w : BitVec 2) (g : BitVec 3)
  /-- SHL (R111). Shifts left by the second source modulo the width. -/
  | shl (d : BitVec 5) (a : BitVec 5) (b : BitVec 5) (w : BitVec 2) (g : BitVec 3)
  /-- SHR (R111). Shifts right logically by the second source modulo the width. -/
  | shr (d : BitVec 5) (a : BitVec 5) (b : BitVec 5) (w : BitVec 2) (g : BitVec 3)
  /-- SAR (R111). Shifts right arithmetically by the second source modulo the width. -/
  | sar (d : BitVec 5) (a : BitVec 5) (b : BitVec 5) (w : BitVec 2) (g : BitVec 3)
  /-- ROL (R111). Rotates left by the second source modulo the width. -/
  | rol (d : BitVec 5) (a : BitVec 5) (b : BitVec 5) (w : BitVec 2) (g : BitVec 3)
  /-- MIN (R111). Smaller of two signed values. -/
  | min (d : BitVec 5) (a : BitVec 5) (b : BitVec 5) (w : BitVec 2) (g : BitVec 3)
  /-- MAX (R111). Larger of two signed values. -/
  | max (d : BitVec 5) (a : BitVec 5) (b : BitVec 5) (w : BitVec 2) (g : BitVec 3)
  /-- MINN (R111). Smaller of two natural values. -/
  | minn (d : BitVec 5) (a : BitVec 5) (b : BitVec 5) (w : BitVec 2) (g : BitVec 3)
  /-- MAXN (R111). Larger of two natural values. -/
  | maxn (d : BitVec 5) (a : BitVec 5) (b : BitVec 5) (w : BitVec 2) (g : BitVec 3)
  /-- POPC (R111). Counts the one bits of a source. -/
  | popc (d : BitVec 5) (a : BitVec 5) (w : BitVec 2) (g : BitVec 3)
  /-- CLZ (R111). Counts leading zero bits of a source. -/
  | clz (d : BitVec 5) (a : BitVec 5) (w : BitVec 2) (g : BitVec 3)
  /-- CTZ (R111). Counts trailing zero bits of a source. -/
  | ctz (d : BitVec 5) (a : BitVec 5) (w : BitVec 2) (g : BitVec 3)
  /-- BFX (R112). Extracts a bit field whose position and length come from the second source. -/
  | bfx (d : BitVec 5) (a : BitVec 5) (b : BitVec 5) (w : BitVec 2) (g : BitVec 3)
  /-- BFI (R112). Inserts a bit field into the destination register. -/
  | bfi (d : BitVec 5) (a : BitVec 5) (b : BitVec 5) (w : BitVec 2) (g : BitVec 3)
  /-- SEL (R111). Selects between two sources by the guard predicate; always executes. -/
  | sel (d : BitVec 5) (a : BitVec 5) (b : BitVec 5) (w : BitVec 2) (g : BitVec 3)
  /-- MOV (R111). Copies a scalar register at the selected width. -/
  | mov (d : BitVec 5) (a : BitVec 5) (w : BitVec 2) (g : BitVec 3)
  /-- CMP (R113). Compares two scalar values and writes a predicate. -/
  | cmp (p : BitVec 3) (a : BitVec 5) (b : BitVec 5) (c : BitVec 6) (w : BitVec 2) (g : BitVec 3)
  /-- FADD (R117). Scalar float addition rounded to nearest even. -/
  | fadd (d : BitVec 5) (a : BitVec 5) (b : BitVec 5) (w : BitVec 2) (g : BitVec 3)
  /-- FSUB (R117). Scalar float subtraction. -/
  | fsub (d : BitVec 5) (a : BitVec 5) (b : BitVec 5) (w : BitVec 2) (g : BitVec 3)
  /-- FMUL (R117). Scalar float multiplication. -/
  | fmul (d : BitVec 5) (a : BitVec 5) (b : BitVec 5) (w : BitVec 2) (g : BitVec 3)
  /-- FFMA (R117). Scalar fused multiply-add into the destination with one rounding. -/
  | ffma (d : BitVec 5) (a : BitVec 5) (b : BitVec 5) (w : BitVec 2) (g : BitVec 3)
  /-- FMIN (R119). Scalar float minimum with -0 below +0. -/
  | fmin (d : BitVec 5) (a : BitVec 5) (b : BitVec 5) (w : BitVec 2) (g : BitVec 3)
  /-- FMAX (R119). Scalar float maximum. -/
  | fmax (d : BitVec 5) (a : BitVec 5) (b : BitVec 5) (w : BitVec 2) (g : BitVec 3)
  /-- FCMP (R119). Scalar float comparison writing a predicate. -/
  | fcmp (c : BitVec 2) (p : BitVec 3) (a : BitVec 5) (b : BitVec 5) (w : BitVec 2) (g : BitVec 3)
  /-- FCVT (R120). Converts a scalar value between number formats with one rounding. -/
  | fcvt (d : BitVec 5) (a : BitVec 5) (s : BitVec 5) (t : BitVec 4) (g : BitVec 3)
  /-- ADDI (R115). Adds a sign-extended immediate. -/
  | addi (d : BitVec 5) (a : BitVec 5) (i : BitVec 16)
  /-- ANDI (R115). ANDs a zero-extended immediate. -/
  | andi (d : BitVec 5) (a : BitVec 5) (i : BitVec 16)
  /-- ORI (R115). ORs a zero-extended immediate. -/
  | ori (d : BitVec 5) (a : BitVec 5) (i : BitVec 16)
  /-- XORI (R115). XORs a zero-extended immediate. -/
  | xori (d : BitVec 5) (a : BitVec 5) (i : BitVec 16)
  /-- SHLI (R115). Shifts left by an immediate amount. -/
  | shli (d : BitVec 5) (a : BitVec 5) (n : BitVec 6)
  /-- SHRI (R115). Shifts right logically by an immediate amount. -/
  | shri (d : BitVec 5) (a : BitVec 5) (n : BitVec 6)
  /-- SARI (R115). Shifts right arithmetically by an immediate amount. -/
  | sari (d : BitVec 5) (a : BitVec 5) (n : BitVec 6)
  /-- MOVI (R116). Places a 16-bit constant in one halfword and clears the rest. -/
  | movi (d : BitVec 5) (h : BitVec 2) (i : BitVec 16)
  /-- MOVK (R116). Places a 16-bit constant in one halfword and keeps the rest. -/
  | movk (d : BitVec 5) (h : BitVec 2) (i : BitVec 16)
  /-- LDS (R121). Loads 8 bytes from a scratchpad buffer after the range checker releases it. -/
  | lds (d : BitVec 5) (a : BitVec 5) (b : BitVec 2) (o : BitVec 14)
  /-- STS (R121). Stores 8 bytes to a scratchpad buffer after the range checker releases it. -/
  | sts (d : BitVec 5) (a : BitVec 5) (b : BitVec 2) (o : BitVec 14)
  /-- LDG (R122). Loads through a handle; a non-resident or revoked page gives zero and sets p7. -/
  | ldg (d : BitVec 5) (h : BitVec 4) (z : BitVec 2) (n : BitVec 3) (o : BitVec 12)
  /-- STG (R122). Stores through a handle; a non-resident or revoked page suppresses the store and sets p7. -/
  | stg (d : BitVec 5) (h : BitVec 4) (z : BitVec 2) (n : BitVec 3) (o : BitVec 12)
  /-- ATOM (R232). Performs an atomic read-modify-write through a handle and returns the old value. -/
  | atom (d : BitVec 5) (h : BitVec 4) (x : BitVec 5) (o : BitVec 4) (z : BitVec 1) (r : BitVec 2) (s : BitVec 4)
  /-- RED (R235). Enters a reduction into the store queue, to be performed later at its home. -/
  | red (b : BitVec 5) (h : BitVec 4) (x : BitVec 5) (o : BitVec 4) (z : BitVec 1) (r : BitVec 1) (s : BitVec 4)
  /-- CAS (R233). Compare-and-swap through a handle. -/
  | cas (d : BitVec 5) (h : BitVec 4) (x : BitVec 5) (b : BitVec 5) (z : BitVec 1) (r : BitVec 2) (s : BitVec 4)
  /-- XLATE (R248). Walks the page table and fills a handle. -/
  | xlate (a : BitVec 5) (h : BitVec 4)
  /-- HDROP (R249). Clears the valid bit of a handle. -/
  | hdrop (h : BitVec 4)
  /-- HSTAT (R250). Writes the state of a handle into a scalar register. -/
  | hstat (a : BitVec 5) (h : BitVec 4)
  /-- FENCE_ACQ (R231). Places an acquire mark at a scope. -/
  | fenceAcq (s : BitVec 4)
  /-- FENCE_REL (R231). Places a release mark at a scope. -/
  | fenceRel (s : BitVec 4)
  /-- FENCE_FULL (R231). Places a full fence mark at a scope. -/
  | fenceFull (s : BitVec 4)
  /-- LSMARK (R231). Orders earlier queued accesses before later ones at a scope without stalling. -/
  | lsmark (s : BitVec 4)
  /-- BR (R124). Branches on a predicate, possibly negated. -/
  | br (n : BitVec 1) (p : BitVec 3) (o : BitVec 22)
  /-- J (R125). Jumps by a word offset. -/
  | j (o : BitVec 25)
  /-- CALL (R125). Jumps by a word offset and writes the return address to s31. -/
  | call (o : BitVec 25)
  /-- JR (R126). Jumps to the address in a register. -/
  | jr (a : BitVec 5)
  /-- CALLR (R126). Jumps to the address in a register and links s31. -/
  | callr (a : BitVec 5)
  /-- LOOP (R128). Starts a hardware loop with an immediate count. -/
  | loop (l : BitVec 2) (n : BitVec 8) (c : BitVec 15)
  /-- LOOP_REG (R128). Starts a hardware loop with a count from a register. -/
  | loopReg (l : BitVec 2) (n : BitVec 8) (a : BitVec 5)
  /-- PAND (R114). ANDs two predicates. -/
  | pand (d : BitVec 3) (a : BitVec 3) (b : BitVec 3) (g : BitVec 3)
  /-- POR (R114). ORs two predicates. -/
  | por (d : BitVec 3) (a : BitVec 3) (b : BitVec 3) (g : BitVec 3)
  /-- PXOR (R114). XORs two predicates. -/
  | pxor (d : BitVec 3) (a : BitVec 3) (b : BitVec 3) (g : BitVec 3)
  /-- PNOT (R114). Inverts a predicate. -/
  | pnot (d : BitVec 3) (a : BitVec 3) (g : BitVec 3)
  /-- PMOV (R114). Copies a predicate. -/
  | pmov (d : BitVec 3) (a : BitVec 3) (g : BitVec 3)
  /-- GETSR (R129). Reads a system register into a scalar register. -/
  | getsr (a : BitVec 5) (r : BitVec 10)
  /-- SETSR (R129). Writes a system register field by field, with waits for VMODE and REPRO. -/
  | setsr (a : BitVec 5) (r : BitVec 10)
  /-- TRAP (R131). Takes a precise trap with cause trap instruction and its immediate as INFO. -/
  | trap (i : BitVec 10)
  /-- VADD (R151). Adds two vector registers lane by lane. -/
  | vadd (d : BitVec 5) (a : BitVec 5) (b : BitVec 5) (m : BitVec 3) (z : BitVec 1)
  /-- VSUB (R151). Subtracts vector registers lane by lane. -/
  | vsub (d : BitVec 5) (a : BitVec 5) (b : BitVec 5) (m : BitVec 3) (z : BitVec 1)
  /-- VMUL (R151). Multiplies vector registers lane by lane. -/
  | vmul (d : BitVec 5) (a : BitVec 5) (b : BitVec 5) (m : BitVec 3) (z : BitVec 1)
  /-- VFMA (R151). Fused multiply-add into the destination lanes. -/
  | vfma (d : BitVec 5) (a : BitVec 5) (b : BitVec 5) (m : BitVec 3) (z : BitVec 1)
  /-- VFMS (R151). Fused multiply-subtract from the destination lanes. -/
  | vfms (d : BitVec 5) (a : BitVec 5) (b : BitVec 5) (m : BitVec 3) (z : BitVec 1)
  /-- VMIN (R151). Float minimum lane by lane. -/
  | vmin (d : BitVec 5) (a : BitVec 5) (b : BitVec 5) (m : BitVec 3) (z : BitVec 1)
  /-- VMAX (R151). Float maximum lane by lane. -/
  | vmax (d : BitVec 5) (a : BitVec 5) (b : BitVec 5) (m : BitVec 3) (z : BitVec 1)
  /-- VABS (R151). Clears the sign of each lane. -/
  | vabs (d : BitVec 5) (a : BitVec 5) (m : BitVec 3) (z : BitVec 1)
  /-- VNEG (R151). Inverts the sign of each lane. -/
  | vneg (d : BitVec 5) (a : BitVec 5) (m : BitVec 3) (z : BitVec 1)
  /-- VCPYS (R151). Copies the sign of one source onto the magnitude of another. -/
  | vcpys (d : BitVec 5) (a : BitVec 5) (b : BitVec 5) (m : BitVec 3) (z : BitVec 1)
  /-- VIADD (R152). Integer add lane by lane. -/
  | viadd (d : BitVec 5) (a : BitVec 5) (b : BitVec 5) (m : BitVec 3) (z : BitVec 1)
  /-- VISUB (R152). Integer subtract lane by lane. -/
  | visub (d : BitVec 5) (a : BitVec 5) (b : BitVec 5) (m : BitVec 3) (z : BitVec 1)
  /-- VIMUL (R152). Integer multiply lane by lane, low 32 bits. -/
  | vimul (d : BitVec 5) (a : BitVec 5) (b : BitVec 5) (m : BitVec 3) (z : BitVec 1)
  /-- VAND (R152). Bitwise AND lane by lane. -/
  | vand (d : BitVec 5) (a : BitVec 5) (b : BitVec 5) (m : BitVec 3) (z : BitVec 1)
  /-- VOR (R152). Bitwise OR lane by lane. -/
  | vor (d : BitVec 5) (a : BitVec 5) (b : BitVec 5) (m : BitVec 3) (z : BitVec 1)
  /-- VXOR (R152). Bitwise XOR lane by lane. -/
  | vxor (d : BitVec 5) (a : BitVec 5) (b : BitVec 5) (m : BitVec 3) (z : BitVec 1)
  /-- VSHL (R152). Shift left lane by lane. -/
  | vshl (d : BitVec 5) (a : BitVec 5) (b : BitVec 5) (m : BitVec 3) (z : BitVec 1)
  /-- VSHR (R152). Logical shift right lane by lane. -/
  | vshr (d : BitVec 5) (a : BitVec 5) (b : BitVec 5) (m : BitVec 3) (z : BitVec 1)
  /-- VSAR (R152). Arithmetic shift right lane by lane. -/
  | vsar (d : BitVec 5) (a : BitVec 5) (b : BitVec 5) (m : BitVec 3) (z : BitVec 1)
  /-- VIMIN (R152). Signed integer minimum lane by lane. -/
  | vimin (d : BitVec 5) (a : BitVec 5) (b : BitVec 5) (m : BitVec 3) (z : BitVec 1)
  /-- VIMAX (R152). Signed integer maximum lane by lane. -/
  | vimax (d : BitVec 5) (a : BitVec 5) (b : BitVec 5) (m : BitVec 3) (z : BitVec 1)
  /-- VIMIN_N32 (R152). Natural integer minimum lane by lane. -/
  | viminN32 (d : BitVec 5) (a : BitVec 5) (b : BitVec 5) (m : BitVec 3) (z : BitVec 1)
  /-- VIMAX_N32 (R152). Natural integer maximum lane by lane. -/
  | vimaxN32 (d : BitVec 5) (a : BitVec 5) (b : BitVec 5) (m : BitVec 3) (z : BitVec 1)
  /-- VCMP (R153). Compares vector lanes and writes a mask. -/
  | vcmp (d : BitVec 3) (a : BitVec 5) (b : BitVec 5) (c : BitVec 3) (t : BitVec 2) (m : BitVec 3) (z : BitVec 1)
  /-- VCVT (R154). Converts each lane between number formats, including Q4E with block scales. -/
  | vcvt (d : BitVec 5) (a : BitVec 5) (s : BitVec 5) (t : BitVec 5) (m : BitVec 3) (z : BitVec 1)
  /-- VSPLIT (R156). Splits FP32 lanes into three BF16 parts in three registers. -/
  | vsplit (d : BitVec 5) (a : BitVec 5) (m : BitVec 3) (z : BitVec 1)
  /-- VPACK (R157). Packs narrow elements several per lane. -/
  | vpack (d : BitVec 5) (a : BitVec 5) (f : BitVec 5) (m : BitVec 3) (z : BitVec 1)
  /-- VUNPK (R157). Unpacks narrow elements to one per lane. -/
  | vunpk (d : BitVec 5) (a : BitVec 5) (f : BitVec 5) (m : BitVec 3) (z : BitVec 1)
  /-- VSFU (R158). Computes a special function of each lane. -/
  | vsfu (d : BitVec 5) (a : BitVec 5) (f : BitVec 7) (m : BitVec 3) (z : BitVec 1)
  /-- VROTR (R159). Rotates each row toward higher columns. -/
  | vrotr (d : BitVec 5) (a : BitVec 5) (b : BitVec 5) (m : BitVec 3) (z : BitVec 1)
  /-- VBCR (R159). Broadcasts one column along each row. -/
  | vbcr (d : BitVec 5) (a : BitVec 5) (b : BitVec 5) (m : BitVec 3) (z : BitVec 1)
  /-- VREDR (R160). Reduces each row in pairwise tree order. -/
  | vredr (d : BitVec 5) (a : BitVec 5) (t : BitVec 2) (o : BitVec 2) (m : BitVec 3) (z : BitVec 1)
  /-- VREDR_C (R161). Compensated row sum writing sum and error term. -/
  | vredrC (d : BitVec 5) (a : BitVec 5) (m : BitVec 3) (z : BitVec 1)
  /-- VSCANR (R160). Inclusive scan along each row. -/
  | vscanr (d : BitVec 5) (a : BitVec 5) (t : BitVec 2) (o : BitVec 2) (m : BitVec 3) (z : BitVec 1)
  /-- VROTC (R159). Rotates each column toward higher rows. -/
  | vrotc (d : BitVec 5) (a : BitVec 5) (b : BitVec 5) (m : BitVec 3) (z : BitVec 1)
  /-- VBCC (R159). Broadcasts one row along each column. -/
  | vbcc (d : BitVec 5) (a : BitVec 5) (b : BitVec 5) (m : BitVec 3) (z : BitVec 1)
  /-- VREDC (R160). Reduces each column in linear order. -/
  | vredc (d : BitVec 5) (a : BitVec 5) (t : BitVec 2) (o : BitVec 2) (m : BitVec 3) (z : BitVec 1)
  /-- VREDC_C (R161). Compensated column sum writing sum and error term. -/
  | vredcC (d : BitVec 5) (a : BitVec 5) (m : BitVec 3) (z : BitVec 1)
  /-- VSCANC (R160). Inclusive scan along each column. -/
  | vscanc (d : BitVec 5) (a : BitVec 5) (t : BitVec 2) (o : BitVec 2) (m : BitVec 3) (z : BitVec 1)
  /-- VPERM (R162). Permutes lanes by an index register. -/
  | vperm (d : BitVec 5) (a : BitVec 5) (b : BitVec 5) (m : BitVec 3) (z : BitVec 1)
  /-- VSEL (R162). Selects lanes from two registers by a mask. -/
  | vsel (d : BitVec 5) (a : BitVec 5) (b : BitVec 5) (m : BitVec 3)
  /-- VMOV (R162). Copies a vector register. -/
  | vmov (d : BitVec 5) (a : BitVec 5) (m : BitVec 3) (z : BitVec 1)
  /-- VIOTA (R162). Writes a scalar base plus the lane index to each lane. -/
  | viota (d : BitVec 5) (a : BitVec 5) (m : BitVec 3) (z : BitVec 1)
  /-- VINS (R162). Inserts a scalar into one lane. -/
  | vins (d : BitVec 5) (a : BitVec 5) (b : BitVec 5)
  /-- VEXT (R162). Extracts one lane into a scalar register. -/
  | vext (d : BitVec 5) (a : BitVec 5) (b : BitVec 5)
  /-- VLD (R163). Loads a whole register from scratchpad, widening from the bank format. -/
  | vld (v : BitVec 5) (u : BitVec 2) (s : BitVec 5) (o : BitVec 13)
  /-- VST (R163). Stores a whole register to scratchpad, narrowing into the bank format. -/
  | vst (v : BitVec 5) (u : BitVec 2) (s : BitVec 5) (o : BitVec 13)
  /-- VLDG (R165). Loads one element per active lane from global memory through a handle. -/
  | vldg (v : BitVec 5) (h : BitVec 4) (i : BitVec 5) (m : BitVec 3) (r : BitVec 3) (z : BitVec 2)
  /-- VSTG (R165). Stores one element per active lane to global memory through a handle. -/
  | vstg (v : BitVec 5) (h : BitVec 4) (i : BitVec 5) (m : BitVec 3) (r : BitVec 3) (z : BitVec 2)
  /-- VPOP (R167). Takes the next 1,024 elements of an input feed into a register. -/
  | vpop (d : BitVec 5) (f : BitVec 3) (m : BitVec 3) (z : BitVec 1)
  /-- VPUSH (R167). Writes a register into the next 1,024 positions of an output feed. -/
  | vpush (a : BitVec 5) (f : BitVec 3) (m : BitVec 3)
  /-- MAND (R168). ANDs two masks. -/
  | mand (d : BitVec 3) (a : BitVec 3) (b : BitVec 3)
  /-- MOR (R168). ORs two masks. -/
  | mor (d : BitVec 3) (a : BitVec 3) (b : BitVec 3)
  /-- MXOR (R168). XORs two masks. -/
  | mxor (d : BitVec 3) (a : BitVec 3) (b : BitVec 3)
  /-- MNOT (R168). Inverts a mask. -/
  | mnot (d : BitVec 3) (a : BitVec 3)
  /-- MPOPC (R168). Counts the set bits of a mask into a scalar register. -/
  | mpopc (d : BitVec 5) (a : BitVec 3)
  /-- MTEST (R168). Sets a predicate if two masks share a set bit. -/
  | mtest (d : BitVec 3) (a : BitVec 3) (b : BitVec 3)
  /-- VDOPEN (R318). Opens a verdict accumulation set. -/
  | vdopen (d : BitVec 5) (a : BitVec 5) (b : BitVec 5)
  /-- VDACC (R319). Adds one chunk to the open verdict set and fixes decided columns. -/
  | vdacc (d : BitVec 5) (a : BitVec 5) (b : BitVec 5)
  /-- VDTHR (R321). Offers a tighter threshold to the verdict monitor. -/
  | vdthr (a : BitVec 5)
  /-- VDCLOSE (R323). Closes the verdict set and finishes live columns. -/
  | vdclose (d : BitVec 5)
  /-- VDTEST (R324). Sets mask bits for lanes that are verdict words with VERDICT 1. -/
  | vdtest (d : BitVec 3) (a : BitVec 5) (m : BitVec 3) (z : BitVec 1)
  /-- VDTEST_ANY (R324). Sets mask bits for lanes that are any verdict word. -/
  | vdtestAny (d : BitVec 3) (a : BitVec 5) (m : BitVec 3) (z : BitVec 1)
  /-- TOPKI (R326). Merges candidates into a running top-k list. -/
  | topki (d : BitVec 5) (a : BitVec 5) (b : BitVec 5) (m : BitVec 3)
  /-- BSCORE (R329). Issues a bit-serial key scoring command from a template with register overrides. -/
  | bscore (d : BitVec 5) (a : BitVec 5) (b : BitVec 5)
  /-- MMA (R181). Issue word that amends and enqueues a matrix multiply-accumulate command. -/
  | mma (t : BitVec 6) (f : BitVec 4) (v : BitVec 16)
  /-- MMAS (R184). Issue word that enqueues a sparse matrix command. -/
  | mmas (t : BitVec 6) (f : BitVec 4) (v : BitVec 16)
  /-- MMAG (R188). Issue word that places one ganged matrix command in every participant's queue. -/
  | mmag (t : BitVec 6) (f : BitVec 4) (v : BitVec 16)
  /-- MZERO (R190). Issue word that enqueues an accumulator-zeroing command. -/
  | mzero (t : BitVec 6) (f : BitVec 4) (v : BitVec 16)
  /-- MSTORE (R191). Issue word that enqueues an accumulator store to scratchpad. -/
  | mstore (t : BitVec 6) (f : BitVec 4) (v : BitVec 16)
  /-- MATRIX_HOLD (R67). Hold word that amends the matrix staging register without issuing. -/
  | matrixHold (t : BitVec 6) (f : BitVec 4) (v : BitVec 16)
  /-- TCOPY (R204). Issue word that checks and enqueues a tensor copy. -/
  | tcopy (t : BitVec 6) (f : BitVec 4) (v : BitVec 16)
  /-- TFILL (R207). Issue word that enqueues a fill command. -/
  | tfill (t : BitVec 6) (f : BitVec 4) (v : BitVec 16)
  /-- BCOPY (R207). Issue word that enqueues a bank-to-bank copy. -/
  | bcopy (t : BitVec 6) (f : BitVec 4) (v : BitVec 16)
  /-- COPY_HOLD (R67). Hold word that amends the copy staging register. -/
  | copyHold (t : BitVec 6) (f : BitVec 4) (v : BitVec 16)
  /-- TGATHER (R208). Issue word that enqueues a row gather by index list. -/
  | tgather (t : BitVec 6) (f : BitVec 4) (v : BitVec 16)
  /-- TSCATTER (R208). Issue word that enqueues a row scatter by index list. -/
  | tscatter (t : BitVec 6) (f : BitVec 4) (v : BitVec 16)
  /-- TSCORE (R328). Issue word that enqueues a scoring template unchanged. -/
  | tscore (t : BitVec 6)
  /-- GATHER_HOLD (R67). Hold word that amends the gather staging register. -/
  | gatherHold (t : BitVec 6) (f : BitVec 4) (v : BitVec 16)
  /-- TCOLL (R388). Issue word that checks the communicator and enqueues a collective. -/
  | tcoll (t : BitVec 6) (f : BitVec 4) (v : BitVec 16)
  /-- COLLECTIVE_HOLD (R67). Hold word that amends the collective staging register. -/
  | collectiveHold (t : BitVec 6) (f : BitVec 4) (v : BitVec 16)
  /-- SEEK (R353). Issue word that enqueues a drove search. -/
  | seek (t : BitVec 6) (f : BitVec 4) (v : BitVec 16)
  /-- KFETCH (R353). Issue word that enqueues a passage KV fetch. -/
  | kfetch (t : BitVec 6) (f : BitVec 4) (v : BitVec 16)
  /-- SAPPEND (R353). Issue word that enqueues an append-log update. -/
  | sappend (t : BitVec 6) (f : BitVec 4) (v : BitVec 16)
  /-- SMERGE (R353). Issue word that enqueues a merge of the log into the graph. -/
  | smerge (t : BitVec 6) (f : BitVec 4) (v : BitVec 16)
  /-- SEARCH_HOLD (R67). Hold word that amends the search staging register. -/
  | searchHold (t : BitVec 6) (f : BitVec 4) (v : BitVec 16)
  /-- TMPL (R202). Loads an engine template from scratchpad. -/
  | tmpl (a : BitVec 5) (b : BitVec 2) (c : BitVec 3) (t : BitVec 6)
  /-- TMPL_BFMT (R137). Writes a bank's BFMT register after the range checker drains its users. -/
  | tmplBfmt (a : BitVec 5) (n : BitVec 5)
  /-- NOTIFY (R199). Places completion markers in the named queues for one event and barrier signal. -/
  | notify (a : BitVec 5) (l : BitVec 3) (c : BitVec 6)
  /-- QDRAIN (R201). Stalls until every entry present in the named queues has ended. -/
  | qdrain (c : BitVec 6)
  /-- RINGSET_CFG (R173). Configures a ring after its tile commands have ended. -/
  | ringsetCfg (a : BitVec 5) (g : BitVec 3)
  /-- RINGSET_ADV (R173). Declares filled units in a ring, waiting for room. -/
  | ringsetAdv (a : BitVec 5) (g : BitVec 3)
  /-- FEEDBIND (R213). Binds a feed from a descriptor in scratchpad. -/
  | feedbind (a : BitVec 5) (u : BitVec 2) (f : BitVec 3)
  /-- FEEDSTOP (R215). Stops a feed, flushing outputs or discarding inputs. -/
  | feedstop (f : BitVec 3)
  /-- SQLD (R176). Enqueues a copy command that appends BF16 scales to the scale queue. -/
  | sqld (a : BitVec 5) (b : BitVec 5) (u : BitVec 2)
  /-- ZTEST (R179). Tests a scratchpad range for zero and sets a tile predicate. -/
  | ztest (a : BitVec 5) (b : BitVec 5) (u : BitVec 2) (t : BitVec 4)
  /-- WPWAIT (R211). Waits until a bound command's write pointer passes an offset. -/
  | wpwait (a : BitVec 5) (p : BitVec 4)
  /-- BJOIN (R270). Registers a member of a barrier, setting its kind if free. -/
  | bjoin (k : BitVec 2) (b : BitVec 5) (l : BitVec 3) (m : BitVec 2) (n : BitVec 5)
  /-- BDROP (R270). Deregisters a member of a barrier. -/
  | bdrop (l : BitVec 3) (m : BitVec 2) (n : BitVec 5)
  /-- BARR (R275). Arrives at a phaser and returns the phase. -/
  | barr (b : BitVec 5) (l : BitVec 3) (n : BitVec 5)
  /-- BWAIT (R275). Waits for a phase to complete. -/
  | bwait (a : BitVec 5) (b : BitVec 5) (l : BitVec 3) (n : BitVec 5)
  /-- BARW (R275). Arrives and waits for the phase arrived in. -/
  | barw (b : BitVec 5) (l : BitVec 3) (n : BitVec 5)
  /-- BEXP (R273). Adds expected bytes to a phaser's PENDING. -/
  | bexp (a : BitVec 5) (l : BitVec 3) (n : BitVec 5)
  /-- BTEST (R275). Reads a barrier's test word without waiting. -/
  | btest (b : BitVec 5) (l : BitVec 3) (n : BitVec 5)
  /-- FSET (R276). Fills a future and wakes its readers. -/
  | fset (a : BitVec 5) (l : BitVec 3) (n : BitVec 5)
  /-- FGET (R276). Reads a future, parking until it is filled. -/
  | fget (b : BitVec 5) (l : BitVec 3) (n : BitVec 5)
  /-- LWAIT (R277). Acquires a lock, parking and lending priority while held. -/
  | lwait (b : BitVec 5) (l : BitVec 3) (n : BitVec 5)
  /-- LREL (R277). Releases a lock or hands it to the best waiter. -/
  | lrel (l : BitVec 3) (n : BitVec 5)
  /-- ENQ (R287). Enqueues a launch record with the Steward at depth plus one. -/
  | enq (a : BitVec 5) (b : BitVec 5) (h : BitVec 4)
  /-- SPAWN (R288). Launches a single-iteration task at a register entry. -/
  | spawn (a : BitVec 5) (b : BitVec 5)
  /-- KARM (R290). Arms a launch record against a network tag. -/
  | karm (a : BitVec 5) (b : BitVec 5) (o : BitVec 1) (h : BitVec 4)
  /-- KDISARM (R290). Removes an armed tag. -/
  | kdisarm (a : BitVec 5)
  /-- KLAUNCH (R288). Launches a record at depth 0 without waiting. -/
  | klaunch (a : BitVec 5) (b : BitVec 5) (h : BitVec 4)
  /-- KCANCEL (R294). Cancels a kernel and returns a status. -/
  | kcancel (a : BitVec 5) (b : BitVec 5)
  /-- SHWAIT (R295). Waits for a kernel to end and returns its end word. -/
  | shwait (a : BitVec 5) (b : BitVec 5)
  /-- PREQ (R253). Requests promotion of a page and returns a status. -/
  | preq (a : BitVec 5) (b : BitVec 5) (e : BitVec 1) (n : BitVec 5)
  /-- PCANCEL (R255). Removes pending page requests of the kernel. -/
  | pcancel (a : BitVec 5) (b : BitVec 5) (l : BitVec 1)
  /-- PHARV (R259). Harvests dirty marks and re-notifies overflowed pages in a range. -/
  | pharv (a : BitVec 5) (b : BitVec 5)
  /-- BTFORK (R264). Clones a sequence's block table sharing its table pages. -/
  | btfork (a : BitVec 5) (b : BitVec 5)
  /-- BTMAP (R262). Maps one logical block of a sequence, copying a shared table page first. -/
  | btmap (a : BitVec 5) (b : BitVec 5) (h : BitVec 4)
  /-- BTUNMAP (R263). Clears table entries or releases a whole sequence. -/
  | btunmap (a : BitVec 5) (b : BitVec 5) (c : BitVec 10)
  /-- WOPEN (R338). Opens a speculative window in a pool page. -/
  | wopen (a : BitVec 5) (b : BitVec 5) (d : BitVec 5) (h : BitVec 4)
  /-- WCOMMIT (R339). Closes a window keeping an accepted prefix and its checkpoint. -/
  | wcommit (a : BitVec 5) (b : BitVec 5) (d : BitVec 5)
  /-- WABORT (R339). Closes a window discarding every draft write. -/
  | wabort (a : BitVec 5) (d : BitVec 5)
  /-- WSTAT (R340). Reads a sequence's window state. -/
  | wstat (a : BitVec 5) (d : BitVec 5)
  /-- HPIN (R367). Pins a stream's Hearth slot, making room if needed. -/
  | hpin (a : BitVec 5) (b : BitVec 5) (d : BitVec 5)
  /-- HUNPIN (R367). Removes a stream's Hearth entry. -/
  | hunpin (a : BitVec 5) (d : BitVec 5)
  /-- HSAVE (R367). Writes back a slot's dirty lines keeping it pinned. -/
  | hsave (a : BitVec 5) (d : BitVec 5)
  /-- HEVICT (R367). Evicts a stream's Hearth slot. -/
  | hevict (a : BitVec 5) (d : BitVec 5)
  /-- HDLBIND (R378). Binds reeve handlers to an address range on every reeve of the die. -/
  | hdlbind (a : BitVec 5) (d : BitVec 5) (h : BitVec 4)
  /-- HDLUNB (R378). Frees a reeve binding and returns its drop count. -/
  | hdlunb (a : BitVec 5) (d : BitVec 5)
  /-- HDLMSG (R378). Queues a message event at a slice's reeve. -/
  | hdlmsg (a : BitVec 5) (b : BitVec 5) (d : BitVec 5)
  /-- SLPF (R379). Reeve prefetches up to 64 lines. -/
  | slpf (s : BitVec 5) (r : BitVec 5) (d : BitVec 5)
  /-- SLCHASE (R379). Reeve starts a pointer chase. -/
  | slchase (s : BitVec 5) (r : BitVec 5) (d : BitVec 5)
  /-- SLUPD (R379). Reeve performs an atomic update at the line's home. -/
  | slupd (o : BitVec 3) (g : BitVec 1) (s : BitVec 5) (r : BitVec 5) (d : BitVec 5)
  /-- SLFWD (R379). Reeve forwards a message event to another slice. -/
  | slfwd (s : BitVec 5) (r : BitVec 5) (d : BitVec 5)
  /-- SLDONE (R379). Ends a reeve handler with a disposition. -/
  | sldone (r : BitVec 5)
  /-- COMMAND_END (R196). A copy, gather or scoring command completes or faults and releases its footprint. -/
  | commandEnd (k : Nat)
  /-- FEED_TRANSFER (R214). An active feed transfers elements between memory and its stream. -/
  | feedTransfer (f : BitVec 3)
  /-- DROVE_PAGE_ARRIVAL (R348). A flash page of a visit arrives and its nodes are scored and offered. -/
  | drovePageArrival (k : Nat) (fp : Nat)
  /-- PAGE_READ_REQUEUE (R350). A failed page decode is retried by re-queuing the read. -/
  | pageReadRequeue (k : Nat) (fp : Nat)
  /-- SMERGE_SWAP (R358). Swaps in the merged graph and advances LOGHEAD in one step. -/
  | smergeSwap (k : Nat)
  /-- RED_TRANSLATION (R235). A RED is translated at the memory side and faults late or proceeds. -/
  | redTranslation (k : Nat)
  /-- RED_PERFORMED (R236). A RED waiting for its page is performed at its home. -/
  | redPerformed (k : Nat)
  /-- ITERATION_HANDOUT (R292). Shepherd hands the next iteration to an empty slot of the group. -/
  | iterationHandout (die : Nat) (e : Nat)
  /-- DECLARED_INPUTS_ARRIVED (R293). A loading slot's declared inputs complete and it becomes runnable. -/
  | declaredInputsArrived (slot : Nat)
  /-- STEWARD_DISPATCH (R219). Steward dispatches the best eligible entry to a group or the Quesar die. -/
  | stewardDispatch (die : Nat)
  /-- ESTIMATOR_DECISION (R306). Estimator chooses drain, discard or save for a victim. -/
  | estimatorDecision (die : Nat) (e : Nat)
  /-- SCRUB_COMPLETE (R300). Core scrubs finish and the allocated group starts running. -/
  | scrubComplete (die : Nat) (e : Nat)
  /-- PREEMPTION_COMPLETE (R311). A draining, discarding or saving group's last work ends and its cores are freed. -/
  | preemptionComplete (die : Nat) (e : Nat)
  /-- RESTORE_COMPLETE (R308). Every image of a resumed group is restored and its frames returned to the pool. -/
  | restoreComplete (die : Nat) (e : Nat)
  /-- KERNEL_END (R297). A kernel ends: dirty marks, completion record, CBAR arrival, waiters, group freed. -/
  | kernelEnd (die : Nat) (e : Nat)
  /-- PROMOTION_COMPLETE (R252). A promoted page becomes resident, is shot down and its requesters signalled. -/
  | promotionComplete (k : Nat)
  /-- PROMOTION_FAILED (R252). A promotion meets an uncorrectable flash error and the page returns to stored. -/
  | promotionFailed (k : Nat)
  /-- SHOOT_DOWN_COMPLETE (R251). A shoot-down completes and BUSY returns to 0. -/
  | shootDownComplete (k : Nat)
  /-- POOL_CLEAR_COMPLETE (R341). A closed window's pool page is cleared and released. -/
  | poolClearComplete (k : Nat)
  /-- SILENCE_EVICTION (R365). A silent pinned Hearth entry starts evicting when its silence limit expires. -/
  | silenceEviction (die : Nat) (k : Nat)
  /-- EVICTION_COMPLETE (R364). An evicting Hearth entry finishes write-back and becomes evicted. -/
  | evictionComplete (die : Nat) (k : Nat)
  /-- REEVE_HANDLER_ENTRY (R375). A reeve takes its next queued event and starts the handler. -/
  | reeveHandlerEntry (die : Nat) (slice : Nat)
  /-- BUDGET_OVERRUN (R376). A reeve handler reaching its cycle budget is cut off. -/
  | budgetOverrun (die : Nat) (slice : Nat)
  /-- ACCESS_PERFORMED (R223). A queued load, store or mark of a context's load or store queue is performed and leaves the queue, including write-back of other-die bytes at release or eviction. -/
  | accessPerformed (k : Nat)
  /-- KFETCH_BLOCK_ARRIVAL (R360). A passage block read from flash arrives in its KV pool block and is linked into the sequence's block table, the last one ending the command. -/
  | kfetchBlockArrival (k : Nat)
  /-- RET (R126). Jumps to the address in s31. -/
  | ret
  /-- NOP (R131). Does nothing. -/
  | nop
  /-- ERET (R101). Returns from the trap handler to TPC. -/
  | eret
  /-- BKPT (R131). Takes a precise trap with cause breakpoint. -/
  | bkpt
  /-- HALT (R131). Takes the context to trapped without a handler. -/
  | halt
  /-- DONE (R96). Stops issue and waits for outstanding work before retirement. -/
  | done
  /-- YIELD (R304). Requests a no-deadline pre-emption of the group when an equal or higher entry waits, else acts as NOP. -/
  | yield
  /-- BARRIER_WAKE (R275). A parked waiter is woken after the phase, fill or release reaches it. -/
  | barrierWake
  /-- SLDEF (R379). Ends a reeve handler leaving the default action. -/
  | sldef
  /-- MMA_START (R183). Matrix engine starts an MMA and accumulates K-groups in order. -/
  | mmaStart
  /-- MMAS_START (R185). Matrix engine starts a sparse MMA reading its metadata. -/
  | mmasStart
  /-- MMAG_START (R188). A ganged command starts on all participants in one cycle. -/
  | mmagStart
  /-- MZERO_START (R190). Matrix engine starts zeroing an accumulator tile. -/
  | mzeroStart
  /-- MSTORE_START (R191). Matrix engine starts converting and storing an accumulator tile. -/
  | mstoreStart
  /-- TILE_COMMAND_END (R182). A tile command ends, releasing ring claims, adding UNDERCNT and signalling BAR. -/
  | tileCommandEnd
  /-- TCOPY_START (R206). Copy engine admits a TCOPY onto a channel and starts its walk. -/
  | tcopyStart
  /-- TFILL_START (R207). Copy engine starts a fill. -/
  | tfillStart
  /-- BCOPY_START (R207). Copy engine starts a bank-to-bank copy with conversion. -/
  | bcopyStart
  /-- SQLD_APPEND (R176). Once the scale queue has room, appends the SQLD's scales. -/
  | sqldAppend
  /-- TGATHER_START (R209). Gather engine starts reading indices and moving rows into scratchpad. -/
  | tgatherStart
  /-- TSCATTER_START (R209). Gather engine starts moving rows from scratchpad to the table. -/
  | tscatterStart
  /-- TSCORE_START (R330). Scorer starts ranking keys plane by plane. -/
  | tscoreStart
  /-- NOTIFY_EVENT (R199). When all NOTIFY markers are reached, performs the writes and signals the barrier. -/
  | notifyEvent
  /-- COLLECTIVE_START (R390). Matching collective entries of all members start together. -/
  | collectiveStart
  /-- SEEK_START (R348). A drove starts, snapshots the index and visits the entry node. -/
  | seekStart
  /-- KFETCH_START (R360). Starts streaming passage blocks from flash and linking them into a block table. -/
  | kfetchStart
  /-- SAPPEND_START (R357). Starts writing an insert, delete or replace entry to the append log. -/
  | sappendStart
  /-- SMERGE_START (R358). Starts folding the log into the flash graph. -/
  | smergeStart
  /-- CONTEXT_START (R95). The earliest runnable shadow slot starts running at the entry address. -/
  | contextStart
  /-- CONTEXT_RETIRE (R96). A context after DONE retires once its commands and stores have completed. -/
  | contextRetire
  /-- DIE_BOUNDARY_FAILURE (R386). Loss of the die boundary or Quesar path aborts every group of the module. -/
  | dieBoundaryFailure
  /-- MODULE_RESET (R409). Module reset starts Olulas's self-tests of each function. -/
  | moduleReset
  /-- TRIP_TEMPERATURE (R414). Coolant or die over trip temperature holds the module in reset. -/
  | tripTemperature
  /-- GET_VERSION (R413). SPDM request for supported versions. -/
  | getVersion
  /-- GET_CAPABILITIES (R413). SPDM request for capabilities. -/
  | getCapabilities
  /-- NEGOTIATE_ALGORITHMS (R413). SPDM algorithm negotiation. -/
  | negotiateAlgorithms
  /-- GET_DIGESTS (R413). SPDM request for certificate chain digests. -/
  | getDigests
  /-- GET_CERTIFICATE (R413). SPDM request for the identity certificate chain. -/
  | getCertificate
  /-- CHALLENGE (R413). SPDM challenge signed with the identity key. -/
  | challenge
  /-- VECTOR_INSTRUCTION_START (R149). The vector engine starts the instruction at the head of the vector queue, runs its check pass and either executes it or takes a precise trap that cancels everything issued after it. -/
  | vectorInstructionStart
  /-- COLLECTIVE_END (R390). A started collective finishes moving its data on every member, ends, releases its footprint and gives its barrier one arrival. -/
  | collectiveEnd
  /-- REEVE_INSTRUCTION (R368). A running reeve handler executes an ordinary RV64 instruction, including its loads and stores and any reeve exception that cuts it off. -/
  | reeveInstruction
  /-- SHOOT (R258). System software write to SHOOT that starts a shoot-down on both dies. -/
  | shoot (m : Nat) (v : BitVec 64)
  /-- LAUNCH (R289). Host write to LAUNCH that reads a launch request and writes its status word. -/
  | launch (m : Nat) (die : Nat) (v : BitVec 64)
  /-- HOST_PREEMPTION_REQUEST (R313). Host write with GO set that requests pre-emption of a named entry. -/
  | hostPreemptionRequest (m : Nat) (die : Nat) (entry : BitVec 16) (dead : BitVec 32)
  /-- REGISTER_WRITE (R4). Write to a register field without behaviour of its own. -/
  | registerWrite (m : Nat) (fn : Nat) (off : Nat) (size : Nat) (v : BitVec 64)
  /-- TAGGED_LAUNCH_MESSAGE (R395). A tagged RoCEv2 message arrives and is matched against the arm table. -/
  | taggedLaunchMessage (port : Nat) (aspace : BitVec 12) (tag : BitVec 32) (hdr : BitVec 128) (va : BitVec 64) (pay : List (BitVec 8))
  /-- HOST_MEMORY_ACCESS (R242). Host reads or writes device memory through CXL.mem. -/
  | hostMemoryAccess (pa : Nat) (wr : Option (List (BitVec 8)))
  /-- HOST_ATOMIC (R242). Host AtomicOp on device memory performed at the home slice. -/
  | hostAtomic (op : BitVec 2) (sz : BitVec 1) (pa : Nat) (v : BitVec 64) (e : BitVec 64)
  /-- LINK_ENABLE (R381). Writing EN 1 starts training of a link. -/
  | linkEnable (m : Nat) (link : Nat)
  /-- LINK_DISABLE (R381). Clearing EN disables a link and loses flits in flight. -/
  | linkDisable (m : Nat) (link : Nat)
  /-- LINK_TRAINING_DONE (R381). Training ends with the link up, degraded or failed. -/
  | linkTrainingDone (link : Nat) (lanes : Nat) (peer : BitVec 10)
  /-- FLIT_RETRY (R381). A flit failing its CRC is retried. -/
  | flitRetry (link : Nat)
  /-- LANE_LOST (R381). A lost lane or exhausted retries send the link back to training. -/
  | laneLost (link : Nat)
  /-- PATH_LOSS_TIMEOUT (R386). A pod request without a path for 100,000 cc is abandoned and its group aborted. -/
  | pathLossTimeout (pkg : Nat)
  /-- FUNCTION_SELF_TEST_DONE (R409). A function passes or fails its self-test; the last sets BDONE and fixes CAPS. -/
  | functionSelfTestDone (f : Nat) (test : SelfTest) (found : Nat)
  /-- CLAIM (R410). A management write with CLAIM set takes, keeps or accepts ownership. -/
  | claim (m : Nat) (c : BitVec 3) (h : BitVec 3)
  /-- OWNERSHIP_RELEASE (R410). A management write with CLAIM and HANDTO zero releases ownership. -/
  | ownershipRelease (m : Nat)
  /-- HANDOVER (R410). The owner names a master in HANDTO to receive ownership. -/
  | handover (m : Nat) (h : BitVec 3)
  /-- FUNCTION_LEVEL_RESET (R410). Reset of the owning function or loss of the I3C owner clears OWNER and HANDTO. -/
  | functionLevelReset (m : Nat)
  /-- ALLOT (R411). Allots or withdraws a barrier for an address space. -/
  | allot (m : Nat) (v : BitVec 64)
  /-- FRING (R411). Sets or removes an address space's fault ring header. -/
  | fring (m : Nat) (v : BitVec 64)
  /-- PKGSET (R408). Owner write of a PKGSET part; PKG_ID takes the value once both are written. -/
  | pkgset (m : Nat) (part : BitVec 2) (v : BitVec 10)
  /-- PLIMIT (R414). Writes the power limit clamped to 400 and the part's maximum. -/
  | plimit (m : Nat) (v : BitVec 12)
  /-- THROTTLE (R414). Measured power above PLIMIT lowers the core clock and sets THROT. -/
  | throttle (watts : BitVec 12)
  /-- CLOCK_RESTORE (R414). After 10 ms below PLIMIT the clock returns to 1.8 GHz. -/
  | clockRestore (watts : BitVec 12)
  /-- GET_MEASUREMENTS (R413). SPDM request for firmware digests, CAPS and ownership. -/
  | getMeasurements (idx : Nat)
  /-- SOFT_ERROR (R143). Bits of a scratchpad word or memory line flip, leaving a correctable or uncorrectable error in place. -/
  | softError (where_ : ErrSite) (pa : Nat) (double : Bool)
  /-- BANK_FAILED (R144). Olulas marks a scratchpad bank failed, or clears it, which switches reads to rebuild or withholds the core from allocation. -/
  | bankFailed (bank : Nat) (failed : Bool)
  /-- POD_REQUEST (R385). A pod-tier access or barrier operation from another module arrives over Kolnel and is performed at its home slice on this module. -/
  | podRequest (req : PodReq)
  /-- ROCEV2_MESSAGE (R394). An untagged RoCEv2 SEND, RDMA WRITE or RDMA READ arrives on or is sent from a queue pair that system software posted. -/
  | rocev2Message (qp : Nat) (msg : RoceMsg)
  /-- RECOVERY_IMAGE (R412). The ROM's recovery code receives an Olulas firmware image on the I3C path and checks its signature. -/
  | recoveryImage (img : FwImage)
deriving DecidableEq, Repr

end Sys2Proof
end

