-- ==== Sys2Proof/Machine/State.lean ====
section
/-! DEFINITION. The state of a TN-960 module, as plain data: the context (ch. 06), the core (ch. 07 to 11), the barriers
(ch. 14), the Steward (ch. 15, 16), the pages (ch. 13, 18), the Hearth (ch. 20), the reeves (ch. 21), the Quesar die (ch. 19),
the links and the management block (ch. 22, 27); the reasons a step stops; and the machine right after module reset. -/

namespace Sys2Proof.Machine

/-- Why the machine stops. -/
inductive Fault where
  /-- Raised by `step` alone, when Olulas holds the module in reset after a trip (R414). Safe: nothing more happens there. -/
  | heldInReset
deriving DecidableEq, Repr

/-- Why the model gives no meaning. -/
inductive Refusal where
  /-- An instruction that has no meaning in this model yet. Safe: it stops. -/
  | notModelled (mnemonic : String)
deriving DecidableEq, Repr

/-- A byte memory: addresses rise strictly and no listed byte is zero, which is what an unlisted address reads as. -/
abbrev Memory := List Host.Cell

/-- The two parts of R1. -/
inductive Part where
  | a | s
deriving DecidableEq, Repr

/-- Causes of R397, in code order. -/
inductive Cause where
  | none | illegalInstruction | unitAbsent | misalignedTarget | misalignedAccess | fetchPermission | permission | noMapping
  | badDescriptor | handleRange | notResident | scratchpadRange | bufferAccess | bankFormat | storageError | verdictOperand
  | formatConflict | verdictState | patchSequence | templateKind | commandLimit | ringState | queueImbalance | sparseMetadata
  | gangMembership | writePointerState | writePointerFault | feedState | indexRange | barrierState | nestingDepth | badRecord
  | selfWait | sequenceRange | blockRange | sequenceState | tablePoolEmpty | windowState | hearthState | indexState | logFull
  | poolEmpty | collectiveState | trapInstruction | breakpoint | halt | budgetOverrun | reeveException | linkError | badImage
deriving DecidableEq, Repr

/-- CSTAT.STATE (R91), codes 0 to 7 in order. -/
inductive SlotState where
  | empty | loading | runnable | running | waiting | trapped | saved | retired
deriving DecidableEq, Repr

/-- CSTAT.WAIT (R91), codes 0 to 5 in order. -/
inductive Wait where
  | none | barrier | future | lock | shwait | done
deriving DecidableEq, Repr

/-- A handle (R247). -/
structure Handle where
  vpage : BitVec 52
  size : BitVec 4
  tier : BitVec 2
  w : Bool
  r : Bool
  res : Bool
  valid : Bool
  frame : BitVec 40
deriving DecidableEq, Repr

/-- A handle never filled (R89). -/
def Handle.invalid : Handle := ⟨0, 0, 0, false, false, false, false, 0⟩

/-- One hardware loop level (R94, R98): ACT, POS, LEN and the start of its body. -/
structure LoopLevel where
  active : Bool
  pos : Nat
  len : BitVec 8
  start : Word
deriving DecidableEq, Repr

/-- A level with no active loop. -/
def LoopLevel.off : LoopLevel := ⟨false, 0, 0, 0⟩

/-- The verdict monitor (R316). -/
structure Monitor where
  isOpen : Bool
  kind : BitVec 2
  nonneg : Bool
  lock : Bool
  d : BitVec 5
  list : BitVec 5
  km1 : BitVec 6
  q : BitVec 32
  t : BitVec 32
  tidx : BitVec 32
  nc : Nat
  j : Nat
deriving DecidableEq, Repr

/-- A closed monitor. -/
def Monitor.closed : Monitor := ⟨false, 0, false, false, 0, 0, 0, 0, 0, 0, 0, 0⟩

/-- A barrier's name (R265): level, the quad or die it lies in (0 where the level has one instance), and number. -/
structure BarKey where
  level : Nat
  inst : Nat
  num : Nat
deriving DecidableEq, Repr

/-- A vector register: 1,024 lanes (R145). -/
abbrev VReg := Vector (BitVec 32) 1024

/-- What a context in state waiting waits for (R95, R275 to R277, R295). -/
inductive Park where
  | phase (key : BarKey) (token : BitVec 32) (src dst : BitVec 5) (isBarw : Bool)
  | future (key : BarKey) (dst : BitVec 5)
  | lock (key : BarKey) (dst : BitVec 5) (prio : BitVec 8) (order : Nat)
  | kernel (id : Word) (dst : BitVec 5)
  | retire
deriving DecidableEq, Repr

/-- A RED that has left or will leave the store queue (R235, R236). -/
structure Red where
  va : Word
  aspace : BitVec 12
  op : BitVec 4
  sz : BitVec 1
  v : Word
  rel : Bool
  scope : BitVec 4
  die : Nat
  core : Nat
  seqTag : BitVec 32
  kernelId : Word
  ctxId : Word
  word : BitVec 32
  /-- its place in the core's issue order -/
  seq : Nat
  /-- the physical address, once translated -/
  pa : Option Nat
  /-- waits for its page's promotion (R236) -/
  waits : Bool
deriving DecidableEq, Repr

/-- The kinds of mark that FENCE and LSMARK place (R231). -/
inductive MarkKind where
  | acq | rel | full | ls
deriving DecidableEq, Repr

/-- What an access of a context is while it stands in its queues (R223). -/
inductive AccessKind where
  /-- LDG: the register it writes, and the virtual and physical address and size it reads -/
  | load (dst : BitVec 5) (va pa size : Nat)
  /-- STG or VSTG: the bytes at their physical addresses, and the virtual and physical addresses of the lines they write -/
  | write (cells : List Host.Cell) (lines : List (Nat × Nat))
  | red (r : Red)
  | mark (kind : MarkKind) (scope : BitVec 4)
deriving DecidableEq, Repr

/-- One entry of a context's load and store queues, with its place in the core's issue order. The two queues stand in one list in
program order (R223). -/
structure Access where
  seq : Nat
  kind : AccessKind
deriving DecidableEq, Repr

/-- What the sequencer fixes when it issues a vector instruction (R148): its scalar operands, VMODE, its handle, and its place in the
core's issue order. -/
structure VOps where
  sa : Word
  sb : Word
  vmode : Word
  h : Handle
  seq : Nat
deriving DecidableEq, Repr

/-- What a context returns to when a vector instruction traps behind which the sequencer has gone on (R149): the values at the
instruction's issue, with what older instructions have written since. -/
structure Snap where
  pc : Word
  ir : BitVec 32
  s : Vector Word 32
  p : BitVec 8
  lc : Vector (BitVec 32) 3
  loops : Vector LoopLevel 3
  h : Vector Handle 16
  staging : Vector (Option (BitVec 6 × BitVec 512)) 5
  vmode : Word
  perf : Vector Word 8
deriving DecidableEq, Repr

/-- One entry of the vector queue (R148): an instruction with what issue fixes and what its trap returns to (R149), or a NOTIFY
marker. -/
inductive VecEntry where
  | instr (i : Instr) (o : VOps) (snap : Snap)
  | marker
deriving DecidableEq, Repr

/-- An outstanding NOTIFY of a core (R199): the context that placed it, who its signal is charged to, and its place in the core's
issue order. -/
structure Notify where
  ctxId : Word
  kernelId : Word
  aspace : BitVec 12
  seq : Nat
  level : BitVec 3
  barrier : BitVec 32
  classes : BitVec 6
  notified : BitVec 6
deriving DecidableEq, Repr

/-- A context: its architectural state (R89, R103) and its launch attributes (R90). -/
structure Context where
  slot : Nat
  state : SlotState
  wait : Wait
  park : Option Park
  pc : Word
  /-- the word the sequencer issued last: what TWORD takes on a trap (R93) -/
  ir : BitVec 32
  s : Vector Word 32
  p : BitVec 8
  lc : Vector (BitVec 32) 3
  loops : Vector LoopLevel 3
  h : Vector Handle 16
  v : Vector VReg 32
  m : Vector (BitVec 1024) 8
  vmode : Word
  repro : Word
  seqTag : BitVec 32
  depth : BitVec 3
  restart : Bool
  task : Bool
  inTrap : Bool
  /-- stalls at a WOPEN, WCOMMIT or WABORT that it has begun: a save waits until s(d) is written (R407) -/
  inWindow : Bool
  /-- restored while a close it started was not at its end: it issues nothing until then (R342) -/
  awaitClose : Bool
  /-- where the trap was taken whose handler runs (R101) -/
  trapAt : Word
  ceil : BitVec 8
  prio : BitVec 8
  ctxId : Word
  /-- what CTX_ID, KERNEL_ID and GROUP_ID read since a changed image gave others than the context's own (R106) -/
  shown : Option (Word × Word × Word)
  tcause : Word
  tpc : Word
  tword : Word
  taddr : Word
  /-- staging registers of the classes matrix, copy, gather, collective, search (R67) -/
  staging : Vector (Option (BitVec 6 × BitVec 512)) 5
  monitor : Monitor
  handler : Word
  aspace : BitVec 12
  kernelId : Word
  groupId : Word
  /-- the iteration number t of R292 -/
  iter : Nat
  perf : Vector Word 8
  accessQ : List Access
  vq : List VecEntry
  /-- the place in the issue order that a waiting QDRAIN drains to (R201) -/
  drainTo : Option Nat
  /-- declared inputs of a loading slot still to arrive (R293) -/
  inputs : List Nat
  /-- when the slot became runnable, as a place in the module's order of events (R95) -/
  ready : Nat
  /-- cycles for which the context has been running or waiting (R306) -/
  cyc : Nat
deriving DecidableEq, Repr

/-- A range of a scratchpad buffer: buffer code, first byte, one past the last byte (R197). -/
structure Range where
  buf : BitVec 2
  lo : Nat
  hi : Nat
deriving DecidableEq, Repr

/-- What an engine queue entry is. -/
inductive CmdKind where
  /-- a template's kind code (R66) -/
  | tmpl (k : Nat)
  /-- a NOTIFY marker; its body is the entry of R200 -/
  | marker
  /-- SQLD (R176) -/
  | sqld (buf : BitVec 2) (off count : Nat)
  /-- the copy of declared input n of slot q (R293) -/
  | input (n slot : Nat)
  /-- an entry of a changed image that fails its class's issue checks: its body's kind, and the fault that it ends with (R106) -/
  | bad (k : Nat) (cause : Cause) (addr : Word)
deriving DecidableEq, Repr

/-- A fault an engine command met: cause, address of R399, and PROGRESS. -/
structure CmdFault where
  cause : Cause
  addr : Word
  progress : Nat
deriving DecidableEq, Repr

/-- An engine command (R67, R196): the body it holds and what issue fixes. -/
structure Command where
  kind : CmdKind
  tmpl : BitVec 6
  body : BitVec 512
  ctxId : Word
  kernelId : Word
  aspace : BitVec 12
  seqTag : BitVec 32
  die : Nat
  core : Nat
  repro : Bool
  /-- the tile predicate read 0 at issue (R178) -/
  noEffect : Bool
  src : Handle
  dst : Handle
  reads : List Range
  writes : List Range
  /-- its place in the core's issue order (R197), and the number that the entries of one command share on every participant -/
  seq : Nat
  gid : Nat
  aStart : Nat
  bStart : Nat
  aUnits : Nat
  bUnits : Nat
  /-- core numbers of a ganged command's participants, and this entry's place among them (R187) -/
  gang : List Nat
  part : Nat
  /-- the copy channel it started on (R203) -/
  chan : Nat
  /-- bytes, rows or K-groups done (R399) -/
  progress : Nat
  /-- values converted to E4M3 as zero (R39) -/
  under : Nat
  /-- scales popped so far, and how many it still has to pop (R175) -/
  scales : List (BitVec 16)
  need : Nat
  /-- the index list of a started TGATHER or TSCATTER, all of it read at the start (R209) -/
  indices : List Nat
  /-- a record says that its decrements are discarded (R269; log entry 101) -/
  told : Bool
  fault : Option CmdFault
deriving DecidableEq, Repr

/-- The kind of a barrier (R267). -/
inductive BarKind where
  | free | phaser | future | lock
deriving DecidableEq, Repr

/-- A barrier's state (R267). -/
structure Barrier where
  kind : BarKind
  phase : BitVec 32
  sigcnt : Nat
  wcnt : Nat
  arrived : Nat
  pending : Nat
  status : BitVec 4
  lstatus : BitVec 4
  value : Word
  full : Bool
  holder : BitVec 48
  hgroup : BitVec 16
  lent : BitVec 8
  held : Bool
  abandoned : Bool
deriving DecidableEq, Repr

/-- A free barrier with the given PHASE. -/
def Barrier.freeAt (phase : BitVec 32) : Barrier :=
  ⟨.free, phase, 0, 0, 0, 0, 0, 0, 0, false, 0, 0, 0, false, false⟩

/-- A write pointer (R141). -/
structure WritePtr where
  buf : BitVec 2
  fault : Bool
  done : Bool
  ptr : Nat
deriving DecidableEq, Repr

/-- A ring (R171). Counts are in 64-byte units. -/
structure Ring where
  tail : BitVec 24
  ihead : BitVec 24
  head : BitVec 24
  size : BitVec 13
  base : BitVec 13
  buf : BitVec 2
  valid : Bool
deriving DecidableEq, Repr

/-- A feed: its record (R212), its captured handle, the context that bound it with its place in the core's issue order, the elements
it has read ahead or still has to write, and how many elements of the stream an input feed has read, or the pushes of an output feed have
claimed: POS counts them modulo 2^32. -/
structure Feed where
  image : BitVec 512
  cap : Handle
  aspace : BitVec 12
  ctxId : Word
  seqTag : BitVec 32
  seq : Nat
  ahead : List (BitVec 32)
  out : List (Nat × BitVec 32)
  done : Nat
deriving DecidableEq, Repr

/-- A signal of an engine command that a load of its issuer still holds back (R227, R229): the place of the command in the order in which
its issuer's core issues; who it is charged to; the barrier, by its level and number on a core, or, where `home`, on the core that its group
then has; and one arrival with its marks, or so many bytes. -/
structure HeldSignal where
  seq : Nat
  gid : Nat
  aspace : BitVec 12
  kernelId : Word
  ctxId : Word
  die : Nat
  core : Nat
  level : Nat
  at_ : Nat
  num : Nat
  home : Bool
  bytes : Option Nat
  fault : Bool
  ginc : Bool
deriving DecidableEq, Repr

/-- A core: its slots and its core state (R89). `ctx` is the started context, state empty when there is none. -/
structure Core where
  die : Nat
  num : Nat
  ctx : Context
  shadows : List Context
  /-- contexts started since core reset (R92) -/
  serial : BitVec 32
  /-- Steward entry of the group that holds the core -/
  group : Option Nat
  /-- core numbers of its gang; empty for none (R22) -/
  gang : List Nat
  lastAspace : Option (BitVec 12)
  scrubbing : Bool
  /-- no new context starts, or contexts stop at the next boundary (R307, R294, R401) -/
  stopping : Bool
  draining : Bool
  w : Memory
  a : Memory
  c : Memory
  /-- 8-byte words with an uncorrectable error, per buffer (R143) -/
  bad : List (BitVec 2 × Nat)
  /-- 8-byte words with a single-bit error, per buffer (R143) -/
  soft : List (BitVec 2 × Nat)
  bfmt : Vector (BitVec 32) 24
  tmpl : Vector (Vector (BitVec 512) 64) 5
  tpred : BitVec 16
  feeds : Vector Feed 8
  rings : Vector Ring 8
  wps : Vector WritePtr 16
  /-- early releases that WPWAIT gave: write pointer, offset, and the place in the issue order from which they hold (R211) -/
  early : List (Nat × Nat × Nat)
  bars : Vector Barrier 32
  scaleQ : List (BitVec 16)
  notifies : List Notify
  q : Vector (List Command) 5
  run : Vector (List Command) 5
  seq : Nat
  guardMode : Bool
  failedBanks : List Nat
  withheld : Bool
  /-- pages with a dirty mark in the core's TLB, and stores accepted since its last flush (R256) -/
  tlbDirty : List (BitVec 12 × BitVec 52)
  tlbStores : Nat
deriving DecidableEq, Repr

/-- A job-card region (R282). -/
structure Region where
  base : Word
  len : Nat
  w : Bool
deriving DecidableEq, Repr

/-- A declared input (R283). -/
structure Pref where
  src : Word
  len : Nat
  dst : Nat
  buf : BitVec 2
  dslot : Nat
  step : List (BitVec 32)
deriving DecidableEq, Repr

/-- A launch record (R280, R281). -/
structure LaunchRec where
  entry : Word
  handler : Word
  prio : BitVec 8
  cores : Nat
  gang : Nat
  task : Bool
  restart : Bool
  repro : Bool
  nest : Nat
  parg : Nat
  harg : Nat
  seqTag : BitVec 32
  caddr : Word
  cbar : Word
  ext : List Nat
  order : Word
  args : List Word
  regions : List Region
  prefs : List Pref
deriving DecidableEq, Repr

/-- A kernel's life (R219, R296, R311). `held` and `eligible` are the two halves of waiting. -/
inductive KState where
  | held | eligible | allocating | running | draining | discarding | saving | saved | restoring | stopping | ending | ended
deriving DecidableEq, Repr

/-- A pre-emption request against a group (R305): its deadline as a cycle count (0 for none), the context whose YIELD made it, and the
entry it was made for (none for the host). -/
structure Victim where
  deadline : Nat
  yielder : Option Word
  entry : Option Word
deriving DecidableEq, Repr

/-- A Steward entry: a kernel or task (R217, R291 to R297). -/
structure KEntry where
  die : Nat
  entry : Nat
  id : Word
  state : KState
  launch : LaunchRec
  aspace : BitVec 12
  depth : BitVec 3
  /-- arrival order, and dispatch order (R26, R305) -/
  arrival : Nat
  dispatched : Nat
  heldBy : List Word
  nextT : Nat
  redo : List Nat
  retired : Nat
  /-- CAUSE and END of the end word (R295) -/
  cause : BitVec 8
  endCode : Nat
  cores : List Nat
  /-- save frames: core number, quad position and frame address (R307) -/
  frames : List (Nat × Nat × Nat)
  images : List Core
  /-- a pre-emption request stands against it, or is being carried out (R305) -/
  victim : Option Victim
  cycles : Nat
  /-- its cores run in guard mode (R144, R300) -/
  guard : Bool
  /-- signals that core barriers of the saved group are to receive at its restore: core number at the save, barrier, and whether the
  signal carries a fault (R253, R352) -/
  owed : List (Nat × Nat × Bool)
deriving DecidableEq, Repr

/-- What asked for a page's promotion (R253): PREQ with the core barrier it names, a RED, a fetch, or a declared input. -/
inductive Asker where
  | preq (ctxId : Word) (bar : Option Nat)
  | red (ctxId : Word)
  | fetch (ctxId : Word)
  | input (ctxId : Word) (n : Nat)
deriving DecidableEq, Repr

/-- One entry of a die's request table (R253). -/
structure Request where
  die : Nat
  core : Nat
  kernelId : Word
  asker : Asker
deriving DecidableEq, Repr

/-- A promotion in progress (R252, R253). -/
structure Promotion where
  aspace : BitVec 12
  va : Word
  size : BitVec 4
  started : Bool
  reqs : List Request
deriving DecidableEq, Repr

/-- A shoot-down that is not complete (R251). -/
structure ShootDown where
  aspace : BitVec 12
  vpage : BitVec 52
  size : BitVec 4
  bySystem : Bool
deriving DecidableEq, Repr

/-- The page control block (R258). -/
structure PageCtl where
  nqdrop : BitVec 32
  plate : BitVec 32
  nqtail : BitVec 16
  nqhead : BitVec 16
  /-- NQTAIL has wrapped an odd number of times: PHASE of the next record is its complement (R257) -/
  nqphase : Bool
  nqlog : BitVec 4
  dirlog : BitVec 4
  nqbase : Word
  tpfree : Word
  tpref : Word
  tpbase : Word
  dirbase : Word
  shoot : Word
deriving DecidableEq, Repr

/-- The scheduler block of a die (R313). -/
structure SchedCtl where
  dlprio : BitVec 8
  dline : BitVec 16
  recovery : Bool
  savecnt : BitVec 32
  savefree : Word
  /-- PENTRY and PDEAD as last written: they read as zero (R4) -/
  pentry : BitVec 16
  pdead : BitVec 32
deriving DecidableEq, Repr

/-- The Hearth control block of a die (R362). -/
structure HearthCtl where
  silence : BitVec 16
  nopin : BitVec 16
  region : BitVec 6
deriving DecidableEq, Repr

/-- The state of a stream entry (R364). -/
inductive StreamState where
  | pinned | evicting | evicted
deriving DecidableEq, Repr

/-- A stream entry (R363). -/
structure Stream where
  die : Nat
  num : Nat
  aspace : BitVec 12
  stream : BitVec 32
  base : Word
  z : BitVec 3
  state : StreamState
  last : Nat
deriving DecidableEq, Repr

/-- An operation on a stream entry that has reached its home and has not ended (R363): who performs it, and whether it has begun to wait
for an eviction of the entry. -/
structure StreamOp where
  die : Nat
  aspace : BitVec 12
  stream : BitVec 32
  ctxId : Word
  begun : Bool
deriving DecidableEq, Repr

/-- Who closes a window, and the tokens it keeps (R339). -/
structure Closer where
  ctxId : Word
  kernelId : Word
  die : Nat
  core : Nat
  kept : Nat
deriving DecidableEq, Repr

/-- An open window, one that is closing, or one whose pool page is being cleared (R337, R341). -/
structure Window where
  tag : BitVec 32
  wnum : BitVec 8
  aspace : BitVec 12
  die : Nat
  /-- physical base of the pool page, the bytes it uses, its virtual base and SIZE -/
  pool : Nat
  used : Nat
  poolVa : Word
  poolSize : BitVec 4
  /-- physical addresses of the committed span blocks -/
  blocks : List Nat
  /-- virtual base of the Hearth slot it names -/
  slot : Option Word
  /-- a close is in progress, or has been performed (R339) -/
  closer : Option Closer
  clearing : Bool
deriving DecidableEq, Repr

/-- An armed launch (R290). -/
structure Arm where
  tag : BitVec 32
  aspace : BitVec 12
  die : Nat
  once : Bool
  launch : LaunchRec
deriving DecidableEq, Repr

/-- A node a drove knows: distance, VID, where it lies, whether it is live, and whether it is expanded (R348). -/
structure DNode where
  dist : BitVec 32
  vid : BitVec 48
  ref : Word
  live : Bool
  expanded : Bool
deriving DecidableEq, Repr

/-- A started search command of the Quesar die (R348, R356, R358, R360). -/
structure Drove where
  cmd : Command
  index : Nat
  /-- the module's order of events at its start -/
  began : Nat
  /-- the snapshot: ENTRY, LOGHEAD, LOGTAIL and the entries of the log between them -/
  entry : Word
  head : Nat
  tail : Nat
  log : List (List (BitVec 8))
  /-- the bytes of the query, read at the start -/
  query : List (BitVec 8)
  r : List DNode
  f : List DNode
  visited : List Word
  hop : Nat
  /-- flash pages of the visit (or of the blocks of a KFETCH) with their failed reads, and the nodes wanted -/
  awaited : List (Nat × Nat)
  wanted : List Word
  /-- survivors kept for the end of the visit (REPRO.ON = 1), and the thresholds held since the hop's start, newest first -/
  kept : List DNode
  thrs : List (BitVec 32)
  pages : Nat
  requeue : Nat
  nodes : Nat
  abandoned : Nat
  chunks : Nat
  logScored : Nat
  /-- KFETCH: the next block to link; SMERGE: waits for another merge -/
  next : Nat
  waits : Bool
deriving DecidableEq, Repr

/-- A reeve binding of a die (R370, R371). -/
structure Binding where
  die : Nat
  num : Nat
  aspace : BitVec 12
  vbase : Word
  vlen : Nat
  code : List (BitVec 8)
  dataInit : List (BitVec 8)
  dataLen : Nat
  codeAt : Nat
  dataAt : Nat
  entries : List (BitVec 16)
  budgets : List (BitVec 16)
  /-- frames of the filter: physical base and size (R372) -/
  filter : List (Nat × Nat × Word)
  drops : Nat
deriving DecidableEq, Repr

/-- A queued slice event (R373, R374). -/
structure ReeveEvent where
  binding : Nat
  kind : BitVec 2
  dirty : Bool
  line : Word
  payload : Word
  sender : Word
deriving DecidableEq, Repr

/-- A reeve (R368, R375). `cur`: the binding and event of the running handler. -/
structure Reeve where
  die : Nat
  slice : Nat
  data : Memory
  queue : List ReeveEvent
  cur : Option ReeveEvent
  pc : Word
  x : Vector Word 32
  cycle : Nat
  instret : Nat
  chases : Nat
deriving DecidableEq, Repr

/-- A link (R380) with its status register (R382). Links are numbered: Kolnel ports 0 to 17, Ethernet ports 18 and 19, the die boundary 20,
the path to the Quesar die 21, the host link 22; the last two have no status register (R383). -/
structure Link where
  retry : BitVec 16
  drop : BitVec 16
  /-- times the link has failed or gone back to training (R381) -/
  downs : Nat
  /-- bring-up has tested it, and it passed (R381) -/
  tested : Bool
  passed : Bool
  peer : BitVec 10
  en : Bool
  /-- lanes up: 0 to 8, and 16 for the host link -/
  width : BitVec 5
  state : BitVec 4
deriving DecidableEq, Repr

/-- The link control block of a die (R384). -/
structure LinkCtl where
  kolmap : BitVec 18
  reevemap : BitVec 48
  qpbase : Word
  commbase : Word
  routebase : Word
deriving DecidableEq, Repr

/-- The management block (R408). -/
structure Mgmt where
  serr : BitVec 32
  pmeas : BitVec 12
  plimit : BitVec 12
  throt : Bool
  pkgw : BitVec 2
  pkgset : BitVec 10
  nown : BitVec 8
  frlost : BitVec 7
  bdone : Bool
  failed : BitVec 10
  ready : BitVec 10
  handto : BitVec 3
  owner : BitVec 3
deriving DecidableEq, Repr

/-- What moves next: a core's sequencer, which may leave a vector instruction or a load that it issues for later; the next piece of
work of a started engine command of a core; a reeve; or a step of the table on a core of a die. -/
inductive Move where
  | issue (die core : Nat) (later : Bool)
  | work (die core cls n : Nat)
  | reeve (die slice : Nat)
  | event (die core : Nat) (i : Instr)
deriving DecidableEq, Repr

/-- A byte of a line homed on the other die that a die still holds (R241). -/
structure HeldByte where
  die : Nat
  addr : Nat
  val : BitVec 8
deriving DecidableEq, Repr

/-- A line homed on the other die that a die has fetched: it may be older than what the home holds (R241). -/
structure LineCopy where
  die : Nat
  line : Nat
  bytes : Vector (BitVec 8) 64
deriving DecidableEq, Repr

/-- A context of another module that waits on a pod lock homed here (R265, R277): the lock's number, and the waiter's place in the order
of arrival, name, group and effective priority. -/
structure PodWait where
  num : Nat
  order : Nat
  holder : BitVec 48
  group : BitVec 16
  prio : BitVec 8
deriving DecidableEq, Repr

/-- A context of another module that waits at a pod barrier homed here (R275, R276): the barrier's number, and the phase that it waits for;
none where it waits for a future's fill. -/
structure PodPark where
  num : Nat
  token : Option (BitVec 32)
deriving DecidableEq, Repr

/-- The module. `core` is the core that moves; `others` are the further cores that differ from core reset. -/
structure State where
  part : Part
  caps : Word
  pkgId : BitVec 10
  held : Bool
  mem : Memory
  badLines : List Nat
  heldBytes : List HeldByte
  copies : List LineCopy
  roots : List (BitVec 12 × Nat)
  core : Core
  others : List Core
  netBars : List (BarKey × Barrier)
  podWaits : List PodWait
  podParks : List PodPark
  allots : List (Nat × Nat × BitVec 12)
  reds : List Red
  heldSignals : List HeldSignal
  kernels : List KEntry
  kserial : Vector (BitVec 32) 2
  order : Nat
  pageCtl : PageCtl
  promos : List Promotion
  shoots : List ShootDown
  windows : List Window
  sched : Vector SchedCtl 2
  hearth : Vector HearthCtl 2
  streams : List Stream
  /-- operations on stream entries, in the order in which they arrived (R363) -/
  streamOps : List StreamOp
  arms : List Arm
  quesarBase : Word
  droves : List Drove
  /-- flash pages that a merge has replaced: index, page, and the order number of the swap (R358) -/
  swapped : List (Nat × Nat × Nat)
  collCounts : List (Nat × Nat × Nat × Nat)
  /-- collective entries removed unstarted: communicator and place in its count (R390) -/
  collGone : List (Nat × Nat)
  bindings : List Binding
  reeves : List Reeve
  reeveNow : Nat × Nat
  /-- lines that handlers have offered as the next to be replaced: die, slice, physical address (R379) -/
  offers : List (Nat × Nat × Nat)
  links : Vector Link 23
  linkCtl : Vector LinkCtl 2
  mgmt : Mgmt
  frings : List (BitVec 12 × Nat)
  /-- MSI-X messages sent: function and vector; the mask bits of each function's table, and the Pending Bits (R393) -/
  msix : List (Nat × Nat)
  msixMask : Vector (BitVec 64) 2
  msixPend : Vector (BitVec 64) 2
  /-- SPDM responses, each with the path that carries it: true for MCTP on I3C, false for the DOE mailbox (R413) -/
  spdm : List (Bool × List (BitVec 8))
  /-- what the host or another module was answered last -/
  answer : List (BitVec 8)
  /-- the digest of the signing key and the security version fused at manufacture (R412) -/
  fuseKey : BitVec 256
  fuseVersion : Nat
  /-- the ROM's recovery code runs in place of Olulas's firmware (R412) -/
  recovery : Bool
  /-- what each function's self-test found: ports or reeves as a mask, stacks or capacity as a count (R409) -/
  found : Vector Nat 10
  /-- LAUNCH of each die, ALLOT and FRING as last written: they read as zero (R4, R289, R411) -/
  launchReg : Vector Word 2
  allotReg : Word
  fringReg : Word
  /-- Olulas has reported the module failed on the management path (R386, R414) -/
  reportedFailed : Bool
  /-- the model's own: the steps that are to happen before anything else moves, in order -/
  agenda : List Move
  /-- the model's own: the vector instruction or load that issues in this step is left for later (R148, R223) -/
  later : Bool
  /-- the model's own: what reaches the barriers' homes falls into one cycle; and the phasers whose completion test that cycle still owes,
  with whether PENDING has returned to 0 in it (R274) -/
  oneCycle : Bool
  dueBars : List (BarKey × Bool)
  /-- the model's own: the cores, by die and number, whose sequencer has issued in that cycle (R417) -/
  cycleCores : List (Nat × Nat)
  /-- the model's own: the counter of free values -/
  fresh : Nat
  /-- the dies' cycle count, advanced by free amounts (R364) -/
  clock : Nat
deriving DecidableEq, Repr

/-- A context slot that holds nothing (R89, R95). -/
def Context.blank (slot : Nat) : Context where
  slot := slot
  state := .empty
  wait := .none
  park := none
  pc := 0
  ir := 0
  s := Vector.replicate 32 0
  p := 1
  lc := Vector.replicate 3 0
  loops := Vector.replicate 3 LoopLevel.off
  h := Vector.replicate 16 Handle.invalid
  v := Vector.replicate 32 (Vector.replicate 1024 0)
  m := (Vector.replicate 8 (0 : BitVec 1024)).set 0 (BitVec.allOnes 1024)
  vmode := 0
  repro := 0
  seqTag := 0
  depth := 0
  restart := false
  task := false
  inTrap := false
  inWindow := false
  awaitClose := false
  trapAt := 0
  ceil := 0
  prio := 0
  ctxId := 0
  shown := none
  tcause := 0
  tpc := 0
  tword := 0
  taddr := 0
  staging := Vector.replicate 5 none
  monitor := Monitor.closed
  handler := 0
  aspace := 0
  kernelId := 0
  groupId := 0
  iter := 0
  perf := Vector.replicate 8 0
  accessQ := []
  vq := []
  drainTo := none
  inputs := []
  ready := 0
  cyc := 0

/-- An unbound write pointer (R141). -/
def WritePtr.reset : WritePtr := ⟨3, false, false, 0⟩

/-- An unconfigured ring (R171). -/
def Ring.reset : Ring := ⟨0, 0, 0, 0, 0, 0, false⟩

/-- An unbound feed (R212). -/
def Feed.reset : Feed := ⟨0, Handle.invalid, 0, 0, 0, 0, [], [], 0⟩

/-- A core after core reset (R66, R135, R141, R171, R178, R212, R266, R300). -/
def Core.reset (die num : Nat) : Core where
  die := die
  num := num
  ctx := Context.blank 0
  shadows := []
  serial := 0
  group := none
  gang := []
  lastAspace := none
  scrubbing := false
  stopping := false
  draining := false
  w := []
  a := []
  c := []
  bad := []
  soft := []
  bfmt := Vector.replicate 24 0
  tmpl := Vector.replicate 5 (Vector.replicate 64 0)
  tpred := 0xFFFF
  feeds := Vector.replicate 8 Feed.reset
  rings := Vector.replicate 8 Ring.reset
  wps := Vector.replicate 16 WritePtr.reset
  early := []
  bars := Vector.replicate 32 (Barrier.freeAt 0)
  scaleQ := []
  notifies := []
  q := Vector.replicate 5 []
  run := Vector.replicate 5 []
  seq := 0
  guardMode := false
  failedBanks := []
  withheld := false
  tlbDirty := []
  tlbStores := 0

/-- A link at module reset: EN is set, so it has left down for training (R381, R382). -/
def Link.reset : Link := ⟨0, 0, 0, false, false, 0, true, 0, 1⟩

/-- CAPS with every unit usable (R11). -/
def Part.caps : Part → Word
  | .a => 0x00601208_1023000F
  | .s => 0x00300904_0813001E

/-- The module of the given part right after module reset (R4, R11, R258, R313, R362, R382, R384, R408). -/
def State.resetOf (part : Part) : State where
  part := part
  caps := part.caps
  pkgId := 0
  held := false
  mem := []
  badLines := []
  heldBytes := []
  copies := []
  roots := []
  core := Core.reset 0 0
  others := []
  netBars := []
  podWaits := []
  podParks := []
  allots := []
  reds := []
  heldSignals := []
  kernels := []
  kserial := Vector.replicate 2 0
  order := 0
  pageCtl := ⟨0, 0, 0, 0, false, 0, 0, 0, 0, 0, 0, 0, 0⟩
  promos := []
  shoots := []
  windows := []
  sched := Vector.replicate 2 ⟨0, 0, false, 0, 0, 0, 0⟩
  hearth := Vector.replicate 2 ⟨0, 0, 0⟩
  streams := []
  streamOps := []
  arms := []
  quesarBase := 0
  droves := []
  swapped := []
  collCounts := []
  collGone := []
  bindings := []
  reeves := []
  reeveNow := (0, 0)
  offers := []
  links := Vector.ofFn fun i =>
    if part = .s ∧ (i.val = 20 ∨ i.val = 21 ∨ (9 ≤ i.val ∧ i.val < 18)) then { Link.reset with state := 5 } else Link.reset
  linkCtl := Vector.ofFn fun i =>
    if part = .s ∧ i.val = 1 then ⟨0, 0, 0, 0, 0⟩
    else ⟨if part = .a then 0x3FFFF else 0x1FF, BitVec.allOnes 48, 0, 0, 0⟩
  mgmt := ⟨0, 0, if part = .a then 2800 else 1300, false, 0, 0, 0, 0, false, 0, 0, 0, 0⟩
  frings := []
  msix := []
  msixMask := Vector.replicate 2 (BitVec.allOnes 64)
  msixPend := Vector.replicate 2 0
  spdm := []
  answer := []
  fuseKey := 0
  fuseVersion := 0
  recovery := false
  found := Vector.replicate 10 0
  launchReg := Vector.replicate 2 0
  allotReg := 0
  fringReg := 0
  reportedFailed := false
  agenda := []
  later := false
  oneCycle := false
  dueBars := []
  cycleCores := []
  fresh := 0
  clock := 0

/-- The machine right after reset: an RDN-TN960-A (log entry 7). -/
def State.reset : State := State.resetOf .a

end Sys2Proof.Machine
end

