-- ==== Sys2Proof/Machine/Memory.lean ====
section
/-! DEFINITION. Byte memories in their one canonical form, and little-endian values over them (R3). An unlisted address reads
as zero (log entry 8). -/

namespace Sys2Proof.Machine

/-- What an address that nothing has written reads as. -/
def unwritten : Byte := 0

/-- The canonical form: addresses rise strictly above `lo`, and no entry equals what an unlisted address reads as. -/
def Memory.wfFrom (lo : Nat) : Memory → Bool
  | [] => true
  | (a, b) :: m => decide (lo ≤ a) && decide (b ≠ unwritten) && Memory.wfFrom (a + 1) m

/-- The canonical form. -/
def Memory.wf (m : Memory) : Bool := Memory.wfFrom 0 m

/-- The byte at an address. -/
def memRead : Memory → Nat → Byte
  | [], _ => unwritten
  | (a, b) :: m, x => if a = x then b else memRead m x

/-- A cell put in its place among the others; a cell equal to what an unlisted address reads as is not listed. -/
def memInsert : Memory → Nat → Byte → Memory
  | [], x, v => if v = unwritten then [] else [(x, v)]
  | (a, b) :: m, x, v =>
    if x < a then if v = unwritten then (a, b) :: m else (x, v) :: (a, b) :: m
    else (a, b) :: memInsert m x v

/-- A memory without the entry of an address. -/
def memErase : Memory → Nat → Memory
  | [], _ => []
  | (a, b) :: m, x => if a = x then memErase m x else (a, b) :: memErase m x

/-- One byte written; writing what an unlisted address reads as removes the entry. -/
def memWrite (m : Memory) (x : Nat) (v : Byte) : Memory := memInsert (memErase m x) x v

/-- `n` bytes from an address up. -/
def memReads (m : Memory) (a n : Nat) : List Byte := (List.range n).map fun i => memRead m (a + i)

/-- Bytes written from an address up. -/
def memWrites (m : Memory) (a : Nat) : List Byte → Memory
  | [] => m
  | b :: bs => memWrites (memWrite m a b) (a + 1) bs

/-- Cells written in order; the later of two at one address remains. -/
def memCells (m : Memory) (cells : List Host.Cell) : Memory := cells.foldl (fun m c => memWrite m c.1 c.2) m

/-- The natural a little-endian byte list holds (R3). -/
def leNat : List Byte → Nat
  | [] => 0
  | b :: bs => b.toNat + 256 * leNat bs

/-- The low `n` bytes of a natural, little-endian (R3). -/
def leBytes : Nat → Nat → List Byte
  | 0, _ => []
  | n + 1, v => BitVec.ofNat 8 v :: leBytes n (v / 256)

/-- Bits [hi:lo] of a natural (R7). -/
def natBits (x hi lo : Nat) : Nat := x / 2 ^ lo % 2 ^ (hi + 1 - lo)

/-- x rounded up to a multiple of n. -/
def roundUp (x n : Nat) : Nat := (x + n - 1) / n * n

/-- Two byte intervals [a, a+n) and [b, b+m) share a byte. -/
def overlaps (a n b m : Nat) : Bool := decide (a < b + m) && decide (b < a + n) && decide (0 < n) && decide (0 < m)

end Sys2Proof.Machine
end

