-- ==== Sys2Proof/Machine/Access.lean ====
section
/-! DEFINITION. Access to the state: cores and contexts, registers with their hard-wired members, scratchpad with its swizzle,
banks and error codes, physical memory with its homes and error codes, and the page walk (ch. 06, 08, 12, 13). -/

namespace Sys2Proof.Machine

/-- What an instruction or a step answers. -/
abbrev Out := Host.Outcome State Fault Refusal

/-- A trap to take: its cause, INFO and TADDR (R93). -/
structure Trap where
  cause : Cause
  info : BitVec 10
  addr : Word
deriving DecidableEq, Repr

/-- A trap with INFO 0 and TADDR 0. -/
def Trap.of (c : Cause) : Trap := ⟨c, 0, 0⟩

/-- A trap with a TADDR. -/
def Trap.at (c : Cause) (addr : Nat) : Trap := ⟨c, 0, BitVec.ofNat 64 addr⟩

/-- What a check or an effect in the sequencer gives: the next state, a trap, or a stall: the instruction waits and its pc does
not move (R107). -/
inductive Eff where
  | ok (s : State)
  | trap (t : Trap)
  | stall
deriving DecidableEq, Repr

/-! Lists as maps. -/

/-- The elements with the one at place `n` changed. -/
def modAt {α : Type} (l : List α) (n : Nat) (f : α → α) : List α := l.mapIdx fun i x => if i = n then f x else x

/-- An element of a vector; `d` beyond its end. -/
def vget {α : Type} {n : Nat} (v : Vector α n) (i : Nat) (d : α) : α := v[i]?.getD d

/-- A vector with an element replaced; unchanged beyond its end. -/
def vset {α : Type} {n : Nat} (v : Vector α n) (i : Nat) (x : α) : Vector α n := v.setIfInBounds i x

/-- Look up a key. -/
def assocGet {κ α : Type} [DecidableEq κ] (l : List (κ × α)) (k : κ) : Option α := (l.find? fun p => p.1 = k).map Prod.snd

/-- Set a key, in place or at the end. -/
def assocSet {κ α : Type} [DecidableEq κ] (l : List (κ × α)) (k : κ) (x : α) : List (κ × α) :=
  if l.any (fun p => p.1 = k) then l.map (fun p => if p.1 = k then (k, x) else p) else l ++ [(k, x)]

/-! Cores. -/

/-- The core of that number, wherever it stands; a core not listed is as core reset leaves it. -/
def getCore (s : State) (die num : Nat) : Core :=
  if s.core.die = die ∧ s.core.num = num then s.core
  else (s.others.find? fun k => k.die = die ∧ k.num = num).getD (Core.reset die num)

/-- Put a core back in its place. -/
def putCore (s : State) (k : Core) : State :=
  if s.core.die = k.die ∧ s.core.num = k.num then { s with core := k }
  else if s.others.any (fun o => o.die = k.die ∧ o.num = k.num) then
    { s with others := s.others.map fun o => if o.die = k.die ∧ o.num = k.num then k else o }
  else { s with others := s.others ++ [k] }

/-- Make a core the one that moves. -/
def focus (s : State) (die num : Nat) : State :=
  if s.core.die = die ∧ s.core.num = num then s
  else
    { s with
      core := getCore s die num
      others := s.core :: s.others.filter fun o => !decide (o.die = die ∧ o.num = num) }

/-- Every listed core. -/
def allCores (s : State) : List Core := s.core :: s.others

/-- Change every listed core. -/
def mapCores (s : State) (f : Core → Core) : State := { s with core := f s.core, others := s.others.map f }

/-- Change the core that moves. -/
def modCore (s : State) (f : Core → Core) : State := { s with core := f s.core }

/-- Change the started context of the core that moves. -/
def modCtx (s : State) (f : Context → Context) : State := { s with core := { s.core with ctx := f s.core.ctx } }

/-- The started context of the core that moves. -/
abbrev State.ctx (s : State) : Context := s.core.ctx

/-- DIES of CAPS (R11). -/
def capsDies (s : State) : Nat := (s.caps.extractLsb' 20 4).toNat

/-- QUESAR of CAPS. -/
def capsQuesar (s : State) : Bool := s.caps.getLsbD 0

/-- HEARTH of CAPS. -/
def capsHearth (s : State) : Bool := s.caps.getLsbD 1

/-- ETH of CAPS. -/
def capsEth (s : State) : Bool := s.caps.getLsbD 2

/-- DIRTY_MODE of CAPS. -/
def capsDirty (s : State) : Bool := s.caps.getLsbD 4

/-! Registers of the started context. -/

/-- A scalar register; s0 reads zero (R55, R89). -/
def sreg (s : State) (r : BitVec 5) : Word := if r = 0 then 0 else vget s.core.ctx.s r.toNat 0

/-- A scalar register as a natural. -/
abbrev snat (s : State) (r : BitVec 5) : Nat := (sreg s r).toNat

/-- Write a scalar register; a write to s0 is discarded. -/
def setS (s : State) (r : BitVec 5) (v : Word) : State :=
  if r = 0 then s else modCtx s fun c => { c with s := vset c.s r.toNat v }

/-- A predicate; p0 reads true. -/
def preg (s : State) (p : BitVec 3) : Bool := p = 0 || s.core.ctx.p.getLsbD p.toNat

/-- The predicate register file with one predicate replaced. -/
def setBit8 (x : BitVec 8) (n : Nat) (b : Bool) : BitVec 8 :=
  if b then x ||| BitVec.ofNat 8 (2 ^ n) else x &&& ~~~(BitVec.ofNat 8 (2 ^ n))

/-- Write a predicate; a write to p0 is discarded. -/
def setP (s : State) (p : BitVec 3) (v : Bool) : State :=
  if p = 0 then s else modCtx s fun c => { c with p := setBit8 c.p p.toNat v }

/-- A handle. -/
def hreg (s : State) (h : BitVec 4) : Handle := vget s.core.ctx.h h.toNat Handle.invalid

/-- Write a handle. -/
def setH (s : State) (h : BitVec 4) (v : Handle) : State := modCtx s fun c => { c with h := vset c.h h.toNat v }

/-- A vector register. -/
def vreg (c : Context) (r : BitVec 5) : VReg := vget c.v r.toNat (Vector.replicate 1024 0)

/-- Write a vector register. -/
def setV (c : Context) (r : BitVec 5) (v : VReg) : Context := { c with v := vset c.v r.toNat v }

/-- A mask; m0 reads all ones (R146). -/
def mreg (c : Context) (m : BitVec 3) : BitVec 1024 := if m = 0 then BitVec.allOnes 1024 else vget c.m m.toNat 0

/-- Write a mask; a write to m0 is discarded. -/
def setM (c : Context) (m : BitVec 3) (v : BitVec 1024) : Context :=
  if m = 0 then c else { c with m := vset c.m m.toNat v }

/-- Bytes of the page a handle names (R245). -/
def Handle.pageSize (h : Handle) : Nat := 4096 * 2 ^ h.size.toNat

/-- Virtual base of the page a handle names. -/
def Handle.vbase (h : Handle) : Nat := h.vpage.toNat * 4096

/-- Physical base of the page a handle names. -/
def Handle.base (h : Handle) : Nat := h.frame.toNat * 4096

/-! Scratchpad (R133, R139, R140, R143, R144). Buffers are named by code 0 W, 1 A, 2 C. -/

/-- Banks of a buffer. -/
def bufBanks (b : BitVec 2) : Nat := if b = 0 then 12 else if b = 1 then 8 else 4

/-- Number of a buffer's first bank. -/
def bufBank0 (b : BitVec 2) : Nat := if b = 0 then 0 else if b = 1 then 12 else 20

/-- Bytes of a buffer that accesses may reach: in guard mode the last bank is beyond range (R144). -/
def bufSize (k : Core) (b : BitVec 2) : Nat :=
  0x8000 * (if k.guardMode then bufBanks b - 1 else bufBanks b)

/-- The bank in which a buffer offset lies. -/
def bankOf (b : BitVec 2) (o : Nat) : Nat := bufBank0 b + o / 0x8000

/-- BFMT of a bank. -/
def bfmtOf (k : Core) (bank : Nat) : BitVec 32 := vget k.bfmt bank 0

/-- FMT of a BFMT value (R135). -/
def bfmtFmt (v : BitVec 32) : Nat := (v.extractLsb' 0 5).toNat

/-- SAT of a BFMT value. -/
def bfmtSat (v : BitVec 32) : Bool := v.getLsbD 5

/-- SWZ of a BFMT value. -/
def bfmtSwz (v : BitVec 32) : Nat := (v.extractLsb' 16 4).toNat

/-- PITCH of a BFMT value. -/
def bfmtPitch (v : BitVec 32) : Nat := (v.extractLsb' 20 9).toNat

/-- The stored offset of a logical offset under a swizzle mode (R139). -/
def swizzle (mode o : Nat) : Nat :=
  match mode with
  | 1 => Nat.xor o (o / 128 % 8 * 16)
  | 2 => Nat.xor o (o / 256 % 8 * 32)
  | 3 => Nat.xor o (o / 512 % 8 * 64)
  | _ => o

/-- The stored offset of a buffer's logical offset under a given mode. -/
def storedWith (mode o : Nat) : Nat := o / 0x8000 * 0x8000 + swizzle mode (o % 0x8000)

/-- The stored offset of a buffer's logical offset under its bank's mode (R140). -/
def stored (k : Core) (b : BitVec 2) (o : Nat) : Nat := storedWith (bfmtSwz (bfmtOf k (bankOf b o))) o

/-- A buffer's bytes. -/
def bufMem (k : Core) (b : BitVec 2) : Memory := if b = 0 then k.w else if b = 1 then k.a else k.c

/-- Replace a buffer's bytes. -/
def setBufMem (k : Core) (b : BitVec 2) (m : Memory) : Core :=
  if b = 0 then { k with w := m } else if b = 1 then { k with a := m } else { k with c := m }

/-- The other banks of a failed bank's buffer read whole at a word: what rebuilds it in guard mode (R144). -/
def rebuildable (k : Core) (b : BitVec 2) (word : Nat) : Bool :=
  k.guardMode && (List.range (bufBanks b)).all fun i =>
    decide (i = word * 8 / 0x8000) ||
      (!k.failedBanks.contains (bufBank0 b + i) && !k.bad.contains (b, i * 0x1000 + word % 0x1000))

/-- The 8-byte word that holds a stored offset has an uncorrectable error (R143, R144). -/
def badWord (k : Core) (b : BitVec 2) (word : Nat) : Bool :=
  if k.failedBanks.contains (bankOf b (word * 8)) then !rebuildable k b word else k.bad.contains (b, word)

/-- One stored byte. -/
def spByte (k : Core) (b : BitVec 2) (o : Nat) : Byte := memRead (bufMem k b) o

/-- The stored offsets of `n` logical bytes. -/
def storedRange (k : Core) (b : BitVec 2) (o n : Nat) : List Nat := (List.range n).map fun i => stored k b (o + i)

/-- `n` bytes read at logical offsets (R140). -/
def spRead (k : Core) (b : BitVec 2) (o n : Nat) : List Byte := (storedRange k b o n).map (spByte k b)

/-- The first logical offset of a range whose word has an uncorrectable error. -/
def spBad (k : Core) (b : BitVec 2) (o n : Nat) : Option Nat :=
  (List.range n).findSome? fun i => if badWord k b (stored k b (o + i) / 8) then some (o + i) else none

/-- The stored offsets written cover the whole word. -/
def coversWord (offs : List Nat) (word : Nat) : Bool := (List.range 8).all fun i => offs.contains (word * 8 + i)

/-- The stored offset, in a buffer's guard bank, of the byte that guards a stored offset (R144). -/
def guardOff (b : BitVec 2) (o : Nat) : Nat := 0x8000 * (bufBanks b - 1) + o % 0x8000

/-- One byte of a buffer written, with the guard byte that follows it: the XOR of the same offset in the other banks (R144). -/
def guardedWrite (b : BitVec 2) (m : Memory) (c : Host.Cell) : Memory :=
  let g := guardOff b c.1
  memWrite (memWrite m c.1 c.2) g (memRead m g ^^^ memRead m c.1 ^^^ c.2)

/-- Cells written in a buffer's bytes, in order; in guard mode the guard bank follows each. -/
def bufCells (k : Core) (b : BitVec 2) (cells : List Host.Cell) : Memory :=
  if k.guardMode then cells.foldl (guardedWrite b) (bufMem k b) else memCells (bufMem k b) cells

/-- A buffer's bytes with its guard bank filled from the other banks. -/
def guardFilled (b : BitVec 2) (m : Memory) : Memory :=
  let own := m.filter fun c => decide (c.1 < 0x8000 * (bufBanks b - 1))
  own.foldl (fun t c => memWrite t (guardOff b c.1) (memRead t (guardOff b c.1) ^^^ c.2)) own

/-- A core that starts to run in guard mode (R144). -/
def enterGuard (k : Core) : Core :=
  { k with guardMode := true, w := guardFilled 0 k.w, a := guardFilled 1 k.a, c := guardFilled 2 k.c }

/-- Bytes written at stored offsets; a word written whole loses its error (R143). -/
def spPut (k : Core) (b : BitVec 2) (cells : List Host.Cell) : Core :=
  let k' := setBufMem k b (bufCells k b cells)
  if k'.bad = [] ∧ k'.soft = [] then k'
  else
    let offs := cells.map Prod.fst
    let keep (e : BitVec 2 × Nat) : Bool := decide (e.1 ≠ b) || !coversWord offs e.2
    { k' with bad := k'.bad.filter keep, soft := k'.soft.filter keep }

/-- Bytes written at logical offsets. -/
def spWrite (k : Core) (b : BitVec 2) (o : Nat) (bytes : List Byte) : Core :=
  spPut k b ((storedRange k b o bytes.length).zip bytes)

/-- A partial write meets a word's uncorrectable error: the first such logical offset (R143). -/
def spBadWrite (k : Core) (b : BitVec 2) (o n : Nat) : Option Nat :=
  let offs := storedRange k b o n
  (List.range n).findSome? fun i =>
    let w := stored k b (o + i) / 8
    if badWord k b w && !coversWord offs w then some (o + i) else none

/-- TADDR of a scratchpad cause: the offset with the buffer code in bits [63:62] (R93, R121). -/
def spAddr (b : BitVec 2) (o : Nat) : Nat := b.toNat * 2 ^ 62 + o % 2 ^ 62

/-! Physical memory (R244, R415, R416, R241). -/

/-- The pod range of R244. -/
def isPod (pa : Nat) : Bool := decide (0x4000000000000 ≤ pa) && decide (pa < 0x8000000000000)

/-- The host range of R244. -/
def isHostPa (pa : Nat) : Bool := decide (0x8000000000000 ≤ pa) && decide (pa < 0x10000000000000)

/-- PKG of a pod address. -/
def podPkg (pa : Nat) : Nat := natBits pa 49 40

/-- A pod address of this very module names its near tier (R244). -/
def canonPa (s : State) (pa : Nat) : Nat :=
  if isPod pa && decide (podPkg pa = s.pkgId.toNat) then pa % 2 ^ 40 else pa

/-- The near range of the part. Where HBM_STACKS found at bring-up is below the part's, the whole range of the part stays backed: the
manual does not say which addresses go (log entry 71). -/
def isNear (s : State) (pa : Nat) : Bool := decide (pa < if s.part = .a then 0x6000000000 else 0x3000000000)

/-- The far range of the part. Where LPDDR_SIZE found at bring-up is below the part's, the whole range of the part stays backed (log
entry 71). -/
def isFar (s : State) (pa : Nat) : Bool :=
  decide (0x10000000000 ≤ pa) && decide (pa < if s.part = .a then 0x20000000000 else 0x18000000000)

/-- The store range. -/
def isStore (pa : Nat) : Bool := decide (0x100000000000 ≤ pa) && decide (pa < 0x200000000000)

/-- A physical address is backed (R244). -/
def backed (s : State) (pa : Nat) : Bool := isNear s pa || isFar s pa || isStore pa || isPod pa || isHostPa pa

/-- TIER code of a physical address (R244). -/
def tierOf (s : State) (pa : Nat) : BitVec 2 :=
  if isNear s pa then 0 else if isFar s pa then 1 else if isStore pa then 2 else 3

/-- The home die of a near or far line (R415); none elsewhere. -/
def homeDie (s : State) (pa : Nat) : Option Nat :=
  let p := canonPa s pa
  if isNear s p then some (if capsDies s = 1 then 0 else if p < 0x3000000000 then 0 else 1)
  else if isFar s p then some (if capsDies s = 1 then 0 else if p < 0x18000000000 then 0 else 1)
  else none

/-- Home slice of a line (R415). -/
def homeSlice (pa : Nat) : Nat := pa / 64 % 48

/-- A byte of a line homed on the die other than the given one. -/
def foreign (s : State) (die pa : Nat) : Bool :=
  match homeDie s pa with
  | some d => d != die
  | none => false

/-- A byte of a line that a die may hold a copy of: homed on the other die, or on another module of the pod (R241, R385; log entry 91). -/
def copyable (s : State) (die pa : Nat) : Bool := foreign s die pa || isPod (canonPa s pa)

/-- The copy that a die holds of a line homed elsewhere (R241, R385). -/
def copyOf (s : State) (die line : Nat) : Option LineCopy :=
  if copyable s die (line * 64) then s.copies.find? fun c => c.die = die ∧ c.line = line else none

/-- The byte that a die's observers read: the die's own bytes still to be written home come first, then the die's copy of the line,
then the home (R241). -/
def rdByte (s : State) (die : Nat) (pa : Nat) : Byte :=
  let p := canonPa s pa
  match s.heldBytes.find? fun h => h.die = die ∧ h.addr = p with
  | some h => h.val
  | none =>
    match copyOf s die (p / 64) with
    | some c => vget c.bytes (p % 64) unwritten
    | none => memRead s.mem p

/-- `n` bytes as a die's observers read them. -/
def rdBytes (s : State) (die pa n : Nat) : List Byte := (List.range n).map fun i => rdByte s die (pa + i)

/-- `n` bytes at their home. -/
def rdHome (s : State) (pa n : Nat) : List Byte := (List.range n).map fun i => memRead s.mem (canonPa s (pa + i))

/-- A natural of `n` bytes at its home. -/
def rdHomeNat (s : State) (pa n : Nat) : Nat := leNat (rdHome s pa n)

/-- A Kolnel port that is up or degraded and exists (R382, R384). -/
def portUp (s : State) (p : Nat) : Bool :=
  let l := vget s.links p Link.reset
  (vget s.linkCtl 0 ⟨0, 0, 0, 0, 0⟩).kolmap.getLsbD p && (l.state == 2 || l.state == 3)

/-- The ports of a module's entry in a die's route table (R384). -/
def routePorts (s : State) (die pkg : Nat) : List Nat :=
  let base := (vget s.linkCtl die ⟨0, 0, 0, 0, 0⟩).routebase.toNat
  let mask := rdHomeNat s (base + 4 * pkg) 4
  (List.range 18).filter fun p => mask.testBit p

/-- The port that a line of a module takes from a die: of the route's ports that are up or degraded, in ascending number, the one at the
line's place (R384). -/
def portFor (s : State) (die pkg pa : Nat) : Option Nat :=
  let live := (routePorts s die pkg).filter (portUp s)
  live[pa / 64 % live.length]?

/-- A die reaches a physical address: it is no pod address of another module, or a port takes its line (R384, R386). -/
def pathFrom (s : State) (die pa : Nat) : Bool := !isPod (canonPa s pa) || (portFor s die (podPkg pa) pa).isSome

/-- A die holds bytes of a line of another module to which its path is lost: they cannot go home until it is back (R385, R386; log entry 122). -/
def podBlocked (s : State) (die : Nat) : Bool := s.heldBytes.any fun h => decide (h.die = die) && !pathFrom s die h.addr

/-- Lines wholly written lose their error (R416). -/
def clearBad (s : State) (cells : List Nat) : State :=
  if s.badLines = [] then s
  else { s with badLines := s.badLines.filter fun l => !((List.range 64).all fun i => cells.contains (l * 64 + i)) }

/-- Cells written at their home, in order. -/
def wrHome (s : State) (cells : List Host.Cell) : State :=
  let cs := cells.map fun c => (canonPa s c.1, c.2)
  clearBad { s with mem := memCells s.mem cs } (cs.map Prod.fst)

/-- Bytes written at their home. -/
def wrHomeBytes (s : State) (pa : Nat) (bytes : List Byte) : State :=
  wrHome s ((List.range bytes.length).map fun i => (pa + i, bytes.getD i 0))

/-- A natural of `n` bytes written at its home. -/
def wrHomeNat (s : State) (pa n v : Nat) : State := wrHomeBytes s pa (leBytes n v)

/-- A byte of the copy that a die holds of a line, written with the die's own store. -/
def noteCopy (l : List LineCopy) (die : Nat) (c : Host.Cell) : List LineCopy :=
  l.map fun x => if x.die = die ∧ x.line = c.1 / 64 then { x with bytes := vset x.bytes (c.1 % 64) c.2 } else x

/-- One byte stored by an observer of a die: kept by the die where the line is homed on the other one, or on another module of the pod, and
written into the die's copy of the line (R241, R385; log entry 91). -/
def wrByte (s : State) (die : Nat) (c : Host.Cell) : State :=
  let p := canonPa s c.1
  let rest := s.heldBytes.filter fun h => !decide (h.die = die ∧ h.addr = p)
  if copyable s die p then { s with heldBytes := ⟨die, p, c.2⟩ :: rest, copies := noteCopy s.copies die (p, c.2) }
  else { s with mem := memWrite s.mem p c.2, heldBytes := rest }

/-- Cells stored by an observer of a die: performed at .die (R240). -/
def wrDie (s : State) (die : Nat) (cells : List Host.Cell) : State :=
  clearBad (cells.foldl (fun t c => wrByte t die c) s) (cells.map fun c => canonPa s c.1)

/-- A die's held bytes of an interval written home: eviction, a release at .pkg, or an access that needs the line (R241). -/
def flushHeld (s : State) (die lo n : Nat) : State :=
  let mine (h : HeldByte) : Bool := decide (h.die = die) && decide (lo ≤ h.addr) && decide (h.addr < lo + n)
  { s with
    mem := memCells s.mem ((s.heldBytes.filter mine).map fun h => (h.addr, h.val))
    heldBytes := s.heldBytes.filter fun h => !mine h }

/-- Every byte a die holds written home: a release at .pkg or wider (R227, R241). -/
def flushDie (s : State) (die : Nat) : State :=
  { s with
    mem := memCells s.mem ((s.heldBytes.filter fun h => h.die = die).map fun h => (h.addr, h.val))
    heldBytes := s.heldBytes.filter fun h => !decide (h.die = die) }

/-- A load of a context fetches a line homed on the other die or on another module: the die holds a copy from then on, unless it does
already (R241, R385; log entry 91). -/
def fetchLine (s : State) (die pa : Nat) : State :=
  let p := canonPa s pa
  let line := p / 64
  if !copyable s die p || (copyOf s die line).isSome then s
  else { s with copies := ⟨die, line, Vector.ofFn fun i => rdByte s die (line * 64 + i.val)⟩ :: s.copies }

/-- An acquire at .pkg or wider: the die's copies of other-die lines are invalidated (R227, R241). -/
def dropCopies (s : State) (die : Nat) : State := { s with copies := s.copies.filter fun c => !decide (c.die = die) }

/-- An atomic access of a line, or its eviction: no copy of the lines of an interval stays (R234, R235, R241). -/
def dropLines (s : State) (pa n : Nat) : State :=
  { s with copies := s.copies.filter fun c => !overlaps (c.line * 64) 64 (canonPa s pa) n }

/-- The first byte of an interval that lies in a line with an uncorrectable error (R416). -/
def badByte (s : State) (pa n : Nat) : Option Nat :=
  (List.range n).findSome? fun i => if s.badLines.contains (canonPa s (pa + i) / 64) then some i else none

/-! The page walk (R246). -/

/-- The recorded root of an address space (R289). -/
def rootOf (s : State) (aspace : BitVec 12) : Option Nat := assocGet s.roots aspace

/-- A leaf found by a walk: its first replica, where that stands, and the level. -/
structure Leaf where
  desc : BitVec 128
  addr : Nat
  level : Nat
deriving DecidableEq, Repr

/-- SIZE of a descriptor. -/
def dSize (d : BitVec 128) : Nat := (d.extractLsb' 60 4).toNat

/-- STATE of a descriptor. -/
def dState (d : BitVec 128) : Nat := (d.extractLsb' 57 3).toNat

/-- FRAME of a descriptor, as a physical address. -/
def dFrame (d : BitVec 128) : Nat := (d.extractLsb' 12 40).toNat * 4096

/-- TFRAME of a descriptor, as a physical address. -/
def dTframe (d : BitVec 128) : Nat := (d.extractLsb' 64 40).toNat * 4096

/-- COUNT of a descriptor. -/
def dCount (d : BitVec 128) : Nat := (d.extractLsb' 64 32).toNat

/-- THRESH of a descriptor. -/
def dThresh (d : BitVec 128) : Nat := (d.extractLsb' 104 16).toNat

/-- X, R and W of a descriptor. -/
def dX (d : BitVec 128) : Bool := d.getLsbD 53
/-- The read right. -/
def dR (d : BitVec 128) : Bool := d.getLsbD 54
/-- The write right. -/
def dW (d : BitVec 128) : Bool := d.getLsbD 55

/-- A descriptor of a node table. -/
def rdDesc (s : State) (addr : Nat) : BitVec 128 := BitVec.ofNat 128 (rdHomeNat s addr 16)

/-- A reserved bit of a descriptor is set (R246). -/
def dReserved (d : BitVec 128) : Bool :=
  d.extractLsb' 120 6 != 0 || d.getLsbD 52 || d.extractLsb' 0 12 != 0 || (dState d == 1 && d.extractLsb' 96 8 != 0)

/-- The device keeps STATE 4: a moving page has a promotion (R246, R252). -/
def isPromoting (s : State) (aspace : BitVec 12) (va : Nat) : Bool :=
  s.promos.any fun p => p.aspace = aspace && decide (p.va.toNat ≤ va) && decide (va < p.va.toNat + 4096 * 2 ^ p.size.toNat)

/-- A leaf's first replica breaks a rule of R246. -/
def badLeaf (s : State) (aspace : BitVec 12) (va : Nat) (d : BitVec 128) : Bool :=
  let page := 4096 * 2 ^ dSize d
  dReserved d || decide (dFrame d % page ≠ 0) || !backed s (dFrame d) ||
    (match dState d with
    | 1 => isStore (dFrame d)
    | 2 => !isStore (dFrame d) || !(isNear s (dTframe d) || isFar s (dTframe d))
    | 3 => false
    | 4 => !isPromoting s aspace va
    | _ => true)

/-- The walk from a level's node: the levels are listed from the top down. -/
def walkFrom (s : State) (aspace : BitVec 12) (va : Nat) : List Nat → Nat → Except Cause Leaf
  | [], _ => .error .badDescriptor
  | level :: rest, node =>
    let idx := va / 2 ^ (12 + 8 * level) % 256
    let d := rdDesc s (node + 16 * idx)
    if dState d = 0 then .error .noMapping
    else if dState d = 5 then
      if rest = [] ∨ dReserved d = true ∨ backed s (dFrame d) = false then .error .badDescriptor
      else walkFrom s aspace va rest (dFrame d)
    else if dState d > 5 then .error .badDescriptor
    else
      let n := dSize d
      if ¬((level = 0 ∧ n ≤ 7) ∨ (level = 1 ∧ 8 ≤ n)) then .error .badDescriptor
      else
        let run := 2 ^ (if level = 0 then n else n - 8)
        let first := node + 16 * (idx / run * run)
        let f := rdDesc s first
        if dSize f ≠ n ∨ dState f ≠ dState d ∨ badLeaf s aspace va f = true then .error .badDescriptor
        else .ok ⟨f, first, level⟩

/-- The walk of an address space (R246, R248): the leaf's first replica, or no mapping or bad descriptor. -/
def walk (s : State) (aspace : BitVec 12) (va : Nat) : Except Cause Leaf :=
  if va ≥ 2 ^ 52 then .error .noMapping
  else match rootOf s aspace with
    | none => .error .noMapping
    | some root => walkFrom s aspace va [4, 3, 2, 1, 0] root

/-- A leaf's descriptor written back. -/
def wrDesc (s : State) (addr : Nat) (d : BitVec 128) : State := wrHomeNat s addr 16 d.toNat

/-- The page base of an address under a leaf. -/
def leafVbase (l : Leaf) (va : Nat) : Nat := va / (4096 * 2 ^ dSize l.desc) * (4096 * 2 ^ dSize l.desc)

/-- The physical address an address translates to under a resident leaf. -/
def leafPa (l : Leaf) (va : Nat) : Nat := dFrame l.desc + va % (4096 * 2 ^ dSize l.desc)

/-- The window that holds a physical byte in its pool page (R337). -/
def windowAt (s : State) (pa : Nat) : Option Window :=
  s.windows.find? fun w => decide (w.pool ≤ pa) && decide (pa < w.pool + 4096 * 2 ^ w.poolSize.toNat)

/-- A context of an address space, die and tag lies in a window's .seq (R16, R23, R334). -/
def inSeq (w : Window) (aspace : BitVec 12) (die : Nat) (tag : BitVec 32) : Bool :=
  w.aspace == aspace && decide (w.die = die) && w.tag == tag && !w.clearing

/-- A leaf is resident for a context: STATE 1, and not a pool page that a window holds against it (R247, R337). -/
def residentFor (s : State) (l : Leaf) (aspace : BitVec 12) (die : Nat) (tag : BitVec 32) : Bool :=
  decide (dState l.desc = 1) &&
    (match windowAt s (dFrame l.desc) with
    | some w => inSeq w aspace die tag
    | none => true)

/-- The bytes of a window's record (R336): a write to one has no right (R337). -/
def inWindowRecord (s : State) (pa n : Nat) : Bool := s.windows.any fun w => overlaps pa n w.pool 256

/-- The handle XLATE fills from a leaf (R247, R248). -/
def handleOf (s : State) (l : Leaf) (va : Nat) (aspace : BitVec 12) (die : Nat) (tag : BitVec 32) : Handle :=
  let d := l.desc
  let held := decide (dState d = 1) && !residentFor s l aspace die tag
  let framed := decide (dState d = 1 ∨ dState d = 2)
  { vpage := BitVec.ofNat 52 (leafVbase l va / 4096)
    size := BitVec.ofNat 4 (dSize d)
    tier := if framed && !held then tierOf s (dFrame d) else 0
    w := dW d
    r := dR d
    res := residentFor s l aspace die tag
    valid := true
    frame := if framed && !held then BitVec.ofNat 40 (dFrame d / 4096) else 0 }

/-- A captured handle as its use finds it: one whose page was not resident at issue has a frame once the page is resident (R204). -/
def settleHandle (s : State) (aspace : BitVec 12) (die : Nat) (tag : BitVec 32) (H : Handle) : Handle :=
  if H.valid && !H.res then
    match walk s aspace H.vbase with
    | .ok l =>
      let n := handleOf s l H.vbase aspace die tag
      if n.vpage = H.vpage ∧ n.size = H.size then { H with res := n.res, frame := n.frame, tier := n.tier } else H
    | .error _ => H
  else H

end Sys2Proof.Machine
end

