-- ==== Sys2Proof/Machine/Ops.lean ====
section
/-! DEFINITION. The shared operations: fault records and message-signalled interrupts, barrier signals and lock release, page
requests, group abort, taking an exception and returning from it, the loop-end step and the end of an instruction. -/

namespace Sys2Proof.Machine

/-! Codes. -/

/-- The code of a cause (R397). -/
def Cause.code : Cause → Nat
  | .none => 0x00
  | .illegalInstruction => 0x01
  | .unitAbsent => 0x02
  | .misalignedTarget => 0x03
  | .misalignedAccess => 0x04
  | .fetchPermission => 0x05
  | .permission => 0x06
  | .noMapping => 0x07
  | .badDescriptor => 0x08
  | .handleRange => 0x09
  | .notResident => 0x0A
  | .scratchpadRange => 0x0B
  | .bufferAccess => 0x0C
  | .bankFormat => 0x0D
  | .storageError => 0x0E
  | .verdictOperand => 0x0F
  | .formatConflict => 0x10
  | .verdictState => 0x11
  | .patchSequence => 0x12
  | .templateKind => 0x13
  | .commandLimit => 0x14
  | .ringState => 0x15
  | .queueImbalance => 0x16
  | .sparseMetadata => 0x17
  | .gangMembership => 0x18
  | .writePointerState => 0x19
  | .writePointerFault => 0x1A
  | .feedState => 0x1B
  | .indexRange => 0x1C
  | .barrierState => 0x1D
  | .nestingDepth => 0x1E
  | .badRecord => 0x1F
  | .selfWait => 0x20
  | .sequenceRange => 0x21
  | .blockRange => 0x22
  | .sequenceState => 0x23
  | .tablePoolEmpty => 0x24
  | .windowState => 0x25
  | .hearthState => 0x26
  | .indexState => 0x27
  | .logFull => 0x28
  | .poolEmpty => 0x29
  | .collectiveState => 0x2A
  | .trapInstruction => 0x2B
  | .breakpoint => 0x2C
  | .halt => 0x2D
  | .budgetOverrun => 0x2E
  | .reeveException => 0x2F
  | .linkError => 0x30
  | .badImage => 0x31

/-- CSTAT.STATE codes (R91). -/
def SlotState.code : SlotState → Nat
  | .empty => 0
  | .loading => 1
  | .runnable => 2
  | .running => 3
  | .waiting => 4
  | .trapped => 5
  | .saved => 6
  | .retired => 7

/-- CSTAT.WAIT codes (R91). -/
def Wait.code : Wait → Nat
  | .none => 0
  | .barrier => 1
  | .future => 2
  | .lock => 3
  | .shwait => 4
  | .done => 5

/-! Identities. -/

/-- What a context's CTX_ID, KERNEL_ID and GROUP_ID read: its own, unless a changed image gave others (R92, R106). -/
def ownNames (c : Context) : Word × Word × Word := c.shown.getD (c.ctxId, c.kernelId, c.groupId)

/-- The die of a context by its CTX_ID (R92). -/
def ctxDie (ctxId : Word) : Nat := (ctxId.extractLsb' 15 1).toNat

/-- A context by its CTX_ID, wherever its slot is. -/
def ctxById (s : State) (id : Word) : Option Context :=
  (allCores s).findSome? fun k => (k.ctx :: k.shadows).find? fun c => c.state != .empty && c.ctxId == id

/-- The kernel entry of that name, in whatever state (R285). -/
def kernelById (s : State) (id : Word) : Option KEntry := s.kernels.find? fun k => k.id = id

/-- The Steward entry of a die. -/
def kernelAt (s : State) (die entry : Nat) : Option KEntry := s.kernels.find? fun k => k.die = die ∧ k.entry = entry

/-- Change a Steward entry. -/
def modKernel (s : State) (id : Word) (f : KEntry → KEntry) : State :=
  { s with kernels := s.kernels.map fun k => if k.id = id then f k else k }

/-- The cores of a group (R22, R301). -/
def inGroup (die entry : Nat) (k : Core) : Bool := decide (k.die = die) && decide (k.group = some entry)

/-- The next fresh value's number is taken. -/
def bumpFresh (s : State) : State := { s with fresh := s.fresh + 1 }

/-! Messages and fault records (R393, R398, R399). -/

/-- A vector is masked in its function's MSI-X table (R393). -/
def msixMasked (s : State) (fn vec : Nat) : Bool := (vget s.msixMask fn 0).getLsbD vec

/-- An MSI-X vector is raised (R393): its message is written, or, where the vector is masked, its Pending Bit is set. -/
def raiseMsix (s : State) (fn vec : Nat) : State :=
  { s with
    msix := if msixMasked s fn vec then s.msix else s.msix ++ [(fn, vec)]
    msixPend := if msixMasked s fn vec then vset s.msixPend fn (vget s.msixPend fn 0 ||| BitVec.ofNat 64 (2 ^ vec)) else s.msixPend }

/-- The content of a fault record (R399). -/
structure Rec where
  cause : Cause
  src : Nat
  nested : Bool := false
  cls : Nat := 0
  kind : Nat := 0
  kernelId : Word := 0
  ctxId : Word := 0
  addr : Word := 0
  pc : Word := 0
  word : Word := 0
  core : Nat := 0
  die : Nat := 0
  slice : Nat := 0
deriving DecidableEq, Repr

/-- The 64 bytes of a record (R399). -/
def Rec.bytes (r : Rec) (serial : Nat) : List Byte :=
  let hdr := r.cause.code + r.src * 2 ^ 8 + (if r.nested then 2 ^ 12 else 0) + r.cls * 2 ^ 16 + r.kind * 2 ^ 24
  leBytes 4 hdr ++ leBytes 4 serial ++ leBytes 8 r.kernelId.toNat ++ leBytes 8 r.ctxId.toNat ++ leBytes 8 r.addr.toNat ++
    leBytes 8 r.pc.toNat ++ leBytes 8 r.word.toNat ++ leBytes 4 (r.core + r.die * 2 ^ 8 + r.slice * 2 ^ 9) ++ leBytes 12 0

/-- A record written into an address space's fault ring, or lost and counted (R398). -/
def writeRecord (s : State) (aspace : BitVec 12) (r : Rec) : State :=
  match assocGet s.frings aspace with
  | none => { s with mgmt := { s.mgmt with frlost := if s.mgmt.frlost = 127 then 127 else s.mgmt.frlost + 1 } }
  | some h =>
    let word := rdHomeNat s h 8
    let head := rdHomeNat s (h + 8) 4
    let tail := rdHomeNat s (h + 12) 4
    let drops := rdHomeNat s (h + 16) 4
    let size := 2 ^ (natBits word 55 52 + 4)
    if (tail + 2 ^ 32 - head) % 2 ^ 32 < size then
      let s1 := wrHomeBytes s (natBits word 51 12 * 4096 + 64 * (tail % size)) (r.bytes tail)
      raiseMsix (wrHomeNat s1 (h + 12) 4 (tail + 1)) 0 4
    else if drops < 0xFFFFFFFF then raiseMsix (wrHomeNat s (h + 16) 4 (drops + 1)) 0 4
    else s

/-- The CAUSE of a kernel's end word: the first charged stays (R295). -/
def chargeCause (s : State) (id : Word) (c : Cause) : State :=
  modKernel s id fun k => if k.cause = 0 then { k with cause := BitVec.ofNat 8 c.code } else k

/-! Barriers (R265 to R277). -/

/-- A core barrier's name. -/
def coreBar (die core n : Nat) : BarKey := ⟨0, die * 192 + core, n⟩

/-- A level at .pkg or wider: releases and acquires there reach the other die (R227, R229). -/
def levelWide (level : Nat) : Bool := decide (3 ≤ level)

/-- The name of barrier `n` of a level, as seen from a core (R265). -/
def barKey (level die core n : Nat) : BarKey :=
  match level with
  | 0 => coreBar die core n
  | 1 => ⟨1, die * 48 + core / 4, n⟩
  | 2 => ⟨2, die, n⟩
  | l => ⟨l, 0, n⟩

/-- How many barriers a level has (R14, R265). -/
def barCount (level : Nat) : Nat :=
  match level with
  | 0 => 32
  | 1 => 64
  | 2 => 2048
  | 3 => 512
  | _ => 128

/-- A barrier's state. -/
def getBar (s : State) (k : BarKey) : Barrier :=
  if k.level = 0 then vget (getCore s (k.inst / 192) (k.inst % 192)).bars k.num (Barrier.freeAt 0)
  else (assocGet s.netBars k).getD (Barrier.freeAt 0)

/-- A barrier's state replaced. -/
def putBar (s : State) (k : BarKey) (b : Barrier) : State :=
  if k.level = 0 then
    let c := getCore s (k.inst / 192) (k.inst % 192)
    putCore s { c with bars := vset c.bars k.num b }
  else { s with netBars := assocSet s.netBars k b }

/-- A barrier of quad level or wider is allotted to an address space; a core barrier is core state (R266). -/
def allotted (s : State) (k : BarKey) (aspace : BitVec 12) : Bool :=
  decide (k.level = 0) ||
    s.allots.any fun a => decide (a.1 = k.level) && decide (a.2.1 = k.num) && decide (a.2.2 = aspace)

/-- Phase t of a phaser is complete (R275). -/
def phaseDone (phase t : BitVec 32) : Bool :=
  let d := (phase - t).toNat
  decide (1 ≤ d) && decide (d < 2 ^ 31)

/-- The status word of a completed wait (R275). -/
def statusWord (b : Barrier) (t : BitVec 32) : Word :=
  if b.phase = t + 1 then t ++ (0 : BitVec 28) ++ b.lstatus else t ++ (16 : BitVec 32)

/-- A parked context is given its value: it will be woken (R95, R269). -/
def giveWake (c : Context) (dst : BitVec 5) (v : Word) : Context :=
  { c with park := none, s := if dst = 0 then c.s else vset c.s dst.toNat v }

/-- A pod barrier by number. -/
def podKey (n : Nat) : BarKey := ⟨4, 0, n⟩

/-- What a barrier operation of another module is answered: the code of the trap that it gives its issuer, zero for none, and a value. -/
def barReply (c : Cause) (v : Word) : List Byte := leBytes 1 c.code ++ leBytes 8 v.toNat

/-- Waits of another module at a pod barrier that are over are answered, each with its value. -/
def podWoken (s : State) (key : BarKey) (f : Option (BitVec 32) → Option Word) : State :=
  let hit (w : PodPark) : Option Word := if podKey w.num = key then f w.token else none
  match s.podParks.filterMap hit with
  | [] => s
  | vs => { s with
      podParks := s.podParks.filter fun w => (hit w).isNone, answer := vs.flatMap (barReply .none) }

/-- Contexts parked for a phase of a barrier that has completed receive their status word. -/
def wakePhase (s : State) (key : BarKey) (b : Barrier) : State :=
  let t := podWoken s key fun w => w.bind fun p => if phaseDone b.phase p then some (statusWord b p) else none
  mapCores t fun k =>
    match k.ctx.park with
    | some (.phase key' t _ dst _) =>
      if key' = key && phaseDone b.phase t then { k with ctx := giveWake k.ctx dst (statusWord b t) } else k
    | _ => k

/-- Contexts parked on a future receive its value (R276). -/
def wakeFuture (s : State) (key : BarKey) (v : Word) : State :=
  mapCores (podWoken s key fun w => if w.isNone then some v else none) fun k =>
    match k.ctx.park with
    | some (.future key' dst) => if key' = key then { k with ctx := giveWake k.ctx dst v } else k
    | _ => k

/-- The completion test of R271. `zeroed`: PENDING has just returned to 0. -/
def phaseComplete (b : Barrier) (zeroed : Bool) : Bool :=
  (decide (1 ≤ b.sigcnt) && decide (b.sigcnt ≤ b.arrived) && decide (b.pending = 0)) ||
    (decide (b.sigcnt = 0) && zeroed)

/-- A phaser's state stored, its phase completed if the test passes (R269, R271). -/
def settleNow (s : State) (key : BarKey) (b : Barrier) (zeroed : Bool) : State :=
  if phaseComplete b zeroed then
    let b' := { b with phase := b.phase + 1, arrived := 0, lstatus := b.status, status := 0 }
    wakePhase (putBar s key b') key b'
  else putBar s key b

/-- A phaser's state stored after an event; the test follows at once, or at the end of the cycle that the event shares with others (R271,
R274; log entry 87). -/
def settle (s : State) (key : BarKey) (b : Barrier) (zeroed : Bool) : State :=
  if s.oneCycle then
    { putBar s key b with dueBars := assocSet s.dueBars key (zeroed || (assocGet s.dueBars key).getD false) }
  else settleNow s key b zeroed

/-- The test that a cycle owes a barrier, made before what comes after it in R274's order. -/
def testBar (s : State) (key : BarKey) : State :=
  if !s.oneCycle then s
  else match assocGet s.dueBars key with
    | none => s
    | some zeroed =>
      let t := { s with dueBars := s.dueBars.filter fun x => !decide (x.1 = key) }
      if (getBar t key).kind = .phaser then settleNow t key (getBar t key) zeroed else t

/-- The cycle ends: every test that it owes is made. -/
def endCycle (s : State) : State :=
  if s.oneCycle then { (s.dueBars.map Prod.fst).foldl testBar s with oneCycle := false } else s

/-- One arrival at a phaser: beyond SIGCNT it sets EXCESS and is discarded (R271). -/
def arrived (b : Barrier) (fault ginc : Bool) : Barrier :=
  let st := b.status ||| (if fault then 2 else 0) ||| (if ginc then 1 else 0)
  if b.sigcnt ≤ b.arrived then { b with status := st ||| 4 }
  else { b with arrived := b.arrived + 1, status := st }

/-- An arrival performed at the home of a phaser (R271, R274). -/
def arrive (s : State) (key : BarKey) (fault ginc : Bool) : State :=
  settle s key (arrived (getBar s key) fault ginc) false

/-- Who a discarded signal is charged to (R269, R402). -/
structure Charge where
  aspace : BitVec 12
  kernelId : Word
  ctxId : Word
  die : Nat
  core : Nat
deriving DecidableEq, Repr

/-- A discarded signal leaves a record of SRC 6 (R269, R297). -/
def discardSignal (s : State) (q : Charge) (c : Cause) : State :=
  writeRecord s q.aspace { cause := c, src := 6, kernelId := q.kernelId, ctxId := q.ctxId, die := q.die, core := q.core }

/-- Why a signal that is no instruction is discarded: the barrier is no phaser, or, at quad level or wider, it is not allotted to the
address space, which every instruction and command has checked as it issued (R269, R297, R417; log entry 81). -/
def signalUnfit (s : State) (q : Charge) (key : BarKey) : Option Cause :=
  if !allotted s key q.aspace then some .permission
  else if (getBar s key).kind ≠ .phaser then some .barrierState
  else none

/-- A signal that is no instruction: one arrival, or discarded where the barrier is unfit (R269, R417). -/
def signal (s : State) (q : Charge) (key : BarKey) (fault ginc : Bool) : State :=
  match signalUnfit s q key with
  | none => arrive s key fault ginc
  | some c => discardSignal s q c

/-- Bytes delivered at a phaser, one after the other (R272): those up to PENDING bring it to 0 and may complete the phase; each beyond
sets UNDER in the phase that is then current. -/
def takeBytes (s : State) (key : BarKey) (n : Nat) (fault : Bool) : State :=
  let b := getBar s key
  let b1 := { b with pending := b.pending - n, status := b.status ||| (if fault then 2 else 0) }
  let s1 := settle s key b1 (decide (0 < n) && decide (b.pending ≠ 0) && decide (b1.pending = 0))
  if b.pending < n then (let b2 := getBar s1 key; putBar s1 key { b2 with status := b2.status ||| 8 }) else s1

/-- Bytes delivered at the barrier of a command, or discarded where it is unfit (R269, R272, R417). -/
def subtractBytes (s : State) (q : Charge) (key : BarKey) (n : Nat) (fault : Bool) : State :=
  match signalUnfit s q key with
  | none => takeBytes s key n fault
  | some c => discardSignal s q c

/-- A recorded lock waiter (R277): its effective priority, its place in the order of arrival, its name and its group. -/
structure LockWaiter where
  prio : BitVec 8
  order : Nat
  holder : BitVec 48
  group : BitVec 16
deriving DecidableEq, Repr

/-- The better of two lock waiters: higher priority, then earlier recorded (R277). -/
def betterWaiter (a b : LockWaiter) : Bool :=
  decide (b.prio.toNat < a.prio.toNat) || (decide (a.prio = b.prio) && decide (a.order < b.order))

/-- The waiters recorded on a lock: parked contexts of this module, and those of other modules. -/
def lockWaiters (s : State) (key : BarKey) : List LockWaiter :=
  ((allCores s).filterMap fun k =>
    match k.ctx.park with
    | some (.lock key' _ prio order) =>
      if key' = key then some ⟨prio, order, k.ctx.ctxId.extractLsb' 0 48, k.ctx.groupId.extractLsb' 0 16⟩ else none
    | _ => none) ++
  ((s.podWaits.filter fun w => podKey w.num == key).map fun w => ⟨w.prio, w.order, w.holder, w.group⟩)

/-- The waiter a released lock goes to. -/
def bestWaiter : List LockWaiter → Option LockWaiter
  | [] => none
  | w :: ws =>
    match bestWaiter ws with
    | none => some w
    | some v => if betterWaiter w v then some w else some v

/-- The highest priority among waiters. -/
def topPrio (ws : List LockWaiter) : BitVec 8 := ws.foldl (fun m w => if m.toNat < w.prio.toNat then w.prio else m) 0

/-- A waiter of another module that a lock goes to is answered (R277). -/
def podGranted (s : State) (order : Nat) (v : Word) : State :=
  if s.podWaits.any fun w => w.order == order then
    { s with podWaits := s.podWaits.filter fun w => w.order != order, answer := barReply .none v }
  else s

/-- A held lock released: handed to the best waiter, or freed (R277). -/
def lockRelease (s : State) (key : BarKey) (abandoned : Bool) : State :=
  let b := getBar s key
  let ws := lockWaiters s key
  match bestWaiter ws with
  | none => putBar s key { b with lent := 0, held := false, abandoned := abandoned }
  | some w =>
    let v : Word := if b.abandoned || abandoned then 1 else 0
    let b' := { b with
      lent := topPrio (ws.filter fun x => x.order != w.order), held := true, abandoned := false, holder := w.holder, hgroup := w.group }
    mapCores (podGranted (putBar s key b') w.order v) fun c =>
      match c.ctx.park with
      | some (.lock key' dst _ o) => if key' = key ∧ o = w.order then { c with ctx := giveWake c.ctx dst v } else c
      | _ => c

/-- The names of every barrier that holds state. -/
def listedBars (s : State) : List BarKey :=
  s.netBars.map Prod.fst ++
    (allCores s).flatMap fun k => (List.range 32).map fun n => coreBar k.die k.num n

/-- Every lock a group holds is released with ABANDONED set (R277, R401). -/
def releaseGroupLocks (s : State) (die entry : Nat) : State :=
  (listedBars s).foldl (fun t key =>
    let b := getBar t key
    if b.kind = .lock ∧ b.held = true ∧ b.hgroup.toNat = entry ∧ (b.holder.extractLsb' 15 1).toNat = die then
      lockRelease t key true
    else t) s

/-! Priority (R218, R277, R302, R303). -/

/-- The priority an entry receives from the entries it holds, transitively (R218). -/
def lentToKernel (s : State) : Nat → Word → Nat
  | 0, _ => 0
  | fuel + 1, id =>
    s.kernels.foldl (fun m k =>
      if k.state = .held ∧ k.heldBy.contains id = true then
        max m (max k.launch.prio.toNat (lentToKernel s fuel k.id))
      else m) 0

/-- The LENT of the locks a context holds (R277). -/
def lentToCtx (s : State) (ctxId : Word) : Nat :=
  (listedBars s).foldl (fun m key =>
    let b := getBar s key
    if b.kind = .lock ∧ b.held = true ∧ b.holder = ctxId.extractLsb' 0 48 then max m b.lent.toNat else m) 0

/-- EFF of a context (R302). -/
def effPrio (s : State) (c : Context) : Nat :=
  max c.prio.toNat (max (lentToCtx s c.ctxId) (lentToKernel s (s.kernels.length + 1) c.kernelId))

/-- One pass of lending: LENT of each held lock from its waiters, then the waiters' priorities from what they hold (R277). -/
def relendOnce (s : State) : State :=
  let s1 := (listedBars s).foldl (fun t key =>
    let b := getBar t key
    if b.kind = .lock ∧ b.held = true then putBar t key { b with lent := topPrio (lockWaiters t key) } else t) s
  mapCores s1 fun k =>
    match k.ctx.park with
    | some (.lock key dst _ o) => { k with ctx := { k.ctx with park := some (.lock key dst (BitVec.ofNat 8 (effPrio s1 k.ctx)) o) } }
    | _ => k

/-- Lending reckoned again after waiters have left: it passes on along a chain of holders that wait (R277, R278). -/
def relend (s : State) : State := (List.range ((allCores s).length + 1)).foldl (fun t _ => relendOnce t) s

/-- A group that stops gives up its locks and its places among the waiters (R277, R307, R401). -/
def leaveLocks (s : State) (die entry : Nat) : State := relend (releaseGroupLocks s die entry)

/-! Single-bit errors in scratchpad (R143). -/

/-- A 32-bit count raised, saturating. -/
def satAdd32 (x : BitVec 32) (n : Nat) : BitVec 32 := BitVec.ofNat 32 (min (x.toNat + n) 0xFFFFFFFF)

/-- A word is read where the words that `hit` names are: it is one of them, or it rebuilds one of a failed bank, whose own words are not
read (R144). -/
def wordRead (k : Core) (hit : BitVec 2 × Nat → Bool) (w : BitVec 2 × Nat) : Bool :=
  let word (i : Nat) : Nat := i * 0x1000 + w.2 % 0x1000
  !k.failedBanks.contains (bankOf w.1 (w.2 * 8)) &&
    (hit w || (List.range (bufBanks w.1)).any fun i =>
      k.failedBanks.contains (bufBank0 w.1 + i) && rebuildable k w.1 (word i) && hit (w.1, word i))

/-- The words that a read meets lose their single-bit errors, which SERR counts (R143, R144, R408). -/
def correctWords (s : State) (die num : Nat) (hit : BitVec 2 × Nat → Bool) : State :=
  let k := getCore s die num
  let n := (k.soft.filter (wordRead k hit)).length
  if n = 0 then s
  else
    let s1 := putCore s { k with soft := k.soft.filter fun w => !wordRead k hit w }
    { s1 with mgmt := { s1.mgmt with serr := satAdd32 s1.mgmt.serr n } }

/-- The words of the given ranges have been read. -/
def correctSoft (s : State) (die num : Nat) (rs : List Range) : State :=
  let k := getCore s die num
  correctWords s die num fun w =>
    rs.any fun r => r.buf == w.1 && (List.range (r.hi - r.lo)).any fun i => decide (stored k r.buf (r.lo + i) / 8 = w.2)

/-! Page requests (R252 to R255). -/

/-- The leaf of a page under promotion returned to stored, unless system software has rewritten it meanwhile (R252). -/
def returnToStored (s : State) (p : Promotion) : State :=
  match walk s p.aspace p.va.toNat with
  | .ok l =>
    let d := l.desc
    if dState d = 4 then wrDesc s l.addr (d.extractLsb' 60 68 ++ (2 : BitVec 3) ++ d.extractLsb' 0 57) else s
  | .error _ => s

/-- A kernel's cores are held by it in these states (R311). -/
def KState.onCores : KState → Bool
  | .allocating => true
  | .running => true
  | .draining => true
  | .discarding => true
  | .saving => true
  | .restoring => true
  | .stopping => true
  | .ending => true
  | _ => false

/-- A signal to a core barrier of the group that a charge names, wherever that group is: at its core; owed to the saved group until
its restore; or to nobody, once the group has left its cores for good (R253, R266, R352). A kernel that has drained or been discarded has no
cores: nobody gets the signal while it waits, and once it is dispatched again the barrier of the core that the request was made on does (log
entry 123, DESIGN CHOICE). -/
def signalHome (s : State) (q : Charge) (n : Nat) (fault : Bool) : State :=
  match kernelById s q.kernelId with
  | none => if (getCore s q.die q.core).group = none then signal s q (coreBar q.die q.core n) fault false else s
  | some k =>
    if k.state = .saved ∨ k.state = .restoring then modKernel s k.id fun e => { e with owed := e.owed ++ [(q.core, n, fault)] }
    else if k.state.onCores then signal s q (coreBar q.die q.core n) fault false
    else s

/-- The signal of each requester's barrier (R253). -/
def signalReqs (s : State) (p : Promotion) (reqs : List Request) (fault : Bool) : State :=
  reqs.foldl (fun t r =>
    match r.asker with
    | .preq ctxId (some n) => signalHome t ⟨p.aspace, r.kernelId, ctxId, r.die, r.core⟩ n fault
    | _ => t) s

/-- The page of a promotion holds an address. -/
def Promotion.covers (p : Promotion) (aspace : BitVec 12) (va : Nat) : Bool :=
  p.aspace == aspace && decide (p.va.toNat ≤ va) && decide (va < p.va.toNat + 4096 * 2 ^ p.size.toNat)

/-- A kernel's REDs that wait for a page ask again (R236). -/
def reaskReds (s : State) (p : Promotion) (id : Word) : State :=
  { s with reds := s.reds.map fun r =>
      if r.waits && decide (r.kernelId = id) && p.covers r.aspace r.va.toNat then { r with waits := false } else r }

/-- A kernel's requests removed from one promotion whose copy has not started (R255): the page returns to stored when no requester
remains. -/
def cancelReq (s : State) (p : Promotion) (id : Word) : State :=
  let gone := p.reqs.filter fun r => r.kernelId = id
  let rest := p.reqs.filter fun r => !decide (r.kernelId = id)
  if gone = [] then s
  else if rest = [] then
    let t := reaskReds (returnToStored s p) p id
    signalReqs { t with promos := t.promos.filter fun q => !decide (q = p) } p gone false
  else
    signalReqs (reaskReds { s with promos := s.promos.map fun q => if q = p then { p with reqs := rest } else q } p id) p gone false

/-- A kernel's requests in the promotions that `sel` picks are removed where the copy has not started (R255). -/
def cancelReqs (s : State) (sel : Promotion → Bool) (id : Word) : State :=
  (s.promos.filter fun p => sel p && !p.started).foldl (fun t p => cancelReq t p id) s

/-! Group abort (R401). -/

/-- The collective entries among commands, as communicator and place in its count (R390). -/
def collOf (c : Command) : Nat × Nat := ((c.body.extractLsb' 176 16).toNat, c.part)

/-- The unstarted commands of a core are removed; an unstarted collective still counts (R294, R390, R401). -/
def dropUnstarted (s : State) (k : Core) : State × Core :=
  let coll := (vget k.q 3 []).filter fun c => decide (c.kind = .tmpl 1)
  ({ s with collGone := s.collGone ++ coll.map collOf }, { k with q := Vector.replicate 5 [] })

/-- A context that stops for good waits for nothing any more. -/
def stopCtx (c : Context) : Context :=
  if c.state = .waiting then { c with park := none, wait := .none } else { c with inWindow := false }

/-- NOTIFYs whose markers have all been reached: their events are still to come, whatever becomes of their group (R199). -/
def reachedNotifies (k : Core) : List Notify := k.notifies.filter fun n => n.notified = n.classes

/-- A context that is retired leaves its slot, and its iteration is counted (R95, R296, R306). -/
def sweepRetired (s : State) (die num : Nat) (count : KEntry → Nat → KEntry) : State :=
  let k := getCore s die num
  let c := k.ctx
  if c.state = .retired then modKernel (putCore s { k with ctx := Context.blank c.slot }) c.kernelId fun e => count e c.cyc else s

/-- The contexts of a group's core stop: nothing issues, shadows are emptied, unstarted commands are removed. -/
def stopCore (s : State) (die num : Nat) : State :=
  let s0 := sweepRetired s die num fun e cyc => { e with retired := e.retired + 1, cycles := e.cycles + cyc }
  let (s1, k) := dropUnstarted s0 (getCore s0 die num)
  putCore s1 { k with stopping := true, shadows := [], notifies := reachedNotifies k, ctx := stopCtx k.ctx }

/-- Every core of a group stops. -/
def stopGroup (s : State) (die : Nat) (cores : List Nat) : State := cores.foldl (fun t n => stopCore t die n) s

/-- A frame linked back onto the head of a die's save pool (R308). -/
def returnFrame (s : State) (die frame : Nat) : State :=
  let c := vget s.sched die ⟨0, 0, false, 0, 0, 0, 0⟩
  let s1 := wrHomeNat s frame 8 c.savefree.toNat
  { s1 with sched := vset s1.sched die { c with savefree := BitVec.ofNat 64 frame, savecnt := c.savecnt + 1 } }

/-- Every frame of a kernel returned (R308, R312). -/
def returnFrames (s : State) (k : KEntry) : State :=
  let s1 := k.frames.foldl (fun t f => returnFrame t k.die f.2.2) s
  modKernel s1 k.id fun e => { e with frames := [], images := [] }

/-- The frames of a saved group go back, and the unstarted collectives that its images hold count as removed (R308, R390, R401). -/
def dropImages (s : State) (k : KEntry) : State :=
  let coll := k.images.flatMap fun c => (vget c.q 3 []).filter fun x => decide (x.kind = .tmpl 1)
  returnFrames { s with collGone := s.collGone ++ coll.map collOf } k

/-- A group is aborted, after the records of step 1: it stops and will end with END 4 (R401, R402). -/
def abortGroup (s : State) (id : Word) (c : Cause) : State :=
  match kernelById s id with
  | none => s
  | some k =>
    if !k.state.onCores || k.state = .stopping then chargeCause s id c
    else
      let s1 := stopGroup s k.die k.cores
      let s2 := cancelReqs s1 (fun _ => true) id
      let s3 := leaveLocks s2 k.die k.entry
      let s4 := if k.state = .saving || k.state = .restoring then dropImages s3 k else s3
      modKernel (chargeCause s4 id c) id fun e => { e with state := .stopping, endCode := 4, victim := none }

/-! Taking an exception and returning from it (R98 to R101). -/

/-- TCAUSE of a trap (R93). -/
def tcauseOf (t : Trap) : Word :=
  (0 : BitVec 38) ++ t.info ++ (0 : BitVec 8) ++ BitVec.ofNat 8 t.cause.code

/-- The trap registers as trap entry writes them (R93, R100). -/
def trapRegs (c : Context) (t : Trap) (pc : Word) (word : BitVec 32) : Context :=
  { c with tcause := tcauseOf t, tpc := pc, tword := word.zeroExtend 64, taddr := t.addr }

/-- The record of a context that enters trapped (R399, R401). -/
def trapRecord (k : Core) (c : Context) (t : Trap) : Rec :=
  { cause := t.cause, src := 0, nested := c.inTrap, kernelId := c.kernelId, ctxId := c.ctxId, addr := t.addr, pc := c.tpc
    word := c.tword, core := k.num, die := k.die }

/-- A group is saved or restored: a trap that is met now leaves its context trapped, in its image or on its new core (R97, R149, R278). -/
def beingSaved (s : State) (id : Word) : Bool :=
  (kernelById s id).any fun k => k.state == .saving || k.state == .restoring

/-- A group that runs under a request, where a trap and the decision on the request coincide, which is a free choice (R97; log entry 104): the
decision, which then comes before anything else. -/
def decisionNow (s : State) (id : Word) : List Move :=
  match (kernelById s id).filter fun k => k.state == .running && k.victim.isSome with
  | some k => if Config.freeMiss s.fresh 7 then [.event k.die s.core.num (.estimatorDecision k.die k.entry)] else []
  | none => []

/-- A precise trap of the started context at `pc` with its word (R100): into the handler, or to trapped, with the record and
the abort of its group; a group that is being saved is aborted when it is restored, and one whose decision coincides by that, unless it is to
be saved. -/
def takeTrapAt (s : State) (t : Trap) (pc : Word) (word : BitVec 32) : State :=
  let c := trapRegs s.core.ctx t pc word
  if c.inTrap || c.handler = 0 || t.cause = .halt then
    let s1 := modCtx s fun _ => { c with state := .trapped }
    let s2 := writeRecord s1 c.aspace (trapRecord s.core c t)
    let now := decisionNow s2 c.kernelId
    if beingSaved s2 c.kernelId then s2
    else if now ≠ [] then { s2 with agenda := now ++ s2.agenda }
    else abortGroup s2 c.kernelId t.cause
  else modCtx s fun _ => { c with inTrap := true, trapAt := pc, pc := c.handler }

/-- A precise trap of the instruction being issued. -/
def takeTrap (s : State) (t : Trap) : State := takeTrapAt s t s.core.ctx.pc s.core.ctx.ir

/-- A loop level. -/
def loopAt (c : Context) (n : Nat) : LoopLevel := vget c.loops n LoopLevel.off

/-- Address of the last instruction of a level's body (R94, R98). -/
def LoopLevel.last (l : LoopLevel) : Word := l.start + BitVec.ofNat 64 (4 * l.len.toNat)

/-- The body of a level holds an address. -/
def LoopLevel.holds (l : LoopLevel) (a : Word) : Bool :=
  decide (l.start.toNat ≤ a.toNat) && decide (a.toNat ≤ l.last.toNat)

/-- A level made inactive: levels started after it move up (R128). -/
def endLevel (c : Context) (n : Nat) : Context :=
  let l := loopAt c n
  if l.active then
    { c with loops := (vset c.loops n LoopLevel.off).map fun m =>
        if m.active && decide (l.pos < m.pos) then { m with pos := m.pos - 1 } else m }
  else c

/-- The level at a start position (R98). -/
def levelAtPos (c : Context) (pos : Nat) : Option Nat :=
  (List.range 3).find? fun n => (loopAt c n).active && decide ((loopAt c n).pos = pos)

/-- The loop-end step for the instruction at `a`, most recently started level first (R98). The pc already holds the address
that follows. -/
def loopEndFrom (a : Word) : Nat → Context → Context
  | 0, c => c
  | pos + 1, c =>
    match levelAtPos c pos with
    | none => loopEndFrom a pos c
    | some n =>
      let l := loopAt c n
      if l.last = a then
        if (vget c.lc n 0).toNat > 1 then { c with lc := vset c.lc n (vget c.lc n 0 - 1), pc := l.start }
        else loopEndFrom a pos (endLevel { c with lc := vset c.lc n 0 } n)
      else loopEndFrom a pos c

/-- The sequencer past an instruction that did not transfer control: the loop-end step, or the next word (R98). -/
def pastInstr (c : Context) : Context :=
  let c' := { c with pc := c.pc + 4 }
  if c.inTrap then c' else loopEndFrom c.pc 3 c'

/-- Levels whose body a transfer leaves, and those nested in them, become inactive (R98). -/
def leaveLoops (c : Context) (target : Word) : Context :=
  if c.inTrap then c
  else
    let out := (List.range 3).filter fun n => (loopAt c n).active && !(loopAt c n).holds target
    let first := out.foldl (fun m n => min m (loopAt c n).pos) 3
    { c with loops := c.loops.map fun l => if l.active && decide (first ≤ l.pos) then LoopLevel.off else l }

/-- A count of the performance counters raised (R130). -/
def addPerf (c : Context) (n : Nat) (x : Nat) : Context :=
  { c with perf := vset c.perf n (vget c.perf n 0 + BitVec.ofNat 64 x) }

/-- The cycles of one step, as the counters of running and waiting contexts see them (R130; log entry 2). -/
def tick (s : State) : State :=
  let n := Config.freeCycles s.fresh
  let s1 := { s with fresh := s.fresh + 1, clock := s.clock + n }
  modCtx s1 fun c =>
    match c.state with
    | .running => { addPerf c 0 n with cyc := c.cyc + n }
    | .waiting => { addPerf (addPerf c 0 n) 7 n with cyc := c.cyc + n }
    | _ => c

/-- The end of an instruction that stays in line: it is counted and the sequencer moves on. -/
def retire (s : State) : State := tick (modCtx s fun c => addPerf (pastInstr c) 1 1)

/-- The end of an instruction that set the pc itself. -/
def retireJump (s : State) (target : Word) : State :=
  tick (modCtx s fun c => addPerf { c with pc := target } 1 1)

/-- An instruction that waits: its pc does not move (R107). -/
def stallStep (s : State) : State := tick s

/-- An instruction that waits for a full queue: PERFE counts its cycles (R130). -/
def stallFull (s : State) : State := modCtx (stallStep s) fun c => addPerf c 4 (Config.freeCycles s.fresh)

/-- An instruction that waits for LDS or LDG data: PERFF counts its cycles (R130). -/
def stallData (s : State) : State := modCtx (stallStep s) fun c => addPerf c 5 (Config.freeCycles s.fresh)

/-- A complete effect counted by one of the performance counters (R130). -/
def Eff.counted (n : Nat) : Eff → Eff
  | .ok t => .ok (modCtx t fun c => addPerf c n 1)
  | e => e

/-- What an instruction's effect makes of the machine: the effect is complete or it is a trap or a wait. `retire` or a transfer
is part of the effect. -/
def finish (s : State) : Eff → Out
  | .ok t => .next t
  | .trap t => .next (takeTrap s t)
  | .stall => .next (stallStep s)

/-- An effect that then moves on in line. -/
def inLine (s : State) : Eff → Out
  | .ok t => .next (retire t)
  | .trap t => .next (takeTrap s t)
  | .stall => .next (stallStep s)

/-- An access of the sequencer that reads: some of its cycles are spent waiting for the data (R130; log entry 2). -/
def inLineData (s : State) : Eff → Out
  | .ok t => .next (modCtx (retire t) fun c => addPerf c 5 (Config.freeStall s.fresh % (Config.freeCycles t.fresh + 1)))
  | e => inLine s e

/-- The return from a handler (R101). Where the trap was taken on the last instruction of an active loop and TPC now names the next
word, that instruction's loop-end step is taken. -/
def returnFromTrap (s : State) : Eff :=
  let c := s.core.ctx
  if !c.inTrap then .trap (Trap.of .illegalInstruction)
  else
    let c1 := { c with inTrap := false, pc := c.tpc }
    let ends := (List.range 3).any fun n =>
      (loopAt c n).active && (loopAt c n).last == c.trapAt && c.tpc == c.trapAt + 4
    let c2 :=
      if ends then loopEndFrom c.trapAt 3 c1 else leaveLoops c1 c1.pc
    .ok (tick (modCtx s fun _ => addPerf c2 1 1))

end Sys2Proof.Machine
end

