-- ==== Sys2Proof/Machine/Flags.lean ====
section
/-! DEFINITION. The sticky flags and the underflow count of VMODE, its modes, and the fields of the system registers as they
read (R11, R15, R41, R46, R91 to R94, R130, R285, R301, R302). -/

namespace Sys2Proof.Machine

/-- Flags gathered by the started context (R41). -/
def raiseFlags (s : State) (f : Fl) : State := modCtx s fun c => { c with vmode := f.apply c.vmode }

/-- VMODE.RM (R41). -/
def vmodeRM (v : Word) : RMode := RMode.ofBits (v.extractLsb' 0 2)

/-- VMODE.FTZ. -/
def vmodeFTZ (v : Word) : Bool := v.getLsbD 2

/-- VMODE.SAT. -/
def vmodeSAT (v : Word) : Bool := v.getLsbD 3

/-- UNDERCNT of a VMODE raised by the count of a completed command (R39). -/
def addUnder (v : Word) (n : Nat) : Word :=
  BitVec.ofNat 32 (min 0xFFFFFFFF ((v.extractLsb' 32 32).toNat + n)) ++ v.extractLsb' 0 32

/-- VMODE after a SETSR: RW fields stored, W1C bits cleared where the write holds 1 (R4, R41). -/
def writeVmode (old v : Word) : Word :=
  v.extractLsb' 32 32 ++ (0 : BitVec 20) ++ (old.extractLsb' 6 6 &&& ~~~(v.extractLsb' 6 6)) ++ (0 : BitVec 2) ++
    v.extractLsb' 0 4

/-- CSTAT of a context (R91). -/
def cstatOf (c : Context) : Word :=
  c.seqTag ++ (0 : BitVec 8) ++ c.depth ++ BitVec.ofBool c.restart ++ BitVec.ofBool c.task ++ BitVec.ofBool c.inTrap ++
    BitVec.ofNat 2 c.slot ++ (0 : BitVec 4) ++ BitVec.ofNat 4 c.wait.code ++ (0 : BitVec 4) ++ BitVec.ofNat 4 c.state.code

/-- LCNT's eleven bits of one level (R94). -/
def lcntLevel (l : LoopLevel) : BitVec 11 := BitVec.ofBool l.active ++ BitVec.ofNat 2 l.pos ++ l.len

/-- LCNT of a context (R94). -/
def lcntOf (c : Context) : Word :=
  (0 : BitVec 31) ++ lcntLevel (loopAt c 2) ++ lcntLevel (loopAt c 1) ++ lcntLevel (loopAt c 0)

/-- CPRIO of a context (R302). -/
def cprioOf (s : State) (c : Context) : Word :=
  (0 : BitVec 40) ++ BitVec.ofNat 8 (effPrio s c) ++ c.ceil ++ c.prio

/-- Own priority after a SETSR of CPRIO: clamped to CEIL (R302). -/
def clampPrio (c : Context) (v : Word) : BitVec 8 :=
  if (v.extractLsb' 0 8).toNat ≤ c.ceil.toNat then v.extractLsb' 0 8 else c.ceil

/-- TCAUSE as its fields hold it (R93). -/
def tcauseMask : Word := 0x0000000003FF00FF

end Sys2Proof.Machine
end

