-- ==== Sys2Proof/Machine/Operands.lean ====
section
/-! DEFINITION. The operand forms of the scalar instructions: widths, guards, conditions, the integer members, number formats by
their code, handles and page accesses (R55, R60, R62, R63, R107 to R112, R122). -/

namespace Sys2Proof.Machine

/-! Guards and widths. -/

/-- An instruction under a guard: a false guard retires it with no effect (R55, R108). -/
def guarded (s : State) (g : BitVec 3) (e : Eff) : Out := if preg s g then inLine s e else .next (retire s)

/-- W of the width field (R111). -/
def widthOf (w : BitVec 2) : Nat :=
  match w.toNat with
  | 0 => 64
  | 1 => 32
  | 2 => 16
  | _ => 8

/-- The low W bits as two's complement. -/
def signedOf (W x : Nat) : Int := if x < 2 ^ (W - 1) then (x : Int) else (x : Int) - (2 ^ W : Nat)

/-- An integer modulo 2^W (R111). -/
def wrap (W : Nat) (x : Int) : Nat := (x % ((2 ^ W : Nat) : Int)).toNat

/-- Number of one bits among the low n. -/
def popcount (x : Nat) : Nat → Nat
  | 0 => 0
  | n + 1 => (if x.testBit n then 1 else 0) + popcount x n

/-- Zero bits above the highest one among the low n; n when there is none. -/
def leadingZeros (x : Nat) : Nat → Nat
  | 0 => 0
  | n + 1 => if x.testBit n then 0 else 1 + leadingZeros x n

/-- Zero bits below the lowest one, looking at `fuel` bits from bit `i` up. -/
def trailingZerosFrom (x : Nat) : Nat → Nat → Nat
  | 0, _ => 0
  | fuel + 1, i => if x.testBit i then 0 else 1 + trailingZerosFrom x fuel (i + 1)

/-- The integer members of R111 that read two sources. -/
inductive AluOp where
  | add | sub | mul | mulh | mulhn | div | divn | rem | remn | and | or | xor | andn | shl | shr | sar | rol | min | max | minn | maxn
deriving DecidableEq, Repr

/-- The member table of R111: a natural below 2^W. -/
def aluRes (op : AluOp) (W x y : Nat) : Nat :=
  let xi := signedOf W x
  let yi := signedOf W y
  match op with
  | .add => (x + y) % 2 ^ W
  | .sub => (x + 2 ^ W - y) % 2 ^ W
  | .mul => x * y % 2 ^ W
  | .mulh => wrap W (Int.fdiv (xi * yi) ((2 ^ W : Nat) : Int))
  | .mulhn => x * y / 2 ^ W
  | .div =>
    if y = 0 then 2 ^ W - 1
    else if xi = -(2 ^ (W - 1) : Nat) ∧ yi = -1 then 2 ^ (W - 1)
    else wrap W (Int.tdiv xi yi)
  | .divn => if y = 0 then 2 ^ W - 1 else x / y
  | .rem =>
    if y = 0 then x
    else if xi = -(2 ^ (W - 1) : Nat) ∧ yi = -1 then 0
    else wrap W (xi - yi * Int.tdiv xi yi)
  | .remn => if y = 0 then x else x % y
  | .and => Nat.land x y
  | .or => Nat.lor x y
  | .xor => Nat.xor x y
  | .andn => Nat.land x (2 ^ W - 1 - y)
  | .shl => x * 2 ^ (y % W) % 2 ^ W
  | .shr => x / 2 ^ (y % W)
  | .sar => wrap W (Int.fdiv xi ((2 ^ (y % W) : Nat) : Int))
  | .rol => (x * 2 ^ (y % W) + x / 2 ^ (W - y % W)) % 2 ^ W
  | .min => if xi ≤ yi then x else y
  | .max => if xi ≤ yi then y else x
  | .minn => if x ≤ y then x else y
  | .maxn => if x ≤ y then y else x

/-- The members of R111 that read one source. -/
inductive UnOp where
  | popc | clz | ctz | mov
deriving DecidableEq, Repr

/-- Their results. -/
def unRes (op : UnOp) (W x : Nat) : Nat :=
  match op with
  | .popc => popcount x W
  | .clz => leadingZeros x W
  | .ctz => trailingZerosFrom x W 0
  | .mov => x

/-- A source at width W (R109, R111). -/
def srcW (s : State) (r : BitVec 5) (W : Nat) : Nat := snat s r % 2 ^ W

/-- Position and length of the field that s(b) names (R112). -/
def fieldOf (W : Nat) (b : Word) : Nat × Nat :=
  let pos := (b.extractLsb' 0 6).toNat
  let len := (b.extractLsb' 8 7).toNat
  (pos, if pos ≥ W then 0 else if pos + len > W then W - pos else len)

/-- BFX (R112). -/
def bfxRes (W x : Nat) (b : Word) : Nat :=
  let (pos, len) := fieldOf W b
  x / 2 ^ pos % 2 ^ len

/-- BFI (R112). -/
def bfiRes (W d x : Nat) (b : Word) : Nat :=
  let (pos, len) := fieldOf W b
  d - d / 2 ^ pos % 2 ^ len * 2 ^ pos + x % 2 ^ len * 2 ^ pos

/-- CMP's conditions (R58, R113). -/
def cmpHolds (c : Nat) (W x y : Nat) : Bool :=
  let xi := signedOf W x
  let yi := signedOf W y
  match c with
  | 0 => decide (xi = yi)
  | 1 => decide (xi ≠ yi)
  | 2 => decide (xi < yi)
  | 3 => decide (xi ≤ yi)
  | 4 => decide (xi > yi)
  | 5 => decide (xi ≥ yi)
  | 6 => decide (x < y)
  | 7 => decide (x ≤ y)
  | 8 => decide (x > y)
  | _ => decide (x ≥ y)

/-! Number formats by code (R60). -/

/-- A number format. -/
inductive NumFmt where
  | flt (f : FFmt)
  | int (w : Nat) (signed : Bool)
  | q4e
deriving DecidableEq, Repr

/-- The format of a code. -/
def numFmt (code : Nat) : Option NumFmt :=
  match code with
  | 0 => some (.flt .f32)
  | 1 => some (.flt .bf16)
  | 2 => some (.flt .f16)
  | 3 => some (.flt .e4m3)
  | 4 => some (.flt .e5m2)
  | 5 => some (.int 8 true)
  | 6 => some (.int 8 false)
  | 7 => some (.int 16 true)
  | 8 => some (.int 16 false)
  | 9 => some (.int 32 true)
  | 10 => some (.int 32 false)
  | 11 => some (.int 64 true)
  | 12 => some (.int 64 false)
  | 13 => some .q4e
  | _ => none

/-- Bits of an element of a format. -/
def NumFmt.width : NumFmt → Nat
  | .flt f => f.width
  | .int w _ => w
  | .q4e => 4

/-- Element width of a format code; 32 for a code not assigned. -/
def codeWidth (code : Nat) : Nat := ((numFmt code).map NumFmt.width).getD 32

/-- Conversion of an element between two formats, neither of them Q4E: one rounding (R37, R38). -/
def convert (src dst : NumFmt) (o : Narrow) (bits : Nat) : Nat × Fl :=
  match src, dst with
  | .flt f, .flt g => fCvt f g o bits
  | .flt f, .int w sg =>
    let (x, fa) := readSrc f o.ftz bits
    let (r, fr) := toIntFmt o.mode w sg x
    (r, fa.join fr)
  | .int w sg, .flt g => roundTo g o (Val.ofInt (ofIntFmt w sg bits))
  | .int w sg, .int w' sg' => toIntFmt o.mode w' sg' (Val.ofInt (ofIntFmt w sg bits))
  | _, _ => (0, {})

/-- The scalar float format of w (R117). -/
def scalarFmt (w : BitVec 2) : Option FFmt :=
  match w.toNat with
  | 1 => some .f32
  | 2 => some .f16
  | 3 => some .bf16
  | _ => none

/-- The smaller or the larger of two values with −0 below +0 and NaN left out (R119). -/
def fMinMax (f : FFmt) (isMax ftz : Bool) (a b : Nat) : Nat × Fl :=
  let (x, fa) := readSrc f ftz a
  let (y, fb) := readSrc f ftz b
  let xb := f.flushSrc ftz a
  let yb := f.flushSrc ftz b
  let fl := fa.join fb
  match x.isNan, y.isNan with
  | true, true => (f.nan, fl)
  | true, false => (yb, fl)
  | false, true => (xb, fl)
  | false, false =>
    let d := cmpV x y
    let less : Bool := decide (d < 0) || (decide (d = 0) && decide (f.signBit ≤ xb) && decide (yb < f.signBit))
    (if less != isMax then xb else yb, fl)

/-- FCMP's condition and the flags it sets (R119). -/
def fCompare (f : FFmt) (c : Nat) (a b : Nat) : Bool × Fl :=
  let x := f.val a
  let y := f.val b
  let un := x.isNan || y.isNan
  let sn := f.snan a || f.snan b
  match c with
  | 0 => (!un && decide (cmpV x y = 0), { nv := sn })
  | 1 => (!un && decide (cmpV x y < 0), { nv := un })
  | 2 => (!un && decide (cmpV x y ≤ 0), { nv := un })
  | _ => (un, { nv := sn })

/-! Atomic operations (R62, R232). -/

/-- An operation of R62 is assigned for ATOM or RED at a size. -/
def atomOpOk (red : Bool) (op : BitVec 4) (sz : BitVec 1) : Bool :=
  decide (op.toNat ≤ 9) && !(red && op == 0) && !(op == 9 && sz == 1)

/-- The new value of R232 for a size in bytes. -/
def atomNew (op : BitVec 4) (size : Nat) (old v : Nat) : Nat :=
  let W := 8 * size
  let oi := signedOf W old
  let vi := signedOf W v
  match op.toNat with
  | 0 => v
  | 1 => (old + v) % 2 ^ W
  | 2 => Nat.land old v
  | 3 => Nat.lor old v
  | 4 => Nat.xor old v
  | 5 => if oi ≤ vi then old else v
  | 6 => if oi ≤ vi then v else old
  | 7 => if old ≤ v then old else v
  | 8 => if old ≤ v then v else old
  | _ => (fAdd .f32 .rne old v).1

/-! Handles and page accesses (R122, R123, R232). -/

/-- The checks of a page access through a handle that is valid: range, rights (R122). -/
def pageChecks (H : Handle) (off size : Nat) (rd wr : Bool) : Option Trap :=
  if off + size > H.pageSize then some (Trap.at .handleRange (H.vbase + off))
  else if (rd && !H.r) || (wr && !H.w) then some (Trap.at .permission (H.vbase + off))
  else none

/-- A write of the window record has no right (R337). -/
def windowChecks (s : State) (H : Handle) (off size : Nat) : Option Trap :=
  if inWindowRecord s (H.base + off) size then some (Trap.at .permission (H.vbase + off)) else none

/-- The cells that queued stores will write, youngest first (R224). -/
def queuedCells (q : List Access) : List Host.Cell :=
  (q.flatMap fun e =>
    match e.kind with
    | .write cells _ => cells
    | _ => []).reverse

/-- Bytes of an outstanding RED (R235). -/
def redSize (r : Red) : Nat := if r.sz = 0 then 4 else 8

/-- Where a RED at the memory side is to be performed: its translation, or what its translation would find now. None while its page is not
resident for it, or where it will fault. -/
def redPlace (s : State) (r : Red) : Option Nat :=
  match r.pa with
  | some p => some p
  | none =>
    match walk s r.aspace r.va.toNat with
    | .ok l => if residentFor s l r.aspace r.die r.seqTag then some (canonPa s (leafPa l r.va.toNat)) else none
    | .error _ => none

/-- A RED has a byte of an access: by its virtual address, or by the physical one that its translation finds (R223). -/
def redMeets (s : State) (r : Red) (va pa n : Nat) : Bool :=
  overlaps va n r.va.toNat (redSize r) || (redPlace s r).any fun p => overlaps (canonPa s pa) n p (redSize r)

/-- A RED among queued accesses overlaps an access, or one of the context and at the memory side its virtual interval (R223). -/
def redPending (s : State) (q : List Access) (ctxId : Word) (va pa n : Nat) : Bool :=
  (q.any fun e =>
    match e.kind with
    | .red r => redMeets s r va pa n
    | _ => false) ||
    s.reds.any fun r => r.ctxId == ctxId && overlaps va n r.va.toNat (redSize r)

/-- A RED that has left its store queue holds every later access to its location, from any observer (R223, R226, R236). -/
def redHolds (s : State) (pa n : Nat) : Bool :=
  s.reds.any fun r =>
    match redPlace s r with
    | some p => overlaps (canonPa s pa) n p (redSize r)
    | none => false

/-- A queued access holds later loads whatever their addresses: an earlier load, or a mark of FENCE.acq, FENCE.full or LSMARK (R223,
R231). -/
def loadsHeld (q : List Access) : Bool :=
  q.any fun e =>
    match e.kind with
    | .load .. => true
    | .mark .rel _ => false
    | .mark _ _ => true
    | _ => false

/-- The context's queue holds a FENCE mark, which holds engine commands, feed transfers and majors 0x3B to 0x3E (R231). -/
def fenceHeld (c : Context) : Bool :=
  c.accessQ.any fun e =>
    match e.kind with
    | .mark .ls _ => false
    | .mark _ _ => true
    | _ => false

/-- What a load of the started context finds. -/
inductive Loaded where
  | wait
  | forwarded (bytes : List Byte)
  | read (bytes : List Byte)
deriving DecidableEq, Repr

/-- A load of the started context behind earlier accesses, as one access of the given parts, each a virtual address, a physical one and
a size: forwarded from earlier stores, waiting when only some of its bytes lie there, else as its die reads it (R223, R224, R231,
R236). -/
def loadFinds (s : State) (before : List Access) (parts : List (Nat × Nat × Nat)) : Loaded :=
  let q := queuedCells before
  let at_ (a : Nat) : Option Byte := (q.find? fun e => e.1 = canonPa s a).map Prod.snd
  let bytes := parts.flatMap fun x => (List.range x.2.2).map fun i => x.2.1 + i
  let hits := bytes.filter fun a => (at_ a).isSome
  if loadsHeld before ||
      parts.any fun x => redPending s before s.core.ctx.ctxId x.1 x.2.1 x.2.2 || redHolds s x.2.1 x.2.2 then .wait
  else if hits = [] then .read (bytes.map (rdByte s s.core.die))
  else if hits.length = bytes.length then .forwarded (bytes.map fun a => (at_ a).getD 0)
  else .wait

/-- A load of one part that issues now: every access in the queues is earlier. -/
def loadBytes (s : State) (va pa n : Nat) : Loaded := loadFinds s s.core.ctx.accessQ [(va, pa, n)]

/-- Records that the page notification queue holds (R258). -/
def notifyLen (p : PageCtl) : Nat := 2 ^ (min 12 p.nqlog.toNat + 4)

/-- The page notification queue is full (R257). -/
def notifyFull (p : PageCtl) : Bool := decide ((p.nqtail.toNat + 1) % notifyLen p = p.nqhead.toNat)

/-- A page notification is appended, or dropped and counted (R257): whether there was room. -/
def appendNotify (s : State) (die : Nat) (aspace : BitVec 12) (cause : Nat) (size vpage : Nat) : State × Bool :=
  let p := s.pageCtl
  let len := notifyLen p
  let tail := p.nqtail.toNat
  if notifyFull p then
    let drop := if p.nqdrop = 0xFFFFFFFF then p.nqdrop else p.nqdrop + 1
    (raiseMsix { s with pageCtl := { p with nqdrop := drop } } 0 (5 + die), false)
  else
    let phase := if p.nqphase then 0 else 1
    let rec128 := aspace.toNat * 2 ^ 116 + cause * 2 ^ 112 + size * 2 ^ 108 + vpage * 4096 + phase
    let s1 := wrHomeNat s (p.nqbase.toNat + 16 * tail) 16 rec128
    let next := (tail + 1) % len
    (raiseMsix { s1 with pageCtl := { s1.pageCtl with
        nqtail := BitVec.ofNat 16 next, nqphase := p.nqphase != decide (next = 0) } } 0 (5 + die), true)

/-- QUEUED of a descriptor. -/
def dQueued (d : BitVec 128) : Bool := d.getLsbD 127

/-- A leaf's page notified under the QUEUED and OVF rules (R257). -/
def notifyPage (s : State) (die : Nat) (aspace : BitVec 12) (l : Leaf) (va cause : Nat) : State :=
  if dQueued l.desc then s
  else
    let (s1, room) := appendNotify s die aspace cause (dSize l.desc) (leafVbase l va / 4096)
    let bit := if room then 2 ^ 127 else 2 ^ 126
    wrDesc s1 l.addr (rdDesc s1 l.addr ||| BitVec.ofNat 128 bit)

/-- A line of a far, pod or host page read into an L2 counts towards the page's threshold (R257). Whether the line comes from
outside the L2 is a free choice (log entry 9). -/
def countLine (s : State) (die : Nat) (aspace : BitVec 12) (va : Nat) : State :=
  match walk s aspace va with
  | .error _ => s
  | .ok l =>
    if dState l.desc = 1 ∧ dThresh l.desc ≠ 0 ∧ Config.freeMiss s.fresh (4 + va / 64) = true then
      let n := dCount l.desc
      if n = 0xFFFFFFFF then s
      else
        let d := (l.desc.extractLsb' 96 32) ++ BitVec.ofNat 32 (n + 1) ++ (l.desc.extractLsb' 0 64)
        let s1 := wrDesc s l.addr d
        if n + 1 = dThresh l.desc then notifyPage s1 die aspace { l with desc := d } va 0 else s1
    else s

/-- D set in a page's descriptor (R256). -/
def setDirty (s : State) (aspace : BitVec 12) (va : Nat) : State :=
  match walk s aspace va with
  | .error _ => s
  | .ok l => wrDesc s l.addr (l.desc ||| BitVec.ofNat 128 (2 ^ 56))

/-- A core's dirty marks written into the descriptors (R256). -/
def flushTlb (s : State) (die num : Nat) : State :=
  let k := getCore s die num
  let s1 := k.tlbDirty.foldl (fun t m => setDirty t m.1 (m.2.toNat * 4096)) s
  let k1 := getCore s1 die num
  putCore s1 { k1 with tlbDirty := [], tlbStores := 0 }

/-- A store, atomic, RED or engine write accepted for a page (R256): D at once, or a mark in the core's TLB. A store is accepted as it leaves
its queue, before its write is performed (log entry 117). -/
def markDirty (s : State) (aspace : BitVec 12) (va : Nat) : State :=
  if capsDirty s then setDirty s aspace va
  else
    let page := (match walk s aspace va with
      | .ok l => BitVec.ofNat 52 (leafVbase l va / 4096)
      | .error _ => BitVec.ofNat 52 (va / 4096))
    let k := s.core
    let marks := if k.tlbDirty.contains (aspace, page) then k.tlbDirty else k.tlbDirty ++ [(aspace, page)]
    let s1 := modCore s fun k => { k with tlbDirty := marks, tlbStores := k.tlbStores + 1 }
    if k.tlbStores + 1 ≥ 4096 then flushTlb s1 k.die k.num else s1

end Sys2Proof.Machine
end

