-- ==== Sys2Proof/Machine/Ranges.lean ====
section
/-! DEFINITION. The range checker (R197): read and write sets, conflicts with the commands and feeds of the core, and the
release after WPWAIT (R211). -/

namespace Sys2Proof.Machine

/-- Two ranges share a byte: an empty range shares none. -/
def Range.meets (a b : Range) : Bool := a.buf == b.buf && decide (max a.lo b.lo < min a.hi b.hi)

/-- A range of `n` bytes. -/
def Range.of (b : BitVec 2) (lo n : Nat) : Range := ⟨b, lo, lo + n⟩

/-- Some range of one list meets some range of the other. -/
def anyMeets (xs ys : List Range) : Bool := xs.any fun x => ys.any fun y => x.meets y

/-- Two accesses of the given read and write sets conflict: a byte lies in the write set of one and in a set of the other (R197). -/
def setsConflict (rd' wr' rd wr : List Range) : Bool := anyMeets wr (rd' ++ wr') || anyMeets rd wr'

/-- An access of the given read and write sets conflicts with a command's (R197). -/
def conflicts (c : Command) (rd wr : List Range) : Bool := setsConflict c.reads c.writes rd wr

/-! Register footprints (R136) and the vector queue (R149, R164). -/

/-- Row length in bytes of a register in a bank of a format (R136). -/
def rowBytes (code : Nat) : Nat := 8 * codeWidth code

/-- A register footprint (R136): its format, its pitch, and its length. -/
structure Foot where
  fmt : Nat
  sat : Bool
  pitch : Nat
  len : Nat
deriving DecidableEq, Repr

/-- The footprint of a VLD or VST at an offset, by the bank that holds it. -/
def footOf (k : Core) (b : BitVec 2) (addr : Nat) : Foot :=
  let v := bfmtOf k (bankOf b addr)
  let row := rowBytes (bfmtFmt v)
  let pitch := if bfmtPitch v = 0 then row else 64 * bfmtPitch v
  ⟨bfmtFmt v, bfmtSat v, pitch, 15 * pitch + row⟩

/-- The range of a VLD or VST with the given operands (R164). -/
def footRange (k : Core) (u : BitVec 2) (off : BitVec 13) (o : VOps) : Range :=
  let addr := o.sa.toNat + 64 * off.toNat
  Range.of u addr (footOf k u addr).len

/-- An entry of the vector queue conflicts with a later access of the given sets (R197). -/
def entryConflicts (k : Core) (seq : Nat) (rd wr : List Range) (e : VecEntry) : Bool :=
  match e with
  | .instr (.vld _ u _ off) o _ => decide (o.seq < seq) && setsConflict [footRange k u off o] [] rd wr
  | .instr (.vst _ u _ off) o _ => decide (o.seq < seq) && setsConflict [] [footRange k u off o] rd wr
  | _ => false

/-- A vector instruction issued before a place in the issue order has not passed its check pass (R149). -/
def uncheckedBefore (c : Context) (seq : Nat) : Bool :=
  c.vq.any fun e =>
    match e with
    | .instr _ o _ => decide (o.seq < seq)
    | .marker => false

/-- A body's field [lo + len - 1 : lo]. -/
abbrev bodyNat (b : BitVec 512) (lo len : Nat) : Nat := (b.extractLsb' lo len).toNat

/-- The write pointer a copy or gather command binds: WPEN and WP (R142). -/
def wpOf (c : Command) : Option Nat :=
  match c.kind with
  | .tmpl _ => if c.body.getLsbD 483 then some (bodyNat c.body 484 4) else none
  | _ => none

/-- A started command an access is released from by an earlier WPWAIT: it only reads there, and its read set in the pointer's
buffer lies wholly below the offset waited for (R211). `seq` is the access's place in the issue order. -/
def releasedBy (k : Core) (cls : Nat) (c : Command) (seq : Nat) (rd wr : List Range) : Bool :=
  decide (cls = 1 ∨ cls = 2) && !anyMeets wr (c.reads ++ c.writes) &&
    (match wpOf c with
    | some n =>
      let w := vget k.wps n WritePtr.reset
      k.early.any fun e => decide (e.1 = n) && decide (e.2.2 ≤ seq) && rd.all fun r => r.buf != w.buf || decide (r.hi ≤ e.2.1)
    | none => false)

/-- The commands of a core that have not ended: class, started, command. -/
def unended (k : Core) : List (Nat × Bool × Command) :=
  (List.range 5).flatMap fun n =>
    ((vget k.run n []).map fun c => (n, true, c)) ++ ((vget k.q n []).map fun c => (n, false, c))

/-- An access at a place in the issue order must wait for an earlier command: one that has not ended and conflicts (R121, R164,
R197). -/
def commandWaits (k : Core) (seq : Nat) (rd wr : List Range) : Bool :=
  (unended k).any fun (n, started, c) =>
    decide (c.seq < seq) && conflicts c rd wr && !(started && releasedBy k n c seq rd wr)

/-- An access at a place in the issue order must wait for an earlier command or an earlier VLD or VST (R164, R197). -/
def waitsAt (k : Core) (seq : Nat) (rd wr : List Range) : Bool :=
  commandWaits k seq rd wr || k.ctx.vq.any (entryConflicts k seq rd wr)

/-- An access that issues now must wait, where the rule gives no early release: the fetch of TMPL and FEEDBIND, and a feed's ranges
(R202, R213; R211 names vector instructions, LDS, ZTEST and commands alone). -/
def fullWait (k : Core) (rd wr : List Range) : Bool :=
  (unended k).any (fun (_, _, c) => decide (c.seq < k.seq) && conflicts c rd wr) || k.ctx.vq.any (entryConflicts k k.seq rd wr)

/-- An access that issues now must wait. -/
def mustWait (k : Core) (rd wr : List Range) : Bool := waitsAt k k.seq rd wr

/-! Feeds' fields and ranges (R212, R213). -/

/-- STATE of a feed record. -/
def feedState (f : Feed) : Nat := bodyNat f.image 0 4

/-- DIR: an output feed. -/
def feedOut (f : Feed) : Bool := f.image.getLsbD 4

/-- MODE: indirect. -/
def feedIndirect (f : Feed) : Bool := f.image.getLsbD 5

/-- KIND of a feed: 0 handle, 1 W, 2 A, 3 C. -/
def feedKind (f : Feed) : Nat := bodyNat f.image 6 2

/-- FMT of a feed. -/
def feedFmt (f : Feed) : Nat := bodyNat f.image 8 5

/-- BASE of a feed. -/
def feedBase (f : Feed) : Nat := bodyNat f.image 32 64

/-- Extent EXTn + 1 of a feed. -/
def feedExt (f : Feed) (n : Nat) : Nat := bodyNat f.image (96 + 32 * n) 32 + 1

/-- Stride STRn of a feed, in bytes, n from 1 to 3. -/
def feedStr (f : Feed) (n : Nat) : Int := (f.image.extractLsb' (224 + 32 * (n - 1)) 32).toInt

/-- DIMS of a feed. -/
def feedDims (f : Feed) : Nat := bodyNat f.image 18 2

/-- Bytes of one element of a feed. -/
def feedElt (f : Feed) : Nat := codeWidth (feedFmt f) / 8

/-- The length of a feed's stream (R212). -/
def feedLen (f : Feed) : Nat :=
  if feedIndirect f then feedExt f 0
  else (List.range (feedDims f + 1)).foldl (fun m n => m * feedExt f n) 1

/-- The lowest and one past the highest byte of an affine feed's elements, as offsets. -/
def feedBounds (f : Feed) : Int × Int :=
  let base : Int := feedBase f
  let step (n : Nat) : Int := (feedExt f n - 1 : Nat) * (if n = 0 then (feedElt f : Int) else feedStr f n)
  let dims := List.range (feedDims f + 1)
  (dims.foldl (fun m n => m + min 0 (step n)) base,
    dims.foldl (fun m n => m + max 0 (step n)) base + feedElt f)

/-- The buffer of a feed bound to scratchpad. -/
def feedBuf (f : Feed) : BitVec 2 := BitVec.ofNat 2 (feedKind f - 1)

/-- A feed's scratchpad ranges: what it transfers and its index list (R213). -/
def feedRanges (k : Core) (f : Feed) : List Range × List Range :=
  let idx := if feedIndirect f then [Range.of 1 (16 * bodyNat f.image 320 16) (4 * feedLen f)] else []
  let body :=
    if feedKind f = 0 then []
    else if feedIndirect f then [⟨feedBuf f, feedBase f, bufSize k (feedBuf f)⟩]
    else [⟨feedBuf f, (feedBounds f).1.toNat, (feedBounds f).2.toNat⟩]
  if feedOut f then (idx, body) else (idx ++ body, [])

/-- An active feed conflicts with a later command's sets (R214). -/
def feedBlocks (k : Core) (c : Command) : Bool :=
  k.feeds.toList.any fun f =>
    decide (feedState f = 1) && (let (rd, wr) := feedRanges k f; conflicts c rd wr)

end Sys2Proof.Machine
end

