-- ==== Sys2Proof/Machine/Slice.lean ====
section
/-! DEFINITION. The slices of the L2 as the reeves watch them, and the pod paths: the events that demand accesses raise
(R371 to R374) and the route of a pod address (R384 to R386). -/

namespace Sys2Proof.Machine

/-- A reeve at rest with an empty queue. -/
def Reeve.blank (die slice : Nat) : Reeve := ⟨die, slice, [], [], none, 0, Vector.replicate 32 0, 0, 0, 0⟩

/-- The reeve of a slice. -/
def getReeve (s : State) (die slice : Nat) : Reeve :=
  (s.reeves.find? fun r => r.die = die ∧ r.slice = slice).getD (Reeve.blank die slice)

/-- A reeve put back. -/
def putReeve (s : State) (r : Reeve) : State :=
  if s.reeves.any (fun q => q.die = r.die ∧ q.slice = r.slice) then
    { s with reeves := s.reeves.map fun q => if q.die = r.die ∧ q.slice = r.slice then r else q }
  else { s with reeves := s.reeves ++ [r] }

/-- The reeve of a slice is present and passed bring-up (R384). -/
def reeveUsable (s : State) (die slice : Nat) : Bool :=
  decide (die < capsDies s) && (vget s.linkCtl die ⟨0, 0, 0, 0, 0⟩).reevemap.getLsbD slice

/-- The binding of that number on a die. -/
def bindingAt (s : State) (die num : Nat) : Option Binding := s.bindings.find? fun b => b.die = die ∧ b.num = num

/-- Change a binding. -/
def modBinding (s : State) (die num : Nat) (f : Binding → Binding) : State :=
  { s with bindings := s.bindings.map fun b => if b.die = die ∧ b.num = num then f b else b }

/-- An event queued at a reeve, or dropped and counted (R374): whether it was taken. -/
def queueEvent (s : State) (die slice : Nat) (e : ReeveEvent) : State × Bool :=
  let r := getReeve s die slice
  if r.queue.length < 64 then (putReeve s { r with queue := r.queue ++ [e] }, true)
  else (modBinding s die e.binding fun b => { b with drops := b.drops + 1 }, false)

/-- The entry offset of a kind of event; 0xFFFF where the binding has none (R370). -/
def Binding.entryOf (b : Binding) (kind : Nat) : BitVec 16 := b.entries.getD kind 0xFFFF

/-- An event raised for a line of a filtered page (R373). -/
def raiseEvent (s : State) (b : Binding) (slice kind : Nat) (dirty : Bool) (line : Word) : State :=
  if b.entryOf kind = 0xFFFF || !reeveUsable s b.die slice then s
  else (queueEvent s b.die slice ⟨b.num, BitVec.ofNat 2 kind, dirty, line, 0, 0⟩).1

/-- The binding and virtual line of a physical byte, on a die (R372). -/
def filteredLine (s : State) (die pa : Nat) : Option (Binding × Word) :=
  (s.bindings.filter fun b => b.die = die).findSome? fun b =>
    b.filter.findSome? fun (base, size, va) =>
      if base ≤ pa ∧ pa < base + size then some (b, BitVec.ofNat 64 ((va.toNat + (pa - base)) / 64 * 64)) else none

/-- A line leaves its slice: an eviction of a watched line raises its event (R373). -/
def lineLeaves (s : State) (die pa : Nat) (dirty : Bool) : State :=
  match filteredLine s die (canonPa s pa) with
  | some (b, line) => raiseEvent s b (homeSlice (canonPa s pa)) 2 dirty line
  | none => s

/-- A die's slice lets go of a line (R373): the bytes that the die holds of it are written home, its copy is dropped, and where it is watched the
event says that it was dirty if it held such bytes, or, for what the home's own slice holds, as the choice given says. -/
def lineOut (s : State) (die pa : Nat) (dirty : Bool) : State :=
  let lo := canonPa s pa / 64 * 64
  let held := s.heldBytes.any fun h => decide (h.die = die ∧ h.addr / 64 * 64 = lo)
  let t := flushHeld s die lo 64
  lineLeaves { t with copies := t.copies.filter fun c => !decide (c.die = die ∧ 64 * c.line = lo) } die pa (held || dirty)

/-- A physical byte lies in the slot of a pinned entry: demand traffic never evicts it (R362). -/
def pinnedByte (s : State) (pa : Nat) : Bool :=
  s.streams.any fun e => e.state == .pinned &&
    (match walk s e.aspace e.base.toNat with
    | .ok l => overlaps (leafPa l e.base.toNat) (4096 * 2 ^ e.z.toNat) pa 1
    | .error _ => false)

/-- A line that a demand fill may replace leaves: of a watched page, and not of a pinned slot. Which one is a free choice, unless SLDONE has offered
one for the slice (R362, R373, R379; log entry 10). -/
def evictSome (s : State) (die slice n : Nat) : State :=
  let offered := s.offers.find? fun o => o.1 == die && o.2.1 == slice
  let s1 := { s with offers := s.offers.filter fun o => !(o.1 == die && o.2.1 == slice) }
  let frames := (s.bindings.filter fun b => b.die = die).flatMap fun b => b.filter.map fun f => f.1 / 64 + Config.freeMerge n 1 % (f.2.1 / 64)
  let lines := (frames.filter fun l => decide (homeSlice (64 * l) = slice)).map fun l => 64 * l
  let pick := match offered with
    | some o => some o.2.2
    | none => lines[Config.freeMerge n 0 % lines.length]?
  match pick with
  | some pa => if pinnedByte s1 pa then s1 else lineOut s1 die pa (Config.freeMiss n 3)
  | none => s1

/-- How many lines a fill replaces as the reeves see it: none, or one of a watched page. -/
def fillLine (s : State) (die slice : Nat) : State :=
  bumpFresh (if Config.freeMiss s.fresh 2 then evictSome s die slice s.fresh else s)

/-- A demand access of a line as a slice of a die sees it: a miss and a fill of the line, and an eviction, where the free choice makes the
line miss (R373; log entry 10). -/
def demandAt (s : State) (at_ p : Nat) : State × Bool :=
  if Config.freeMiss s.fresh 1 then
    let s1 := match filteredLine s at_ p with
      | some (b, line) => raiseEvent (raiseEvent s b (homeSlice p) 0 false line) b (homeSlice p) 1 false line
      | none => s
    (fillLine s1 at_ (homeSlice p), true)
  else (bumpFresh s, false)

/-- A demand access as the slices see it: at the slice of its die, and, where the line is homed on the other die and misses there, which
tracks it as a proxy, at its home slice (R240, R373). -/
def demandAccess (s : State) (die pa : Nat) : State :=
  let p := canonPa s pa
  if s.bindings = [] then s
  else
    let (s1, missed) := demandAt s die p
    match homeDie s pa with
    | some h => if h ≠ die ∧ missed = true then (demandAt s1 h p).1 else s1
    | none => s1

/-- An access at its home (R373); memory that is not the module's has no home slice here. -/
def seenAt (s : State) (pa : Nat) : State :=
  match homeDie s pa with
  | some d => demandAccess s d pa
  | none => s

/-- The lines of an interval accessed at their homes. -/
def seenLines (s : State) (pa n : Nat) : State :=
  if s.bindings = [] then s
  else (List.range ((pa % 64 + n + 63) / 64)).foldl (fun t i => seenAt t (pa / 64 * 64 + 64 * i)) s

/-- The die that moves reaches a physical address (R386). -/
def pathUp (s : State) (pa : Nat) : Bool := pathFrom s s.core.die pa

end Sys2Proof.Machine
end

