-- ==== Sys2Proof/WellFormed.lean ====
section
/-! DEFINITION. Which instructions are well formed: the operand limits that R55 to R64 and the instructions' own entries
put on a word's fields (step 2 and step 5 of R71). A word whose fields break one of them traps as an illegal instruction. -/

namespace Sys2Proof

/-- R16, R18: scope codes 12 to 15 are reserved. -/
def scopeOk (s : BitVec 4) : Bool := decide (s.toNat ≤ 11)

/-- R265: levels 5 to 7 are reserved. -/
def levelOk (l : BitVec 3) : Bool := decide (l.toNat ≤ 4)

/-- R63: hints 0b011 and 0b111 are reserved; an indexed form keeps off12 [11:5] zero. -/
def hintOk (n : BitVec 3) (o : BitVec 12) : Bool :=
  n != 3 && n != 7 && (n.toNat < 4 || o.extractLsb' 5 7 == 0)

/-- R64: the assigned system register numbers. -/
def sysregOk (r : BitVec 10) : Bool :=
  decide (r.toNat ≤ 0x10) || (decide (0x18 ≤ r.toNat) && decide (r.toNat ≤ 0x1F))

/-- R154, R155: the format codes a VCVT may name, and .q4e (13) only against .f32 (0). -/
def vcvtOk (s t : BitVec 5) : Bool :=
  (decide (s.toNat ≤ 10) || s == 13) && (decide (t.toNat ≤ 10) || t == 13) &&
    (s != 13 || t == 0) && (t != 13 || s == 0)

/-- R157: the narrow format codes VPACK and VUNPK take. -/
def packOk (f : BitVec 5) : Bool :=
  (decide (1 ≤ f.toNat) && decide (f.toNat ≤ 8)) || f == 13

/-- The operand limits of every instruction word. The steps without a word carry no field of a word. -/
def Instr.wf : Instr → Bool
  | .add _ _ _ _ _ => true
  | .sub _ _ _ _ _ => true
  | .mul _ _ _ _ _ => true
  | .mulh _ _ _ _ _ => true
  | .mulhn _ _ _ _ _ => true
  | .div _ _ _ _ _ => true
  | .divn _ _ _ _ _ => true
  | .rem _ _ _ _ _ => true
  | .remn _ _ _ _ _ => true
  | .and _ _ _ _ _ => true
  | .or _ _ _ _ _ => true
  | .xor _ _ _ _ _ => true
  | .andn _ _ _ _ _ => true
  | .shl _ _ _ _ _ => true
  | .shr _ _ _ _ _ => true
  | .sar _ _ _ _ _ => true
  | .rol _ _ _ _ _ => true
  | .min _ _ _ _ _ => true
  | .max _ _ _ _ _ => true
  | .minn _ _ _ _ _ => true
  | .maxn _ _ _ _ _ => true
  | .popc _ _ _ _ => true
  | .clz _ _ _ _ => true
  | .ctz _ _ _ _ => true
  | .bfx _ _ _ _ _ => true
  | .bfi _ _ _ _ _ => true
  | .sel _ _ _ _ _ => true
  | .mov _ _ _ _ => true
  | .cmp _ _ _ c _ _ => decide (c.toNat ≤ 9)
  | .fadd _ _ _ w _ => w != 0
  | .fsub _ _ _ w _ => w != 0
  | .fmul _ _ _ w _ => w != 0
  | .ffma _ _ _ w _ => w != 0
  | .fmin _ _ _ w _ => w != 0
  | .fmax _ _ _ w _ => w != 0
  | .fcmp _ _ _ _ w _ => w != 0
  | .fcvt _ _ s t _ => decide (s.toNat ≤ 12) && decide (t.toNat ≤ 12)
  | .addi _ _ _ => true
  | .andi _ _ _ => true
  | .ori _ _ _ => true
  | .xori _ _ _ => true
  | .shli _ _ _ => true
  | .shri _ _ _ => true
  | .sari _ _ _ => true
  | .movi _ _ _ => true
  | .movk _ _ _ => true
  | .lds _ _ b _ => b != 3
  | .sts _ _ b _ => b != 3
  | .ldg _ _ _ n o => hintOk n o
  | .stg _ _ _ n o => hintOk n o
  | .atom _ _ _ o z _ s => decide (o.toNat ≤ 9) && !(o == 9 && z == 1) && scopeOk s
  | .red _ _ _ o z _ s => o != 0 && decide (o.toNat ≤ 9) && !(o == 9 && z == 1) && scopeOk s
  | .cas _ _ _ _ _ _ s => scopeOk s
  | .xlate _ _ => true
  | .hdrop _ => true
  | .hstat _ _ => true
  | .fenceAcq s => scopeOk s
  | .fenceRel s => scopeOk s
  | .fenceFull s => scopeOk s
  | .lsmark s => scopeOk s
  | .br _ _ _ => true
  | .j _ => true
  | .call _ => true
  | .jr _ => true
  | .callr _ => true
  | .ret => true
  | .loop l _ _ => l != 3
  | .loopReg l _ _ => l != 3
  | .pand _ _ _ _ => true
  | .por _ _ _ _ => true
  | .pxor _ _ _ _ => true
  | .pnot _ _ _ => true
  | .pmov _ _ _ => true
  | .getsr _ r => sysregOk r
  | .setsr _ r => sysregOk r
  | .nop => true
  | .trap _ => true
  | .eret => true
  | .bkpt => true
  | .halt => true
  | .done => true
  | .yield => true
  | .vadd _ _ _ _ _ => true
  | .vsub _ _ _ _ _ => true
  | .vmul _ _ _ _ _ => true
  | .vfma _ _ _ _ _ => true
  | .vfms _ _ _ _ _ => true
  | .vmin _ _ _ _ _ => true
  | .vmax _ _ _ _ _ => true
  | .vabs _ _ _ _ => true
  | .vneg _ _ _ _ => true
  | .vcpys _ _ _ _ _ => true
  | .viadd _ _ _ _ _ => true
  | .visub _ _ _ _ _ => true
  | .vimul _ _ _ _ _ => true
  | .vand _ _ _ _ _ => true
  | .vor _ _ _ _ _ => true
  | .vxor _ _ _ _ _ => true
  | .vshl _ _ _ _ _ => true
  | .vshr _ _ _ _ _ => true
  | .vsar _ _ _ _ _ => true
  | .vimin _ _ _ _ _ => true
  | .vimax _ _ _ _ _ => true
  | .viminN32 _ _ _ _ _ => true
  | .vimaxN32 _ _ _ _ _ => true
  | .vcmp _ _ _ c t _ _ => decide (c.toNat ≤ 5) && t != 3
  | .vcvt _ _ s t _ _ => vcvtOk s t
  | .vsplit d _ _ _ => decide (d.toNat ≤ 29)
  | .vpack _ _ f _ _ => packOk f
  | .vunpk _ _ f _ _ => packOk f
  | .vsfu _ _ f _ _ => decide (f.toNat ≤ 8)
  | .vrotr _ _ _ _ _ => true
  | .vbcr _ _ _ _ _ => true
  | .vredr _ _ t o _ _ => t != 3 && o != 3
  | .vredrC d _ _ _ => d.getLsbD 0 == false
  | .vscanr _ _ t o _ _ => t != 3 && o != 3
  | .vrotc _ _ _ _ _ => true
  | .vbcc _ _ _ _ _ => true
  | .vredc _ _ t o _ _ => t != 3 && o != 3
  | .vredcC d _ _ _ => d.getLsbD 0 == false
  | .vscanc _ _ t o _ _ => t != 3 && o != 3
  | .vperm _ _ _ _ _ => true
  | .vsel _ _ _ _ => true
  | .vmov _ _ _ _ => true
  | .viota _ _ _ _ => true
  | .vins _ _ _ => true
  | .vext _ _ _ => true
  | .vld _ u _ _ => u != 3
  | .vst _ u _ _ => u != 3
  | .vldg _ _ _ _ _ z => z != 3
  | .vstg _ _ _ _ _ z => z != 3
  | .vpop _ _ _ _ => true
  | .vpush _ _ _ => true
  | .mand _ _ _ => true
  | .mor _ _ _ => true
  | .mxor _ _ _ => true
  | .mnot _ _ => true
  | .mpopc _ _ => true
  | .mtest _ _ _ => true
  | .vdopen _ _ _ => true
  | .vdacc _ _ _ => true
  | .vdthr _ => true
  | .vdclose _ => true
  | .vdtest _ _ _ _ => true
  | .vdtestAny _ _ _ _ => true
  | .topki _ _ _ _ => true
  | .bscore _ _ _ => true
  | .mma _ _ _ => true
  | .mmas _ _ _ => true
  | .mmag _ _ _ => true
  | .mzero _ _ _ => true
  | .mstore _ _ _ => true
  | .matrixHold _ _ _ => true
  | .tcopy _ _ _ => true
  | .tfill _ _ _ => true
  | .bcopy _ _ _ => true
  | .copyHold _ _ _ => true
  | .tgather _ _ _ => true
  | .tscatter _ _ _ => true
  | .tscore _ => true
  | .gatherHold _ _ _ => true
  | .tcoll _ _ _ => true
  | .collectiveHold _ _ _ => true
  | .seek _ _ _ => true
  | .kfetch _ _ _ => true
  | .sappend _ _ _ => true
  | .smerge _ _ _ => true
  | .searchHold _ _ _ => true
  | .tmpl _ b c _ => decide (c.toNat ≤ 4) && b != 3
  | .tmplBfmt _ n => decide (n.toNat ≤ 23)
  | .notify a l c => decide (l.toNat ≤ 5) && c != 0 && (l != 5 || a == 0)
  | .qdrain c => c != 0
  | .ringsetCfg _ _ => true
  | .ringsetAdv _ _ => true
  | .feedbind _ u _ => u != 3
  | .feedstop _ => true
  | .sqld _ _ u => u != 3
  | .ztest _ _ u _ => u != 3
  | .wpwait _ _ => true
  | .bjoin k _ l m _ => k != 0 && m != 3 && levelOk l
  | .bdrop l m _ => m != 3 && levelOk l
  | .barr _ l _ => levelOk l
  | .bwait _ _ l _ => levelOk l
  | .barw _ l _ => levelOk l
  | .bexp _ l _ => levelOk l
  | .btest _ l _ => levelOk l
  | .fset _ l _ => levelOk l
  | .fget _ l _ => levelOk l
  | .lwait _ l _ => levelOk l
  | .lrel l _ => levelOk l
  | .barrierWake => true
  | .enq _ _ _ => true
  | .spawn _ _ => true
  | .karm _ _ _ _ => true
  | .kdisarm _ => true
  | .klaunch _ _ _ => true
  | .kcancel _ _ => true
  | .shwait _ _ => true
  | .preq _ _ e n => e == 1 || n == 0
  | .pcancel _ _ _ => true
  | .pharv _ _ => true
  | .btfork _ _ => true
  | .btmap _ _ _ => true
  | .btunmap _ _ _ => true
  | .wopen _ _ _ _ => true
  | .wcommit _ _ _ => true
  | .wabort _ _ => true
  | .wstat _ _ => true
  | .hpin _ _ _ => true
  | .hunpin _ _ => true
  | .hsave _ _ => true
  | .hevict _ _ => true
  | .hdlbind _ _ _ => true
  | .hdlunb _ _ => true
  | .hdlmsg _ _ _ => true
  | .slpf _ _ _ => true
  | .slchase _ _ _ => true
  | .slupd _ _ _ _ _ => true
  | .slfwd _ _ _ => true
  | .sldef => true
  | .sldone _ => true
  | .mmaStart => true
  | .mmasStart => true
  | .mmagStart => true
  | .mzeroStart => true
  | .mstoreStart => true
  | .tileCommandEnd => true
  | .tcopyStart => true
  | .tfillStart => true
  | .bcopyStart => true
  | .sqldAppend => true
  | .tgatherStart => true
  | .tscatterStart => true
  | .tscoreStart => true
  | .commandEnd _ => true
  | .notifyEvent => true
  | .feedTransfer _ => true
  | .collectiveStart => true
  | .seekStart => true
  | .drovePageArrival _ _ => true
  | .pageReadRequeue _ _ => true
  | .kfetchStart => true
  | .sappendStart => true
  | .smergeStart => true
  | .smergeSwap _ => true
  | .redTranslation _ => true
  | .redPerformed _ => true
  | .iterationHandout _ _ => true
  | .declaredInputsArrived _ => true
  | .contextStart => true
  | .contextRetire => true
  | .stewardDispatch _ => true
  | .estimatorDecision _ _ => true
  | .scrubComplete _ _ => true
  | .preemptionComplete _ _ => true
  | .restoreComplete _ _ => true
  | .kernelEnd _ _ => true
  | .promotionComplete _ => true
  | .promotionFailed _ => true
  | .shoot _ _ => true
  | .shootDownComplete _ => true
  | .poolClearComplete _ => true
  | .silenceEviction _ _ => true
  | .evictionComplete _ _ => true
  | .reeveHandlerEntry _ _ => true
  | .budgetOverrun _ _ => true
  | .launch _ _ _ => true
  | .hostPreemptionRequest _ _ _ _ => true
  | .registerWrite _ _ _ _ _ => true
  | .taggedLaunchMessage _ _ _ _ _ _ => true
  | .hostMemoryAccess _ _ => true
  | .hostAtomic _ _ _ _ _ => true
  | .linkEnable _ _ => true
  | .linkDisable _ _ => true
  | .linkTrainingDone _ _ _ => true
  | .flitRetry _ => true
  | .laneLost _ => true
  | .pathLossTimeout _ => true
  | .dieBoundaryFailure => true
  | .moduleReset => true
  | .functionSelfTestDone _ _ _ => true
  | .claim _ _ _ => true
  | .ownershipRelease _ => true
  | .handover _ _ => true
  | .functionLevelReset _ => true
  | .allot _ _ => true
  | .fring _ _ => true
  | .pkgset _ _ _ => true
  | .plimit _ _ => true
  | .throttle _ => true
  | .clockRestore _ => true
  | .tripTemperature => true
  | .getVersion => true
  | .getCapabilities => true
  | .negotiateAlgorithms => true
  | .getDigests => true
  | .getCertificate => true
  | .challenge => true
  | .getMeasurements _ => true
  | .vectorInstructionStart => true
  | .accessPerformed _ => true
  | .collectiveEnd => true
  | .kfetchBlockArrival _ => true
  | .reeveInstruction => true
  | .softError _ _ _ => true
  | .bankFailed _ _ => true
  | .podRequest _ => true
  | .rocev2Message _ _ => true
  | .recoveryImage _ => true

/-- The constructors that are a core's 32-bit instruction words (not the reeve's words, not the steps without a word). -/
def Instr.isCoreWord : Instr → Bool
  | .add _ _ _ _ _ => true
  | .sub _ _ _ _ _ => true
  | .mul _ _ _ _ _ => true
  | .mulh _ _ _ _ _ => true
  | .mulhn _ _ _ _ _ => true
  | .div _ _ _ _ _ => true
  | .divn _ _ _ _ _ => true
  | .rem _ _ _ _ _ => true
  | .remn _ _ _ _ _ => true
  | .and _ _ _ _ _ => true
  | .or _ _ _ _ _ => true
  | .xor _ _ _ _ _ => true
  | .andn _ _ _ _ _ => true
  | .shl _ _ _ _ _ => true
  | .shr _ _ _ _ _ => true
  | .sar _ _ _ _ _ => true
  | .rol _ _ _ _ _ => true
  | .min _ _ _ _ _ => true
  | .max _ _ _ _ _ => true
  | .minn _ _ _ _ _ => true
  | .maxn _ _ _ _ _ => true
  | .popc _ _ _ _ => true
  | .clz _ _ _ _ => true
  | .ctz _ _ _ _ => true
  | .bfx _ _ _ _ _ => true
  | .bfi _ _ _ _ _ => true
  | .sel _ _ _ _ _ => true
  | .mov _ _ _ _ => true
  | .cmp _ _ _ _ _ _ => true
  | .fadd _ _ _ _ _ => true
  | .fsub _ _ _ _ _ => true
  | .fmul _ _ _ _ _ => true
  | .ffma _ _ _ _ _ => true
  | .fmin _ _ _ _ _ => true
  | .fmax _ _ _ _ _ => true
  | .fcmp _ _ _ _ _ _ => true
  | .fcvt _ _ _ _ _ => true
  | .addi _ _ _ => true
  | .andi _ _ _ => true
  | .ori _ _ _ => true
  | .xori _ _ _ => true
  | .shli _ _ _ => true
  | .shri _ _ _ => true
  | .sari _ _ _ => true
  | .movi _ _ _ => true
  | .movk _ _ _ => true
  | .lds _ _ _ _ => true
  | .sts _ _ _ _ => true
  | .ldg _ _ _ _ _ => true
  | .stg _ _ _ _ _ => true
  | .atom _ _ _ _ _ _ _ => true
  | .red _ _ _ _ _ _ _ => true
  | .cas _ _ _ _ _ _ _ => true
  | .xlate _ _ => true
  | .hdrop _ => true
  | .hstat _ _ => true
  | .fenceAcq _ => true
  | .fenceRel _ => true
  | .fenceFull _ => true
  | .lsmark _ => true
  | .br _ _ _ => true
  | .j _ => true
  | .call _ => true
  | .jr _ => true
  | .callr _ => true
  | .ret => true
  | .loop _ _ _ => true
  | .loopReg _ _ _ => true
  | .pand _ _ _ _ => true
  | .por _ _ _ _ => true
  | .pxor _ _ _ _ => true
  | .pnot _ _ _ => true
  | .pmov _ _ _ => true
  | .getsr _ _ => true
  | .setsr _ _ => true
  | .nop => true
  | .trap _ => true
  | .eret => true
  | .bkpt => true
  | .halt => true
  | .done => true
  | .yield => true
  | .vadd _ _ _ _ _ => true
  | .vsub _ _ _ _ _ => true
  | .vmul _ _ _ _ _ => true
  | .vfma _ _ _ _ _ => true
  | .vfms _ _ _ _ _ => true
  | .vmin _ _ _ _ _ => true
  | .vmax _ _ _ _ _ => true
  | .vabs _ _ _ _ => true
  | .vneg _ _ _ _ => true
  | .vcpys _ _ _ _ _ => true
  | .viadd _ _ _ _ _ => true
  | .visub _ _ _ _ _ => true
  | .vimul _ _ _ _ _ => true
  | .vand _ _ _ _ _ => true
  | .vor _ _ _ _ _ => true
  | .vxor _ _ _ _ _ => true
  | .vshl _ _ _ _ _ => true
  | .vshr _ _ _ _ _ => true
  | .vsar _ _ _ _ _ => true
  | .vimin _ _ _ _ _ => true
  | .vimax _ _ _ _ _ => true
  | .viminN32 _ _ _ _ _ => true
  | .vimaxN32 _ _ _ _ _ => true
  | .vcmp _ _ _ _ _ _ _ => true
  | .vcvt _ _ _ _ _ _ => true
  | .vsplit _ _ _ _ => true
  | .vpack _ _ _ _ _ => true
  | .vunpk _ _ _ _ _ => true
  | .vsfu _ _ _ _ _ => true
  | .vrotr _ _ _ _ _ => true
  | .vbcr _ _ _ _ _ => true
  | .vredr _ _ _ _ _ _ => true
  | .vredrC _ _ _ _ => true
  | .vscanr _ _ _ _ _ _ => true
  | .vrotc _ _ _ _ _ => true
  | .vbcc _ _ _ _ _ => true
  | .vredc _ _ _ _ _ _ => true
  | .vredcC _ _ _ _ => true
  | .vscanc _ _ _ _ _ _ => true
  | .vperm _ _ _ _ _ => true
  | .vsel _ _ _ _ => true
  | .vmov _ _ _ _ => true
  | .viota _ _ _ _ => true
  | .vins _ _ _ => true
  | .vext _ _ _ => true
  | .vld _ _ _ _ => true
  | .vst _ _ _ _ => true
  | .vldg _ _ _ _ _ _ => true
  | .vstg _ _ _ _ _ _ => true
  | .vpop _ _ _ _ => true
  | .vpush _ _ _ => true
  | .mand _ _ _ => true
  | .mor _ _ _ => true
  | .mxor _ _ _ => true
  | .mnot _ _ => true
  | .mpopc _ _ => true
  | .mtest _ _ _ => true
  | .vdopen _ _ _ => true
  | .vdacc _ _ _ => true
  | .vdthr _ => true
  | .vdclose _ => true
  | .vdtest _ _ _ _ => true
  | .vdtestAny _ _ _ _ => true
  | .topki _ _ _ _ => true
  | .bscore _ _ _ => true
  | .mma _ _ _ => true
  | .mmas _ _ _ => true
  | .mmag _ _ _ => true
  | .mzero _ _ _ => true
  | .mstore _ _ _ => true
  | .matrixHold _ _ _ => true
  | .tcopy _ _ _ => true
  | .tfill _ _ _ => true
  | .bcopy _ _ _ => true
  | .copyHold _ _ _ => true
  | .tgather _ _ _ => true
  | .tscatter _ _ _ => true
  | .tscore _ => true
  | .gatherHold _ _ _ => true
  | .tcoll _ _ _ => true
  | .collectiveHold _ _ _ => true
  | .seek _ _ _ => true
  | .kfetch _ _ _ => true
  | .sappend _ _ _ => true
  | .smerge _ _ _ => true
  | .searchHold _ _ _ => true
  | .tmpl _ _ _ _ => true
  | .tmplBfmt _ _ => true
  | .notify _ _ _ => true
  | .qdrain _ => true
  | .ringsetCfg _ _ => true
  | .ringsetAdv _ _ => true
  | .feedbind _ _ _ => true
  | .feedstop _ => true
  | .sqld _ _ _ => true
  | .ztest _ _ _ _ => true
  | .wpwait _ _ => true
  | .bjoin _ _ _ _ _ => true
  | .bdrop _ _ _ => true
  | .barr _ _ _ => true
  | .bwait _ _ _ _ => true
  | .barw _ _ _ => true
  | .bexp _ _ _ => true
  | .btest _ _ _ => true
  | .fset _ _ _ => true
  | .fget _ _ _ => true
  | .lwait _ _ _ => true
  | .lrel _ _ => true
  | .barrierWake => false
  | .enq _ _ _ => true
  | .spawn _ _ => true
  | .karm _ _ _ _ => true
  | .kdisarm _ => true
  | .klaunch _ _ _ => true
  | .kcancel _ _ => true
  | .shwait _ _ => true
  | .preq _ _ _ _ => true
  | .pcancel _ _ _ => true
  | .pharv _ _ => true
  | .btfork _ _ => true
  | .btmap _ _ _ => true
  | .btunmap _ _ _ => true
  | .wopen _ _ _ _ => true
  | .wcommit _ _ _ => true
  | .wabort _ _ => true
  | .wstat _ _ => true
  | .hpin _ _ _ => true
  | .hunpin _ _ => true
  | .hsave _ _ => true
  | .hevict _ _ => true
  | .hdlbind _ _ _ => true
  | .hdlunb _ _ => true
  | .hdlmsg _ _ _ => true
  | .slpf _ _ _ => false
  | .slchase _ _ _ => false
  | .slupd _ _ _ _ _ => false
  | .slfwd _ _ _ => false
  | .sldef => false
  | .sldone _ => false
  | .mmaStart => false
  | .mmasStart => false
  | .mmagStart => false
  | .mzeroStart => false
  | .mstoreStart => false
  | .tileCommandEnd => false
  | .tcopyStart => false
  | .tfillStart => false
  | .bcopyStart => false
  | .sqldAppend => false
  | .tgatherStart => false
  | .tscatterStart => false
  | .tscoreStart => false
  | .commandEnd _ => false
  | .notifyEvent => false
  | .feedTransfer _ => false
  | .collectiveStart => false
  | .seekStart => false
  | .drovePageArrival _ _ => false
  | .pageReadRequeue _ _ => false
  | .kfetchStart => false
  | .sappendStart => false
  | .smergeStart => false
  | .smergeSwap _ => false
  | .redTranslation _ => false
  | .redPerformed _ => false
  | .iterationHandout _ _ => false
  | .declaredInputsArrived _ => false
  | .contextStart => false
  | .contextRetire => false
  | .stewardDispatch _ => false
  | .estimatorDecision _ _ => false
  | .scrubComplete _ _ => false
  | .preemptionComplete _ _ => false
  | .restoreComplete _ _ => false
  | .kernelEnd _ _ => false
  | .promotionComplete _ => false
  | .promotionFailed _ => false
  | .shoot _ _ => false
  | .shootDownComplete _ => false
  | .poolClearComplete _ => false
  | .silenceEviction _ _ => false
  | .evictionComplete _ _ => false
  | .reeveHandlerEntry _ _ => false
  | .budgetOverrun _ _ => false
  | .launch _ _ _ => false
  | .hostPreemptionRequest _ _ _ _ => false
  | .registerWrite _ _ _ _ _ => false
  | .taggedLaunchMessage _ _ _ _ _ _ => false
  | .hostMemoryAccess _ _ => false
  | .hostAtomic _ _ _ _ _ => false
  | .linkEnable _ _ => false
  | .linkDisable _ _ => false
  | .linkTrainingDone _ _ _ => false
  | .flitRetry _ => false
  | .laneLost _ => false
  | .pathLossTimeout _ => false
  | .dieBoundaryFailure => false
  | .moduleReset => false
  | .functionSelfTestDone _ _ _ => false
  | .claim _ _ _ => false
  | .ownershipRelease _ => false
  | .handover _ _ => false
  | .functionLevelReset _ => false
  | .allot _ _ => false
  | .fring _ _ => false
  | .pkgset _ _ _ => false
  | .plimit _ _ => false
  | .throttle _ => false
  | .clockRestore _ => false
  | .tripTemperature => false
  | .getVersion => false
  | .getCapabilities => false
  | .negotiateAlgorithms => false
  | .getDigests => false
  | .getCertificate => false
  | .challenge => false
  | .getMeasurements _ => false
  | .vectorInstructionStart => false
  | .accessPerformed _ => false
  | .collectiveEnd => false
  | .kfetchBlockArrival _ => false
  | .reeveInstruction => false
  | .softError _ _ _ => false
  | .bankFailed _ _ => false
  | .podRequest _ => false
  | .rocev2Message _ _ => false
  | .recoveryImage _ => false

/-- The constructors that are words of a reeve (R65). -/
def Instr.isReeveWord : Instr → Bool
  | .slpf _ _ _ => true
  | .slchase _ _ _ => true
  | .slupd _ _ _ _ _ => true
  | .slfwd _ _ _ => true
  | .sldef => true
  | .sldone _ => true
  | _ => false

/-- R71: what a word must satisfy beyond its code: a word of a core or of a reeve, with its operand limits met. -/
def Instr.WellFormed (i : Instr) : Prop := (i.isCoreWord || i.isReeveWord) = true ∧ i.wf = true

end Sys2Proof
end

