-- ==== Sys2Proof/Machine/ScalarMem.lean ====
section
/-! DEFINITION. Meanings of the scalar accesses to scratchpad and global memory, the atomics, the reduction, the fences and the
handles (R121 to R123, R230 to R235, R248 to R250). -/

namespace Sys2Proof.Machine

/-- Address, checks and waits that LDS and STS share (R121): the offset, a trap, or a wait. -/
def spAccess (s : State) (a : BitVec 5) (b : BitVec 2) (o : BitVec 14) (store : Bool) : Except (Option Trap) Nat :=
  let addr := snat s a + 8 * o.toNat
  let rng := [Range.of b addr 8]
  if b = 3 then .error (some (Trap.of .illegalInstruction))
  else if addr % 8 ≠ 0 then .error (some (Trap.at .misalignedAccess (spAddr b addr)))
  else if addr + 8 > bufSize s.core b then .error (some (Trap.at .scratchpadRange (spAddr b addr)))
  else if mustWait s.core (if store then [] else rng) (if store then rng else []) then .error none
  else .ok addr

/-- LDS (R121): 8 bytes at stored offsets, unconverted and unswizzled. -/
def execLds (d a : BitVec 5) (b : BitVec 2) (o : BitVec 14) (s : State) : Out :=
  match spAccess s a b o false with
  | .error (some t) => finish s (.trap t)
  | .error none => finish s .stall
  | .ok addr =>
    inLineData s
      (if badWord s.core b (addr / 8) then .trap (Trap.at .storageError (spAddr b addr))
       else .ok (setS (correctWords s s.core.die s.core.num fun w => w.1 == b && decide (w.2 = addr / 8)) d
         (BitVec.ofNat 64 (leNat ((List.range 8).map fun i => spByte s.core b (addr + i))))))

/-- STS (R121): performed before the next instruction issues. -/
def execSts (d a : BitVec 5) (b : BitVec 2) (o : BitVec 14) (s : State) : Out :=
  match spAccess s a b o true with
  | .error (some t) => finish s (.trap t)
  | .error none => finish s .stall
  | .ok addr =>
    inLine s (.ok (modCore s fun k =>
      spPut k b ((List.range 8).map fun i => (addr + i, (leBytes 8 (snat s d)).getD i 0))))

/-- What an access of an address space leaves at the slices: the die's copy of an other-die line, the page's count and the reeves'
events (R241, R257, R373). -/
def touchAt (s : State) (aspace : BitVec 12) (die va pa : Nat) : State :=
  let s1 := fetchLine s die pa
  demandAccess (if tierOf s1 pa = 0 then s1 else countLine s1 die aspace va) die pa

/-- What an access through a handle of the started context leaves at the slices. -/
def touchLine (s : State) (H : Handle) (off : Nat) : State :=
  touchAt s s.core.ctx.aspace s.core.die (H.vbase + off) (H.base + off)

/-- The offset of an LDG or STG (R63, R122). -/
def pageOff (s : State) (n : BitVec 3) (o : BitVec 12) (size : Nat) : Nat :=
  if n.toNat < 4 then o.toNat * size else snat s (o.extractLsb' 0 5)

/-- What an LDG or STG finds (R122). -/
inductive PageAccess where
  | trap (t : Trap)
  | flagged
  | go (off : Nat)
deriving DecidableEq, Repr

/-- The checks of LDG and STG up to residency (R122). -/
def pageAccess (s : State) (h : BitVec 4) (n : BitVec 3) (o : BitVec 12) (size : Nat) (store : Bool) : PageAccess :=
  let off := pageOff s n o size
  let H := hreg s h
  if off % size ≠ 0 then .trap (Trap.at .misalignedAccess (if H.valid then H.vbase + off else off))
  else if !H.valid then .flagged
  else match pageChecks H off size (!store) store with
    | some t => .trap t
    | none => if H.res && pathUp s (H.base + off) then .go off else .flagged

/-- A flagged access: p7 is set and the counter of NONRES moves (R122, R130). -/
def flagged (s : State) : State := modCtx (setP s 7 true) fun c => addPerf c 6 1

/-- An access enters the context's load and store queues, next in the core's issue order (R223). -/
def enqueueAccess (s : State) (k : AccessKind) : State :=
  modCore s fun c => { c with seq := c.seq + 1, ctx := { c.ctx with accessQ := c.ctx.accessQ ++ [⟨c.seq, k⟩] } }

/-- LDG (R122, R223, R416). Its value is fixed at once, or later from the load queue: where its order makes it wait, and where it is
left for later. A load of a failing line is not left: it waits for its turn and traps, or takes its bytes from earlier stores at once. -/
def execLdg (d : BitVec 5) (h : BitVec 4) (z : BitVec 2) (n : BitVec 3) (o : BitVec 12) (s : State) : Out :=
  let size := 2 ^ z.toNat
  let H := hreg s h
  if hintOk n o = false then finish s (.trap (Trap.of .illegalInstruction))
  else match pageAccess s h n o size false with
    | .trap t => finish s (.trap t)
    | .flagged => inLine s (.ok (flagged (setS s d 0)))
    | .go off =>
      let bad := (badByte s (H.base + off) size).isSome
      let queued := enqueueAccess (setP s 7 false) (.load d (H.vbase + off) (H.base + off) size)
      match loadBytes s (H.vbase + off) (H.base + off) size with
      | .wait => if bad then finish s .stall else inLine s (.ok queued)
      | .forwarded bytes =>
        inLine s (.ok (if s.later && !bad then queued else setP (setS s d (BitVec.ofNat 64 (leNat bytes))) 7 false))
      | .read bytes =>
        if bad then finish s (.trap (Trap.at .storageError (H.vbase + off)))
        else if s.later then inLine s (.ok queued)
        else inLineData s (.ok (touchLine (setP (setS s d (BitVec.ofNat 64 (leNat bytes))) 7 false) H off))

/-- Bytes at consecutive addresses as cells. -/
def cellsFrom (pa : Nat) (bytes : List Byte) : List Host.Cell :=
  (List.range bytes.length).map fun i => (pa + i, bytes.getD i 0)

/-- STG (R122, R123). -/
def execStg (d : BitVec 5) (h : BitVec 4) (z : BitVec 2) (n : BitVec 3) (o : BitVec 12) (s : State) : Out :=
  let size := 2 ^ z.toNat
  let H := hreg s h
  if hintOk n o = false then finish s (.trap (Trap.of .illegalInstruction))
  else match pageAccess s h n o size true with
    | .trap t => finish s (.trap t)
    | .flagged => inLine s (.ok (flagged s))
    | .go off =>
      inLine s
        (match windowChecks s H off size with
        | some t => .trap t
        | none =>
          .ok (enqueueAccess (setP s 7 false)
            (.write (cellsFrom (canonPa s (H.base + off)) (leBytes size (snat s d))) [(H.vbase + off, H.base + off)])))

/-- A scope at .pkg or wider: releases and acquires there reach the other die (R17, R227). .slice is as wide as the issuing die, also
where the location's home slice lies on the other one (log entry 72). -/
def scopeWide (sc : BitVec 4) : Bool := decide (7 ≤ sc.toNat)

/-- A RED of the started context, queued or at the memory side, has not been performed (R223, R227). -/
def redsOutstanding (s : State) : Bool :=
  (s.core.ctx.accessQ.any fun e =>
    match e.kind with
    | .red _ => true
    | _ => false) || s.reds.any fun r => r.ctxId == s.core.ctx.ctxId

/-- Every access the started context has issued is performed, and what its die holds can go home: what a release waits for (R227, R385). -/
def accessesDone (s : State) : Bool := decide (s.core.ctx.accessQ = []) && !redsOutstanding s && !podBlocked s s.core.die

/-- A release at a scope, once every earlier access is performed: at .pkg and wider the die's held bytes go home (R227, R241). -/
def releaseAt (s : State) (wide : Bool) : State := if wide then flushDie s s.core.die else s

/-- An acquire at a scope: at .pkg and wider the die's copies of other-die lines go (R227, R241). -/
def acquireAt (s : State) (wide : Bool) : State := if wide then dropCopies s s.core.die else s

/-- The checks that ATOM and CAS share, in order (R232): the offset or a trap. -/
def atomAccess (s : State) (h : BitVec 4) (x : BitVec 5) (size : Nat) : Except Trap Nat :=
  let off := snat s x
  let H := hreg s h
  if off % size ≠ 0 then .error (Trap.at .misalignedAccess (if H.valid then H.vbase + off else off))
  else if !H.valid then .error (Trap.at .notResident off)
  else match pageChecks H off size true true with
    | some t => .error t
    | none =>
      if !(H.res && pathUp s (H.base + off)) then .error (Trap.at .notResident (H.vbase + off))
      else match windowChecks s H off size with
        | some t => .error t
        | none => .ok off

/-- An ATOM or CAS waits for its place in both queues (R223): every queued access is performed, no RED has the location, and a release
waits for every RED of the context (R227). -/
def atomWaits (s : State) (ord : BitVec 2) (va pa size : Nat) : Bool :=
  !decide (s.core.ctx.accessQ = []) || redPending s [] s.core.ctx.ctxId va pa size || redHolds s pa size ||
    (ord.getLsbD 1 && (redsOutstanding s || podBlocked s s.core.die))

/-- The order that an ATOM or CAS imposes as it is performed (R227, R234, R241): a release at .pkg writes the die's held bytes home,
an acquire there drops its copies, and no copy of the line stays. -/
def atomOrder (s : State) (ord : BitVec 2) (sc : BitVec 4) (pa size : Nat) : State :=
  let s1 := releaseAt (flushHeld s s.core.die (canonPa s pa) size) (ord.getLsbD 1 && scopeWide sc)
  dropLines (acquireAt s1 (ord.getLsbD 0 && scopeWide sc)) pa size

/-- An ATOM or CAS performed: `upd` gives the value written, if any. Its page is marked dirty as it is accepted (R256). -/
def atomPerform (s : State) (d : BitVec 5) (h : BitVec 4) (x : BitVec 5) (size : Nat) (ord : BitVec 2) (sc : BitVec 4)
    (upd : Nat → Option Nat) : Out :=
  let H := hreg s h
  match atomAccess s h x size with
  | .error t => finish s (.trap t)
  | .ok off =>
    let pa := H.base + off
    let va := H.vbase + off
    if atomWaits s ord va pa size then finish s .stall
    else if (badByte s pa size).isSome then finish s (.trap (Trap.at .storageError va))
    else
      let s1 := atomOrder s ord sc pa size
      let old := rdHomeNat s1 pa size
      let s2 :=
        match upd old with
        | some v => wrHomeNat (markDirty s1 s1.core.ctx.aspace va) pa size v
        | none => if capsDirty s1 then s1 else markDirty s1 s1.core.ctx.aspace va
      inLine s (.ok (touchLine (setS s2 d (BitVec.ofNat 64 old)) H off))

/-- ATOM (R232). -/
def execAtom (d : BitVec 5) (h : BitVec 4) (x : BitVec 5) (o : BitVec 4) (z : BitVec 1) (r : BitVec 2) (sc : BitVec 4) (s : State) :
    Out :=
  let size := if z = 0 then 4 else 8
  let v := snat s d % 2 ^ (8 * size)
  if atomOpOk false o z && scopeOk sc then atomPerform s d h x size r sc fun old => some (atomNew o size old v)
  else finish s (.trap (Trap.of .illegalInstruction))

/-- CAS (R233). -/
def execCas (d : BitVec 5) (h : BitVec 4) (x b : BitVec 5) (z : BitVec 1) (r : BitVec 2) (sc : BitVec 4) (s : State) : Out :=
  let size := if z = 0 then 4 else 8
  let e := snat s d % 2 ^ (8 * size)
  let v := snat s b % 2 ^ (8 * size)
  if scopeOk sc then atomPerform s d h x size r sc fun old => if old = e then some v else none
  else finish s (.trap (Trap.of .illegalInstruction))

/-- The word of the instruction being issued. -/
abbrev State.word (s : State) : BitVec 32 := s.core.ctx.ir

/-- RED (R235): checked in the sequencer as far as the handle is valid, then entered into the store queue. -/
def execRed (b : BitVec 5) (h : BitVec 4) (x : BitVec 5) (o : BitVec 4) (z : BitVec 1) (r : BitVec 1) (sc : BitVec 4) (s : State) : Out :=
  let size := if z = 0 then 4 else 8
  let off := snat s x
  let H := hreg s h
  let c := s.core.ctx
  if !(atomOpOk true o z && scopeOk sc) then finish s (.trap (Trap.of .illegalInstruction))
  else
    inLine s
      (if off % size ≠ 0 then .trap (Trap.at .misalignedAccess (if H.valid then H.vbase + off else off))
       else match (if H.valid then pageChecks H off size false true else none) with
        | some t => .trap t
        | none =>
          let red : Red :=
            { va := BitVec.ofNat 64 (if H.valid then H.vbase + off else off), aspace := c.aspace, op := o, sz := z
              v := BitVec.ofNat 64 (snat s b % 2 ^ (8 * size)), rel := r = 1, scope := sc, die := s.core.die, core := s.core.num
              seqTag := c.seqTag, kernelId := c.kernelId, ctxId := c.ctxId, word := s.word, seq := s.core.seq, pa := none
              waits := false }
          .ok (enqueueAccess s (.red red)))

/-- A mark placed in the queues (R231). -/
def placeMark (k : MarkKind) (sc : BitVec 4) (s : State) : Out :=
  if scopeOk sc then inLine s (.ok (enqueueAccess s (.mark k sc)))
  else finish s (.trap (Trap.of .illegalInstruction))

/-- FENCE.acq (R231). -/
def execFenceAcq (sc : BitVec 4) (s : State) : Out := placeMark .acq sc s

/-- FENCE.rel (R231). -/
def execFenceRel (sc : BitVec 4) (s : State) : Out := placeMark .rel sc s

/-- FENCE.full (R231). -/
def execFenceFull (sc : BitVec 4) (s : State) : Out := placeMark .full sc s

/-- LSMARK (R231). -/
def execLsmark (sc : BitVec 4) (s : State) : Out := placeMark .ls sc s

/-- XLATE (R248): the walk fills the handle, or traps with TADDR holding the address and the handle unchanged. -/
def execXlate (a : BitVec 5) (h : BitVec 4) (s : State) : Out :=
  let c := s.core.ctx
  let va := snat s a
  inLine s
    (match walk s c.aspace va with
    | .error e => .trap (Trap.at e va)
    | .ok l => .ok (setH s h (handleOf s l va c.aspace s.core.die c.seqTag)))

/-- HDROP (R249). -/
def execHdrop (h : BitVec 4) (s : State) : Out := inLine s (.ok (setH s h { hreg s h with valid := false }))

/-- HSTAT's word (R250). -/
def hstatWord (H : Handle) : Word :=
  if H.valid then
    H.vpage ++ H.size ++ H.tier ++ (0 : BitVec 2) ++ BitVec.ofBool H.w ++ BitVec.ofBool H.r ++ BitVec.ofBool H.res ++
      BitVec.ofBool H.valid
  else H.vpage ++ H.size ++ (0 : BitVec 8)

/-- HSTAT (R250). -/
def execHstat (a : BitVec 5) (h : BitVec 4) (s : State) : Out := inLine s (.ok (setS s a (hstatWord (hreg s h))))

end Sys2Proof.Machine
end

