-- ==== Sys2Proof/Machine/Page.lean ====
section
/-! DEFINITION. Pages: promotion requests, their completion, failure and cancellation, shoot-down, and the harvest of dirty marks
(R251 to R259), with the hold that a FENCE mark puts on majors 0x3B to 0x3E (R231). -/

namespace Sys2Proof.Machine

/-- An instruction of majors 0x3B to 0x3E: held while the context's queues hold a FENCE mark (R231). -/
def behindFence (s : State) (e : Eff) : Out := if fenceHeld s.core.ctx then finish s .stall else inLine s e

/-- A descriptor with its STATE replaced. -/
def dWithState (d : BitVec 128) (st : Nat) : BitVec 128 := d.extractLsb' 60 68 ++ BitVec.ofNat 3 st ++ d.extractLsb' 0 57

/-- Entries of a die's request table that are taken (R253). -/
def tableUsed (s : State) (die : Nat) : Nat := (s.promos.map fun p => (p.reqs.filter fun r => r.die = die).length).sum

/-- A requester has an entry for the page of an address already. -/
def asked (s : State) (aspace : BitVec 12) (va : Nat) (a : Asker) : Bool :=
  s.promos.any fun p => p.covers aspace va && p.reqs.any fun r => r.asker == a

/-- A request for the page of a leaf, with its status (R252, R253). The leaf that becomes moving keeps its FRAME and TFRAME: R253's pseudocode
sets STATE alone (log entry 124, DEDUCED). -/
def requestPage (s : State) (aspace : BitVec 12) (va : Nat) (l : Leaf) (q : Request) : State × Nat :=
  match dState l.desc with
  | 1 => (s, 1)
  | 2 =>
    if !capsQuesar s then (s, 4)
    else if 4096 ≤ tableUsed s q.die then (s, 3)
    else
      let p : Promotion := ⟨aspace, BitVec.ofNat 64 (leafVbase l va), BitVec.ofNat 4 (dSize l.desc), false, [q]⟩
      (wrDesc { s with promos := s.promos ++ [p] } l.addr (dWithState l.desc 4), 0)
  | 4 =>
    if 4096 ≤ tableUsed s q.die then (s, 3)
    else ({ s with promos := s.promos.map fun p => if p.covers aspace va then { p with reqs := p.reqs ++ [q] } else p }, 2)
  | _ => (notifyPage s q.die aspace l va 2, 5)

/-- A requester that waits until its page is resident: it asks once, and again where its request has gone (R127, R293, R253). -/
def awaitPage (s : State) (aspace : BitVec 12) (va : Nat) (l : Leaf) (q : Request) : State × Nat :=
  if dState l.desc = 4 ∧ asked s aspace va q.asker = true then (s, 2) else requestPage s aspace va l q

/-- PREQ (R253). -/
def execPreq (a b : BitVec 5) (e : BitVec 1) (n : BitVec 5) (s : State) : Out :=
  let c := s.core.ctx
  let va := snat s a
  if (Instr.preq a b e n).wf = false then finish s (.trap (Trap.of .illegalInstruction))
  else behindFence s
    (match walk s c.aspace va with
    | .error x => .trap (Trap.at x va)
    | .ok l =>
      if !dR l.desc && !dW l.desc then .trap (Trap.at .permission va)
      else
        let bar := if e = 1 then some n.toNat else none
        let (s1, st) := requestPage s c.aspace va l ⟨s.core.die, s.core.num, c.kernelId, .preq c.ctxId bar⟩
        let s2 :=
          if st = 1 ∧ e = 1 then
            signal s1 ⟨c.aspace, c.kernelId, c.ctxId, s.core.die, s.core.num⟩ (coreBar s.core.die s.core.num n.toNat) false false
          else s1
        .ok (setS s2 b (BitVec.ofNat 64 st)))

/-- Requests of a kernel in the promotions that `sel` picks. -/
def countReqs (s : State) (sel : Promotion → Bool) (id : Word) : Nat :=
  ((s.promos.filter sel).map fun p => (p.reqs.filter fun r => r.kernelId = id).length).sum

/-- PCANCEL (R255). -/
def execPcancel (a b : BitVec 5) (l : BitVec 1) (s : State) : Out :=
  let c := s.core.ctx
  let sel (p : Promotion) : Bool := l == 1 || p.covers c.aspace (snat s a)
  let gone := countReqs s (fun p => sel p && !p.started) c.kernelId
  let left := countReqs s (fun p => sel p && p.started) c.kernelId
  behindFence s (.ok (setS (cancelReqs s sel c.kernelId) b (BitVec.ofNat 32 left ++ BitVec.ofNat 32 gone)))

/-! Dirty marks (R256, R259). -/

/-- The dirty marks that `sel` picks written into their descriptors, from every TLB of the module. -/
def flushMarks (s : State) (sel : BitVec 12 × BitVec 52 → Bool) : State :=
  let marks := (allCores s).flatMap fun k => k.tlbDirty.filter sel
  let s1 := marks.foldl (fun t m => setDirty t m.1 (m.2.toNat * 4096)) s
  mapCores s1 fun k =>
    let rest := k.tlbDirty.filter fun m => !sel m
    { k with tlbDirty := rest, tlbStores := if rest = [] then 0 else k.tlbStores }

/-- The leaves below a node whose pages meet [lo, hi): the levels are listed from the top down; `base` is the node's first
address. Malformed descriptors name no page. -/
def leavesFrom (s : State) (aspace : BitVec 12) (lo hi : Nat) : List Nat → Nat → Nat → List (Nat × Leaf)
  | [], _, _ => []
  | level :: rest, node, base =>
    (List.range 256).flatMap fun idx =>
      let span := 2 ^ (12 + 8 * level)
      let va := base + idx * span
      let addr := node + 16 * idx
      let d := rdDesc s addr
      if dState d = 0 ∨ 5 < dState d then []
      else if dState d = 5 then
        if va < hi ∧ lo < va + span ∧ rest ≠ [] ∧ backed s (dFrame d) = true then leavesFrom s aspace lo hi rest (dFrame d) va
        else []
      else
        let n := dSize d
        if (level = 0 ∧ n ≤ 7) ∨ (level = 1 ∧ 8 ≤ n) then
          let run := 2 ^ (if level = 0 then n else n - 8)
          if idx % run = 0 ∧ va < hi ∧ lo < va + 4096 * 2 ^ n ∧ badLeaf s aspace va d = false then [(va, ⟨d, addr, level⟩)] else []
        else []

/-- The leaves of an address space whose pages meet [lo, hi). -/
def leavesIn (s : State) (aspace : BitVec 12) (lo hi : Nat) : List (Nat × Leaf) :=
  match rootOf s aspace with
  | none => []
  | some root => leavesFrom s aspace lo hi [4, 3, 2, 1, 0] root 0

/-- OVF of a descriptor. -/
def dOvf (d : BitVec 128) : Bool := d.getLsbD 126

/-- One leaf harvested: notified again when its notification was dropped and there is room (R259). -/
def harvest (s : State) (die : Nat) (aspace : BitVec 12) (va : Nat) (l : Leaf) : State × Nat :=
  let d := rdDesc s l.addr
  if dOvf d && !dQueued d then
    if notifyFull s.pageCtl then (s, 0)
    else
      let s1 := (appendNotify s die aspace 1 (dSize d) (va / 4096)).1
      let d1 := rdDesc s1 l.addr
      (wrDesc s1 l.addr ((d1 &&& ~~~(BitVec.ofNat 128 (2 ^ 126))) ||| BitVec.ofNat 128 (2 ^ 127)), 1)
  else (s, 0)

/-- Bytes of the page that a dirty mark names, as its leaf gives them now. -/
def markSize (s : State) (m : BitVec 12 × BitVec 52) : Nat :=
  match walk s m.1 (m.2.toNat * 4096) with
  | .ok l => 4096 * 2 ^ dSize l.desc
  | .error _ => 4096

/-- PHARV (R259). -/
def execPharv (a b : BitVec 5) (s : State) : Out :=
  let c := s.core.ctx
  let len := snat s b
  let lo := if len = 0 then 0 else snat s a / 4096 * 4096
  let hi := if len = 0 then 2 ^ 52 else roundUp (snat s a + len) 4096
  let inRange (m : BitVec 12 × BitVec 52) : Bool :=
    m.1 == c.aspace && decide (lo < m.2.toNat * 4096 + markSize s m) && decide (m.2.toNat * 4096 < hi)
  let s1 := flushMarks s inRange
  let r := (leavesIn s1 c.aspace lo hi).foldl (fun (t, n) (va, l) =>
    let (t', k) := harvest t s.core.die c.aspace va l
    (t', n + k)) (s1, 0)
  behindFence s (.ok (setS r.1 b (BitVec.ofNat 64 r.2)))

/-! Shoot-down (R251). -/

/-- A handle whose VPAGE and SIZE cover the page of a shoot-down (R251). -/
def Handle.names (h : Handle) (vpage : BitVec 52) (size : BitVec 4) : Bool :=
  h.valid && decide (h.vbase ≤ vpage.toNat * 4096) &&
    decide (vpage.toNat * 4096 + 4096 * 2 ^ size.toNat ≤ h.vbase + h.pageSize)

/-- VALID cleared in the handles of a context that cover the page, and in those that a trap of a queued vector instruction returns to
(R149, R251). -/
def dropHandles (aspace : BitVec 12) (vpage : BitVec 52) (size : BitVec 4) (c : Context) : Context :=
  if c.aspace = aspace then
    let drop (h : Handle) : Handle := if h.names vpage size then { h with valid := false } else h
    { c with
      h := c.h.map drop
      vq := c.vq.map fun e =>
        match e with
        | .instr i o x => .instr i o { x with h := x.h.map drop }
        | .marker => .marker }
  else c

/-- The steps of a shoot-down that come at once: handles, dirty marks, feeds, and the reeves' filters (R251, R372). -/
def shootPage (s : State) (aspace : BitVec 12) (vpage : BitVec 52) (size : BitVec 4) (bySystem : Bool) : State :=
  let s1 := mapCores s fun k =>
    { k with
      ctx := dropHandles aspace vpage size k.ctx
      shadows := k.shadows.map (dropHandles aspace vpage size)
      feeds := k.feeds.map fun f =>
        if feedState f = 1 ∧ f.aspace = aspace ∧ f.cap.names vpage size = true then { f with cap := Handle.invalid } else f }
  let s2 := flushMarks s1 fun _ => true
  let lo := vpage.toNat * 4096
  let n := 4096 * 2 ^ size.toNat
  { s2 with
    bindings := s2.bindings.map fun b =>
      if b.aspace = aspace then { b with filter := b.filter.filter fun f => !overlaps f.2.2.toNat f.2.1 lo n } else b
    shoots := s2.shoots ++ [⟨aspace, vpage, size, bySystem⟩] }

/-- A command captured the translation that a shoot-down ends (R204, R251). -/
def capturedBy (d : ShootDown) (c : Command) : Bool :=
  c.aspace == d.aspace && (c.src.names d.vpage d.size || c.dst.names d.vpage d.size)

/-- An interval of virtual addresses meets the page of a shoot-down. -/
def ShootDown.meets (d : ShootDown) (va n : Nat) : Bool := overlaps va n (d.vpage.toNat * 4096) (4096 * 2 ^ d.size.toNat)

/-- A queued access was issued to the page of a shoot-down. -/
def accessIn (d : ShootDown) (a : Access) : Bool :=
  match a.kind with
  | .load _ va _ n => d.meets va n
  | .write _ lines => lines.any fun l => d.meets (l.1 / 64 * 64) 64
  | .red r => d.meets r.va.toNat (redSize r)
  | .mark .. => false

/-- A vector instruction in its queue captured a handle of the page at issue (R123, R148, R166). -/
def entryIn (d : ShootDown) (e : VecEntry) : Bool :=
  match e with
  | .instr _ o _ => o.h.names d.vpage d.size
  | .marker => false

/-- A shoot-down's uses have ended: the engine and search commands that captured the translation, the accesses that contexts of the
address space issued through it, queued or in the vector queue, and the REDs to the page at the memory side. One that waits for another
frame of it, or for a window to release it, is no use of it while the page is not resident for it (R236, R337). -/
def shootOver (s : State) (d : ShootDown) : Bool :=
  ((allCores s).all fun k =>
    ((unended k).all fun e => !capturedBy d e.2.2) &&
      (k.ctx :: k.shadows).all fun c => c.aspace != d.aspace || !(c.accessQ.any (accessIn d) || c.vq.any (entryIn d))) &&
    (s.droves.all fun v => !capturedBy d v.cmd) &&
    s.reds.all fun r => !(r.aspace == d.aspace && !(r.waits && (redPlace s r).isNone) && d.meets r.va.toNat (redSize r))

/-- SHOOT_DOWN_COMPLETE (R251, R256, R258): the marks of the accesses that it waited for go into the descriptors too. -/
def execShootDownComplete (k : Nat) (s : State) : Out :=
  match s.shoots[k]? with
  | none => .next s
  | some d =>
    if shootOver s d then
      let s1 := (allCores s).foldl (fun t c => flushTlb t c.die c.num) { s with shoots := s.shoots.eraseIdx k }
      .next (if d.bySystem then
        raiseMsix { s1 with pageCtl := { s1.pageCtl with shoot := s1.pageCtl.shoot &&& ~~~1 } } 0 7
        else s1)
    else .next s

/-! Promotion (R252, R254). -/

/-- Whole bytes of an interval copied to another place, by the cells that memory lists. -/
def memMove (m : Memory) (src dst n : Nat) : Memory :=
  let kept := m.filter fun c => !(decide (dst ≤ c.1) && decide (c.1 < dst + n))
  memCells kept ((m.filter fun c => decide (src ≤ c.1) && decide (c.1 < src + n)).map fun c => (c.1 - src + dst, c.2))

/-- Lines of an interval lose their error (R416). -/
def clearLines (s : State) (pa n : Nat) : State :=
  { s with badLines := s.badLines.filter fun l => !(decide (pa ≤ l * 64) && decide (l * 64 + 64 ≤ pa + n)) }

/-- Every kernel that a promotion's requests name has completed (R254). -/
def lateFor (s : State) (p : Promotion) : Bool :=
  decide (p.reqs ≠ []) && p.reqs.all fun r =>
    match kernelById s r.kernelId with
    | some k => decide (k.state = .ended)
    | none => true

/-- The promotion leaves the table. -/
def dropPromo (s : State) (p : Promotion) : State := { s with promos := s.promos.filter fun q => !decide (q = p) }

/-- A late fault of a RED: recorded and charged to its kernel, which will end with END 2 unless it ends worse (R236, R296). -/
def lateFault (s : State) (r : Red) (c : Cause) : State :=
  let s1 := writeRecord s r.aspace
    { cause := c, src := 3, kernelId := r.kernelId, ctxId := r.ctxId, addr := r.va, word := r.word.zeroExtend 64
      core := r.core, die := r.die }
  modKernel (chargeCause s1 r.kernelId c) r.kernelId fun k => if k.endCode = 0 then { k with endCode := 2 } else k

/-- REDs that wait for a page are translated as soon as it is resident, and hold their location from then on (R236). -/
def releaseReds (s : State) (p : Promotion) (frame : Nat) : State :=
  { s with reds := s.reds.map fun r =>
      if r.waits && p.covers r.aspace r.va.toNat then
        { r with waits := false, pa := some (canonPa s (frame + (r.va.toNat - p.va.toNat))) }
      else r }

/-- The leaf of a promotion's page, as long as it is still moving: what system software has rewritten meanwhile stays as it is written
(R252). -/
def movingLeaf (s : State) (p : Promotion) : Option Leaf :=
  match walk s p.aspace p.va.toNat with
  | .ok l => if dState l.desc = 4 then some l else none
  | .error _ => none

/-- PROMOTION_COMPLETE (R252): a copy that has not started starts; one that has started becomes resident. Where the page's leaf is no longer
moving, the promotion goes, and its requesters are signalled without a fault (log entry 100). -/
def execPromotionComplete (k : Nat) (s : State) : Out :=
  match s.promos[k]? with
  | none => .next s
  | some p =>
    if !p.started then .next { s with promos := s.promos.set k { p with started := true } }
    else match movingLeaf s p with
      | none => .next (signalReqs (dropPromo s p) p p.reqs false)
      | some l =>
        let d := l.desc
        let n := 4096 * 2 ^ dSize d
        let moved := clearLines { s with mem := memMove s.mem (dFrame d) (dTframe d) n } (dTframe d) n
        let d1 := d.extractLsb' 104 24 ++ (0 : BitVec 40) ++ (dWithState d 1).extractLsb' 52 12 ++ d.extractLsb' 64 40 ++
          d.extractLsb' 0 12
        let s1 := shootPage (wrDesc (dropPromo moved p) l.addr d1) p.aspace (BitVec.ofNat 52 (p.va.toNat / 4096)) p.size false
        let s2 := releaseReds (signalReqs s1 p p.reqs false) p (dTframe d)
        .next (if lateFor s p ∧ s2.pageCtl.plate ≠ 0xFFFFFFFF then
          { s2 with pageCtl := { s2.pageCtl with plate := s2.pageCtl.plate + 1 } } else s2)

/-- PROMOTION_FAILED (R252): an uncorrectable flash error; the page returns to stored and its RED requesters fault (R236). Where software has
rewritten the leaf meanwhile, the leaf stays as it is written, and the failure is told all the same: requesters are signalled with a fault, and
an entry of cause 3 is posted, with QUEUED or OVF set in the rewritten leaf (log entry 128, DESIGN CHOICE). -/
def execPromotionFailed (k : Nat) (s : State) : Out :=
  match s.promos[k]? with
  | none => .next s
  | some p =>
    if !p.started then .next s
    else
      let s1 := signalReqs (dropPromo (returnToStored s p) p) p p.reqs true
      let die := (p.reqs.head?.map fun r => r.die).getD 0
      let s2 := match walk s1 p.aspace p.va.toNat with
        | .ok l => notifyPage s1 die p.aspace l p.va.toNat 3
        | .error _ => s1
      let hit (r : Red) : Bool := r.waits && p.covers r.aspace r.va.toNat
      .next ((s2.reds.filter hit).foldl (fun t r =>
        let t1 := { t with reds := t.reds.filter fun q => !decide (q = r) }
        lateFault t1 r .storageError) s2)

end Sys2Proof.Machine
end

