-- ==== Sys2Proof/Machine/MemSide.lean ====
section
/-! DEFINITION. The memory side: a queued access performed, and a RED translated and performed at its home (R223, R227, R235,
R236, R241). -/

namespace Sys2Proof.Machine

/-- REDs of a context at the memory side. -/
def redsOf (s : State) (ctxId : Word) : List Red := s.reds.filter fun r => r.ctxId = ctxId

/-- A store's bytes can be performed: no RED holds them and their module is reachable (R236, R386). -/
def cellsFree (s : State) (cells : List Host.Cell) : Bool :=
  cells.all fun c => !redHolds s c.1 1 && pathUp s c.1

/-- An earlier load among queued accesses that has a byte of these cells (R224). -/
def loadOverlaps (s : State) (before : List Access) (cells : List Host.Cell) : Bool :=
  before.any fun e =>
    match e.kind with
    | .load _ _ pa n => cells.any fun c => overlaps (canonPa s pa) n c.1 1
    | _ => false

/-- An earlier load among queued accesses that overlaps a RED's bytes (R224). -/
def loadMeetsRed (s : State) (before : List Access) (r : Red) : Bool :=
  before.any fun e =>
    match e.kind with
    | .load _ va pa n => redMeets s r va pa n
    | _ => false

/-- A mark of FENCE.acq that earlier loads have not let go: what stands behind it waits (R231). -/
def acqHeld (before : List Access) : Bool :=
  before.any fun e =>
    match e.kind with
    | .mark .acq _ => true
    | _ => false

/-- An access of the store queue with the loads, and the marks of FENCE.acq, that stand before it may leave its queue (R223, R224, R227,
R231): a store waits for an earlier load of its bytes, a release and every mark for every earlier load, and the marks for the context's REDs
and for a path to another module whose bytes the die holds (R385). -/
def mayLeave (s : State) (before : List Access) (a : Access) : Bool :=
  !uncheckedBefore s.core.ctx a.seq &&
    (match a.kind with
    | .load .. => false
    | .write cells _ => !acqHeld before && !loadOverlaps s before cells && cellsFree s cells
    | .red r => if r.rel then decide (before = []) else !acqHeld before && !loadMeetsRed s before r
    | .mark .. => decide (before = []) && decide (redsOf s s.core.ctx.ctxId = []) && !podBlocked s s.core.die)

/-- A mark reached (R227, R231): at .pkg and wider a release writes the die's bytes home and an acquire drops its copies. -/
def markDone (s : State) (kind : MarkKind) (wide : Bool) : State :=
  match kind with
  | .acq => acquireAt s wide
  | .rel => releaseAt s wide
  | .full => acquireAt (releaseAt s wide) wide
  | .ls => acquireAt (releaseAt s wide) wide

/-- The pages of the lines that a store of the started context writes are marked dirty (R256). -/
def markLines (s : State) (lines : List (Nat × Nat)) : State :=
  (lines.map fun l => l.1 / 4096 * 4096).eraseDups.foldl (fun t va => markDirty t t.core.ctx.aspace va) s

/-- A queued access other than a load, performed as it leaves the store queue (R223, R235, R240, R256). With DIRTY_MODE = 1 a RED sets D at
its home, before its write. -/
def leaveQueue (s : State) (a : Access) : State :=
  match a.kind with
  | .load .. => s
  | .write cells lines =>
    lines.foldl (fun t l => touchAt t t.core.ctx.aspace t.core.die l.1 l.2) (wrDie (markLines s lines) s.core.die cells)
  | .red r =>
    let t := if capsDirty s then s else markDirty s s.core.ctx.aspace r.va.toNat
    { t with reds := t.reds ++ [r] }
  | .mark kind sc => markDone s kind (scopeWide sc)

/-- The first access of a queue that stands in the store queue, with the loads and the marks of FENCE.acq before it and what stands after
it: an acquire waits for no store (R231). -/
def storeHead : List Access → Option (List Access × Access × List Access)
  | [] => none
  | a :: r =>
    match a.kind with
    | .load .. => (storeHead r).map fun x => (a :: x.1, x.2)
    | .mark .acq _ => (storeHead r).map fun x => (a :: x.1, x.2)
    | _ => some ([], a, r)

/-- The started context's queues replaced. -/
def setAccessQ (s : State) (q : List Access) : State := modCtx s fun c => { c with accessQ := q }

/-- The head of the store queue is performed and leaves it, where its order lets it (R223). -/
def storePerformed (s : State) : State :=
  match storeHead s.core.ctx.accessQ with
  | none => s
  | some (before, a, rest) => if mayLeave s before a then setAccessQ (leaveQueue s a) (before ++ rest) else s

/-- The first load or mark of FENCE.acq of a queue, with what stands before and after it. -/
def loadHead : List Access → Option (List Access × Access × List Access)
  | [] => none
  | a :: r =>
    match a.kind with
    | .load .. => some ([], a, r)
    | .mark .acq _ => some ([], a, r)
    | _ => (loadHead r).map fun x => (a :: x.1, x.2)

/-- A scalar result that arrives after later instructions have issued: the context has it, and so does what a trap of a later vector
instruction returns to (R149). -/
def arriveS (s : State) (seq : Nat) (d : BitVec 5) (v : Word) : State :=
  modCtx (setS s d v) fun c => { c with vq := c.vq.map fun e =>
    match e with
    | .instr i o x => .instr i o (if o.seq < seq ∨ d = 0 then x else { x with s := vset x.s d.toNat v })
    | .marker => .marker }

/-- The head of the load queue leaves it: a load with its value, where its order lets it, and a mark of FENCE.acq as the acquire that it is,
once it has no load before it (R223, R224, R231). -/
def loadPerformed (s : State) : State :=
  match loadHead s.core.ctx.accessQ with
  | some (before, ⟨seq, .load d va pa n⟩, rest) =>
    let done (t : State) (bytes : List Byte) : State := setAccessQ (arriveS t seq d (BitVec.ofNat 64 (leNat bytes))) (before ++ rest)
    match loadFinds s before [(va, pa, n)] with
    | .wait => s
    | .forwarded bytes => done s bytes
    | .read bytes => if pathUp s pa then touchAt (done s bytes) s.core.ctx.aspace s.core.die va pa else s
  | some (before, ⟨seq, .mark _ sc⟩, rest) =>
    if uncheckedBefore s.core.ctx seq then s else setAccessQ (markDone s .acq (scopeWide sc)) (before ++ rest)
  | _ => s

/-- ACCESS_PERFORMED (R223, R241): 0 is the head of the store queue; 1 the head of the load queue; above them the write-back of the
line of a byte that a die holds, and then the eviction of a die's copy of another home's line, which the reeves that watch the line see (R373);
no line of a pinned slot is evicted (R362). -/
def execAccessPerformed (k : Nat) (s : State) : Out :=
  match k with
  | 0 => .next (storePerformed s)
  | 1 => .next (loadPerformed s)
  | n + 2 =>
    match s.heldBytes[n]? with
    | some h => .next (if pinnedByte s h.addr || !pathFrom s h.die h.addr then s else lineOut s h.die h.addr true)
    | none =>
      match s.copies[n - s.heldBytes.length]? with
      | some c => .next (if pinnedByte s (64 * c.line) then s else lineOut s c.die (64 * c.line) false)
      | none => .next s

/-- The k-th RED at the memory side changed. -/
def setRed (s : State) (k : Nat) (r : Red) : State := { s with reds := s.reds.set k r }

/-- The k-th RED leaves the memory side. -/
def dropRed (s : State) (k : Nat) : State := { s with reds := s.reds.eraseIdx k }

/-- A RED whose page is not resident: it asks for the page, waits, or faults late (R235, R236). -/
def redAway (s : State) (k : Nat) (r : Red) (l : Leaf) : State :=
  if r.waits ∧ dState l.desc ≠ 2 then
    (if dState l.desc = 3 then lateFault (dropRed s k) r .notResident else s)
  else if dState l.desc = 1 then setRed s k { r with waits := true }
  else
    let (s1, st) := requestPage s r.aspace r.va.toNat l ⟨r.die, r.core, r.kernelId, .red r.ctxId⟩
    if st = 4 ∨ st = 5 then lateFault (dropRed s1 k) r .notResident else setRed s1 k { r with waits := true }

/-- RED_TRANSLATION (R235). -/
def execRedTranslation (k : Nat) (s : State) : Out :=
  match s.reds[k]? with
  | none => .next s
  | some r =>
    if r.pa.isSome then .next s
    else match walk s r.aspace r.va.toNat with
      | .error e => .next (lateFault (dropRed s k) r e)
      | .ok l =>
        let pa := leafPa l r.va.toNat
        if !dW l.desc then .next (lateFault (dropRed s k) r .permission)
        else if dState l.desc = 1 ∧ inWindowRecord s pa (redSize r) = true then .next (lateFault (dropRed s k) r .permission)
        else if residentFor s l r.aspace r.die r.seqTag then
          if !pathFrom s r.die pa then .next (lateFault (dropRed s k) r .notResident)
          else .next (setRed s k { r with pa := some (canonPa s pa), waits := false })
        else .next (redAway s k r l)

/-- An earlier RED must be performed before the k-th: the same location, or, for a release, any of its context (R223, R227). -/
def redBehind (s : State) (k : Nat) (r : Red) : Bool :=
  (s.reds.take k).any fun q =>
    (q.ctxId == r.ctxId && (r.rel || overlaps q.va.toNat (redSize q) r.va.toNat (redSize r))) ||
      (match redPlace s q, r.pa with
      | some a, some b => overlaps a (redSize q) b (redSize r)
      | _, _ => false)

/-- What stands for the kernel of a request that a handler left at its home (R376): no kernel has that number. -/
def reeveKernel : Word := BitVec.allOnes 64

/-- RED_PERFORMED (R235): one access of the location's order, at its home, which a path must reach (R385). -/
def execRedPerformed (k : Nat) (s : State) : Out :=
  match s.reds[k]? with
  | none => .next s
  | some r =>
    match r.pa with
    | none => .next s
    | some pa =>
      if redBehind s k r || !pathFrom s r.die pa then .next s
      else
        let n := redSize r
        let s1 := dropRed s k
        match badByte s1 pa n with
        | some _ => .next (lateFault s1 r .storageError)
        | none =>
          let s2 := if r.rel && scopeWide r.scope then flushDie s1 r.die else flushHeld s1 r.die pa n
          let s3 := if capsDirty s2 then setDirty s2 r.aspace r.va.toNat else s2
          let new := atomNew r.op n (rdHomeNat s3 pa n) r.v.toNat
          let s4 := dropLines (wrHomeNat s3 pa n new) pa n
          .next (if r.kernelId = reeveKernel then s4 else touchAt s4 r.aspace r.die r.va.toNat pa)

end Sys2Proof.Machine
end

