-- ==== Sys2Proof/Machine/Barrier.lean ====
section
/-! DEFINITION. Meanings of the barrier instructions of major 0x3B: membership, phases, futures and locks, and the wake-up of a
parked context (R265 to R278, R417). -/

namespace Sys2Proof.Machine

/-- The barrier an instruction names: its level, number and allotment are checked at issue (R265, R266, R417). -/
def barNamed (s : State) (l : BitVec 3) (n : BitVec 5) : Except Trap BarKey :=
  let num := if l = 0 then n.toNat else snat s n
  let key := barKey l.toNat s.core.die s.core.num num
  if !levelOk l then .error (Trap.of .illegalInstruction)
  else if barCount l.toNat ≤ num then .error (Trap.of .commandLimit)
  else if !allotted s key s.core.ctx.aspace then .error (Trap.of .permission)
  else .ok key

/-- A pod barrier of another module can be reached (R265, R386). -/
def barReachable (s : State) (key : BarKey) : Bool :=
  key.level != 4 || s.pkgId == 0 || (portFor s s.core.die 0 0).isSome

/-- The instruction at the home of its barrier. -/
def atBarrier (s : State) (l : BitVec 3) (n : BitVec 5) (e : BarKey → Eff) : Out :=
  behindFence s
    (match barNamed s l n with
    | .error t => .trap t
    | .ok key => if barReachable s key then e key else .stall)

/-- A signal's release, then its effect (R227, R229): it waits until every earlier access of the context is performed. -/
def afterRelease (s : State) (level : Nat) (e : State → Eff) : Eff :=
  if accessesDone s then e (releaseAt s (levelWide level)) else .stall

/-- A barrier-state trap. -/
def barState : Eff := .trap (Trap.of .barrierState)

/-- The limit of SIGCNT, WCNT and ARRIVED at a level (R268). -/
def barLimit (level : Nat) : Nat :=
  match level with
  | 0 => 255
  | 1 => 1023
  | 2 => 65535
  | 3 => 65535
  | _ => 2 ^ 20 - 1

/-- The kind a BJOIN names (R270). -/
def barKindOf (k : BitVec 2) : BarKind :=
  match k.toNat with
  | 1 => .phaser
  | 2 => .future
  | 3 => .lock
  | _ => .free

/-- KIND of a record (R267). -/
def BarKind.code : BarKind → Nat
  | .free => 0
  | .phaser => 1
  | .future => 2
  | .lock => 3

/-- A barrier after a member joined, or the cause of its refusal (R270). -/
def joined (level : Nat) (b : Barrier) (kind : BarKind) (mode : BitVec 2) : Except Cause Barrier :=
  if b.kind ≠ .free ∧ b.kind ≠ kind then .error .barrierState
  else if kind = .lock ∧ mode ≠ 2 then .error .barrierState
  else if barLimit level ≤ (if mode = 1 then b.wcnt else b.sigcnt) then .error .commandLimit
  else
    let b1 := if b.kind = .free then { b with kind := kind, phase := if kind = .phaser then b.phase else 0 } else b
    .ok (if mode = 1 then { b1 with wcnt := b1.wcnt + 1 } else { b1 with sigcnt := b1.sigcnt + 1 })

/-- BJOIN (R270). -/
def execBjoin (k : BitVec 2) (b : BitVec 5) (l : BitVec 3) (m : BitVec 2) (n : BitVec 5) (s : State) : Out :=
  if (Instr.bjoin k b l m n).wf = false then finish s (.trap (Trap.of .illegalInstruction))
  else atBarrier s l n fun key =>
    let t := testBar s key
    match joined key.level (getBar t key) (barKindOf k) m with
    | .error c => .trap (Trap.of c)
    | .ok b' => .ok (setS (putBar t key b') b (b'.phase.zeroExtend 64))

/-- A context is parked on a barrier. -/
def parkedOn (s : State) (key : BarKey) : Bool :=
  ((allCores s).any fun k =>
    match k.ctx.park with
    | some (.phase key' _ _ _ _) => decide (key' = key)
    | some (.future key' _) => decide (key' = key)
    | some (.lock key' _ _ _) => decide (key' = key)
    | _ => false) || s.podParks.any (fun w => podKey w.num == key) || s.podWaits.any fun w => podKey w.num == key

/-- A member may drop: some member joined with that mode, and a last one leaves nothing behind (R270). -/
def dropOk (s : State) (key : BarKey) (b : Barrier) (mode : BitVec 2) : Bool :=
  decide (b.kind ≠ .free) && !(b.kind == .lock && mode != 2) &&
    decide ((if mode = 1 then b.wcnt else b.sigcnt) ≠ 0) &&
    !(decide (b.sigcnt + b.wcnt = 1) && (decide (b.pending ≠ 0) || parkedOn s key || b.held))

/-- A member dropped (R270). A signalling member's drop is its arrival: where every arrival has come already it sets EXCESS (R271). -/
def dropMember (s : State) (key : BarKey) (b : Barrier) (mode : BitVec 2) : State :=
  let b1 :=
    if mode = 1 then { b with wcnt := b.wcnt - 1 }
    else
      { b with
        sigcnt := b.sigcnt - 1
        status := if b.kind = .phaser ∧ b.sigcnt ≤ b.arrived then b.status ||| 4 else b.status }
  if b1.sigcnt + b1.wcnt = 0 then
    let s1 := if b.kind = .phaser then settle s key b1 false else s
    putBar s1 key (Barrier.freeAt (if b.kind = .phaser then (getBar s1 key).phase else 0))
  else if b.kind = .phaser then settle s key b1 false
  else putBar s key b1

/-- BDROP (R270, R271). -/
def execBdrop (l : BitVec 3) (m : BitVec 2) (n : BitVec 5) (s : State) : Out :=
  if (Instr.bdrop l m n).wf = false then finish s (.trap (Trap.of .illegalInstruction))
  else atBarrier s l n fun key =>
    let b := getBar s key
    if dropOk s key b m then .ok (dropMember s key b m) else barState

/-- BARR (R275). -/
def execBarr (b : BitVec 5) (l : BitVec 3) (n : BitVec 5) (s : State) : Out :=
  atBarrier s l n fun key =>
    if (getBar s key).kind ≠ .phaser then barState
    else afterRelease s key.level fun t =>
      .ok (setS (arrive t key false false) b ((getBar s key).phase.zeroExtend 64))

/-- A context parked (R95): its instruction stays to be finished when it wakes. -/
def parkCtx (s : State) (w : Wait) (p : Park) : State :=
  tick (modCtx s fun c => { c with state := .waiting, wait := w, park := some p })

/-- What a wait makes of the machine: it completes in line, or the context parks. -/
def waitOr (s : State) (l : BitVec 3) (n : BitVec 5) (e : BarKey → Except Eff State) : Out :=
  if fenceHeld s.core.ctx then finish s .stall
  else match barNamed s l n with
    | .error t => finish s (.trap t)
    | .ok key =>
      if !barReachable s key then finish s .stall
      else match e key with
        | .error x => inLine s x
        | .ok t => .next t

/-- The wait for a phase: its status word, or the context parks (R275). Its completion is an acquire (R229). -/
def waitPhase (s : State) (key : BarKey) (t : BitVec 32) (src dst : BitVec 5) (isBarw : Bool) : Except Eff State :=
  let b := getBar s key
  if phaseDone b.phase t then .error (.ok (acquireAt (setS s dst (statusWord b t)) (levelWide key.level)))
  else
    let s1 := if isBarw then setS s dst (t ++ (0 : BitVec 32)) else s
    .ok (parkCtx s1 .barrier (.phase key t src dst isBarw))

/-- BWAIT (R275). -/
def execBwait (a b : BitVec 5) (l : BitVec 3) (n : BitVec 5) (s : State) : Out :=
  waitOr s l n fun key =>
    if (getBar s key).kind ≠ .phaser then .error barState
    else waitPhase (testBar s key) key ((sreg s a).extractLsb' 0 32) a b false

/-- BARW (R275): one arrival, then the wait for the phase arrived in. -/
def execBarw (b : BitVec 5) (l : BitVec 3) (n : BitVec 5) (s : State) : Out :=
  waitOr s l n fun key =>
    let phase := (getBar s key).phase
    if (getBar s key).kind ≠ .phaser then .error barState
    else if accessesDone s then waitPhase (arrive (releaseAt s (levelWide key.level)) key false false) key phase b b true
    else .error .stall

/-- BEXP (R273). -/
def execBexp (a : BitVec 5) (l : BitVec 3) (n : BitVec 5) (s : State) : Out :=
  atBarrier s l n fun key =>
    let b := getBar s key
    let x := snat s a
    if b.kind ≠ .phaser ∨ 2 ^ 40 ≤ x ∨ 2 ^ 40 ≤ b.pending + x then barState
    else .ok (putBar s key { b with pending := b.pending + x })

/-- The test word (R275). -/
def testWord (b : Barrier) : Word :=
  match b.kind with
  | .phaser => b.phase ++ BitVec.ofNat 16 (min b.arrived 0xFFFF) ++ (0 : BitVec 4) ++ BitVec.ofBool (decide (b.pending = 0)) ++
      (0 : BitVec 1) ++ (1 : BitVec 2) ++ b.lstatus ++ b.status
  | .future => (0 : BitVec 53) ++ BitVec.ofBool b.full ++ (2 : BitVec 2) ++ (0 : BitVec 8)
  | .lock => (0 : BitVec 53) ++ BitVec.ofBool b.held ++ (3 : BitVec 2) ++ (0 : BitVec 8)
  | .free => 0

/-- BTEST (R275). -/
def execBtest (b : BitVec 5) (l : BitVec 3) (n : BitVec 5) (s : State) : Out :=
  atBarrier s l n fun key =>
    let t := testBar s key
    if (getBar t key).kind = .free then barState else .ok (setS t b (testWord (getBar t key)))

/-- FSET (R276). -/
def execFset (a : BitVec 5) (l : BitVec 3) (n : BitVec 5) (s : State) : Out :=
  atBarrier s l n fun key =>
    let b := getBar s key
    if b.kind ≠ .future ∨ b.full = true then barState
    else afterRelease s key.level fun t =>
      .ok (wakeFuture (putBar t key { b with value := sreg s a, full := true }) key (sreg s a))

/-- FGET (R276). -/
def execFget (b : BitVec 5) (l : BitVec 3) (n : BitVec 5) (s : State) : Out :=
  waitOr s l n fun key =>
    let f := getBar s key
    if f.kind ≠ .future then .error barState
    else if f.full then .error (.ok (acquireAt (setS s b f.value) (levelWide key.level)))
    else .ok (parkCtx s .future (.future key b))

/-- Lending passed on: LENT of the lock is raised, and where its holder waits on another lock, that lock too (R277). -/
def lendOn (s : State) (p : BitVec 8) : Nat → BarKey → State
  | 0, _ => s
  | fuel + 1, key =>
    let b := getBar s key
    let s1 := putBar s key { b with lent := if b.lent.toNat < p.toNat then p else b.lent }
    let waitsOn := ((allCores s1).findSome? fun k =>
      match k.ctx.park with
      | some (.lock key' _ _ _) => if k.ctx.ctxId.extractLsb' 0 48 = b.holder then some key' else none
      | _ => none).or ((s1.podWaits.find? fun w => w.holder == b.holder).map fun w => podKey w.num)
    match waitsOn with
    | none => s1
    | some key' =>
      let raised := s1.podWaits.map fun w => if w.holder = b.holder ∧ w.prio.toNat < p.toNat then { w with prio := p } else w
      let s2 := mapCores { s1 with podWaits := raised } fun k =>
        match k.ctx.park with
        | some (.lock q dst prio o) =>
          if q = key' ∧ k.ctx.ctxId.extractLsb' 0 48 = b.holder then
            { k with ctx := { k.ctx with park := some (.lock q dst (if prio.toNat < p.toNat then p else prio) o) } }
          else k
        | _ => k
      lendOn s2 p fuel key'

/-- LWAIT (R277). -/
def execLwait (b : BitVec 5) (l : BitVec 3) (n : BitVec 5) (s : State) : Out :=
  waitOr s l n fun key =>
    let c := s.core.ctx
    let me := c.ctxId.extractLsb' 0 48
    let f := getBar s key
    if f.kind ≠ .lock ∨ (f.held = true ∧ f.holder = me) then .error barState
    else if f.held then
      let p := BitVec.ofNat 8 (effPrio s c)
      let s1 := parkCtx s .lock (.lock key b p s.order)
      .ok (lendOn { s1 with order := s1.order + 1 } p ((allCores s).length + s.podWaits.length + 1) key)
    else
      let s1 := putBar s key { f with held := true, holder := me, hgroup := c.groupId.extractLsb' 0 16, abandoned := false }
      .error (.ok (acquireAt (setS s1 b (if f.abandoned then 1 else 0)) (levelWide key.level)))

/-- LREL (R277). -/
def execLrel (l : BitVec 3) (n : BitVec 5) (s : State) : Out :=
  atBarrier s l n fun key =>
    let f := getBar s key
    if f.kind ≠ .lock ∨ f.held = false ∨ f.holder ≠ s.core.ctx.ctxId.extractLsb' 0 48 then barState
    else afterRelease s key.level fun t => .ok (lockRelease t key false)

/-- The focused core's context has received what it waited for, and goes on past its instruction unless a save holds it. The wait's completion
is an acquire, at the widest scope a barrier has (R95, R229). -/
def goOn (s : State) : State :=
  let c := s.core.ctx
  if c.state = .waiting ∧ c.park = none ∧ c.wait ≠ .done ∧ s.core.stopping = false then
    retire (modCtx (acquireAt s true) fun c => { c with state := .running, wait := .none })
  else s

/-- BARRIER_WAKE (R95, R275): a parked context that has received its value runs on past its instruction. -/
def execBarrierWake (s : State) : Out := .next (goOn s)

/-- The cycle that moves have shared is over: every test that it owes is made, and a wait that came in it and that it completes does not park
(R274). -/
def cycleOver (s : State) : State :=
  if s.oneCycle then
    let t := s.cycleCores.foldl (fun t x => goOn (focus t x.1 x.2)) (endCycle s)
    { focus t s.core.die s.core.num with cycleCores := [] }
  else s

end Sys2Proof.Machine
end

