-- ==== Sys2Proof/Machine/BlockTable.lean ====
section
/-! DEFINITION. Block tables: the sequence directory, the pool of table pages, the change of one entry, and BTMAP, BTUNMAP and
BTFORK (R260 to R264), with the translation of a block that an open window drafts (R337). -/

namespace Sys2Proof.Machine

/-- A field of a table that the device keeps in memory, written at its home: no die's copy of its line stays, and no byte that a die still holds
of it is written over the new value later (R241, R261, R352). -/
def wrTable (s : State) (pa n v : Nat) : State :=
  wrHomeNat (dropLines (flushHeld (flushHeld s 0 pa n) 1 pa n) pa n) pa n v

/-! The sequence directory (R260, R335). -/

/-- Address of a tag's directory entry. -/
def dirAddr (s : State) (tag : Nat) : Nat := s.pageCtl.dirbase.toNat + 16 * tag

/-- A tag's directory entry. -/
def rdDir (s : State) (tag : Nat) : BitVec 128 := BitVec.ofNat 128 (rdHomeNat s (dirAddr s tag) 16)

/-- A tag's directory entry written. -/
def wrDir (s : State) (tag : Nat) (e : BitVec 128) : State := wrTable s (dirAddr s tag) 16 e.toNat

/-- VALID of a directory entry. -/
def eValid (e : BitVec 128) : Bool := e.getLsbD 63
/-- ASPACE. -/
def eAspace (e : BitVec 128) : BitVec 12 := e.extractLsb' 64 12
/-- ROOT, as a physical address. -/
def eRoot (e : BitVec 128) : Nat := (e.extractLsb' 12 40).toNat * 4096
/-- BLKB. -/
def eBlkb (e : BitVec 128) : Nat := (e.extractLsb' 0 12).toNat
/-- WINDOW. -/
def eWindow (e : BitVec 128) : BitVec 32 := e.extractLsb' 96 32
/-- WINDOW.OPEN. -/
def eOpen (e : BitVec 128) : Bool := e.getLsbD 119
/-- WINDOW.WNUM. -/
def eWnum (e : BitVec 128) : BitVec 8 := e.extractLsb' 120 8
/-- NB of the open window. -/
def eNb (e : BitVec 128) : Nat := (e.extractLsb' 117 2).toNat + 1
/-- L0 of the open window. -/
def eL0 (e : BitVec 128) : Nat := (e.extractLsb' 96 18).toNat

/-- A directory entry from its fields. -/
def mkDir (window : BitVec 32) (aspace : BitVec 12) (root blkb : Nat) : BitVec 128 :=
  window ++ (0 : BitVec 20) ++ aspace ++ (1 : BitVec 1) ++ (0 : BitVec 11) ++ BitVec.ofNat 40 (root / 4096) ++ BitVec.ofNat 12 blkb

/-- The directory entry that an address space may name: its tag in range, and not valid under another address space (R260). -/
def dirFor (s : State) (aspace : BitVec 12) (tag : Nat) : Except Cause (BitVec 128) :=
  if tag = 0 ∨ 2 ^ (s.pageCtl.dirlog.toNat + 8) ≤ tag then .error .sequenceRange
  else
    let e := rdDir s tag
    if eValid e && eAspace e != aspace then .error .permission else .ok e

/-- The same, of a sequence that exists. -/
def dirValid (s : State) (aspace : BitVec 12) (tag : Nat) : Except Cause (BitVec 128) :=
  match dirFor s aspace tag with
  | .error c => .error c
  | .ok e => if eValid e then .ok e else .error .sequenceState

/-- The span of the entry's open window holds one of `n` blocks from `l` up (R342). -/
def inSpan (e : BitVec 128) (l n : Nat) : Bool :=
  eOpen e && decide (l < eL0 e + eNb e) && decide (eL0 e < l + n)

/-! The pool of table pages (R260, R261). -/

/-- Bytes of an interval as memory lists them, removed: they read as zero. -/
def memZero (m : Memory) (a n : Nat) : Memory := m.filter fun c => !(decide (a ≤ c.1) && decide (c.1 < a + n))

/-- Bytes of an interval set to zero at their home; no die's copy of its lines stays, and lines wholly written lose their error. -/
def zeroHome (s : State) (pa n : Nat) : State :=
  let t := dropLines (flushHeld (flushHeld s 0 pa n) 1 pa n) pa n
  clearLines { t with mem := memZero t.mem pa n } pa n

/-- Bytes of an interval copied at their homes, with what the dies still hold of both written home first (R241); no die's copy of the lines
written stays. -/
def copyHome (s : State) (src dst n : Nat) : State :=
  let t := dropLines (flushHeld (flushHeld (flushHeld (flushHeld s 0 src n) 1 src n) 0 dst n) 1 dst n) dst n
  clearLines { t with mem := memMove t.mem src dst n } dst n

/-- `n` pages can be taken from the free list that starts at `page`. -/
def poolHas (s : State) : Nat → Nat → Bool
  | 0, _ => true
  | n + 1, page => page != 0 && poolHas s n (rdHomeNat s page 8)

/-- The pool holds `n` free pages. -/
def poolRoom (s : State) (n : Nat) : Bool := poolHas s n s.pageCtl.tpfree.toNat

/-- The first free page is taken. -/
def popPage (s : State) : State × Nat :=
  let p := s.pageCtl.tpfree.toNat
  ({ s with pageCtl := { s.pageCtl with tpfree := BitVec.ofNat 64 (rdHomeNat s p 8) } }, p)

/-- A page becomes the first free page. -/
def pushPage (s : State) (p : Nat) : State :=
  let t := wrTable s p 8 s.pageCtl.tpfree.toNat
  { t with pageCtl := { t.pageCtl with tpfree := BitVec.ofNat 64 p } }

/-- A zeroed page is taken from the pool. -/
def popZeroed (s : State) : State × Nat :=
  let (t, p) := popPage s
  (zeroHome t p 4096, p)

/-- Address of a table page's reference count. -/
def countAddr (s : State) (p : Nat) : Nat := s.pageCtl.tpref.toNat + 4 * ((p - s.pageCtl.tpbase.toNat) / 4096)

/-- count(P). -/
def pageCount (s : State) (p : Nat) : Nat := rdHomeNat s (countAddr s p) 4

/-- count(P) := n. -/
def setCount (s : State) (p n : Nat) : State := wrTable s (countAddr s p) 4 n

/-! Table entries. -/

/-- Address of the root entry of a block. -/
def rootEntryAddr (root l : Nat) : Nat := root + 8 * (l / 512)

/-- The table page that a root entry names, if any. -/
def tablePage (s : State) (root l : Nat) : Option Nat :=
  let r := rdHomeNat s (rootEntryAddr root l) 8
  if r.testBit 63 then some (natBits r 51 12 * 4096) else none

/-- A root entry that names a page. -/
def rootEntry (p : Nat) : Nat := 2 ^ 63 + p

/-- The table entry of a block; zero where there is no table page. -/
def tableEntry (s : State) (root l : Nat) : Nat :=
  match tablePage s root l with
  | some p => rdHomeNat s (p + 8 * (l % 512)) 8
  | none => 0

/-- The physical block that a table entry names. -/
def blockOf (entry : Nat) : Nat := natBits entry 51 8 * 256

/-- A table entry of a block. -/
def tableEntryOf (win : Bool) (block : Nat) : Nat := 2 ^ 63 + (if win then 2 ^ 62 else 0) + block

/-- Pages that a change of one entry takes from the pool (R261, R262). -/
def changeNeeds (s : State) (root l : Nat) (mapping : Bool) : Nat :=
  match tablePage s root l with
  | some p => if 1 < pageCount s p then 1 else 0
  | none => if mapping then 1 else 0

/-- One entry changed: a shared table page is copied first, and a missing one is allocated (R261, R262). -/
def changeEntry (s : State) (root l v : Nat) : State :=
  let slot (p : Nat) : Nat := p + 8 * (l % 512)
  match tablePage s root l with
  | some p =>
    if 1 < pageCount s p then
      let (s1, q) := popPage s
      let s2 := setCount (setCount (copyHome s1 p q 4096) q 1) p (pageCount s p - 1)
      wrTable (wrTable s2 (rootEntryAddr root l) 8 (rootEntry q)) (slot q) 8 v
    else wrTable s (slot p) 8 v
  | none =>
    let (s1, q) := popZeroed s
    let s2 := setCount s1 q 1
    wrTable (wrTable s2 (rootEntryAddr root l) 8 (rootEntry q)) (slot q) 8 v

/-- The entries of the tables that changes at `ls` need, each table page counted once. -/
def changesNeed (s : State) (root : Nat) (ls : List Nat) : Nat :=
  (ls.map fun l => l / 512).eraseDups.foldl (fun n i => n + changeNeeds s root (512 * i) false) 0

/-- The block that a translation resolves to (R260, R337): an entry of an open window gives its draft block inside the window's
.seq, and the committed block to all others. -/
def resolveBlock (s : State) (e : BitVec 128) (l : Nat) (aspace : BitVec 12) (die : Nat) (tag : BitVec 32) : Option Nat :=
  let t := tableEntry s (eRoot e) l
  if !t.testBit 63 then none
  else if !t.testBit 62 then some (blockOf t)
  else match windowAt s (blockOf t) with
    | some w => if inSeq w aspace die tag then some (blockOf t) else w.blocks[l - eL0 e]?
    | none => some (blockOf t)

/-! The instructions. -/

/-- Checked, then performed as a release at .pkg (R262 to R264). -/
def atPkg (s : State) (e : Except Trap (State → State)) : Out :=
  behindFence s
    (match e with
    | .error t => .trap t
    | .ok f => afterRelease s 3 fun t => .ok (f t))

/-- BTMAP's checks, in the order of its pseudocode (a new sequence's root page before the handle's range), and its change (R262). -/
def btmapDo (s : State) (x y : Nat) (H : Handle) : Except Trap (State → State) :=
  let c := s.core.ctx
  let tag := x % 2 ^ 32
  let blkb := natBits x 43 32
  let l := y % 2 ^ 32
  let off := y / 2 ^ 32
  let va := if H.valid then H.vbase + off else off
  if x / 2 ^ 44 ≠ 0 then .error (Trap.of .sequenceState)
  else if !H.valid || !H.res || H.tier != 0 then .error (Trap.at .notResident va)
  else if !H.w then .error (Trap.at .permission va)
  else if off % 256 ≠ 0 then .error (Trap.at .misalignedAccess va)
  else match dirFor s c.aspace tag with
    | .error x => .error (Trap.of x)
    | .ok e =>
      let fresh := !eValid e
      let size := if fresh then blkb else eBlkb e
      if (fresh && blkb == 0) || (!fresh && blkb != 0 && blkb != eBlkb e) then .error (Trap.of .sequenceState)
      else if fresh && !poolRoom s 1 then .error (Trap.of .tablePoolEmpty)
      else if H.pageSize < off + 256 * size then .error (Trap.at .handleRange va)
      else if 262143 < l then .error (Trap.of .blockRange)
      else if !fresh && inSpan e l 1 then .error (Trap.of .windowState)
      else if !poolRoom s (if fresh then 2 else changeNeeds s (eRoot e) l true) then .error (Trap.of .tablePoolEmpty)
      else
        let entry := tableEntryOf false (H.base + off)
        .ok fun t =>
          if fresh then
            let (t1, root) := popZeroed t
            changeEntry (wrDir t1 tag (mkDir (eWindow e) c.aspace root blkb)) root l entry
          else changeEntry t (eRoot e) l entry

/-- BTMAP (R262). -/
def execBtmap (a b : BitVec 5) (h : BitVec 4) (s : State) : Out := atPkg s (btmapDo s (snat s a) (snat s b) (hreg s h))

/-- A root's table page loses one of its roots; it is freed with its last (R261, R263). -/
def dropTable (s : State) (p : Nat) : State :=
  let n := pageCount s p - 1
  let t := setCount s p n
  if n = 0 then pushPage t p else t

/-- The table pages that a root names. -/
def tablesOf (s : State) (root : Nat) : List Nat := (List.range 512).filterMap fun i => tablePage s root (512 * i)

/-- A whole sequence released (R263). -/
def releaseSeq (s : State) (tag : Nat) (e : BitVec 128) : State :=
  let t := (tablesOf s (eRoot e)).foldl dropTable s
  wrDir (pushPage t (eRoot e)) tag (e &&& ~~~(BitVec.ofNat 128 (2 ^ 63)))

/-- BTUNMAP's checks, and its change (R263). -/
def btunmapDo (s : State) (x y n : Nat) : Except Trap (State → State) :=
  let tag := x % 2 ^ 32
  let l := y % 2 ^ 32
  if x / 2 ^ 32 ≠ 0 ∨ natBits y 62 32 ≠ 0 then .error (Trap.of .sequenceState)
  else match dirValid s s.core.ctx.aspace tag with
    | .error c => .error (Trap.of c)
    | .ok e =>
      if y.testBit 63 then
        if n ≠ 0 ∨ eOpen e = true then .error (Trap.of .sequenceState) else .ok fun t => releaseSeq t tag e
      else if 262143 < l + n then .error (Trap.of .blockRange)
      else if inSpan e l (n + 1) then .error (Trap.of .windowState)
      else
        let ls := ((List.range (n + 1)).map fun i => l + i).filter fun i => (tableEntry s (eRoot e) i).testBit 63
        if !poolRoom s (changesNeed s (eRoot e) ls) then .error (Trap.of .tablePoolEmpty)
        else .ok fun t => ls.foldl (fun t i => changeEntry t (eRoot e) i 0) t

/-- BTUNMAP (R263). -/
def execBtunmap (a b : BitVec 5) (c : BitVec 10) (s : State) : Out := atPkg s (btunmapDo s (snat s a) (snat s b) c.toNat)

/-- BTFORK's checks, and its change (R264). -/
def btforkDo (s : State) (src dst : Nat) : Except Trap (State → State) :=
  let aspace := s.core.ctx.aspace
  match dirValid s aspace src with
  | .error c => .error (Trap.of c)
  | .ok e =>
    if eOpen e then .error (Trap.of .sequenceState)
    else match dirFor s aspace dst with
      | .error c => .error (Trap.of c)
      | .ok f =>
        if eValid f then .error (Trap.of .sequenceState)
        else if !poolRoom s 1 then .error (Trap.of .tablePoolEmpty)
        else .ok fun t =>
          let (t1, root) := popPage t
          let t2 := (tablesOf t1 (eRoot e)).foldl (fun t p => setCount t p (pageCount t p + 1)) (copyHome t1 (eRoot e) root 4096)
          wrDir t2 dst (mkDir 0 (eAspace e) root (eBlkb e))

/-- BTFORK (R264). -/
def execBtfork (a b : BitVec 5) (s : State) : Out := atPkg s (btforkDo s (snat s a) (snat s b))

end Sys2Proof.Machine
end

