-- ==== Sys2Proof/Machine/Window.lean ====
section
/-! DEFINITION. Speculative windows: WOPEN, WCOMMIT, WABORT, WSTAT and the clearing of a closed window's pool page (R334 to
R343, R407). -/

namespace Sys2Proof.Machine

/-- Bytes of a checkpoint (R335). -/
def ckSize (ck : Nat) : Nat := if ck = 0 then 0 else 4096 * 2 ^ (ck - 1)

/-- CKOFF (R336). -/
def ckOff (nb blkb : Nat) : Nat := roundUp (256 * (1 + nb * blkb)) 4096

/-- Offset of draft block i (R336). -/
def draftOff (i blkb : Nat) : Nat := 0x100 + i * 256 * blkb

/-- The page a window would shoot down is free of uses that have not ended (R251). -/
def shootFree (s : State) (aspace : BitVec 12) (vpage : BitVec 52) (size : BitVec 4) : Bool := shootOver s ⟨aspace, vpage, size, false⟩

/-- A shoot-down that is complete at once. -/
def shootNow (s : State) (aspace : BitVec 12) (vpage : BitVec 52) (size : BitVec 4) : State :=
  { shootPage s aspace vpage size false with shoots := s.shoots }

/-- An open window of a die names a Hearth slot (R342). -/
def slotNamed (s : State) (e : Stream) : Bool :=
  s.windows.any fun w => !w.clearing && w.die == e.die && w.aspace == e.aspace && w.slot == some e.base

/-- Bytes of a stream's slot (R363). -/
def Stream.size (e : Stream) : Nat := 4096 * 2 ^ e.z.toNat

/-- The slot a WOPEN names: pinned on this die by this address space, with enough bytes (R338). -/
def slotOk (s : State) (die : Nat) (aspace : BitVec 12) (base : Word) (bytes : Nat) : Bool :=
  s.streams.any fun e => e.die == die && e.aspace == aspace && e.base == base && e.state == .pinned && decide (bytes ≤ e.size)

/-- The physical address of a virtual one that translates. -/
def physOf (s : State) (aspace : BitVec 12) (va : Nat) : Nat :=
  match walk s aspace va with
  | .ok l => leafPa l va
  | .error _ => 0

/-- What WOPEN reads from its operands and from the directory (R338). -/
structure WOpen where
  tag : Nat
  p0 : Nat
  nmax : Nat
  ck : Nat
  e : BitVec 128
  H : Handle
  slot : Word
deriving DecidableEq, Repr

/-- First span block. -/
def WOpen.l0 (w : WOpen) : Nat := w.p0 / 16
/-- Number of span blocks. -/
def WOpen.nb (w : WOpen) : Nat := (w.p0 + w.nmax - 1) / 16 - w.p0 / 16 + 1
/-- BLKB. -/
def WOpen.blkb (w : WOpen) : Nat := eBlkb w.e
/-- The span's table entries. -/
def WOpen.cents (w : WOpen) (s : State) : List Nat := (List.range w.nb).map fun i => tableEntry s (eRoot w.e) (w.l0 + i)
/-- The bytes of the pool page in use. -/
def WOpen.used (w : WOpen) : Nat := ckOff w.nb w.blkb + w.nmax * ckSize w.ck

/-- WOPEN's checks (R338). -/
def wopenCheck (s : State) (x : Nat) (slot : Word) (H : Handle) : Except Trap WOpen :=
  let c := s.core.ctx
  let tag := x % 2 ^ 32
  match dirValid s c.aspace tag with
  | .error t => .error (Trap.of t)
  | .ok e =>
    let w : WOpen := ⟨tag, natBits x 53 32, natBits x 58 54 + 1, natBits x 61 59, e, H, slot⟩
    let cents := w.cents s
    if x / 2 ^ 62 ≠ 0 ∨ 5 < w.ck ∨ (w.ck = 0 ∧ slot ≠ 0) then .error (Trap.of .windowState)
    else if eOpen e then .error (Trap.of .windowState)
    else if 262143 < w.l0 + w.nb - 1 then .error (Trap.of .blockRange)
    else if cents.any fun t => !t.testBit 63 then .error (Trap.of .sequenceState)
    else if !H.valid || !H.res || H.tier != 0 then .error (Trap.at .notResident (if H.valid then H.vbase else 0))
    else if !H.r || !H.w then .error (Trap.at .permission H.vbase)
    else if H.pageSize < w.used then .error (Trap.at .handleRange H.vbase)
    else if (s.windows.any fun v => overlaps v.pool (4096 * 2 ^ v.poolSize.toNat) H.base H.pageSize) ||
        cents.any fun t => overlaps (blockOf t) (256 * w.blkb) H.base H.pageSize then .error (Trap.of .windowState)
    else if w.ck ≠ 0 ∧ slotOk s s.core.die c.aspace slot (ckSize w.ck) = false then .error (Trap.of .windowState)
    else if !poolRoom s (changesNeed s (eRoot e) ((List.range w.nb).map fun i => w.l0 + i)) then
      .error (Trap.of .tablePoolEmpty)
    else .ok w

/-- The window record (R336). -/
def WOpen.record (w : WOpen) (s : State) (wnum : BitVec 8) : List Byte :=
  let cent (i : Nat) : Nat := (w.cents s).getD i 0
  leBytes 8 w.p0 ++ leBytes 1 w.nmax ++ leBytes 1 w.ck ++ leBytes 1 s.core.die ++ leBytes 1 wnum.toNat ++ leBytes 4 0 ++
    leBytes 8 (cent 0) ++ leBytes 8 (cent 1) ++ leBytes 8 (cent 2) ++
    leBytes 8 (if w.ck = 0 then 0 else physOf s s.core.ctx.aspace w.slot.toNat) ++ leBytes 8 (w.H.base + w.H.size.toNat) ++
    leBytes 200 0

/-- WINDOW of an open window (R335). -/
def WOpen.field (w : WOpen) (wnum : BitVec 8) : BitVec 32 :=
  wnum ++ (1 : BitVec 1) ++ BitVec.ofNat 2 (w.nb - 1) ++ BitVec.ofNat 3 w.ck ++ BitVec.ofNat 18 w.l0

/-- A directory entry with its WINDOW replaced. -/
def withWindow (e : BitVec 128) (w : BitVec 32) : BitVec 128 := w ++ e.extractLsb' 0 96

/-- WOPEN performed (R338): no copy of the pool page's lines stays, and its steps are acquired at .pkg (R407). -/
def wopenDo (s : State) (w : WOpen) : State :=
  let c := s.core.ctx
  let wnum := eWnum w.e + 1
  let base := w.H.base
  let cents := w.cents s
  let s1 := shootNow s c.aspace w.H.vpage w.H.size
  let s2 := wrHomeBytes (zeroHome s1 base 256) base (w.record s wnum)
  let s3 := (List.range w.nb).foldl (fun t i =>
    let draft := base + draftOff i w.blkb
    changeEntry (copyHome t (blockOf (cents.getD i 0)) draft (256 * w.blkb)) (eRoot w.e) (w.l0 + i) (tableEntryOf true draft)) s2
  let s4 := dropCopies (dropLines (wrDir s3 w.tag (withWindow w.e (w.field wnum))) base w.H.pageSize) s.core.die
  { s4 with windows := s4.windows ++
      [{ tag := BitVec.ofNat 32 w.tag, aspace := c.aspace, die := s.core.die, pool := base, wnum := wnum, used := w.used
         poolVa := BitVec.ofNat 64 w.H.vbase, poolSize := w.H.size, blocks := cents.map blockOf
         slot := if w.ck = 0 then none else some w.slot, closer := none, clearing := false }] }

/-- The started context's stall at a window instruction begins or ends (R407). It issues, so that no earlier close of its own is awaited any
more (R342). -/
def inWindow (s : State) (b : Bool) : State := modCtx s fun c => { c with inWindow := b, awaitClose := false }

/-- A window instruction of major 0x3D: held by a FENCE mark; its effect, its trap, or its stall, which a save waits for (R231, R407). -/
def windowStep (s : State) (e : Eff) : Out :=
  if fenceHeld s.core.ctx then finish s .stall
  else match e with
    | .ok t => inLine s (.ok (inWindow t false))
    | .trap t => finish (inWindow s false) (.trap t)
    | .stall => finish (inWindow s true) .stall

/-- WOPEN (R338, R407). -/
def execWopen (a b d : BitVec 5) (h : BitVec 4) (s : State) : Out :=
  windowStep s
    (match wopenCheck s (snat s a) (sreg s b) (hreg s h) with
    | .error t => .trap t
    | .ok w =>
      if !shootFree s s.core.ctx.aspace w.H.vpage w.H.size then .stall
      else .ok (setS (wopenDo s w) d ((eWnum w.e + 1).zeroExtend 64)))

/-! Closing (R339). -/

/-- The bytes of a sequence's open window: its entry in the device's table. -/
def openWindow (s : State) (aspace : BitVec 12) (tag : Nat) : Option Window :=
  s.windows.find? fun w => w.tag.toNat == tag && w.aspace == aspace && !w.clearing

/-- The moves of a commit of A tokens: from, to, length (R339). -/
def keptMoves (s : State) (w : Window) (e : BitVec 128) (n : Nat) : List (Nat × Nat × Nat) :=
  let p0 := rdHomeNat s w.pool 8
  let ck := rdHomeNat s (w.pool + 9) 1
  let bytes := 16 * eBlkb e
  let tokens := (List.range n).map fun i =>
    let t := p0 + i
    let k := t / 16 - eL0 e
    let o := t % 16 * bytes
    (w.pool + draftOff k (eBlkb e) + o, w.blocks.getD k 0 + o, bytes)
  tokens ++
    (if 1 ≤ n ∧ ck ≠ 0 then
      [(w.pool + ckOff (eNb e) (eBlkb e) + (n - 1) * ckSize ck, rdHomeNat s (w.pool + 0x28) 8, ckSize ck)]
    else [])

/-- The first kept byte with an uncorrectable error. -/
def keptBad (s : State) (moves : List (Nat × Nat × Nat)) : Option Nat :=
  moves.findSome? fun m => (badByte s m.1 m.2.2).map fun i => m.1 + i

/-- A close published (R339): the next state and the status. No die keeps a copy of the pool page's lines, so that none reads a discarded
write (R239). -/
def closeDo (s : State) (w : Window) (e : BitVec 128) (c : Closer) : State × Nat :=
  let n := c.kept
  let tag := w.tag.toNat
  let s1 := shootNow s w.aspace (BitVec.ofNat 52 (w.poolVa.toNat / 4096)) w.poolSize
  let moves := keptMoves s1 w e n
  let (s2, st) := match keptBad s1 moves with
    | some pa =>
      (writeRecord s1 w.aspace
        { cause := .storageError, src := 7, kernelId := c.kernelId, ctxId := c.ctxId
          addr := BitVec.ofNat 64 (w.poolVa.toNat + (pa - w.pool)), core := c.core, die := c.die }, 2)
    | none => (moves.foldl (fun t m => copyHome t m.1 m.2.1 m.2.2) s1, 0)
  let s3 := (List.range (eNb e)).foldl (fun t i =>
    changeEntry t (eRoot e) (eL0 e + i) (tableEntryOf false (w.blocks.getD i 0))) s2
  let s4 := dropLines (wrDir s3 tag (withWindow e (eWnum e ++ (0 : BitVec 24)))) w.pool (4096 * 2 ^ w.poolSize.toNat)
  ({ s4 with windows := s4.windows.map fun v => if v = w then { w with closer := some c, clearing := true } else v }, st)

/-- An engine or search command of the window's sequence writes into the pool page: through whichever page of its address space its handle
reaches that page's frames (R239). -/
def writesWindow (s : State) (w : Window) (c : Command) : Bool :=
  let d := settleHandle s c.aspace c.die c.seqTag c.dst
  inSeq w c.aspace c.die c.seqTag && d.valid && d.res && overlaps d.base d.pageSize w.pool (4096 * 2 ^ w.poolSize.toNat)

/-- Every writer of a closing window has ended, and every access of its closer before the close is performed (R239, R339). -/
def closeReady (s : State) (w : Window) (c : Closer) : Bool :=
  ((allCores s).all fun k => (unended k).all fun e => !writesWindow s w e.2.2) && (s.droves.all fun v => !writesWindow s w v.cmd) &&
  shootFree s w.aspace (BitVec.ofNat 52 (w.poolVa.toNat / 4096)) w.poolSize &&
    (match ctxById s c.ctxId with
    | some x => decide (x.accessQ = [])
    | none => true) && !s.reds.any fun r => r.ctxId == c.ctxId

/-- A close published, with its release at .pkg and the acquire that its end is for its issuer (R239, R339, R407). -/
def closeEnds (s : State) (w : Window) (e : BitVec 128) (c : Closer) : State × Nat :=
  let (t, st) := closeDo (flushDie s c.die) w e c
  (dropCopies t c.die, st)

/-- A close of an open window by the started context: it is marked as in progress and, as soon as its writers have ended, published; the
sequencer stalls meanwhile (R339, R341, R407). -/
def closeStep (s : State) (w : Window) (e : BitVec 128) (c : Closer) (d : BitVec 5) : Out :=
  let mine := if w.closer.isSome then w else { w with closer := some c }
  let s1 := { s with windows := s.windows.map fun v => if v = w then mine else v }
  if closeReady s1 mine c then
    let (t, st) := closeEnds s1 mine e c
    inLine s (.ok (inWindow (setS t d (BitVec.ofNat 64 st)) false))
  else .next (stallStep (inWindow s1 true))

/-- WCOMMIT and WABORT: `kept` gives A and the reserved bits of s(b). A close in progress makes every other close stale (R339, R341). -/
def closeWindow (s : State) (x kept : Nat) (d : BitVec 5) : Out :=
  let k := s.core
  let c := k.ctx
  let stale := inLine s (.ok (setS s d 1))
  let me : Closer := ⟨c.ctxId, c.kernelId, k.die, k.num, kept⟩
  if fenceHeld c then finish s .stall
  else match dirValid s c.aspace (x % 2 ^ 32) with
    | .error t => finish s (.trap (Trap.of t))
    | .ok e =>
      if x / 2 ^ 40 ≠ 0 ∨ kept / 2 ^ 6 ≠ 0 then finish s (.trap (Trap.of .windowState))
      else match openWindow s c.aspace (x % 2 ^ 32) with
        | none => stale
        | some w =>
          if eOpen e = false ∨ (eWnum e).toNat ≠ natBits x 39 32 then stale
          else match w.closer with
            | some y => if y.ctxId = c.ctxId then closeStep s w e y d else stale
            | none =>
              if rdHomeNat s (w.pool + 8) 1 < kept then finish s (.trap (Trap.of .windowState)) else closeStep s w e me d

/-- WCOMMIT (R339, R239). -/
def execWcommit (a b d : BitVec 5) (s : State) : Out := closeWindow s (snat s a) (snat s b) d

/-- WABORT (R339). -/
def execWabort (a d : BitVec 5) (s : State) : Out := closeWindow s (snat s a) 0 d

/-- WSTAT's word (R340): CLOSING of the open window, CLEAR of the window closed last. -/
def wstatWord (s : State) (tag : Nat) (e : BitVec 128) : Word :=
  let here (w : Window) : Bool := w.tag.toNat == tag && w.aspace == s.core.ctx.aspace
  let closing := s.windows.any fun w => here w && !w.clearing && w.closer.isSome
  let last := if eOpen e then eWnum e - 1 else eWnum e
  let clear := s.windows.any fun w => here w && w.clearing && w.wnum == last
  if eValid e then (0 : BitVec 30) ++ BitVec.ofBool clear ++ BitVec.ofBool closing ++ eWindow e else 0

/-- WSTAT (R340). -/
def execWstat (a d : BitVec 5) (s : State) : Out :=
  behindFence s
    (if snat s a / 2 ^ 32 ≠ 0 then .trap (Trap.of .windowState)
    else match dirFor s s.core.ctx.aspace (snat s a) with
      | .error c => .trap (Trap.of c)
      | .ok e => .ok (setS s d (wstatWord s (snat s a) e)))

/-- A context stalls at the close that a window is in: it publishes the close itself. -/
def closerStalls (s : State) (c : Closer) : Bool :=
  match ctxById s c.ctxId with
  | some x => x.inWindow
  | none => false

/-- POOL_CLEAR_COMPLETE (R339, R341, R342): the used bytes are zero, and the page is released. A close whose issuer has gone is first run to
its end. -/
def execPoolClearComplete (k : Nat) (s : State) : Out :=
  match s.windows[k]? with
  | none => .next s
  | some w =>
    if w.clearing then .next { zeroHome s w.pool w.used with windows := s.windows.eraseIdx k }
    else match w.closer, dirValid s w.aspace w.tag.toNat with
      | some c, .ok e => .next (if closerStalls s c || !closeReady s w c then s else (closeEnds s w e c).1)
      | _, _ => .next s

end Sys2Proof.Machine
end

