-- ==== Sys2Proof/Machine/Hearth.lean ====
section
/-! DEFINITION. The Hearth: pinning, saving, evicting and removing the slots of streams, silence eviction, and the binding of a
launch to its stream's slot (R362 to R367). -/

namespace Sys2Proof.Machine

/-- REGION in bytes (R362). -/
def hearthCap (s : State) (die : Nat) : Nat := min (vget s.hearth die ⟨0, 0, 0⟩).region.toNat 48 * 2 ^ 20

/-- SILENCE in cycles. -/
def hearthSilence (s : State) (die : Nat) : Nat := (vget s.hearth die ⟨0, 0, 0⟩).silence.toNat * 1024

/-- The entry occupies the region (R363). -/
def Stream.held (e : Stream) : Bool := e.state == .pinned || e.state == .evicting

/-- Bytes that the entries picked by `sel` occupy on a die. -/
def hearthUsed (s : State) (die : Nat) (sel : Stream → Bool) : Nat :=
  ((s.streams.filter fun e => e.die == die && sel e).map Stream.size).sum

/-- The entry of a stream on a die (R363). -/
def streamOf (s : State) (die : Nat) (aspace : BitVec 12) (n : BitVec 32) : Option Stream :=
  s.streams.find? fun e => e.die == die && e.aspace == aspace && e.stream == n

/-- Two stream entries are one: the same die and slot number. -/
def Stream.same (a b : Stream) : Bool := a.die == b.die && a.num == b.num

/-- A stream entry replaced. -/
def putStream (s : State) (e : Stream) : State := { s with streams := s.streams.map fun x => if x.same e then e else x }

/-- A pinned entry may be replaced or turn silent: no open window names it (R342, R364). -/
def evictable (s : State) (e : Stream) : Bool := e.state == .pinned && !slotNamed s e

/-- The older of two pinned entries, the lower slot number among equals (R365). -/
def olderStream (a b : Stream) : Bool := decide (a.last < b.last) || (decide (a.last = b.last) && decide (a.num < b.num))

/-- The entry that replacement chooses (R365). -/
def victimOf (s : State) (die : Nat) : Option Stream :=
  (s.streams.filter fun e => e.die == die && evictable s e).foldl (fun m e =>
    match m with
    | none => some e
    | some v => if olderStream e v then some e else m) none

/-- What making room for `n` bytes finds (R365). -/
inductive Room where
  | free
  | await
  | evict (victim : Stream)
  | never
deriving DecidableEq, Repr

/-- The state of the region for `n` more bytes. -/
def roomFor (s : State) (die n : Nat) : Room :=
  let cap := hearthCap s die
  if hearthUsed s die Stream.held + n ≤ cap then .free
  else if cap < hearthUsed s die (fun e => e.state == .pinned && slotNamed s e) + n then .never
  else if hearthUsed s die (fun e => e.state == .pinned) + n ≤ cap then .await
  else match victimOf s die with
    | some e => .evict e
    | none => .never

/-- A slot's bytes written home from every die (R365, R241). -/
def slotHome (s : State) (e : Stream) : State :=
  match walk s e.aspace e.base.toNat with
  | .ok l => flushHeld (flushHeld s 0 (leafPa l e.base.toNat) e.size) 1 (leafPa l e.base.toNat) e.size
  | .error _ => s

/-- A slot's lines dropped from L2, the dies' copies among them: those that it held raise the events of an eviction; which it held is a free
choice (R364, R373). -/
def slotDropped (s : State) (e : Stream) : State :=
  match walk s e.aspace e.base.toNat with
  | .ok l =>
    (List.range (e.size / 64)).foldl (fun t i =>
      let pa := leafPa l e.base.toNat + 64 * i
      if Config.freeMiss s.fresh (16 + i) then lineLeaves t ((homeDie t pa).getD e.die) pa (Config.freeMiss s.fresh (2048 + i)) else t)
      (dropLines s (leafPa l e.base.toNat) e.size)
  | .error _ => s

/-- An eviction's end: every byte is performed at .pkg, its lines are dropped, and the entry is evicted (R364, R365). -/
def evictedNow (s : State) (e : Stream) : State := putStream (slotDropped (slotHome s e) e) { e with state := .evicted }

/-- A free slot number of a die. -/
def freeSlotNum (s : State) (die : Nat) : Nat :=
  let taken := (s.streams.filter fun e => e.die == die).map fun e => e.num
  let free := (List.range 8192).filter fun n => !taken.contains n
  free.getD (Config.freeSlot s.fresh % max 1 free.length) 0

/-- What HPIN finds once its operands have passed (R367). -/
inductive Pin where
  | done (s : State) (v : Nat)
  | wait (s : State)
deriving DecidableEq, Repr

/-- The pin of a slot, serialised at its home (R364, R367): the status, with the number of the entry's slot where there is one. `begun`:
the HPIN has waited for an eviction of the entry. -/
def pinSlot (s : State) (die : Nat) (aspace : BitVec 12) (stream : BitVec 32) (va : Nat) (z : BitVec 3) (begun : Bool) :
    Except Trap Pin :=
  let size := 4096 * 2 ^ z.toNat
  let old := streamOf s die aspace stream
  let fits (e : Stream) : Bool := e.base.toNat == va && e.z == z
  let word (e : Stream) (st : Nat) : Nat := st + e.num * 2 ^ 16
  let repin (t : State) (e : Stream) : State := putStream t { e with state := .pinned, last := t.clock }
  let finish (t : State) : Except Trap Pin :=
    match roomFor t die size with
    | .never => .ok (.done t ((old.map fun e => word e 3).getD 3))
    | .await => .ok (.wait t)
    | .evict v => .ok (.wait (putStream t { v with state := .evicting }))
    | .free =>
      match old with
      | some e => .ok (.done (repin t e) (word e 1))
      | none =>
        let n := freeSlotNum t die
        .ok (.done { t with streams := t.streams ++ [⟨die, n, aspace, stream, BitVec.ofNat 64 va, z, .pinned, t.clock⟩] }
          (n * 2 ^ 16))
  let clash := s.streams.any fun e => e.die == die && e.aspace == aspace && e.stream != stream &&
    overlaps e.base.toNat e.size va size
  let full := decide (8192 ≤ (s.streams.filter fun e => e.die == die).length)
  match old with
  | some e =>
    if e.state = .evicting ∧ fits e = true then .ok (.wait s)
    else if e.state = .pinned ∧ fits e = true ∧ begun = true then .ok (.done (repin s e) (word e 1))
    else if e.state = .pinned ∨ fits e = false then .ok (.done s (word e 2))
    else if clash then .error (Trap.of .hearthState)
    else finish s
  | none => if clash then .error (Trap.of .hearthState) else if full then .ok (.done s 3) else finish s

/-- HPIN's checks of its operands and its page (R367). -/
def hpinCheck (s : State) (va x : Nat) : Option Trap :=
  let size := 4096 * 2 ^ natBits x 34 32
  if x / 2 ^ 35 ≠ 0 ∨ 4 < natBits x 34 32 then some (Trap.of .hearthState)
  else if va % size ≠ 0 then some (Trap.at .misalignedAccess va)
  else match walk s s.core.ctx.aspace va with
    | .error c => some (Trap.at c va)
    | .ok l =>
      if dState l.desc ≠ 1 ∨ isNear s (dFrame l.desc) = false then some (Trap.at .notResident va)
      else if !dR l.desc || !dW l.desc then some (Trap.at .permission va)
      else if leafVbase l va + 4096 * 2 ^ dSize l.desc < va + size then some (Trap.at .handleRange va)
      else none

/-- A Hearth instruction: absent without CAPS.HEARTH (R362), and held by a FENCE mark. -/
def inHearth (s : State) (e : Out) : Out :=
  if !capsHearth s then finish s (.trap (Trap.of .unitAbsent))
  else if fenceHeld s.core.ctx then finish s .stall
  else e

/-! Operations on one entry are serialised at its home, in the order in which they arrive there (R363). -/

/-- The context that performs an operation still stalls at it: it is a core's started context, and its group is not being stopped. -/
def StreamOp.live (s : State) (o : StreamOp) : Bool :=
  (allCores s).any fun k => k.ctx.state == .running && k.ctx.ctxId == o.ctxId && !k.stopping

/-- Two operations are on one entry. -/
def StreamOp.meets (a b : StreamOp) : Bool := a.die == b.die && a.aspace == b.aspace && a.stream == b.stream

/-- The started context's operation that stands in the order of arrival. -/
def myOp (s : State) : Option StreamOp := s.streamOps.find? fun o => o.ctxId == s.core.ctx.ctxId

/-- An operation on the same entry arrived before the started context's. -/
def opBehind (s : State) (o : StreamOp) : Bool :=
  (s.streamOps.takeWhile fun p => p.ctxId != o.ctxId).any fun p => p.meets o && p.live s

/-- The started context's operation leaves the order. -/
def opEnds (s : State) : State := { s with streamOps := s.streamOps.filter fun o => o.ctxId != s.core.ctx.ctxId }

/-- The started context's operation stands in the order, at the place it has or at its end. -/
def opStands (s : State) (o : StreamOp) : State :=
  { s with streamOps :=
      if (myOp s).isSome then s.streamOps.map fun p => if p.ctxId = o.ctxId then o else p else s.streamOps ++ [o] }

/-- What an operation on an entry comes to at its home. -/
inductive AtHome where
  | done (s : State) (v : Word)
  | trap (t : Trap)
  | wait (s : State) (begun : Bool)
deriving DecidableEq, Repr

/-- An operation of the started context on a stream's entry, in the order of arrival (R363): `act` performs it once its turn has come,
told whether it has begun to wait before. -/
def atStream (s : State) (stream : BitVec 32) (d : BitVec 5) (act : Bool → AtHome) : Out :=
  let fresh : StreamOp := ⟨s.core.die, s.core.ctx.aspace, stream, s.core.ctx.ctxId, false⟩
  let o := (myOp s).getD fresh
  if opBehind s o then .next (stallStep (opStands s o))
  else match act o.begun with
    | .done t v => inLine s (.ok (setS (opEnds t) d v))
    | .trap t => finish (opEnds s) (.trap t)
    | .wait t b => .next (stallStep (opStands t { o with begun := b }))

/-- HPIN (R367). -/
def execHpin (a b d : BitVec 5) (s : State) : Out :=
  let stream := (sreg s b).extractLsb' 0 32
  inHearth s
    (match hpinCheck s (snat s a) (snat s b) with
    | some t => finish (opEnds s) (.trap t)
    | none => atStream s stream d fun begun =>
      match pinSlot s s.core.die s.core.ctx.aspace stream (snat s a) ((sreg s b).extractLsb' 32 3) begun with
      | .error t => .trap t
      | .ok (.wait t) =>
        .wait t (begun || ((streamOf s s.core.die s.core.ctx.aspace stream).map Stream.state == some .evicting))
      | .ok (.done t v) => .done t (BitVec.ofNat 64 v))

/-- HUNPIN, HSAVE or HEVICT (R367): the entry that it names, or what its operand or its absence answers. -/
def onStream (s : State) (a d : BitVec 5) (e : Stream → Bool → AtHome) : Out :=
  let stream := (sreg s a).extractLsb' 0 32
  inHearth s
    (if snat s a / 2 ^ 32 ≠ 0 then finish s (.trap (Trap.of .hearthState))
    else atStream s stream d fun begun =>
      match streamOf s s.core.die s.core.ctx.aspace stream with
      | none => .done s 2
      | some x => e x begun)

/-- HUNPIN (R367). -/
def execHunpin (a d : BitVec 5) (s : State) : Out :=
  onStream s a d fun e _ =>
    if slotNamed s e then .trap (Trap.of .windowState)
    else .done { s with streams := s.streams.filter fun x => !x.same e } 0

/-- HSAVE (R367): a release at .pkg; the entry stays pinned. -/
def execHsave (a d : BitVec 5) (s : State) : Out :=
  onStream s a d fun e begun =>
    if accessesDone s then .done (slotHome (releaseAt s true) e) 0 else .wait s begun

/-- HEVICT (R367): a release at .pkg; the eviction is awaited, and one that has ended is not begun again. -/
def execHevict (a d : BitVec 5) (s : State) : Out :=
  onStream s a d fun e begun =>
    if begun then (if e.state = .evicting then .wait s true else .done s 0)
    else if slotNamed s e then .trap (Trap.of .windowState)
    else if accessesDone s = false then .wait s false
    else if e.state = .evicted then .done (releaseAt s true) 0
    else .wait (putStream (releaseAt s true) { e with state := .evicting }) true

/-- SILENCE_EVICTION (R364). -/
def execSilenceEviction (die k : Nat) (s : State) : Out :=
  match s.streams[k]? with
  | none => .next s
  | some e =>
    if e.die = die ∧ evictable s e = true ∧ hearthSilence s die ≠ 0 ∧ e.last + hearthSilence s die ≤ s.clock then
      .next (putStream s { e with state := .evicting })
    else .next s

/-- EVICTION_COMPLETE (R364, R365). -/
def execEvictionComplete (die k : Nat) (s : State) : Out :=
  match s.streams[k]? with
  | none => .next s
  | some e => if e.die = die ∧ e.state = .evicting then .next (evictedNow s e) else .next s

/-! The binding of a launch (R364, R366). -/

/-- An operation on the entry of a stream stands that arrived before a launch for it: the launch waits for its end (R363). -/
def streamBusy (s : State) (die : Nat) (aspace : BitVec 12) (stream : BitVec 32) : Bool :=
  s.streamOps.any fun o => o.die == die && o.aspace == aspace && o.stream == stream && o.live s

/-- Room made for a launch: the evictions it needs end within the step (R366; times are out of scope). -/
def roomNow (s : State) (die n : Nat) : Nat → Option State
  | 0 => none
  | fuel + 1 =>
    match roomFor s die n with
    | .free => some s
    | .never => none
    | .evict v => roomNow (evictedNow s v) die n fuel
    | .await =>
      match s.streams.find? fun e => e.die == die && e.state == .evicting with
      | some v => roomNow (evictedNow s v) die n fuel
      | none => none

/-- The Hearth slot address of a launch for a stream: zero for a stream with no entry; the slot is pinned where room can be made,
and NOPIN counts where not (R290, R364, R366). -/
def bindLaunch (s : State) (die : Nat) (aspace : BitVec 12) (stream : BitVec 32) : State × Word :=
  if !capsHearth s then (s, 0)
  else match streamOf s die aspace stream with
    | none => (s, 0)
    | some e =>
      let pin (t : State) : State := putStream t { e with state := .pinned, last := t.clock }
      if e.state = .pinned then (pin s, e.base)
      else
        let t := if e.state = .evicting then evictedNow s e else s
        match roomNow t die e.size (s.streams.length + 1) with
        | some u => (pin u, e.base)
        | none =>
          let h := vget t.hearth die ⟨0, 0, 0⟩
          ({ t with hearth := vset t.hearth die { h with nopin := if h.nopin = 0xFFFF then h.nopin else h.nopin + 1 } }, e.base)

end Sys2Proof.Machine
end

