-- ==== Sys2Proof/Machine/Lanes.lean ====
section
/-! DEFINITION. The lanes of a vector register: masking, verdict operands, issue into the vector queue, the axes, element
formats of banks and feeds, and register footprints in scratchpad (R136, R145 to R150, R159, R163). -/

namespace Sys2Proof.Machine

/-- The bits of a lane as a natural. -/
def laneAt (v : VReg) (i : Nat) : Nat := (v[i]?.getD 0).toNat

/-- A destination under a mask and a z bit (R147). -/
def underMask (act : BitVec 1024) (z : Bool) (old : VReg) (f : Nat → BitVec 32) : VReg :=
  Vector.ofFn fun i => if act.getLsbD i then f i else if z then 0 else old[i]

/-- A mask whose bits are given lane by lane. -/
def maskOf (f : Nat → Bool) : BitVec 1024 :=
  BitVec.ofNat 1024 ((List.range 1024).foldl (fun n i => if f i then n + 2 ^ i else n) 0)

/-- A mask destination under a mask and a z bit (R147). -/
def maskUnder (act : BitVec 1024) (z : Bool) (old : BitVec 1024) (f : Nat → Bool) : BitVec 1024 :=
  maskOf fun i => if act.getLsbD i then f i else !z && old.getLsbD i

/-- The flags of the active lanes (R147). -/
def maskFlags (act : BitVec 1024) (f : Nat → Fl) : Fl :=
  (List.range 1024).foldl (fun fl i => if act.getLsbD i then fl.join (f i) else fl) {}

/-- An active lane of a register is a verdict word (R150). -/
def anyVerdict (act : BitVec 1024) (v : VReg) : Bool :=
  (List.range 1024).any fun i => act.getLsbD i && isVerdict (v[i]?.getD 0)

/-- What a vector instruction does to its context: a trap, or the new context and the flags it gathers. -/
abbrev VEff := Except Trap (Context × Fl)

/-- A vector instruction's effect on the machine (R41, R149). -/
def vecDone (s : State) : VEff → Eff
  | .error t => .trap t
  | .ok (c, f) => .ok (modCtx s fun _ => { c with vmode := f.apply c.vmode })

/-- What issue fixes for an instruction with these scalar registers (R148). -/
def vecOps (s : State) (a b : BitVec 5) : VOps := ⟨sreg s a, sreg s b, s.core.ctx.vmode, Handle.invalid, s.core.seq⟩

/-- How a vector float operation narrows (R36, R40). -/
def VOps.narrow (o : VOps) : Narrow := ⟨vmodeRM o.vmode, false, vmodeFTZ o.vmode⟩

/-- Instructions that stand in the vector queue (R148). -/
def vecQueued (c : Context) : Nat :=
  (c.vq.filter fun e =>
    match e with
    | .instr .. => true
    | .marker => false).length

/-- What the trap of a vector instruction that issues now returns to (R149). -/
def snapOf (c : Context) : Snap := ⟨c.pc, c.ir, c.s, c.p, c.lc, c.loops, c.h, c.staging, c.vmode, c.perf⟩

/-- A vector instruction enters the vector queue (R148). -/
def vecEnqueue (i : Instr) (o : VOps) (s : State) : State :=
  modCore s fun k => { k with
    seq := k.seq + 1, ctx := { k.ctx with vq := k.ctx.vq ++ [.instr i o (snapOf k.ctx)] } }

/-- PERFC counts a vector instruction (R130). -/
def countVector (s : State) : State := modCtx s fun c => addPerf c 2 1

/-- Issue of a vector instruction (R148, R149): it starts at once when nothing stands before it, unless it is left for later or must
wait; else it enters the queue. A full queue stalls. -/
def vecIssue (i : Instr) (o : VOps) (e : VOps → State → Eff) (s : State) : Out :=
  let c := s.core.ctx
  let queued := inLine s (.ok (countVector (vecEnqueue i o s)))
  if i.wf = false then finish s (.trap (Trap.of .illegalInstruction))
  else if c.vq = [] ∧ s.later = false then
    match e o s with
    | .ok t => inLine s (.ok (countVector t))
    | .trap t => finish (countVector s) (.trap t)
    | .stall => queued
  else if vecQueued c < 16 then queued
  else .next (stallFull s)

/-- A lane-wise instruction without traps: results and flags per lane (R147). -/
def laneWise (s : State) (d : BitVec 5) (m : BitVec 3) (z : BitVec 1) (f : Nat → BitVec 32 × Fl) : VEff :=
  let c := s.core.ctx
  let act := mreg c m
  .ok (setV c d (underMask act (z == 1) (vreg c d) fun i => (f i).1), maskFlags act fun i => (f i).2)

/-- The verdict-operand check of the sources (R150). -/
def verdictFree (act : BitVec 1024) (srcs : List VReg) (e : VEff) : VEff :=
  if srcs.any (anyVerdict act) then .error (Trap.of .verdictOperand) else e

/-! The axes (R145, R159). -/

/-- An axis: along a row or along a column. -/
inductive Axis where
  | row | col
deriving DecidableEq, Repr

/-- Elements along an axis. -/
def Axis.len : Axis → Nat
  | .row => 64
  | .col => 16

/-- How many rows, or columns, there are. -/
def Axis.count : Axis → Nat
  | .row => 16
  | .col => 64

/-- The row, or column, that holds a lane. -/
def Axis.group : Axis → Nat → Nat
  | .row, i => i / 64
  | .col, i => i % 64

/-- A lane's place along the axis. -/
def Axis.place : Axis → Nat → Nat
  | .row, i => i % 64
  | .col, i => i / 64

/-- The lane at a place of a row or column. -/
def Axis.lane : Axis → Nat → Nat → Nat
  | .row, g, k => g * 64 + k
  | .col, g, k => k * 64 + g

/-- The lanes of a row or column, in order. -/
def Axis.lanes (ax : Axis) (g : Nat) : List Nat := (List.range ax.len).map (ax.lane g)

/-- The mask whose rows or columns are active where any of their lanes is (R160). -/
def Axis.spread (ax : Axis) (act : BitVec 1024) : BitVec 1024 :=
  let live := (List.range ax.count).map fun g => (ax.lanes g).any fun i => act.getLsbD i
  maskOf fun i => live.getD (ax.group i) false

/-! Reductions and scans (R44). -/

/-- One level of the pairwise tree: adjacent results combined. -/
def treeLevel {α : Type} (f : α → α → α × Fl) : List α → List α × Fl
  | x :: y :: r =>
    let (z, fl) := f x y
    let (zs, fr) := treeLevel f r
    (z :: zs, fl.join fr)
  | r => (r, {})

/-- The tree's levels. -/
def treeReduce {α : Type} (f : α → α → α × Fl) : Nat → List α → List α × Fl
  | 0, xs => (xs, {})
  | n + 1, xs =>
    let (ys, fl) := treeLevel f xs
    let (zs, fr) := treeReduce f n ys
    (zs, fl.join fr)

/-- The linear order: every prefix, with the flags of its steps. -/
def linearScan {α : Type} (f : α → α → α × Fl) (y : α) : List α → List α × Fl
  | [] => ([y], {})
  | x :: r =>
    let (z, fl) := f y x
    let (zs, fr) := linearScan f z r
    (y :: zs, fl.join fr)

/-- One step of the row scan: y(j) := y(j − d) + y(j) for every j at or above d at once. -/
def scanStep {α : Type} (f : α → α → α × Fl) (d : Nat) (ys : List α) : List α × Fl :=
  let rs := List.zipWith f ys (ys.drop d)
  (ys.take d ++ rs.map Prod.fst, rs.foldl (fun fl r => fl.join r.2) {})

/-- The reduction of an axis, as one value. -/
def axisReduce {α : Type} (ax : Axis) (f : α → α → α × Fl) (dflt : α) (xs : List α) : α × Fl :=
  match ax with
  | .row => let (ys, fl) := treeReduce f 6 xs; (ys.headD dflt, fl)
  | .col => let (ys, fl) := linearScan f (xs.headD dflt) xs.tail; (ys.getLastD dflt, fl)

/-- The inclusive scan of an axis. -/
def axisScan {α : Type} (ax : Axis) (f : α → α → α × Fl) (dflt : α) (xs : List α) : List α × Fl :=
  match ax with
  | .row => [1, 2, 4, 8, 16, 32].foldl (fun acc d =>
      let (ys, fl) := scanStep f d acc.1
      (ys, acc.2.join fl)) (xs, {})
  | .col => linearScan f (xs.headD dflt) xs.tail

/-- One step of a reduction or scan: add, min or max, on .f32, .i32 or .n32 (R160). -/
def axisOp (o : VOps) (t op : BitVec 2) (x y : Nat) : Nat × Fl :=
  match t.toNat, op.toNat with
  | 0, 0 => fAdd .f32 o.narrow x y
  | 0, k => fMinMax .f32 (k == 2) (vmodeFTZ o.vmode) x y
  | 1, 1 => (aluRes .min 32 x y, {})
  | 1, 2 => (aluRes .max 32 x y, {})
  | _, 1 => (aluRes .minn 32 x y, {})
  | _, 2 => (aluRes .maxn 32 x y, {})
  | _, _ => ((x + y) % 2 ^ 32, {})

/-- RSUMOV of a float sum: an infinite result from finite sources (R44). -/
def rsumov (t op : BitVec 2) (xs ys : List Nat) : Fl :=
  { rsumov := t == 0 && op == 0 && xs.all (fun x => (FFmt.f32.val x).isFin) && ys.any fun y => y % 2 ^ 31 == 0x7F800000 }

/-! Elements of banks and feeds (R163, R167). -/

/-- An element widened into a lane. -/
def widenElt (code bits : Nat) : BitVec 32 :=
  match numFmt code with
  | some (.flt .f32) => BitVec.ofNat 32 bits
  | some (.flt f) => BitVec.ofNat 32 (fCvt f .f32 .rne bits).1
  | some (.int w sg) => BitVec.ofNat 32 (wrap 32 (ofIntFmt w sg bits))
  | _ => BitVec.ofNat 32 bits

/-- A format that narrowing into tests for verdict words: every one but .f32, .i32, .n32 and .q4e (R52, R150, R163). -/
def narrowing (code : Nat) : Bool := decide (1 ≤ code) && decide (code ≤ 8)

/-- A lane narrowed into an element (R38, R163): its bits where the format keeps them, else one rounding or one saturation, with its
flags. -/
def narrowElt (o : VOps) (sat : Bool) (code lane : Nat) : Nat × Fl :=
  match numFmt code with
  | some (.flt .f32) => (lane, {})
  | some (.flt f) => fCvt .f32 f { o.narrow with sat := sat } lane
  | some (.int w sg) => if w < 32 then toIntFmt .rne w sg (Val.ofInt (ofIntFmt 32 sg lane)) else (lane % 2 ^ w, {})
  | _ => (lane % 16, {})

/-- The first byte of a range that lies in a bank of another BFMT (R136). -/
def otherBank (k : Core) (b : BitVec 2) (addr len : Nat) : Option Nat :=
  ((List.range (bufBanks b)).map fun n => (addr / 0x8000 + n + 1) * 0x8000).find? fun o =>
    decide (o < addr + len) && bfmtOf k (bankOf b o) != bfmtOf k (bankOf b addr)

/-- The first byte of the listed ranges that lies in a bank of another BFMT than its range's first, with its buffer code (R136). -/
def otherBanks (k : Core) (rs : List Range) : Option Nat :=
  rs.findSome? fun r => (otherBank k r.buf r.lo (r.hi - r.lo)).map (spAddr r.buf)

/-- The checks of VLD and VST before the range checker's wait (R163): the offset and footprint. -/
def footCheck (k : Core) (b : BitVec 2) (addr : Nat) (store : Bool) : Except Trap Foot :=
  let f := footOf k b addr
  if b = 3 then .error (Trap.of .illegalInstruction)
  else if addr % 64 ≠ 0 then .error (Trap.at .misalignedAccess (spAddr b addr))
  else if store && b == 0 then .error (Trap.at .bufferAccess (spAddr b addr))
  else if addr + f.len > bufSize k b then .error (Trap.at .scratchpadRange (spAddr b (bufSize k b)))
  else match otherBank k b addr f.len with
    | some o => .error (Trap.at .bankFormat (spAddr b o))
    | none => .ok f

/-- The bytes of a row of a register in scratchpad. -/
def rowRead (k : Core) (b : BitVec 2) (addr : Nat) (f : Foot) (r : Nat) : List Byte :=
  spRead k b (addr + r * f.pitch) (rowBytes f.fmt)

/-- Element c of a packed row. -/
def eltOf (code : Nat) (row : Nat) (c : Nat) : Nat := row / 2 ^ (c * codeWidth code) % 2 ^ codeWidth code

/-- A field of a 512-bit record replaced. -/
def putField (b : BitVec 512) (lo len v : Nat) : BitVec 512 :=
  let mask : BitVec 512 := BitVec.ofNat 512 ((2 ^ len - 1) * 2 ^ lo)
  (b &&& ~~~mask) ||| BitVec.ofNat 512 (v % 2 ^ len * 2 ^ lo)

end Sys2Proof.Machine
end

