-- ==== Sys2Proof/Machine/Patch.lean ====
section
/-! DEFINITION. Engine commands up to their start: templates, staging registers and patch words (R66 to R70), the entry of a
command into its class's queue (R195, R196), what a start waits for (R197, R198), and the NOTIFY markers (R199). -/

namespace Sys2Proof.Machine

/-! Template fields (R66, R69, R70). -/

/-- A kind code that R66 assigns to a class. -/
def kindOk (cls k : Nat) : Bool :=
  match cls with
  | 0 => decide (1 ≤ k) && decide (k ≤ 5)
  | 1 => decide (1 ≤ k) && decide (k ≤ 3)
  | 2 => decide (1 ≤ k) && decide (k ≤ 3)
  | 3 => decide (k = 1)
  | _ => decide (1 ≤ k) && decide (k ≤ 4)

/-- The field that a field select reaches: its lowest bit and its length; none where it is reserved (R69). -/
def fieldAt (cls k f : Nat) : Option (Nat × Nat) :=
  let when_ (b : Bool) (x : Nat × Nat) : Option (Nat × Nat) := if b then some x else none
  let wide (lo : Nat) : Option (Nat × Nat) := some (lo, 16)
  match cls, f with
  | 0, 0 => when_ (decide (k ≤ 3)) (16, 3)
  | 0, 1 => when_ (decide (k ≤ 3)) (20, 3)
  | 0, 2 => some (32, 11)
  | 0, 3 => some (48, 8)
  | 0, 4 => some (56, 8)
  | 0, 5 => when_ (decide (k ≤ 3)) (64, 16)
  | 0, 6 => some (80, 4)
  | 0, 7 => some (88, 5)
  | 0, 8 => when_ (k != 4) (94, 1)
  | 0, 9 => if k = 2 then some (112, 14) else if k = 3 then some (112, 4) else when_ (k == 5) (112, 13)
  | 0, 10 => if k = 2 then some (128, 2) else if k = 3 then some (128, 5) else when_ (k == 5) (125, 2)
  | 0, 11 => when_ (k == 3) (136, 5)
  | 0, 12 => when_ (k == 3) (144, 5)
  | 0, 13 => when_ (k == 3) (152, 5)
  | 1, 0 => when_ (k == 1) (16, 4)
  | 1, 1 => wide 32
  | 1, 2 => when_ (k != 3) (48, 16)
  | 1, 3 => when_ (k == 1) (64, 16)
  | 1, 4 => when_ (k != 3) (24, 4)
  | 1, 5 => wide 80
  | 1, 6 => when_ (k != 3) (96, 16)
  | 1, 7 => when_ (k != 3) (112, 16)
  | 1, 8 => wide 128
  | 1, 9 => wide 144
  | 1, 10 => wide 160
  | 1, 11 => wide 464
  | 1, 12 => some (484, 4)
  | 2, 0 => when_ (k != 3) (16, 4)
  | 2, 1 => when_ (k != 3) (32, 16)
  | 2, 2 => when_ (k != 3) (48, 16)
  | 2, 3 => when_ (k != 3) (64, 16)
  | 2, 4 => when_ (k != 3) (80, 14)
  | 2, 5 => when_ (k != 3) (96, 16)
  | 2, 6 => when_ (k != 3) (112, 16)
  | 2, 7 => when_ (k != 3) (128, 16)
  | 2, 8 => when_ (k != 3) (144, 16)
  | 2, 9 => when_ (k != 3) (176, 16)
  | 2, 10 => when_ (k != 3) (192, 4)
  | 2, 11 => when_ (k != 3) (208, 16)
  | 2, 12 => when_ (k != 3) (464, 16)
  | 2, 13 => when_ (k != 3) (484, 4)
  | 3, 0 => some (16, 4)
  | 3, 1 => wide 32
  | 3, 2 => wide 48
  | 3, 3 => wide 64
  | 3, 4 => some (24, 4)
  | 3, 5 => wide 80
  | 3, 6 => wide 96
  | 3, 7 => wide 112
  | 3, 8 => wide 128
  | 3, 9 => wide 144
  | 3, 10 => wide 160
  | 3, 11 => wide 176
  | 3, 12 => wide 464
  | 4, 0 => when_ (k == 1 || k == 3) (16, 4)
  | 4, 1 => when_ (k != 4) (32, 16)
  | 4, 2 => when_ (k != 4) (48, 16)
  | 4, 3 => when_ (k != 4) (64, 16)
  | 4, 4 => when_ (k == 1) (24, 4)
  | 4, 5 => when_ (k != 4) (80, 16)
  | 4, 6 => when_ (k != 4) (96, 16)
  | 4, 7 => when_ (k == 1 || k == 3) (112, 16)
  | 4, 8 => wide 128
  | 4, 9 => if k = 1 then some (144, 6) else when_ (k == 2) (144, 16)
  | 4, 10 => when_ (k == 1) (152, 8)
  | 4, 11 => when_ (k == 1) (160, 8)
  | 4, 12 => wide 464
  | _, _ => none

/-- The fields that only TMPL sets (R70), and those of the scoring kind (R328). -/
def tmplOnly (cls k : Nat) : List (Nat × Nat) :=
  match cls with
  | 0 => [(84, 1), (93, 1), (96, 2), (98, 1)] ++ (if k ≤ 3 then [(99, 1)] else [])
  | 1 => [(20, 2), (28, 2), (176, 48), (224, 240), (480, 3), (483, 1), (488, 3)]
  | 2 => if k = 3 then [(16, 4), (32, 48), (80, 14), (96, 4), (112, 6), (128, 14), (144, 32), (176, 16), (192, 32), (464, 16),
        (480, 3), (483, 1)] else [(160, 2), (480, 3), (483, 1)]
  | 3 => [(192, 4), (196, 5), (201, 3), (204, 4), (480, 3)]
  | _ => [(480, 3)] ++ (if k = 1 then [(168, 3), (171, 5), (176, 12)] else if k = 3 then [(144, 2)] else [])

/-- The bits of a kind's template that are named; every other bit is reserved (R69). -/
def namedBits (cls k : Nat) : BitVec 512 :=
  (((List.range 14).filterMap (fieldAt cls k)) ++ tmplOnly cls k ++ [(0, 8)]).foldl
    (fun (b : BitVec 512) (x : Nat × Nat) => putField b x.1 x.2 (2 ^ x.2 - 1)) 0

/-- A reserved bit is set (R69). -/
def reservedSet (cls k : Nat) (b : BitVec 512) : Bool := b &&& ~~~(namedBits cls k) != 0

/-! Patch words (R67). -/

/-- The staging register of a class. -/
def stagingOf (c : Context) (cls : Nat) : Option (BitVec 6 × BitVec 512) := vget c.staging cls none

/-- The body that a patch word amends: the staging copy, else the template. -/
def patchBase (s : State) (cls : Nat) (t : BitVec 6) : BitVec 512 :=
  match stagingOf s.core.ctx cls with
  | some (_, b) => b
  | none => vget (vget s.core.tmpl cls (Vector.replicate 64 0)) t.toNat 0

/-- KIND of a body. -/
def bodyKind (b : BitVec 512) : Nat := bodyNat b 0 8

/-- The checks of R67 and the amended body. -/
def patched (s : State) (cls : Nat) (t : BitVec 6) (f : BitVec 4) (v : BitVec 16) : Except Trap (BitVec 512) :=
  let b := patchBase s cls t
  let clash := match stagingOf s.core.ctx cls with
    | some (n, _) => n != t
    | none => false
  if clash then .error (Trap.of .patchSequence)
  else if !kindOk cls (bodyKind b) then .error (Trap.of .templateKind)
  else if f = 15 then (if v = 0 then .ok b else .error (Trap.of .illegalInstruction))
  else match fieldAt cls (bodyKind b) f.toNat with
    | none => .error (Trap.of .illegalInstruction)
    | some (lo, len) => if 2 ^ len ≤ v.toNat then .error (Trap.of .illegalInstruction) else .ok (putField b lo len v.toNat)

/-- The staging register of a class replaced. -/
def setStaging (s : State) (cls : Nat) (x : Option (BitVec 6 × BitVec 512)) : State :=
  modCtx s fun c => { c with staging := vset c.staging cls x }

/-- A hold word (R67). The search class needs the Quesar die (R72). -/
def holdWord (cls : Nat) (t : BitVec 6) (f : BitVec 4) (v : BitVec 16) (s : State) : Out :=
  inLine s
    (if cls = 4 ∧ capsQuesar s = false then .trap (Trap.of .unitAbsent)
    else match patched s cls t f v with
      | .error x => .trap x
      | .ok b => .ok (setStaging s cls (some (t, b))))

/-! Entering a queue (R195, R196). -/

/-- A command of the started context with nothing captured. -/
def baseCommand (s : State) (t : BitVec 6) (b : BitVec 512) : Command :=
  let c := s.core.ctx
  { kind := .tmpl (bodyKind b), tmpl := t, body := b, ctxId := c.ctxId, kernelId := c.kernelId, aspace := c.aspace, seqTag := c.seqTag
    die := s.core.die, core := s.core.num, repro := c.repro.getLsbD 0, noEffect := false, src := Handle.invalid
    dst := Handle.invalid, reads := [], writes := [], seq := s.core.seq, gid := s.order, aStart := 0, bStart := 0, aUnits := 0
    bUnits := 0, gang := [s.core.num], part := 0, chan := 0, progress := 0, under := 0, scales := [], need := 0, indices := []
    told := false, fault := none }

/-- The entries of a core's class queue. -/
def queueOf (k : Core) (cls : Nat) : List Command := vget k.q cls []

/-- A class queue has a free entry. -/
def queueFree (k : Core) (cls : Nat) : Bool := decide ((queueOf k cls).length < 8)

/-- A command enters a core's queue and takes its place in the issue order. -/
def pushCommand (k : Core) (cls : Nat) (c : Command) : Core :=
  { k with q := vset k.q cls (queueOf k cls ++ [{ c with seq := k.seq }]), seq := k.seq + 1 }

/-- The queues of every participant have a free entry (R188). -/
def gangFree (s : State) (cls : Nat) (c : Command) : Bool := c.gang.all fun n => queueFree (getCore s c.die n) cls

/-- One entry per participant, all at once (R188). -/
def enterQueues (s : State) (cls : Nat) (c : Command) (own : Nat → Command → Command) : State :=
  let t := c.gang.zipIdx.foldl (fun t (n, i) =>
    putCore t (pushCommand (getCore t c.die n) cls (own n { c with part := i }))) s
  { t with order := t.order + 1 }

/-- An issue word (R67): the amended body passes its kind's checks and enters the queue, or the word waits. `expect` is the kind
of the row; `check` gives the command; `enter` puts it into the queues. -/
def issueWord (cls expect : Nat) (t : BitVec 6) (f : BitVec 4) (v : BitVec 16)
    (check : State → BitVec 6 → BitVec 512 → Except Trap Command) (enter : State → Command → State) (s : State) : Out :=
  if cls = 4 ∧ capsQuesar s = false then finish s (.trap (Trap.of .unitAbsent))
  else if fenceHeld s.core.ctx then finish s .stall
  else
    match patched s cls t f v with
    | .error x => finish s (.trap x)
    | .ok b =>
      if bodyKind b ≠ expect ∨ reservedSet cls (bodyKind b) b = true then finish s (.trap (Trap.of .templateKind))
      else match check s t b with
        | .error x => finish s (.trap x)
        | .ok c =>
          if gangFree s cls c then inLine s (.counted 3 (.ok (setStaging (enter s c) cls none))) else .next (stallFull s)

/-- An effect that needs a free queue entry: without one it waits, once it has passed its checks (R130, R195). -/
def whenRoom (s : State) (room : Bool) (e : Eff) : Out :=
  match e with
  | .ok t => if room then inLine s (.ok t) else .next (stallFull s)
  | .trap t => finish s (.trap t)
  | .stall => finish s .stall

/-- The entry of a command that is not ganged. -/
def enterPlain (cls : Nat) (s : State) (c : Command) : State := enterQueues s cls c fun _ c => c

/-! Barriers and write pointers that commands name (R142, R204). -/

/-- BLVL and BAR of a copy, gather, collective or search body. -/
def bodyBar (b : BitVec 512) : Option (Nat × Nat) :=
  if bodyNat b 464 16 = 0xFFFF then none else some (bodyNat b 480 3, bodyNat b 464 16)

/-- The checks of BAR and BLVL (R70, R204, R266). -/
def barCheck (s : State) (b : BitVec 512) : Option Trap :=
  if 5 ≤ bodyNat b 480 3 then some (Trap.of .templateKind)
  else match bodyBar b with
    | none => none
    | some (l, n) =>
      if barCount l ≤ n then some (Trap.of .commandLimit)
      else if !allotted s (barKey l s.core.die s.core.num n) s.core.ctx.aspace then some (Trap.of .permission)
      else none

/-- Who a command's signals are charged to. -/
def chargeOf (c : Command) : Charge := ⟨c.aspace, c.kernelId, c.ctxId, c.die, c.core⟩

/-! What a start waits for (R197, R198, R214). -/

/-- A store or RED that a context issued before a place in its core's issue order has not been performed (R198, R199, R223). -/
def writesBefore (s : State) (ctxId : Word) (seq : Nat) : Bool :=
  (match ctxById s ctxId with
  | some x => x.accessQ.any fun a =>
      match a.kind with
      | .write .. => decide (a.seq < seq)
      | .red _ => decide (a.seq < seq)
      | _ => false
  | none => false) || s.reds.any fun r => r.ctxId == ctxId && decide (r.seq < seq)

/-- The place of a command in the issue order of its issuer's core, while its entry there has not ended. -/
def issuerSeq (s : State) (c : Command) : Option Nat :=
  ((unended (getCore s c.die c.core)).find? fun e => e.2.2.gid == c.gid).map fun e => e.2.2.seq

/-- What its issuer did before a command lets it start: every store and RED has been performed (R198), and every vector instruction has
passed its check pass (R149). -/
def issuerClear (s : State) (c : Command) : Bool :=
  match issuerSeq s c with
  | some n => !writesBefore s c.ctxId n && !uncheckedBefore (getCore s c.die c.core).ctx n
  | none => true

/-- A load that a context issued before a place in its core's issue order has no value yet. -/
def loadsBefore (s : State) (ctxId : Word) (seq : Nat) : Bool :=
  (ctxById s ctxId).any fun c => c.accessQ.any fun a =>
    match a.kind with
    | .load .. => decide (a.seq < seq)
    | _ => false

/-- A command's signal reaches its barrier, a release at the barrier's level (R229, R271, R272). -/
def giveSignal (s : State) (x : HeldSignal) : State :=
  let t := if levelWide x.level then flushDie s x.die else s
  let q : Charge := ⟨x.aspace, x.kernelId, x.ctxId, x.die, x.core⟩
  let key := barKey x.level x.die x.at_ x.num
  match x.bytes with
  | some n => subtractBytes t q key n x.fault
  | none => if x.home then signalHome t q x.num x.fault else signal t q key x.fault x.ginc

/-- A held signal joins those of its command at the same barrier: their bytes add up. -/
def joinHeld (x : HeldSignal) : List HeldSignal → List HeldSignal
  | [] => [x]
  | y :: r =>
    match x.bytes, y.bytes with
    | some n, some m =>
      if x.gid = y.gid ∧ x.die = y.die ∧ x.core = y.core then { y with bytes := some (m + n), fault := y.fault || x.fault } :: r
      else y :: joinHeld x r
    | _, _ => y :: joinHeld x r

/-- A command signals a barrier. As a release it is held until every load that its issuer issued before the command has its value; the
stores and REDs were performed before the command started (R198, R227, R229). -/
def commandSignal (s : State) (x : HeldSignal) : State :=
  if loadsBefore s x.ctxId x.seq then { s with heldSignals := joinHeld x s.heldSignals } else giveSignal s x

/-- Held signals whose loads have their values go out, in the order in which they came (log entry 116). -/
def giveHeld (s : State) : State :=
  s.heldSignals.foldl (fun t x =>
    if loadsBefore t x.ctxId x.seq then t else giveSignal { t with heldSignals := t.heldSignals.erase x } x) s

/-- A command's signal to a barrier of a level on a core, charged to its issuer: one arrival, unless `n` gives bytes. -/
def signalOf (s : State) (c : Command) (level at_ num : Nat) (n : Option Nat) (fault ginc : Bool) : HeldSignal :=
  ⟨(issuerSeq s c).getD c.seq, c.gid, c.aspace, c.kernelId, c.ctxId, c.die, c.core, level, at_, num, false, n, fault, ginc⟩

/-- The range checker releases a command (R197, R214). -/
def rangeFree (k : Core) (c : Command) : Bool := !waitsAt k c.seq c.reads c.writes && !feedBlocks k c

/-- A context of the core's group stalls at a window instruction: a save is taken only once the instruction has ended (R407). -/
def groupInWindow (s : State) (k : Core) : Bool :=
  (allCores s).any fun x => x.ctx.inWindow && x.group.isSome && x.group == k.group && x.die == k.die

/-- Scales that a copy-class command brings: none but an SQLD's (R176). -/
def sqldScales (c : Command) : Nat :=
  match c.kind with
  | .sqld _ _ n => n
  | _ => 0

/-- Nothing of a class starts on a core whose group is being stopped or saved (R102, R307, R407). A started tile command completes all the
same (R193): while it waits for scales that an SQLD in the copy queue brings, that queue runs on (log entry 76). -/
def stopHolds (s : State) (k : Core) (cls : Nat) : Bool :=
  k.stopping && !groupInWindow s k && !(cls == 1 && ((vget k.run 0 []).any fun c => c.need != 0) &&
    (queueOf k 1).any fun c => sqldScales c != 0)

/-- A command of a class may start as far as its core's range checker and its group go. -/
def released (s : State) (k : Core) (cls : Nat) (c : Command) : Bool := !stopHolds s k cls && rangeFree k c

/-- The head of a class queue that may start: released, and after its issuer's stores and vector checks. -/
def startHead (s : State) (cls : Nat) (kind : CmdKind) : Option Command :=
  match queueOf s.core cls with
  | c :: _ => if c.kind = kind ∧ released s s.core cls c = true ∧ issuerClear s c = true then some c else none
  | [] => none

/-- A command moves from its queue's head to the started ones. -/
def startCommand (k : Core) (cls : Nat) (c : Command) : Core :=
  { k with q := vset k.q cls (queueOf k cls).tail, run := vset k.run cls (vget k.run cls [] ++ [c]) }

/-- A started command leaves. -/
def endCommand (k : Core) (cls : Nat) (c : Command) : Core :=
  { k with run := vset k.run cls ((vget k.run cls []).filter fun x => !decide (x.gid = c.gid)) }

/-! NOTIFY markers (R199). -/

/-- A class marks a context's NOTIFY. -/
def markNotified (k : Core) (id : Word) (n : Nat) : Core :=
  { k with notifies := k.notifies.map fun x =>
      if x.ctxId = id then { x with notified := x.notified ||| BitVec.ofNat 6 (2 ^ n) } else x }

/-- The markers at the head of a queue leave it, one after the other. -/
def reachMarkers (n : Nat) : List Command → Core → Core
  | c :: r, k => if c.kind = .marker then reachMarkers n r (markNotified { k with q := vset k.q n r } c.ctxId n) else k
  | [], k => k

/-- The markers at the head of a queue whose earlier entries have all ended leave it. -/
def popMarker (k : Core) (n : Nat) : Core := if vget k.run n [] = [] then reachMarkers n (queueOf k n) k else k

/-- Every marker that has been reached leaves its queue. -/
def popMarkers (k : Core) : Core := (List.range 5).foldl popMarker k

/-- The same on a core of the machine. -/
def settleMarkers (s : State) (die num : Nat) : State := putCore s (popMarkers (getCore s die num))

/-! Records of commands (R399). -/

/-- The record of a faulted command. The manual gives SQLD no template kind and no template number: both are free values
(DESIGN CHOICE, log 83). -/
def commandRecord (cls core : Nat) (c : Command) (f : CmdFault) : Rec :=
  { cause := f.cause, src := if cls = 4 then 4 else 1, cls := cls
    kind := match c.kind with
      | .tmpl k => k
      | .bad k _ _ => k
      | .sqld _ off n => (Config.freeKind off n).toNat
      | _ => 1
    kernelId := c.kernelId, ctxId := c.ctxId, addr := f.addr
    word :=
      let num := match c.kind with
        | .sqld _ off n => Config.freeTemplate off n
        | _ => c.tmpl
      BitVec.ofNat 64 (num.toNat + f.progress * 2 ^ 32)
    core := core, die := c.die }

/-! Entries of a changed image that fail their checks (R106, R210, R272). -/

/-- The head of a class queue of the core that is such an entry, in its turn, with the fault that it ends with. -/
def badHead (s : State) (cls : Nat) : Option (Command × CmdFault) :=
  match queueOf s.core cls with
  | c :: _ =>
    match c.kind with
    | .bad _ cause addr => if released s s.core cls c = true ∧ issuerClear s c = true then some (c, ⟨cause, addr, 0⟩) else none
    | _ => none
  | [] => none

/-- The barrier that such an entry's body names, by level and number, if the level has it. -/
def badBar (cls : Nat) (c : Command) : Option (Nat × Nat) :=
  if cls = 0 then (if c.body.getLsbD 93 then some (0, bodyNat c.body 88 5) else none)
  else (bodyBar c.body).filter fun (l, n) => decide (l < 5) && decide (n < barCount l)

/-- It ends with nothing performed: it leaves its queue, with its record, and its barrier hears of the fault: the `n` bytes of a copy's or
gather's footprint, or one arrival. -/
def badEnds (s : State) (cls : Nat) (c : Command) (f : CmdFault) (n : Nat) : State :=
  let s1 := modCore s fun k => { k with q := vset k.q cls (queueOf k cls).tail }
  let s2 := writeRecord s1 c.aspace (commandRecord cls s.core.num c f)
  let s3 := match badBar cls c with
    | some (l, num) => commandSignal s2 (signalOf s c l c.core num (if cls = 1 ∨ cls = 2 then some n else none) true false)
    | none => s2
  settleMarkers s3 s.core.die s.core.num

/-- The first start of each class also ends such an entry at the head of its queue; `bytes` is its footprint's size. -/
def endsBad (cls : Nat) (bytes : Core → Command → Nat) (s : State) (start : Out) : Out :=
  match badHead s cls with
  | some (c, f) => .next (badEnds s cls c f (bytes s.core c))
  | none => start

/-- UNDERCNT of the issuing context takes a command's count (R39). -/
def creditUnder (s : State) (c : Command) : State :=
  if c.under = 0 then s
  else
    let f (x : Context) : Context :=
      if x.ctxId = c.ctxId ∧ x.kernelId = c.kernelId then
        { x with
          vmode := addUnder x.vmode c.under
          vq := x.vq.map fun e =>
            match e with
            | .instr i o y => .instr i o { y with vmode := addUnder y.vmode c.under }
            | .marker => .marker }
      else x
    mapCores s fun k => { k with ctx := f k.ctx, shadows := k.shadows.map f }

end Sys2Proof.Machine
end

