-- ==== Sys2Proof/Machine/Tile.lean ====
section
/-! DEFINITION. The tile commands: issue checks, rings and their claims, accumulation in K-groups, MSTORE and MZERO, the scale
queue, ganged commands and the end of a tile command (R170 to R193). -/

namespace Sys2Proof.Machine

/-! Fields of a matrix body (R69, R70, R180). -/

/-- M. -/
def tileM (b : BitVec 512) : Nat := bodyNat b 48 8 + 1
/-- N. -/
def tileN (b : BitVec 512) : Nat := bodyNat b 56 8 + 1
/-- K. -/
def tileK (b : BitVec 512) : Nat := bodyNat b 64 16 + 1
/-- The accumulator's C offset. -/
def tileAcc (b : BitVec 512) : Nat := 64 * bodyNat b 32 11
/-- ACCFMT = 1: I32. -/
def tileInt (b : BitVec 512) : Bool := b.getLsbD 98
/-- SCALE. -/
def tileScaled (b : BitVec 512) : Bool := b.getLsbD 99
/-- ZERO, or CLR of MSTORE. -/
def tileZero (b : BitVec 512) : Bool := b.getLsbD 94
/-- D of MMAS; 4 for the dense kinds (R184). -/
def tileD (b : BitVec 512) : Nat := if bodyKind b = 2 then (if bodyNat b 128 2 = 0 then 2 else 1) else 4
/-- RA (R177). -/
def tileRA (b : BitVec 512) : Nat := roundUp (4 * tileN b) 64
/-- The accumulator's bytes (R177). -/
def accRange (b : BitVec 512) : Range := Range.of 2 (tileAcc b) ((tileM b - 1) * tileRA b + 4 * tileN b)
/-- The kind streams operands. -/
def tileMul (b : BitVec 512) : Bool := decide (bodyKind b ≤ 3)
/-- GANG's positions, ascending. -/
def gangPositions (b : BitVec 512) : List Nat :=
  if bodyKind b = 3 then (List.range 4).filter fun p => (bodyNat b 112 4).testBit p else []
/-- PBARn. -/
def pbar (b : BitVec 512) (n : Nat) : Nat := bodyNat b (128 + 8 * n) 5
/-- Participants whose rows the A tile holds (R187). -/
def tileP (b : BitVec 512) : Nat := if bodyKind b = 3 then (gangPositions b).length else 1
/-- Rows and columns of a pass (R170). -/
def fuseShape (b : BitVec 512) : Nat × Nat :=
  match bodyNat b 96 2 with
  | 0 => (64, 64)
  | 1 => (32, 128)
  | _ => (128, 32)
/-- Passes (R170). -/
def tilePasses (b : BitVec 512) : Nat :=
  let (r, c) := fuseShape b
  ((tileM b + r - 1) / r) * ((tileN b + c - 1) / c)

/-- The K-group of a pair of operand formats, where the row allows SCALE and ACCFMT (R174). -/
def kGroup (fa fb : Nat) (scale int : Bool) : Option Nat :=
  match fa, fb, scale, int with
  | 1, 1, false, false => some 2
  | 2, 2, false, false => some 2
  | 3, 3, _, false => some 4
  | 3, 4, _, false => some 4
  | 4, 3, _, false => some 4
  | 4, 4, _, false => some 4
  | 5, 5, _, false => some 4
  | 5, 5, false, true => some 4
  | 13, 13, true, false => some 8
  | _, _, _, _ => none

/-! Rings (R171, R172). -/

/-- A ring of a core. -/
def ringAt (k : Core) (n : Nat) : Ring := vget k.rings n Ring.reset

/-- Buffer offset of a unit of a ring's stream, counted from `start` (R171). -/
def unitOff (r : Ring) (start i : Nat) : Nat := 64 * (r.base.toNat + (start + i) % 2 ^ 24 % r.size.toNat)

/-- RB of a row of `n` elements of width e (R172). -/
def rowUnits (n e : Nat) : Nat := (n * e + 511) / 512

/-- The format of the tile that starts at a ring's IHEAD. -/
def ringFmt (k : Core) (r : Ring) : Nat := bfmtFmt (bfmtOf k (bankOf r.buf (unitOff r r.ihead.toNat 0)))

/-- The buffer offsets of a ring tile's units, in order. -/
def unitOffs (r : Ring) (start units : Nat) : List Nat := (List.range units).map (unitOff r start)

/-- The first unit of a tile that lies in a bank of another BFMT (R174). -/
def ringClash (k : Core) (r : Ring) (units : Nat) : Option Nat :=
  let at_ (i : Nat) : BitVec 32 := bfmtOf k (bankOf r.buf (unitOff r r.ihead.toNat i))
  ((List.range (min units r.size.toNat)).find? fun i => at_ i != at_ 0).map (unitOff r r.ihead.toNat)

/-- The bytes of a ring tile, from its lowest to its highest (R171, R197). -/
def ringRange (r : Ring) (start units : Nat) : Range :=
  let offs := unitOffs r start units
  ⟨r.buf, offs.foldl min (offs.headD 0), offs.foldl max 0 + 64⟩

/-- TAIL − IHEAD. -/
def ringReady (r : Ring) : Nat := (r.tail - r.ihead).toNat

/-! Issue checks (R170, R174, R177, R180, R181, R183, R184, R187, R191). -/

/-- The metadata of a column, in bytes (R185). -/
def metaBytes (b : BitVec 512) : Nat := (tileK b * tileD b + 511) / 512 * 32
/-- Where a column's metadata begins in W. -/
def metaAt (b : BitVec 512) (n : Nat) : Nat := 32 * bodyNat b 112 14 + n * metaBytes b
/-- The bytes of a column's metadata that hold positions. -/
def metaUsed (b : BitVec 512) : Nat := (tileK b * tileD b / 2 + 7) / 8

/-- A trap where a condition holds. -/
def trapIf (p : Bool) (c : Cause) : Option Trap := if p then some (Trap.of c) else none

/-- The check of the accumulator (R177). TADDR of "bank format" is the first byte of the footprint in a bank whose format is not the
accumulator's, or differs from the first bank's, with the buffer code (log entry 77). -/
def accCheck (k : Core) (b : BitVec 512) : Option Trap :=
  let r := accRange b
  let banks := (List.range 4).filter fun i => decide (i * 0x8000 < min r.hi (bufSize k 2)) && decide (r.lo < (i + 1) * 0x8000)
  let fmt (i : Nat) : BitVec 32 := bfmtOf k (20 + i)
  let ok (v : BitVec 32) : Bool := if tileInt b then bfmtFmt v == 9 || bfmtFmt v == 10 else bfmtFmt v == 0
  match banks.find? fun i => !ok (fmt i) || fmt i != fmt (banks.headD 0) with
  | some i => some (Trap.at .bankFormat (spAddr 2 (max r.lo (i * 0x8000))))
  | none => if bufSize k 2 < r.hi then some (Trap.at .scratchpadRange (spAddr 2 (bufSize k 2))) else none

/-- The units of the A and B tiles (R172, R187). -/
def tileUnits (k : Core) (b : BitVec 512) : Nat × Nat :=
  let fa := ringFmt k (ringAt k (bodyNat b 16 3))
  let fb := ringFmt k (ringAt k (bodyNat b 20 3))
  (tileP b * tileM b * rowUnits (tileK b) (codeWidth fa), tileN b * rowUnits (tileK b * tileD b / 4) (codeWidth fb))

/-- The K-group of a body's operand formats (R174). -/
def bodyGroup (k : Core) (b : BitVec 512) : Option Nat :=
  kGroup (ringFmt k (ringAt k (bodyNat b 16 3))) (ringFmt k (ringAt k (bodyNat b 20 3))) (tileScaled b) (tileInt b)

/-- The format of a tile whose ring and first unit are given. -/
def tileFmt (k : Core) (r : Ring) (start : Nat) : Nat := bfmtFmt (bfmtOf k (bankOf r.buf (unitOff r start 0)))

/-- The K-group of an issued command: by the rings of its issuer's core, at its own tiles (R174, R187). -/
def commandGroup (issuer : Core) (c : Command) : Nat :=
  let b := c.body
  (kGroup (tileFmt issuer (ringAt issuer (bodyNat b 16 3)) c.aStart) (tileFmt issuer (ringAt issuer (bodyNat b 20 3)) c.bStart)
    (tileScaled b) (tileInt b)).getD 1

/-- The check of the operands' formats and of K (R174). A ring that is not configured holds no tile: it is met among the fields. TADDR of
a bank-format trap is 0 but where the operand's banks differ (log entry 77). -/
def operandCheck (k : Core) (b : BitVec 512) : Option Trap :=
  let ra := ringAt k (bodyNat b 16 3)
  let rb := ringAt k (bodyNat b 20 3)
  let (ua, ub) := tileUnits k b
  if !ra.valid || !rb.valid then none
  else match ringClash k ra ua, ringClash k rb ub with
    | some o, _ => some (Trap.at .bankFormat (spAddr ra.buf o))
    | _, some o => some (Trap.at .bankFormat (spAddr rb.buf o))
    | none, none =>
      match bodyGroup k b with
      | none => some (Trap.of .bankFormat)
      | some g => trapIf (decide (tileK b % g ≠ 0) || (tileScaled b && decide (tileK b % 32 ≠ 0))) .commandLimit

/-- The limit of R183, with D in place for MMAS (R184). -/
def lengthCheck (k : Core) (b : BitVec 512) : Option Trap :=
  trapIf (decide (2032 * 4 * (bodyGroup k b).getD 1 < tilePasses b * (tileK b * tileD b))) .commandLimit

/-- The check of MMAS's density, K and metadata (R184, R185). R184 wants K a multiple of 4 and names no cause: command limit, as for one
that is no multiple of the K-group (log entry 126, DESIGN CHOICE). -/
def sparseCheck (k : Core) (b : BitVec 512) : Option Trap :=
  if bodyKind b ≠ 2 then none
  else if 2 ≤ bodyNat b 128 2 then some (Trap.of .templateKind)
  else if tileK b % 4 ≠ 0 then some (Trap.of .commandLimit)
  else if bufSize k 0 < 32 * bodyNat b 112 14 + tileN b * metaBytes b then some (Trap.at .scratchpadRange (spAddr 0 (bufSize k 0)))
  else none

/-- The check of a gang (R187). A mask that names the issuer alone is gang membership: the manual gives P = 1 no cause (log entry 108). -/
def gangCheck (k : Core) (b : BitVec 512) : Option Trap :=
  let pos := gangPositions b
  let own := k.num % 4
  if bodyKind b ≠ 3 then none
  else if !pos.contains own || pos.length < 2 || pos.any fun p => !k.gang.contains (k.num / 4 * 4 + p) then
    some (Trap.of .gangMembership)
  else if (List.range 4).any fun p => pbar b p != 0 && (p == own || !pos.contains p || !b.getLsbD 93) then
    some (Trap.of .templateKind)
  else none

/-- The check of MSTORE's destination (R191). TADDR of a bank-format trap is 0 for a .q4e destination (log entry 77). -/
def storeCheck (k : Core) (b : BitVec 512) : Except Trap Range :=
  let buf := BitVec.ofNat 2 (bodyNat b 125 2)
  let dst := 64 * bodyNat b 112 13
  let fmt := bfmtOf k (bankOf buf dst)
  let e := codeWidth (bfmtFmt fmt)
  let r := Range.of buf dst ((tileM b - 1) * (64 * rowUnits (tileN b) e) + tileN b * e / 8)
  if bufSize k buf ≤ dst then .error (Trap.at .scratchpadRange (spAddr buf dst))
  else match otherBank k buf dst (min r.hi (bufSize k buf) - dst) with
    | some o => .error (Trap.at .bankFormat (spAddr buf o))
    | none =>
      if bfmtFmt fmt = 13 then .error (Trap.of .bankFormat)
      else if bufSize k buf < r.hi then .error (Trap.at .scratchpadRange (spAddr buf (bufSize k buf)))
      else if r.meets (accRange b) then .error (Trap.of .commandLimit)
      else .ok r

/-- The checks of the fields, in the order of the table of R180: rings, DBUF, FUSE, and the fields that an enable of 0 wants zero. -/
def tileFields (k : Core) (b : BitVec 512) : Option Trap :=
  let ra := ringAt k (bodyNat b 16 3)
  let rb := ringAt k (bodyNat b 20 3)
  if tileMul b && (bodyNat b 16 3 == bodyNat b 20 3 || !ra.valid || !rb.valid) then some (Trap.of .ringState)
  else trapIf ((bodyKind b == 5 && bodyNat b 125 2 == 3) || (!tileMul b && bodyNat b 96 2 != 0) ||
    (!b.getLsbD 93 && bodyNat b 88 5 != 0) || (!b.getLsbD 84 && bodyNat b 80 4 != 0)) .templateKind

/-- The tile predicate retires the command (R178). -/
def predicateOff (s : State) (b : BitVec 512) : Bool :=
  b.getLsbD 84 && !s.core.tpred.getLsbD (bodyNat b 80 4) && !s.core.ctx.repro.getLsbD 0

/-- The first trap among checks. -/
def firstTrap (l : List (Option Trap)) : Option Trap := l.findSome? id

/-- The accumulator as a multiplication reads it: not at all with ZERO = 1 (R180). -/
def accReads (b : BitVec 512) : List Range := if tileZero b then [] else [accRange b]

/-- A multiplication's claims and footprint, once it has passed its checks (R181). -/
def mulCommand (k : Core) (b : BitVec 512) (base : Command) : Except Trap Command :=
  let ra := ringAt k (bodyNat b 16 3)
  let rb := ringAt k (bodyNat b 20 3)
  let (ua, ub) := tileUnits k b
  if ringReady ra < ua ∨ ringReady rb < ub then .error (Trap.of .ringState)
  else
    let meta_ := if bodyKind b = 2 then [Range.of 0 (32 * bodyNat b 112 14) (tileN b * metaBytes b)] else []
    .ok { base with
      reads := [ringRange ra ra.ihead.toNat ua, ringRange rb rb.ihead.toNat ub] ++ accReads b ++ meta_
      writes := [accRange b], aStart := ra.ihead.toNat, bStart := rb.ihead.toNat, aUnits := ua, bUnits := ub
      need := if tileScaled b then tileK b / 32 * (tileP b * tileM b + tileN b) else 0
      gang := if bodyKind b = 3 then (gangPositions b).map fun p => k.num / 4 * 4 + p else [k.num] }

/-- A tile command's checks, in the order of the chapter's entries, and the command with its claims and footprint (R170, R174, R177, R180,
R181, R183 to R185, R187, R191; log entry 78). -/
def tileCheck (s : State) (t : BitVec 6) (b : BitVec 512) : Except Trap Command :=
  let k := s.core
  let base := { baseCommand s t b with noEffect := predicateOff s b }
  let onlyMul (x : Option Trap) : Option Trap := if tileMul b then x else none
  match firstTrap
    [trapIf (bodyNat b 96 2 == 3) .templateKind, onlyMul (operandCheck k b), accCheck k b, tileFields k b,
      onlyMul (lengthCheck k b), sparseCheck k b, gangCheck k b] with
  | some x => .error x
  | none =>
    if tileMul b then mulCommand k b base
    else if bodyKind b = 5 then
      match storeCheck k b with
      | .error x => .error x
      | .ok r => .ok { base with reads := [accRange b], writes := if tileZero b then [r, accRange b] else [r] }
    else .ok { base with writes := [accRange b] }

/-- IHEAD of the rings advanced by the command's claims (R181). -/
def claimRings (k : Core) (c : Command) : Core :=
  let adv (rs : Vector Ring 8) (n u : Nat) : Vector Ring 8 :=
    let r := vget rs n Ring.reset
    vset rs n { r with ihead := r.ihead + BitVec.ofNat 24 u }
  if tileMul c.body then
    { k with rings := adv (adv k.rings (bodyNat c.body 16 3) c.aUnits) (bodyNat c.body 20 3) c.bUnits }
  else k

/-- A tile command enters the matrix queue of every participant; a partner's entry carries only its accumulator, and the issuer's
all the scales (R181, R187, R188). -/
def enterTile (s : State) (c : Command) : State :=
  enterQueues (modCore s fun k => claimRings k c) 0 c fun n x =>
    if n = c.core then x else { x with reads := accReads c.body, need := 0 }

/-- MMA (R67, R183). -/
def execMma (t : BitVec 6) (f : BitVec 4) (v : BitVec 16) (s : State) : Out := issueWord 0 1 t f v tileCheck enterTile s

/-- MMAS (R184). -/
def execMmas (t : BitVec 6) (f : BitVec 4) (v : BitVec 16) (s : State) : Out := issueWord 0 2 t f v tileCheck enterTile s

/-- MMAG (R187). -/
def execMmag (t : BitVec 6) (f : BitVec 4) (v : BitVec 16) (s : State) : Out := issueWord 0 3 t f v tileCheck enterTile s

/-- MZERO (R190). -/
def execMzero (t : BitVec 6) (f : BitVec 4) (v : BitVec 16) (s : State) : Out := issueWord 0 4 t f v tileCheck enterTile s

/-- MSTORE (R191). -/
def execMstore (t : BitVec 6) (f : BitVec 4) (v : BitVec 16) (s : State) : Out := issueWord 0 5 t f v tileCheck enterTile s

/-- MATRIX_HOLD (R67). -/
def execMatrixHold (t : BitVec 6) (f : BitVec 4) (v : BitVec 16) (s : State) : Out := holdWord 0 t f v s

/-! Accumulation (R42, R43, R175, R183, R185). -/

/-- An operand row: its values along k, and the K index of the first group that is a format conflict. -/
structure Row where
  vals : List Val
  clash : Option Nat
deriving DecidableEq, Repr

/-- The values of elements packed in bytes, element 0 at the lowest address (R172). -/
def decodeRow (fmt n : Nat) (bytes : List Byte) : Row :=
  let get (i : Nat) : Nat := (bytes.getD i 0).toNat
  if fmt = 13 then
    let gs := (List.range (n / 4)).map fun q => q4Decode (get (2 * q) + 256 * get (2 * q + 1))
    ⟨gs.flatMap fun g => g.getD (List.replicate 4 (.fin false 0 0)), (gs.findIdx? Option.isNone).map fun q => 4 * q⟩
  else
    let w := codeWidth fmt / 8
    ⟨(List.range n).map fun i =>
      let x := leNat ((List.range w).map fun j => bytes.getD (w * i + j) 0)
      match numFmt fmt with
      | some (.flt f) => f.val x
      | some (.int b sg) => Val.ofInt (ofIntFmt b sg x)
      | _ => .nan, none⟩

/-- The bytes of row m of a ring tile. -/
def ringRow (k : Core) (r : Ring) (start units m : Nat) : List Byte :=
  (List.range units).flatMap fun j => spRead k r.buf (unitOff r start (m * units + j)) 64

/-- The first element of a ring tile's row whose word has an uncorrectable error, with the word's offset. -/
def ringBad (k : Core) (r : Ring) (start units m n e : Nat) : Option (Nat × Nat) :=
  (List.range n).findSome? fun i =>
    let o := unitOff r start (m * units + i * e / 512) + i * e / 8 % 64
    (spBad k r.buf o ((e + 7) / 8)).map fun x => (i, spAddr r.buf (x / 8 * 8))

/-- A row of kept elements expanded by its column's metadata; none where the positions of a quad do not rise (R185). -/
def expandRow (D : Nat) (kept : List Val) (meta_ : Nat) (K : Nat) : Option (List Val) :=
  let quads := (List.range (K / 4)).map fun q =>
    let pos := (List.range D).map fun j => meta_ / 2 ^ (2 * (q * D + j)) % 4
    if D = 2 ∧ pos.getD 1 0 ≤ pos.getD 0 0 then none
    else some ((List.range 4).map fun p =>
      match pos.findIdx? fun x => x == p with
      | some j => kept.getD (q * D + j) .nan
      | none => .fin false 0 0)
  if quads.any Option.isNone then none else some (quads.flatMap fun q => q.getD [])

/-- Values times their block's scale (R34, R175). -/
def scaleRow (scales : List Val) (vals : List Val) : List Val :=
  vals.zipIdx.map fun (v, i) => (mulV v (scales.getD (i / 32) (.fin false 0 0))).1

/-- The products of a K-group. -/
def groupProducts (a b : List Val) : List Val := List.zipWith (fun x y => (mulV x y).1) a b

/-- The exact sum of a K-group (R42). That of I8 sources is an integer, whose zero has no sign: it stays +0 under SCALE = 1 too, where
the manual gives no sign (log entry 31). -/
def groupSum (i8 : Bool) (ps : List Val) : Val := ps.foldl (fun s p => (addV .rne s p).1) (.fin (!i8) 0 0)

/-- One accumulator through `n` K-groups of size g (R42, R43, R183). -/
def accumulate (int skip i8 : Bool) (g : Nat) (a b : List Val) : Nat → Nat → Nat → Nat
  | 0, _, acc => acc
  | n + 1, q, acc =>
    let ps := groupProducts ((a.drop (q * g)).take g) ((b.drop (q * g)).take g)
    let next :=
      if skip && ps.all Val.isZero then acc
      else if int then
        match groupSum i8 ps with
        | .fin neg m e => (acc + wrap 32 (scaledInt neg m e 0)) % 2 ^ 32
        | _ => acc
      else (roundTo .f32 .rne (addV .rne (FFmt.f32.val acc) (groupSum i8 ps)).1).1
    accumulate int skip i8 g a b n (q + 1) next

/-- C offset of an accumulator. -/
def accOff (b : BitVec 512) (m n : Nat) : Nat := tileAcc b + m * tileRA b + 4 * n

/-- An accumulator's bits. -/
def accRead (k : Core) (b : BitVec 512) (m n : Nat) : Nat := leNat (spRead k 2 (accOff b m n) 4)

/-- Every place of a tile, row by row. -/
def tileCells (b : BitVec 512) : List (Nat × Nat) :=
  (List.range (tileM b)).flatMap fun m => (List.range (tileN b)).map fun n => (m, n)

/-- The earliest of faults at K-groups; of two at one K-group the first listed. -/
def earliest (l : List (Nat × Cause × Nat)) : Option (Nat × Cause × Nat) :=
  l.foldl (fun x y =>
    match x with
    | none => some y
    | some z => if y.1 < z.1 then some y else x) none

/-- What the shared operands of a tile command give: the rows, the K-group size, and their fault if any (R175, R183, R185, R189). -/
structure Operands where
  a : List (List Val)
  b : List (List Val)
  g : Nat
  i8 : Bool
  fault : Option (Nat × Cause × Nat)
deriving DecidableEq, Repr

/-- The shared operands, from the issuer's rings, metadata and scales. The record's ADDR of a verdict operand, a format conflict or bad
metadata is 0 (log entry 109). -/
def tileOperands (k : Core) (c : Command) : Operands :=
  let b := c.body
  let ra := ringAt k (bodyNat b 16 3)
  let rb := ringAt k (bodyNat b 20 3)
  let fa := tileFmt k ra c.aStart
  let fb := tileFmt k rb c.bStart
  let K := tileK b
  let kept := K * tileD b / 4
  let rows := tileP b * tileM b
  let ua := rowUnits K (codeWidth fa)
  let ub := rowUnits kept (codeWidth fb)
  let g := commandGroup k c
  let per := rows + tileN b
  let scaleOf (i : Nat) : List Val := (List.range (K / 32)).map fun j => FFmt.bf16.val (c.scales.getD (j * per + i) 0).toNat
  let scaled (i : Nat) (vs : List Val) : List Val := if tileScaled b then scaleRow (scaleOf i) vs else vs
  let rowsA := (List.range rows).map fun m => decodeRow fa K (ringRow k ra c.aStart ua m)
  let rowsB := (List.range (tileN b)).map fun n => decodeRow fb kept (ringRow k rb c.bStart ub n)
  let metaOf (n : Nat) : Nat := leNat (spRead k 0 (metaAt b n) (metaUsed b))
  let full := rowsB.zipIdx.map fun (r, n) => if bodyKind b = 2 then expandRow (tileD b) r.vals (metaOf n) K else some r.vals
  let sparse := if full.any Option.isNone then [(0, Cause.sparseMetadata, 0)] else []
  let badMeta := if bodyKind b = 2 then
      match (List.range (tileN b)).findSome? fun n => spBad k 0 (metaAt b n) (metaUsed b) with
      | some o => [(0, Cause.storageError, spAddr 0 (o / 8 * 8))]
      | none => []
    else []
  let D := tileD b
  let wide (n i : Nat) : Nat := if bodyKind b = 2 then 4 * (i / D) + metaOf n / 2 ^ (2 * i) % 4 else i
  let clash := (rowsA.filterMap fun r => r.clash.map fun i => (i / g, Cause.formatConflict, 0)) ++
    rowsB.zipIdx.filterMap fun (r, n) => r.clash.map fun i => (wide n i / g, Cause.formatConflict, 0)
  let bad := ((List.range rows).filterMap fun m =>
      (ringBad k ra c.aStart ua m K (codeWidth fa)).map fun x => (x.1 / g, Cause.storageError, x.2)) ++
    (List.range (tileN b)).filterMap fun n =>
      (ringBad k rb c.bStart ub n kept (codeWidth fb)).map fun x => (wide n x.1 / g, Cause.storageError, x.2)
  let starved := if c.need = 0 then [] else [(c.scales.length / per * 32 / g, Cause.queueImbalance, 0)]
  { a := rowsA.zipIdx.map fun (r, m) => scaled m r.vals
    b := full.zipIdx.map fun (r, n) => scaled (rows + n) (r.getD [])
    g := g, i8 := decide (fa = 5)
    fault := earliest (badMeta ++ sparse ++ bad ++ clash ++ starved) }

/-- The fault that a participant's own accumulator gives a multiplication (R52, R143, R183, R189): its bank formats are checked at issue on
the issuer, and here on a partner. Each element is a partial write of its word, so a word's error is met under ZERO too (R404). -/
def accFault (k : Core) (b : BitVec 512) : Option (Nat × Cause × Nat) :=
  let r := accRange b
  match accCheck k b with
  | some t => some (0, t.cause, t.addr.toNat)
  | none =>
    match (List.range (tileM b)).findSome? fun m => spBad k 2 (accOff b m 0) (4 * tileN b) with
    | some o => some (0, .storageError, spAddr r.buf (o / 8 * 8))
    | none =>
      if !tileZero b && (tileCells b).any fun (m, n) => isVerdict (BitVec.ofNat 32 (accRead k b m n)) then
        some (0, .verdictOperand, 0)
      else none

/-- One accumulator after `groups` K-groups (R183). -/
def mulCell (k : Core) (c : Command) (o : Operands) (part groups m n : Nat) : Nat :=
  accumulate (tileInt c.body) (decide (bodyKind c.body = 2) && !c.repro) o.i8 o.g
    (o.a.getD (part * tileM c.body + m) []) (o.b.getD n []) groups 0 (if tileZero c.body then 0 else accRead k c.body m n)

/-- Every accumulator after `groups` K-groups, a row at a time; none is written before the first. Each element is a write of a part of its
word, so a word that has an uncorrectable error keeps it (R143, R189, R404; log entry 130). -/
def mulCells (k : Core) (c : Command) (o : Operands) (part groups : Nat) : Core :=
  if groups = 0 then k
  else
    let t := (List.range (tileM c.body)).foldl (fun t m =>
      spWrite t 2 (accOff c.body m 0) ((List.range (tileN c.body)).flatMap fun n => leBytes 4 (mulCell k c o part groups m n))) k
    { t with bad := k.bad }

/-- The fault of a participant's own accumulator: one found as the command started is met at its first K-group, and one that has come up
since at a K-group that is free: `pick` (R189; log entry 102). -/
def ownFault (k : Core) (c : Command) (started : Option CmdFault) (groups pick : Nat) : Option (Nat × Cause × Nat) :=
  match started with
  | some f => some (0, f.cause, f.addr.toNat)
  | none => (accFault k c.body).map fun f => (pick % groups, f.2)

/-- A multiplication on one participant (R183, R189): its sums through the last K-group completed, and its fault. -/
def mulOn (k : Core) (c : Command) (o : Operands) (part : Nat) (started : Option CmdFault) (pick : Nat) : Core × Option CmdFault :=
  match earliest ((ownFault k c started (tileK c.body / o.g) pick).toList ++ o.fault.toList) with
  | some (q, cause, addr) => (mulCells k c o part q, some ⟨cause, BitVec.ofNat 64 addr, q⟩)
  | none => (mulCells k c o part (tileK c.body / o.g), none)

/-! MZERO and MSTORE (R190, R191). -/

/-- Rows of an MZERO, ascending, until one meets an error. -/
def zeroRows (k : Core) (b : BitVec 512) : Nat → Nat → Core × Option CmdFault
  | 0, _ => (k, none)
  | n + 1, m =>
    match spBadWrite k 2 (accOff b m 0) (4 * tileN b) with
    | some o => (k, some ⟨.storageError, BitVec.ofNat 64 (spAddr 2 (o / 8 * 8)), m⟩)
    | none => zeroRows (spWrite k 2 (accOff b m 0) (List.replicate (4 * tileN b) 0)) b n (m + 1)

/-- One accumulator as MSTORE stores it: bits unchanged in the accumulator's own format, else one rounding; none for a verdict
word. -/
def storeElt (int sat : Bool) (fmt x : Nat) : Option (Nat × Nat) :=
  if (int && (fmt == 9 || fmt == 10)) || (!int && fmt == 0) then some (x, 0)
  else if !int && isVerdict (BitVec.ofNat 32 x) then none
  else
    let src : NumFmt := if int then .int 32 true else .flt .f32
    match numFmt fmt with
    | some dst => let (y, fl) := convert src dst ⟨.rne, sat, false⟩ x; some (y, fl.under)
    | none => some (x, 0)

/-- Rows of an MSTORE, ascending, until one meets a fault; with the count of R39. -/
def storeRows (k : Core) (c : Command) (dst : Range) (fmt : BitVec 32) : Nat → Nat → Nat → Core × Nat × Option CmdFault
  | 0, _, under => (k, under, none)
  | n + 1, m, under =>
    let b := c.body
    let w := codeWidth (bfmtFmt fmt) / 8
    let off := dst.lo + m * (64 * rowUnits (tileN b) (8 * w))
    let stop (cause : Cause) (addr : Nat) : Core × Nat × Option CmdFault := (k, under, some ⟨cause, BitVec.ofNat 64 addr, m⟩)
    let elts := (List.range (tileN b)).map fun i => storeElt (tileInt b) (bfmtSat fmt) (bfmtFmt fmt) (accRead k b m i)
    match spBad k 2 (accOff b m 0) (4 * tileN b), spBadWrite k dst.buf off (w * tileN b) with
    | some o, _ => stop .storageError (spAddr 2 (o / 8 * 8))
    | _, some o => stop .storageError (spAddr dst.buf (o / 8 * 8))
    | none, none =>
      if elts.any Option.isNone then stop .verdictOperand 0
      else
        let k1 := spWrite k dst.buf off (elts.flatMap fun e => leBytes w (e.getD (0, 0)).1)
        let k2 := if tileZero b then spWrite k1 2 (accOff b m 0) (List.replicate (4 * tileN b) 0) else k1
        storeRows k2 c dst fmt n (m + 1) (under + (elts.map fun e => (e.getD (0, 0)).2).sum)

/-- The effect of a tile command on one participant's core, with its count and its fault. `started` is the fault that its entry there found
at the start. -/
def tileEffect (issuer k : Core) (c : Command) (part : Nat) (started : Option CmdFault) (pick : Nat) : Core × Nat × Option CmdFault :=
  let b := c.body
  if c.noEffect then
    (k, 0, if c.need = 0 then none else some ⟨.queueImbalance, 0, 0⟩)
  else if tileMul b then
    let (k', f) := mulOn k c (tileOperands issuer c) part started pick
    (k', 0, f)
  else if bodyKind b = 4 then
    let (k', f) := zeroRows k b (tileM b) 0
    (k', 0, f)
  else
    let dst := c.writes.headD ⟨2, 0, 0⟩
    storeRows k c dst (bfmtOf k (bankOf dst.buf dst.lo)) (tileM b) 0 0

/-! Starting (R188, R194, R196). -/

/-- An SQLD of the core is outstanding (R175). -/
def scalesComing (k : Core) : Bool :=
  (queueOf k 1 ++ vget k.run 1 []).any fun c => sqldScales c != 0

/-- A running tile command pops the scales the queue holds, as far as it needs them (R175). -/
def feedScales (k : Core) : Core :=
  match vget k.run 0 [] with
  | c :: r =>
    let n := min c.need k.scaleQ.length
    { k with
      run := vset k.run 0 ({ c with scales := c.scales ++ k.scaleQ.take n, need := c.need - n } :: r)
      scaleQ := k.scaleQ.drop n }
  | [] => k

/-- A tile entry as it starts on a participant: what its own accumulator gives it is known (R189). -/
def startedEntry (k : Core) (x : Command) : Command :=
  if tileMul x.body && !x.noEffect then
    { x with fault := (accFault k x.body).map fun f => ⟨f.2.1, BitVec.ofNat 64 f.2.2, 0⟩ }
  else x

/-- The entry of a command on one of its participants may start. -/
def tileReady (s : State) (c : Command) (n : Nat) : Bool :=
  let k := getCore s c.die n
  match queueOf k 0 with
  | x :: _ =>
    decide (x.gid = c.gid) && decide (vget k.run 0 [] = []) && released s k 0 x && (x.need == 0 || k.scaleQ != [] || !scalesComing k)
  | [] => false

/-- A tile command of the given kind starts, on all of its participants at once (R188). -/
def tileStart (kind : Nat) (s : State) : Out :=
  match queueOf s.core 0 with
  | c :: _ =>
    if c.kind = .tmpl kind ∧ issuerClear s c = true ∧ c.gang.all (tileReady s c) = true then
      .next (c.gang.foldl (fun t n =>
        let k := getCore t c.die n
        match queueOf k 0 with
        | x :: _ => putCore t (feedScales (startCommand k 0 (startedEntry k x)))
        | [] => t) s)
    else .next s
  | [] => .next s

/-- MMA_START (R183). It also ends a matrix entry of a changed image that fails its checks (R106). -/
def execMmaStart (s : State) : Out := endsBad 0 (fun _ _ => 0) s (tileStart 1 s)

/-- MMAS_START (R185). -/
def execMmasStart (s : State) : Out := tileStart 2 s

/-- MMAG_START (R188). -/
def execMmagStart (s : State) : Out := tileStart 3 s

/-- MZERO_START (R190). -/
def execMzeroStart (s : State) : Out := tileStart 4 s

/-- MSTORE_START (R191). -/
def execMstoreStart (s : State) : Out := tileStart 5 s

/-! The end of a tile command (R182, R189). -/

/-- HEAD of each ring claimed advances (R182). -/
def releaseRings (k : Core) (c : Command) : Core :=
  let adv (rs : Vector Ring 8) (n u : Nat) : Vector Ring 8 :=
    let r := vget rs n Ring.reset
    vset rs n { r with head := r.head + BitVec.ofNat 24 u }
  if tileMul c.body then
    { k with rings := adv (adv k.rings (bodyNat c.body 16 3) c.aUnits) (bodyNat c.body 20 3) c.bUnits }
  else k

/-- The barrier a participant's core receives at the end, if any (R180, R187). -/
def tileBar (c : Command) (n : Nat) : Option Nat :=
  if !c.body.getLsbD 93 then none else if n = c.core then some (bodyNat c.body 88 5) else some (pbar c.body (n % 4))

/-- What a tile command does on each of its participants: core number, the core after it, the count of R39, and the fault. -/
def tileEffects (s : State) (c : Command) : List (Nat × Core × Nat × Option CmdFault) :=
  let issuer := getCore s c.die c.core
  let c' := ((vget issuer.run 0 []).find? fun x => x.gid = c.gid).getD c
  let own (n : Nat) : Option CmdFault := ((vget (getCore s c.die n).run 0 []).find? fun x => x.gid = c.gid).bind fun x => x.fault
  c.gang.zipIdx.map fun (n, i) =>
    (n, tileEffect issuer (getCore s c.die n) c' i (own n) (Config.freeMerge s.fresh (32 + n)))

/-- A tile command ends on every participant: effects, claims released, count, records, barriers (R182, R189). A ganged command that
faulted arrives with GINC alone (log entry 110). -/
def tileEnd (s : State) (c : Command) : State :=
  let effects := tileEffects s c
  let s1 := effects.foldl (fun t (_, e) => putCore t e.1) s
  let s2 := putCore s1 (releaseRings (getCore s1 c.die c.core) c)
  let s3 := creditUnder s2 { c with under := (effects.map fun e => e.2.2.1).sum }
  let s4 := effects.foldl (fun t (n, e) =>
    match e.2.2 with
    | some f => writeRecord t c.aspace (commandRecord 0 n c f)
    | none => t) s3
  let failed := effects.any fun e => e.2.2.2.isSome
  let ganged := decide (1 < c.gang.length)
  let s5 := c.gang.foldl (fun t n =>
    match tileBar c n with
    | some bar => commandSignal t (signalOf s c 0 n bar none (failed && !ganged) (failed && ganged))
    | none => t) s4
  c.gang.foldl (fun t n => putCore t (popMarkers (endCommand (getCore t c.die n) 0 c))) s5

/-- The issuer's entry has its scales, or can get none (R175). R175 does not say whether a command that faults before its last block takes the
scales of the blocks behind it: the model has it wait for all of them and pop them (log entry 114, DESIGN CHOICE). -/
def tileFed (s : State) (c : Command) : Bool :=
  let k := getCore s c.die c.core
  match (vget k.run 0 []).find? fun x => x.gid = c.gid with
  | some x => x.need == 0 || (k.scaleQ == [] && !scalesComing k)
  | none => true

/-- The bytes of a ring tile's rows, the padding left out (R172): `rows` rows of `n` bytes. -/
def rowRanges (r : Ring) (start rows n : Nat) : List Range :=
  let units := (n + 63) / 64
  (List.range rows).flatMap fun m => (List.range units).map fun j =>
    Range.of r.buf (unitOff r start (m * units + j)) (min 64 (n - 64 * j))

/-- The K-groups (or rows of an MSTORE) of a command, `total` of them, that a participant has read: through the one that met its fault. -/
def partsRead (total : Nat) (f : Option CmdFault) : Nat := f.elim total fun x => min total (x.progress + 1)

/-- The bytes that a tile command reads on a participant: its accumulator unless ZERO is 1, and on the issuer the rows of its tiles and its
metadata as far as `shared` K-groups; nothing under a false predicate, and no accumulator in banks that hold none (R172, R177, R178, R180,
R185). -/
def tileReadSet (k issuer : Core) (c : Command) (n shared : Nat) (f : Option CmdFault) : List Range :=
  let b := c.body
  let rows := if bodyKind b = 5 then partsRead (tileM b) f else tileM b
  let acc := if (accCheck k b).isSome then [] else (List.range rows).map fun m => Range.of 2 (accOff b m 0) (4 * tileN b)
  if c.noEffect then []
  else if tileMul b then
    let ra := ringAt k (bodyNat b 16 3)
    let rb := ringAt k (bodyNat b 20 3)
    let depth := shared * commandGroup issuer c
    (if tileZero b then [] else acc) ++
      if n = c.core then
        partRanges ra c.aStart (tileP b * tileM b) (tileK b) depth (codeWidth (tileFmt k ra c.aStart)) ++
          partRanges rb c.bStart (tileN b) (tileK b * tileD b / 4) (depth * tileD b / 4) (codeWidth (tileFmt k rb c.bStart)) ++
          (if bodyKind b = 2 then
            (List.range (tileN b)).map fun n => Range.of 0 (metaAt b n) (min (metaUsed b) ((depth * tileD b / 2 + 7) / 8))
          else [])
      else []
  else if bodyKind b = 5 then acc
  else []
where
  /-- The bytes of the first `m` of the `n` elements, `e` bits wide, of each row of a ring tile, the padding left out (R172). -/
  partRanges (r : Ring) (start rows n m e : Nat) : List Range :=
    let units := rowUnits n e
    (List.range rows).flatMap fun i => (List.range ((m * e / 8 + 63) / 64)).map fun j =>
      Range.of r.buf (unitOff r start (i * units + j)) (min 64 (m * e / 8 - 64 * j))

/-- The words that a tile command reads on every participant lose their single-bit errors (R143); those behind the K-group, or the row, that
met a fault are not read. The shared operands are read as far as the participant that goes furthest. -/
def tileReads (s : State) (c : Command) : State :=
  let effects := tileEffects s c
  let issuer := getCore s c.die c.core
  let total := tileK c.body / commandGroup issuer c
  let shared := (effects.map fun e => partsRead total e.2.2.2).foldl max 0
  effects.foldl (fun t (n, e) =>
    match (vget (getCore s c.die n).run 0 []).find? fun x => x.gid = c.gid with
    | some x => correctSoft t c.die n (tileReadSet (getCore s c.die n) issuer x n shared e.2.2)
    | none => t) s

/-- TILE_COMMAND_END (R182). -/
def execTileCommandEnd (s : State) : Out :=
  match vget s.core.run 0 [] with
  | c :: _ => if tileFed s c then .next (tileEnd (tileReads s c) c) else .next s
  | [] => .next s

/-! RINGSET, SQLD, ZTEST (R173, R176, R179). -/

/-- A command that has not ended names a ring. -/
def ringNamed (k : Core) (n : Nat) : Bool :=
  (queueOf k 0 ++ vget k.run 0 []).any fun c =>
    decide (c.kind ≠ .marker) && tileMul c.body && decide (c.core = k.num) &&
      (decide (bodyNat c.body 16 3 = n) || decide (bodyNat c.body 20 3 = n))

/-- RINGSET.cfg (R173). -/
def execRingsetCfg (a : BitVec 5) (g : BitVec 3) (s : State) : Out :=
  let v := sreg s a
  let base := (v.extractLsb' 0 13).toNat
  let size := (v.extractLsb' 16 13).toNat
  let buf := v.extractLsb' 32 2
  let cap := if buf = 0 then 6144 else 4096
  inLine s
    (if v &&& ~~~0x000000031FFF1FFF != 0 || 2 ≤ buf.toNat || size == 0 || cap < base + size then .trap (Trap.of .ringState)
    else if bufSize s.core buf < 64 * (base + size) then
      .trap (Trap.at .scratchpadRange (spAddr buf (max (64 * base) (bufSize s.core buf))))
    else if ringNamed s.core g.toNat then .stall
    else .ok (modCore s fun k =>
      { k with rings := vset k.rings g.toNat ⟨0, 0, 0, BitVec.ofNat 13 size, BitVec.ofNat 13 base, buf, true⟩ }))

/-- RINGSET.adv (R173). -/
def execRingsetAdv (a : BitVec 5) (g : BitVec 3) (s : State) : Out :=
  let r := ringAt s.core g.toNat
  let n := snat s a
  inLine s
    (if r.valid = false ∨ n % 64 ≠ 0 ∨ n = 0 then .trap (Trap.of .ringState)
    else if r.size.toNat < ringReady r + n / 64 then .trap (Trap.of .ringState)
    else if r.size.toNat < (r.tail - r.head).toNat + n / 64 then .stall
    else .ok (modCore s fun k =>
      { k with rings := vset k.rings g.toNat { r with tail := r.tail + BitVec.ofNat 24 (n / 64) } }))

/-- Scales of outstanding SQLDs. -/
def scalesPending (k : Core) : Nat := ((queueOf k 1 ++ vget k.run 1 []).map sqldScales).sum

/-- Scales that issued, unended tile commands have still to pop. -/
def scalesOwed (k : Core) : Nat := ((queueOf k 0 ++ vget k.run 0 []).map fun c => c.need).sum

/-- SQLD (R176): checked at issue, then a command of the copy queue. -/
def execSqld (a b : BitVec 5) (u : BitVec 2) (s : State) : Out :=
  let off := snat s a
  let n := snat s b
  let k := s.core
  if u = 3 then finish s (.trap (Trap.of .illegalInstruction))
  else if fenceHeld s.core.ctx then finish s .stall
  else
    whenRoom s (queueFree k 1)
      (if n = 0 ∨ 64 < n then .trap (Trap.of .commandLimit)
      else if off % 2 ≠ 0 then .trap (Trap.at .misalignedAccess (spAddr u off))
      else if bufSize k u < off + 2 * n then .trap (Trap.at .scratchpadRange (spAddr u (max off (bufSize k u))))
      else if 64 + scalesOwed k < n + k.scaleQ.length + scalesPending k then .trap (Trap.of .queueImbalance)
      else
        let c := { baseCommand s 0 0 with kind := .sqld u off n, reads := [Range.of u off (2 * n)] }
        .ok (enterPlain 1 s c))

/-- ZTEST (R179). -/
def execZtest (a b : BitVec 5) (u : BitVec 2) (t : BitVec 4) (s : State) : Out :=
  let off := snat s a
  let len := snat s b
  let k := s.core
  if u = 3 then finish s (.trap (Trap.of .illegalInstruction))
  else
    inLine s
      (if off % 64 ≠ 0 ∨ len % 64 ≠ 0 then .trap (Trap.at .misalignedAccess (spAddr u off))
      else if len = 0 then .trap (Trap.of .commandLimit)
      else if bufSize k u < off + len then .trap (Trap.at .scratchpadRange (spAddr u (max off (bufSize k u))))
      else if mustWait k [Range.of u off len] [] then .stall
      else match spBad k u off len with
        | some o => .trap (Trap.at .storageError (spAddr u (o / 8 * 8)))
        | none =>
          let any := (spRead k u off len).any fun x => x != 0
          .ok (modCore (correctSoft s k.die k.num [Range.of u off len]) fun k =>
            { k with tpred := (k.tpred &&& ~~~(BitVec.ofNat 16 (2 ^ t.toNat))) ||| BitVec.ofNat 16 (if any then 2 ^ t.toNat else 0) }))

end Sys2Proof.Machine
end

