-- ==== Sys2Proof/Machine/Copy.lean ====
section
/-! DEFINITION. The copy engine: TCOPY, TFILL and BCOPY from issue to start, the write pointers they bind, and the end of a copy,
gather or scoring command (R138, R142, R196, R203 to R207, R210). -/

namespace Sys2Proof.Machine

/-! Fields of a copy body (R69, R70, R205). -/

/-- SKIND: 0 a handle, else a buffer code plus one. -/
def copySkind (b : BitVec 512) : Nat := bodyNat b 20 2
/-- DKIND. -/
def copyDkind (b : BitVec 512) : Nat := bodyNat b 28 2
/-- DIMS. -/
def copyDims (b : BitVec 512) : Nat := bodyNat b 488 3
/-- Extent of dimension d. -/
def copyExt (b : BitVec 512) (d : Nat) : Nat := bodyNat b (128 + 16 * d) 16 + 1
/-- Source stride of dimension d, from 1. -/
def copySstr (b : BitVec 512) (d : Nat) : Int := (b.extractLsb' (224 + 24 * (d - 1)) 24).toInt
/-- Destination stride of dimension d, from 1. -/
def copyDstr (b : BitVec 512) (d : Nat) : Int := (b.extractLsb' (344 + 24 * (d - 1)) 24).toInt
/-- The kind has a source. -/
def copyHasSrc (b : BitVec 512) : Bool := bodyKind b != 2
/-- Source offset in bytes. -/
def copySoff (b : BitVec 512) : Nat := if bodyKind b = 3 then 64 * bodyNat b 32 16 else bodyNat b 32 48
/-- Destination offset in bytes. -/
def copyDoff (b : BitVec 512) : Nat := if bodyKind b = 3 then 64 * bodyNat b 80 16 else bodyNat b 80 48
/-- The buffer of a buffer kind. -/
def kindBuf (k : Nat) : BitVec 2 := BitVec.ofNat 2 (k - 1)
/-- WPEN. -/
def bodyWpen (b : BitVec 512) : Bool := b.getLsbD 483

/-- The dimensions above 0: extent, source stride, destination stride, outermost first. -/
def copyOuter (b : BitVec 512) : List (Nat × Int × Int) :=
  (List.range (copyDims b)).reverse.map fun i => (copyExt b (i + 1), copySstr b (i + 1), copyDstr b (i + 1))

/-- The lowest offset that strides reach from a base, and how far above it the last run starts. -/
def strideBounds (base : Int) (dims : List (Nat × Int)) : Int × Int :=
  let step (d : Nat × Int) : Int := ((d.1 - 1 : Nat) : Int) * d.2
  (dims.foldl (fun m d => m + min 0 (step d)) base, dims.foldl (fun m d => m + max 0 (step d)) base)

/-- The format of the bank of a side's first footprint byte; none for a handle (R136, R205). -/
def sideFmt (k : Core) (kind : Nat) (lo : Int) : Option (BitVec 32) :=
  if kind = 0 then none else some (bfmtOf k (bankOf (kindBuf kind) lo.toNat))

/-- The shape of a copy: element widths, bytes of a run, where its sides begin and end. -/
structure CopyShape where
  es : Nat
  ed : Nat
  srun : Nat
  drun : Nat
  slo : Int
  shi : Int
  dlo : Int
  dhi : Int
  runs : Nat
deriving DecidableEq, Repr

/-- Destination bytes of a copy. -/
def CopyShape.bytes (x : CopyShape) : Nat := x.runs * x.drun

/-- The shape of a body (R205, R207). -/
def copyShape (k : Core) (b : BitVec 512) : CopyShape :=
  let outer := copyOuter b
  let (slo, slast) := strideBounds (copySoff b) (outer.map fun d => (d.1, d.2.1))
  let (dlo, dlast) := strideBounds (copyDoff b) (outer.map fun d => (d.1, d.2.2))
  let width (kind : Nat) (lo : Int) : Option Nat := (sideFmt k kind lo).map fun v => codeWidth (bfmtFmt v)
  let ws := if copyHasSrc b then width (copySkind b) slo else none
  let wd := width (copyDkind b) dlo
  let (es, ed) :=
    if !copyHasSrc b then (let e := wd.getD 32; (e, e))
    else match ws, wd with
      | none, none => (8, 8)
      | some e, none => (e, e)
      | none, some e => (e, e)
      | some e, some f => (e, f)
  let n := copyExt b 0
  { es := es, ed := ed, srun := n * es / 8, drun := n * ed / 8, slo := slo, shi := slast + n * es / 8, dlo := dlo
    dhi := dlast + n * ed / 8, runs := outer.foldl (fun n d => n * d.1) 1 }

/-- The offsets, from those of the walk's first run, of run number k: the dimensions are listed innermost first (R206). -/
def runAt : List (Nat × Int × Int) → Nat → Int × Int
  | [], _ => (0, 0)
  | (n, ss, ds) :: r, k =>
    let (s, d) := runAt r (k / n)
    (s + (k % n : Nat) * ss, d + (k % n : Nat) * ds)

/-- The runs of a walk, in ascending order of indices: source and destination offset of each (R206). -/
def walkRuns : List (Nat × Int × Int) → Int → Int → List (Int × Int)
  | [], s, d => [(s, d)]
  | (n, ss, ds) :: r, s, d => (List.range n).flatMap fun i => walkRuns r (s + (i : Nat) * ss) (d + (i : Nat) * ds)

/-- The runs of a body. -/
def copyRuns (b : BitVec 512) : List (Int × Int) := walkRuns (copyOuter b) (copySoff b) (copyDoff b)

/-! Issue checks (R204, R205, R207). -/

/-- A handle's side at issue: rights, then the page (R204); an invalid handle is met at the start. -/
def handleSide (H : Handle) (lo hi : Int) (write : Bool) : Option Trap :=
  if !H.valid then none
  else if (write && !H.w) || (!write && !H.r) then some (Trap.at .permission (H.vbase + lo.toNat))
  else if lo < 0 ∨ (H.pageSize : Int) < hi then
    some (Trap.at .handleRange (if lo < 0 then (H.vbase + lo).toNat else H.vbase + max lo.toNat H.pageSize))
  else none

/-- A buffer's side at issue. -/
def bufferSide (k : Core) (buf : BitVec 2) (lo hi : Int) : Option Trap :=
  if lo < 0 then some (Trap.at .scratchpadRange (spAddr buf 0))
  else if (bufSize k buf : Int) < hi then some (Trap.at .scratchpadRange (spAddr buf (max lo.toNat (bufSize k buf))))
  else none

/-- A side at issue. -/
def sideCheck (k : Core) (kind : Nat) (H : Handle) (lo hi : Int) (write : Bool) : Option Trap :=
  if kind = 0 then handleSide H lo hi write else bufferSide k (kindBuf kind) lo hi

/-- A buffer offset uses 19 bits (R206). -/
def offsetBits (kind off : Nat) : Option Trap :=
  if kind ≠ 0 ∧ 2 ^ 19 ≤ off then some (Trap.at .scratchpadRange (spAddr (kindBuf kind) (off % 2 ^ 62))) else none

/-- The template checks (R204, R205, R207). -/
def copyFields (b : BitVec 512) : Option Trap :=
  let dims := copyDims b
  let unused := (List.range 6).any fun d => decide (dims < d) &&
    (bodyNat b (128 + 16 * d) 16 != 0 || copySstr b d != 0 || copyDstr b d != 0)
  if 6 ≤ dims ∨ unused = true ∨ (bodyKind b = 3 ∧ 2 < dims) ∨ (bodyKind b = 3 ∧ (copySkind b = 0 ∨ copyDkind b = 0)) ∨
      (copySkind b ≠ 0 ∧ bodyNat b 16 4 ≠ 0) ∨ (copyDkind b ≠ 0 ∧ bodyNat b 24 4 ≠ 0) ∨
      (bodyWpen b = true ∧ copyDkind b = 0) then some (Trap.of .templateKind)
  else none

/-- The first run that starts off its alignment, as TADDR (R205). -/
def misalignedRun (b : BitVec 512) (x : CopyShape) (src dst : Handle) : Option Trap :=
  let unit (kind e : Nat) (group : Bool) : Nat := if kind = 0 then (if group then 2 else 1) else max (e / 8) (if e = 4 then 2 else 1)
  let group := x.es == 4 || x.ed == 4
  let su : Int := unit (copySkind b) x.es group
  let du : Int := unit (copyDkind b) x.ed group
  let taddr (kind : Nat) (H : Handle) (o : Int) : Nat :=
    if kind = 0 then (if H.valid then H.vbase else 0) + o.toNat else spAddr (kindBuf kind) o.toNat
  (copyRuns b).findSome? fun r =>
    if copyHasSrc b && r.1 % su != 0 then some (Trap.at .misalignedAccess (taddr (copySkind b) src r.1))
    else if r.2 % du != 0 then some (Trap.at .misalignedAccess (taddr (copyDkind b) dst r.2))
    else none

/-- With WPEN the walk must write in ascending order (R205). -/
def ascending (b : BitVec 512) (x : CopyShape) : Bool :=
  ((List.range (copyDims b)).foldl (fun (ok, span) i =>
    let str := copyDstr b (i + 1)
    (ok && decide ((span : Int) ≤ str), ((copyExt b (i + 1) - 1 : Nat) : Int) * str + span)) (true, (x.drun : Int))).1

/-- The byte range of a side in scratchpad. -/
def sideRange (kind : Nat) (lo hi : Int) : List Range := if kind = 0 then [] else [⟨kindBuf kind, lo.toNat, hi.toNat⟩]

/-- Pages of a command's destination marked dirty as it enters the queue, where DIRTY_MODE is 1 (R204, R256). -/
def markDest (s : State) (c : Command) : State :=
  if capsDirty s && c.dst.valid then setDirty s c.aspace c.dst.vbase else s

/-- A copy command's checks, and the command (R204, R205, R207). -/
def copyCheck (s : State) (t : BitVec 6) (b : BitVec 512) : Except Trap Command :=
  let k := s.core
  let x := copyShape k b
  let src := if copyHasSrc b && copySkind b == 0 then hreg s (BitVec.ofNat 4 (bodyNat b 16 4)) else Handle.invalid
  let dst := if copyDkind b = 0 then hreg s (BitVec.ofNat 4 (bodyNat b 24 4)) else Handle.invalid
  let rd := if copyHasSrc b then sideRange (copySkind b) x.slo x.shi else []
  let wr := sideRange (copyDkind b) x.dlo x.dhi
  let limit (p : Bool) : Option Trap := if p then some (Trap.of .commandLimit) else none
  match firstTrap
    [copyFields b, barCheck s b,
      if copyHasSrc b then offsetBits (copySkind b) (copySoff b) else none, offsetBits (copyDkind b) (copyDoff b),
      limit (decide (128 * 1024 < x.bytes)), limit ((x.es == 4 || x.ed == 4) && copyExt b 0 % 4 != 0),
      if copyHasSrc b then sideCheck k (copySkind b) src x.slo x.shi false else none,
      sideCheck k (copyDkind b) dst x.dlo x.dhi true, misalignedRun b x src dst, limit (anyMeets rd wr),
      limit (bodyWpen b && !ascending b x)] with
  | some e => .error e
  | none => .ok { baseCommand s t b with src := src, dst := dst, reads := rd, writes := wr }

/-- A copy command enters the copy queue. -/
def enterCopy (s : State) (c : Command) : State := enterPlain 1 (markDest s c) c

/-- TCOPY (R206). -/
def execTcopy (t : BitVec 6) (f : BitVec 4) (v : BitVec 16) (s : State) : Out := issueWord 1 1 t f v copyCheck enterCopy s

/-- TFILL (R207). -/
def execTfill (t : BitVec 6) (f : BitVec 4) (v : BitVec 16) (s : State) : Out := issueWord 1 2 t f v copyCheck enterCopy s

/-- BCOPY (R207). -/
def execBcopy (t : BitVec 6) (f : BitVec 4) (v : BitVec 16) (s : State) : Out := issueWord 1 3 t f v copyCheck enterCopy s

/-- COPY_HOLD (R67). -/
def execCopyHold (t : BitVec 6) (f : BitVec 4) (v : BitVec 16) (s : State) : Out := holdWord 1 t f v s

/-! Engine accesses to global memory (R198). -/

/-- The lines of an interval as the pages' counts and the slices see them (R257, R373). -/
def touchLines (s : State) (aspace : BitVec 12) (die va pa n : Nat) : State :=
  (List.range ((pa % 64 + n + 63) / 64)).foldl (fun t i => touchAt t aspace die (va / 64 * 64 + 64 * i) (pa / 64 * 64 + 64 * i)) s

/-- Bytes that an engine of a die writes to global memory, and the page's dirty mark (R240, R241, R256). -/
def engineWrite (s : State) (aspace : BitVec 12) (va pa : Nat) (bytes : List Byte) : State :=
  if bytes = [] then s
  else
    let t := touchLines (wrDie s s.core.die (cellsFrom pa bytes)) aspace s.core.die va pa bytes.length
    if capsDirty t then t else markDirty t aspace va

/-- The lines of a read through a handle. -/
def engineTouch (s : State) (aspace : BitVec 12) (H : Handle) (off n : Nat) : State :=
  touchLines s aspace s.core.die (H.vbase + off) (H.base + off) n

/-- The first byte of an interval that lies in a window's record (R337). -/
def recordByte (s : State) (pa n : Nat) : Option Nat := (List.range n).find? fun i => inWindowRecord s (pa + i) 1

/-- The earliest of faults by the destination bytes written before each. -/
def firstFault (l : List (Option (Nat × Cause × Nat))) : Option (Nat × Cause × Nat) := earliest (l.filterMap id)

/-- The address of the lowest byte of a failing line that an access reads (R416). -/
def lineFault (s : State) (H : Handle) (off n : Nat) : Option (Nat × Nat) :=
  (badByte s (H.base + off) n).map fun i => (i, H.vbase + off + i)

/-- A captured handle cannot be used at the start (R204, R386). -/
def notThere (s : State) (H : Handle) : Bool := !(H.valid && H.res && pathUp s H.base)

/-- A command with its captured handles as its start finds them. -/
def settleCaps (s : State) (c : Command) : Command :=
  { c with src := settleHandle s c.aspace c.die c.seqTag c.src, dst := settleHandle s c.aspace c.die c.seqTag c.dst }

/-! Channels (R203). -/

/-- The destination bytes of a copy or gather command (R203, R272). -/
def destBytes (k : Core) (cls : Nat) (c : Command) : Nat :=
  match c.kind with
  | .input .. => c.bStart
  | .sqld _ _ n => 2 * n
  | _ =>
    if cls = 1 then (copyShape k c.body).bytes
    else if bodyKind c.body = 3 then 8 * (bodyNat c.body 112 6 + 1) + 8
    else (bodyNat c.body 96 16 + 1) * bodyNat c.body 112 16

/-- Destination bytes that a channel's started, unended commands still have to write. -/
def backlog (k : Core) (ch : Nat) : Nat :=
  (((vget k.run 1 []).filter fun c => c.chan = ch).map fun c => if c.fault.isSome then 0 else destBytes k 1 c - c.progress).sum

/-- The channel onto which the engine admits a command of so many bytes: of those whose backlog stays within 128 KiB the one of least
backlog, the lowest among equals; none while 256 commands are started. -/
def channelFor (k : Core) (n : Nat) : Option Nat :=
  if 256 ≤ (vget k.run 1 []).length then none
  else ((List.range 16).filter fun ch => decide (backlog k ch + n ≤ 128 * 1024)).foldl (fun best ch =>
    match best with
    | none => some ch
    | some m => if backlog k ch < backlog k m then some ch else some m) none

/-- A started command's turn: it is the first of its channel, or runs in an engine that runs one (R195, R203). -/
def channelTurn (k : Core) (cls : Nat) (c : Command) : Bool :=
  match (vget k.run cls []).find? fun x => cls != 1 || x.chan == c.chan with
  | some x => decide (x.gid = c.gid)
  | none => false

/-! Write pointers (R142). -/

/-- A write pointer that the command names belongs to an earlier command that has not ended. -/
def pointerBusy (k : Core) (c : Command) : Bool :=
  match wpOf c with
  | some n => (unended k).any fun (cls, _, x) => decide (cls = 1 ∨ cls = 2) && decide (x.seq < c.seq) && wpOf x == some n
  | none => false

/-- The destination footprint of a command that binds a pointer. -/
def pointerRange (c : Command) : Range := c.writes.headD ⟨3, 0, 0⟩

/-- The pointer bound at the start: at the footprint's lowest offset. -/
def bindPointer (k : Core) (c : Command) : Core :=
  match wpOf c with
  | some n =>
    let r := pointerRange c
    { k with wps := vset k.wps n ⟨r.buf, false, false, r.lo⟩, early := k.early.filter fun e => !decide (e.1 = n) }
  | none => k

/-- The pointer as the command writes: every byte of the footprint below `next` has been written. -/
def movePointer (k : Core) (c : Command) (next : Nat) : Core :=
  match wpOf c with
  | some n =>
    let w := vget k.wps n WritePtr.reset
    { k with wps := vset k.wps n { w with ptr := max w.ptr (next / 64 * 64) } }
  | none => k

/-- The pointer at the command's end. -/
def donePointer (k : Core) (c : Command) : Core :=
  match wpOf c with
  | some n =>
    let w := vget k.wps n WritePtr.reset
    { k with wps := vset k.wps n (if c.fault.isSome then { w with done := true, fault := true }
        else { w with done := true, ptr := (pointerRange c).hi }) }
  | none => k

/-! The work of a started command, piece by piece (R142, R206, R210, R272). -/

/-- What the next piece of a command's work comes to: it waits, or so many destination bytes are performed, with their count of R39, and
perhaps a fault behind them. -/
inductive Piece where
  | wait (s : State)
  | did (s : State) (n under : Nat) (fault : Option (Cause × Nat))

/-- A started command replaced by what it has become. -/
def putRun (k : Core) (cls : Nat) (c : Command) : Core :=
  { k with run := vset k.run cls ((vget k.run cls []).map fun x => if x.gid = c.gid then c else x) }

/-- A started command has performed everything, or met its fault. -/
def workOver (k : Core) (cls : Nat) (c : Command) : Bool := c.fault.isSome || decide (destBytes k cls c ≤ c.progress)

/-- The barrier that a command's bytes decrement, by level and number. -/
def commandBar (c : Command) : Option (Nat × Nat) :=
  match c.kind with
  | .tmpl _ => bodyBar c.body
  | _ => none

/-- The same by its name. -/
def commandKey (c : Command) : Option BarKey := (commandBar c).map fun b => barKey b.1 c.die c.core b.2

/-- Destination bytes of a command at its barrier, performed at the barrier's scope (R204, R229, R272): at .pkg and wider the die's bytes
go home first. A barrier that takes no decrement discards them, with one record for the command (log entry 101). -/
def bytesAt (s : State) (c : Command) (n : Nat) (fault : Bool) : State :=
  match commandBar c with
  | none => s
  | some (l, bar) =>
    if n = 0 ∧ fault = false then s
    else if (signalUnfit s (chargeOf c) (barKey l c.die c.core bar)).isSome ∧ c.told = true then s
    else commandSignal s (signalOf s c l c.core bar (some n) fault false)

/-- A record says that the command's decrements are discarded, once it has had any. -/
def nowTold (s : State) (c : Command) (n : Nat) : Bool :=
  c.told || (decide (n ≠ 0) && (commandKey c).any fun b => (signalUnfit s (chargeOf c) b).isSome)

/-- A command after a piece of its work: its count, its write pointer, and its bytes at the barrier. -/
def advanced (s : State) (cls : Nat) (c : Command) (n under next : Nat) (fault : Option (Cause × Nat)) : State :=
  let done := c.progress + n
  let c1 := { c with
    progress := done, under := c.under + under, told := nowTold s c n
    fault := fault.map fun f => ⟨f.1, BitVec.ofNat 64 f.2, done⟩ }
  bytesAt (modCore s fun k => movePointer (putRun k cls c1) c1 next) c n false

/-! Copies. -/

/-- The conversion of a copy, or the bank-format fault of a side that reaches a bank of another BFMT or of formats that have no conversion
(R136, R138). R138 names no byte for the latter: the record's ADDR is 0 (log entry 77, DESIGN CHOICE). -/
def copyConv (k : Core) (b : BitVec 512) (x : CopyShape) : Except Nat (Option (NumFmt × NumFmt × Bool)) :=
  let sb := kindBuf (copySkind b)
  let db := kindBuf (copyDkind b)
  let fromBank := copyHasSrc b && copySkind b != 0
  let srcOther := if fromBank then otherBank k sb x.slo.toNat (x.shi - x.slo).toNat else none
  let dstOther := if copyDkind b = 0 then none else otherBank k db x.dlo.toNat (x.dhi - x.dlo).toNat
  match srcOther, dstOther with
  | some o, _ => .error (spAddr sb o)
  | _, some o => .error (spAddr db o)
  | none, none =>
    if fromBank && copyDkind b != 0 then
      let vs := bfmtOf k (bankOf sb x.slo.toNat)
      let vd := bfmtOf k (bankOf db x.dlo.toNat)
      if bfmtFmt vs = bfmtFmt vd then .ok none
      else match numFmt (bfmtFmt vs), numFmt (bfmtFmt vd) with
        | some .q4e, _ => .error 0
        | _, some .q4e => .error 0
        | some f, some g => .ok (some (f, g, bfmtSat vd))
        | _, _ => .error 0
    else .ok none

/-- Where a copy's walk stands after so many destination bytes: source and destination offset of the run, and the bytes into it. -/
def copyAt (b : BitVec 512) (x : CopyShape) (done : Nat) : Nat × Nat × Nat :=
  let (s, d) := runAt (copyOuter b).reverse (done / max 1 x.drun)
  ((copySoff b + s).toNat, (copyDoff b + d).toNat, done % max 1 x.drun)

/-- Bytes copied between two places of global memory one after the other: a byte that the walk has just written is read as written
(R206). -/
def seqBytes (s : State) (die src dst n : Nat) : List Byte :=
  (List.range n).foldl (fun out i =>
    out ++ [if dst ≤ src + i ∧ src + i < dst + i then out.getD (src + i - dst) 0 else rdByte s die (src + i)]) []

/-- The bytes of a piece's source and its first fault, by source byte: `so` and `dst` are the piece's offsets, `n` its source bytes. -/
def pieceSource (s : State) (c : Command) (x : CopyShape) (so dst n : Nat) : List Byte × Option (Nat × Cause × Nat) :=
  let b := c.body
  let k := s.core
  if !copyHasSrc b then
    let fv := bodyNat b 32 32
    (if x.ed = 4 then List.replicate n (BitVec.ofNat 8 (fv % 16 * 17))
      else (List.range n).map fun i => (leBytes (x.ed / 8) fv).getD ((c.progress + i) % (x.ed / 8)) 0, none)
  else if copySkind b = 0 then
    (if copyDkind b = 0 then seqBytes s c.die (canonPa s (c.src.base + so)) (canonPa s (c.dst.base + dst)) n
      else rdBytes s c.die (c.src.base + so) n, (lineFault s c.src so n).map fun p => (p.1, .storageError, p.2))
  else
    let buf := kindBuf (copySkind b)
    (spRead k buf so n, (spBad k buf so n).map fun o => (o - so, .storageError, spAddr buf (o / 8 * 8)))

/-- Elements converted (R138): the bytes of each with the count of R39, and the first verdict word. -/
def convertRun (fs fd : NumFmt) (sat : Bool) (es ed : Nat) (bytes : List Byte) : List (List Byte × Nat) × Option Nat :=
  let n := bytes.length / (es / 8)
  let elts := (List.range n).map fun i => leNat ((bytes.drop (i * (es / 8))).take (es / 8))
  (elts.map fun e => let (y, fl) := convert fs fd ⟨.rne, sat, false⟩ e; (leBytes (ed / 8) y, fl.under),
    if fs = .flt .f32 then elts.findIdx? fun e => isVerdict (BitVec.ofNat 32 e) else none)

/-- An engine's access waits: a RED at its home holds the bytes (R236), or the path to them is lost and the request is sent again and again
(R385). -/
def accessHeld (s : State) (pa n : Nat) : Bool := redHolds s pa n || !pathUp s pa

/-- A piece of a copy whose bytes of global memory have to wait. -/
def pieceHeld (s : State) (c : Command) (so sn dst dn : Nat) : Bool :=
  let b := c.body
  (copyHasSrc b && copySkind b == 0 && accessHeld s (c.src.base + so) sn) ||
    (copyDkind b == 0 && accessHeld s (c.dst.base + dst) dn)

/-- The next piece of a copy (R206, R210): the destination bytes of one run that lie in one 64-byte line, read, converted and written as
far as their first fault. Words behind the element that met it are not read (R143). -/
def copyPiece (s : State) (c : Command) : Piece :=
  let b := c.body
  let x := copyShape s.core b
  let conv := match copyConv s.core b x with
    | .ok v => v
    | .error _ => none
  let (run, base, p) := copyAt b x c.progress
  let dst := base + p
  let m := min (x.drun - p) (64 - dst % 64)
  let per := if conv.isSome then x.ed / 8 else 1
  let unit := if conv.isSome then x.es / 8 else 1
  let so := run + p / per * unit
  let sn := m / per * unit
  if pieceHeld s c so sn dst m then .wait s
  else
    let (raw, bad) := pieceSource s c x so dst sn
    let (elts, verdict) := match conv with
      | some (fs, fd, sat) => convertRun fs fd sat x.es x.ed raw
      | none => (raw.map fun y => ([y], 0), none)
    let meet : Option (Nat × Cause × Nat) :=
      if copyDkind b = 0 then
        (recordByte s (c.dst.base + dst) m).map fun i => (i, .permission, c.dst.vbase + dst + i)
      else
        let buf := kindBuf (copyDkind b)
        (spBadWrite s.core buf dst m).map fun o => (o - dst, .storageError, spAddr buf (o / 8 * 8))
    let fault := firstFault
      [bad.map fun f => (f.1 / unit * per, f.2), verdict.map fun i => (i * per, .verdictOperand, 0), meet]
    let n := match fault with
      | some (q, _, _) => q / per
      | none => elts.length
    let out := (elts.take n).flatMap Prod.fst
    let s1 :=
      if !copyHasSrc b then s
      else if copySkind b = 0 then engineTouch s c.aspace c.src so sn
      else correctSoft s c.die c.core [Range.of (kindBuf (copySkind b)) so (min sn ((n + 1) * unit))]
    let s2 :=
      if copyDkind b = 0 then engineWrite s1 c.aspace (c.dst.vbase + dst) (c.dst.base + dst) out
      else modCore s1 fun k => spWrite k (kindBuf (copyDkind b)) dst out
    .did s2 (n * per) ((elts.take n).map Prod.snd).sum (fault.map Prod.snd)

/-- The destination offset of the byte after the last one written, on the walk. -/
def copyNext (k : Core) (c : Command) (done : Nat) : Nat :=
  let x := copyShape k c.body
  if x.bytes ≤ done then x.dhi.toNat
  else
    let (_, base, p) := copyAt c.body x done
    base + p

/-- The fault that a copy meets at its start: a handle without its page, or bank formats (R136, R138, R204). -/
def copyFault (s : State) (c : Command) : Option CmdFault :=
  let b := c.body
  let x := copyShape s.core b
  let va (H : Handle) (lo : Int) : Word := BitVec.ofNat 64 ((if H.valid then H.vbase else 0) + lo.toNat)
  if copyHasSrc b && copySkind b == 0 && notThere s c.src then some ⟨.notResident, va c.src x.slo, 0⟩
  else if copyDkind b == 0 && notThere s c.dst then some ⟨.notResident, va c.dst x.dlo, 0⟩
  else match copyConv s.core b x with
    | .error o => some ⟨.bankFormat, BitVec.ofNat 64 o, 0⟩
    | .ok _ => none

/-- A copy command started on a channel (R142, R196, R203). -/
def copyStarted (s : State) (c : Command) (ch : Nat) : State :=
  let c1 := { settleCaps s c with chan := ch }
  let c2 := { c1 with fault := copyFault s c1 }
  modCore s fun k => bindPointer (startCommand k 1 c2) c2

/-- A copy-class command of a kind starts when the engine admits it (R196, R203). -/
def copyStart (kind : Nat) (s : State) : Out :=
  match startHead s 1 (.tmpl kind) with
  | some c =>
    match channelFor s.core (destBytes s.core 1 c) with
    | some ch => if pointerBusy s.core c then .next s else .next (copyStarted s c ch)
    | none => .next s
  | none => .next s

/-- TFILL_START (R207). -/
def execTfillStart (s : State) : Out := copyStart 2 s

/-- BCOPY_START (R207). -/
def execBcopyStart (s : State) : Out := copyStart 3 s

/-! Declared inputs (R283, R293): copies of a loading slot, from a virtual source to scratchpad. The source is `aStart`, the length
`bStart`. -/

/-- An interval cut at 4 KiB boundaries. -/
def pageCuts : Nat → Nat → Nat → List (Nat × Nat)
  | 0, _, _ => []
  | fuel + 1, va, n =>
    if n = 0 then []
    else
      let m := min n (4096 - va % 4096)
      (va, m) :: pageCuts fuel (va + m) (n - m)

/-- What an input finds at a page of its source. -/
inductive InputPage where
  | fault (s : State) (c : Cause)
  | wait (s : State)
  | at (pa : Nat)

/-- An input's page: a stored one is promoted, and the slot waits for it (R293). -/
def inputPage (s : State) (c : Command) (n va : Nat) : InputPage :=
  match walk s c.aspace va with
  | .error e => .fault s e
  | .ok l =>
    if !dR l.desc then .fault s .permission
    else if dState l.desc = 1 then
      if residentFor s l c.aspace c.die c.seqTag && pathUp s (leafPa l va) then .at (leafPa l va) else .fault s .notResident
    else
      let (s1, st) := awaitPage s c.aspace va l ⟨c.die, c.core, c.kernelId, .input c.ctxId n⟩
      if st = 0 ∨ st = 2 then .wait s1 else .fault s1 .notResident

/-- Every page of an input's source is resident, or one will fault it: it need not wait any longer. -/
def inputReady (s : State) (c : Command) (n : Nat) : State × Bool :=
  (pageCuts (c.bStart / 4096 + 2) c.aStart c.bStart).foldl (fun (t, ok) (va, _) =>
    if !ok then (t, ok)
    else match inputPage t c n va with
      | .wait t' => (t', false)
      | .fault _ _ => (t, ok)
      | .at _ => (t, ok)) (s, true)

/-- The next piece of a declared input: the bytes of one destination line that one source page holds. No bank format is looked at; a
destination that meets a guard bank is beyond range, as for every accessor (R144; log entry 92). -/
def inputPiece (s : State) (c : Command) (n : Nat) : Piece :=
  let r := pointerRange c
  let va := c.aStart + c.progress
  let dst := r.lo + c.progress
  let m := min (c.bStart - c.progress) (min (64 - dst % 64) (4096 - va % 4096))
  if bufSize s.core r.buf < r.hi then .did s 0 0 (some (.scratchpadRange, spAddr r.buf (max r.lo (bufSize s.core r.buf))))
  else match inputPage s c n va with
  | .fault t e => .did t 0 0 (some (e, va))
  | .wait t => .wait t
  | .at pa =>
    if redHolds s pa m then .wait s
    else
      let bad := badByte s pa m
      let k := bad.getD m
      let bytes := rdBytes s c.die pa k
      .did (modCore (touchLines s c.aspace c.die va pa m) fun c => spWrite c r.buf dst bytes) k 0
        (bad.map fun i => (.storageError, va + i))

/-- The head of the copy queue is a declared input that its range lets start. -/
def inputHead (s : State) : Option (Command × Nat) :=
  match queueOf s.core 1 with
  | c :: _ =>
    match c.kind with
    | .input n _ => if released s s.core 1 c then some (c, n) else none
    | _ => none
  | [] => none

/-- The head of the copy queue is an SQLD that may start: beside the scales of the SQLDs that have started, the scale queue has room for all
of its own (R176, R195; log entry 103). -/
def sqldHead (s : State) : Option Command :=
  match queueOf s.core 1 with
  | c :: _ =>
    if decide (sqldScales c ≠ 0) && released s s.core 1 c && issuerClear s c &&
        decide (s.core.scaleQ.length + ((vget s.core.run 1 []).map sqldScales).sum + sqldScales c ≤ 64) then some c else none
  | [] => none

/-- A declared input started on a channel: it is an acquire at .pkg of what happens before the launch (R229). -/
def inputStarted (s : State) (c : Command) (ch : Nat) : State :=
  modCore (dropCopies s s.core.die) fun k => startCommand k 1 { c with chan := ch }

/-- TCOPY_START (R206), which also starts a declared input's copy and an SQLD at the head of the queue (R176, R203, R293), and ends a copy
entry of a changed image that fails its checks (R106). -/
def execTcopyStart (s : State) : Out :=
  match inputHead s, sqldHead s with
  | some (c, n), _ =>
    let (t, ok) := inputReady s c n
    match channelFor t.core c.bStart with
    | some ch => .next (if ok then inputStarted t c ch else t)
    | none => .next t
  | none, some c =>
    match channelFor s.core (destBytes s.core 1 c) with
    | some ch => .next (modCore s fun k => startCommand k 1 { c with chan := ch })
    | none => .next s
  | none, none => endsBad 1 (fun k c => destBytes k 1 c) s (copyStart 1 s)

/-- The record of a loading slot that goes to trapped, of SRC 2 (R399). -/
def slotRecord (die num : Nat) (c : Context) (cause : Cause) (addr : Word) : Rec :=
  { cause := cause, src := 2, kernelId := c.kernelId, ctxId := c.ctxId, addr := addr, pc := c.tpc, core := num, die := die }

/-- A loading slot goes to trapped: its record, and the abort of its group (R95, R293, R401). -/
def slotTrapped (s : State) (die num : Nat) (c : Context) (cause : Cause) (addr : Word) : State :=
  abortGroup (writeRecord s c.aspace (slotRecord die num c cause addr)) c.kernelId cause

/-- A declared input has arrived at its slot, or its fault traps the slot. -/
def inputEnded (s : State) (c : Command) (n slot : Nat) : State :=
  let k := getCore s c.die c.core
  match k.shadows.find? fun x => x.slot = slot ∧ x.state = .loading with
  | none => s
  | some x =>
    match c.fault with
    | some f => slotTrapped s c.die c.core x f.cause f.addr
    | none =>
      putCore s { k with
        shadows := k.shadows.map fun y => if y.slot = slot then { y with inputs := y.inputs.filter fun i => !decide (i = n) } else y }

/-! SQLD (R176, R203). -/

/-- The started SQLD that appends next: SQLDs append in their order, each in its channel's turn (log entry 103). -/
def sqldNext (k : Core) : Option Command :=
  ((vget k.run 1 []).find? fun c => decide (sqldScales c ≠ 0)).filter (channelTurn k 1)

/-- SQLD_APPEND (R176, R203): a started SQLD's scales enter the queue and it ends; a waiting tile command pops them. -/
def execSqldAppend (s : State) : Out :=
  match sqldNext s.core with
  | none => .next s
  | some c =>
    match c.kind with
    | .sqld u off n =>
      let k := s.core
      let words := (List.range n).map fun i => BitVec.ofNat 16 (leNat (spRead k u (off + 2 * i) 2))
      match spBad k u off (2 * n) with
      | some o =>
        let f : CmdFault := ⟨.storageError, BitVec.ofNat 64 (spAddr u (o / 8 * 8)), 0⟩
        .next (modCore (writeRecord s c.aspace (commandRecord 1 k.num c f)) fun k => popMarkers (endCommand k 1 c))
      | none =>
        .next (modCore (correctSoft s k.die k.num c.reads) fun k =>
          popMarkers (feedScales { endCommand k 1 c with scaleQ := k.scaleQ ++ words }))
    | _ => .next s

end Sys2Proof.Machine
end

