-- ==== Sys2Proof/Machine/Gather.lean ====
section
/-! DEFINITION. The gather engine: TGATHER and TSCATTER (R208, R209), and the scoring kind with BSCORE and TSCORE (R327 to R330). -/

namespace Sys2Proof.Machine

/-! Fields of a gather body (R69, R70, R208). -/

/-- TOFF. -/
def gTable (b : BitVec 512) : Nat := bodyNat b 32 48
/-- Offset of the index list in the A buffer. -/
def gList (b : BitVec 512) : Nat := 16 * bodyNat b 80 14
/-- Number of indices. -/
def gRows (b : BitVec 512) : Nat := bodyNat b 96 16 + 1
/-- ROWB. -/
def gRowB (b : BitVec 512) : Nat := bodyNat b 112 16
/-- LIMIT. -/
def gLimit (b : BitVec 512) : Nat := bodyNat b 128 32
/-- The scratchpad buffer. -/
def gBuf (b : BitVec 512) : BitVec 2 := kindBuf (bodyNat b 160 2)
/-- Offset of the first scratchpad row. -/
def gSpOff (b : BitVec 512) : Nat := 64 * bodyNat b 176 16
/-- SWZ. -/
def gSwz (b : BitVec 512) : Nat := bodyNat b 192 4
/-- Distance between scratchpad rows. -/
def gPitch (b : BitVec 512) : Nat := if bodyNat b 208 16 = 0 then gRowB b else 64 * bodyNat b 208 16
/-- One past the last scratchpad byte. -/
def gSpEnd (b : BitVec 512) : Nat := gSpOff b + (gRows b - 1) * gPitch b + gRowB b

/-- The handle TABH as issue captures it (R204). -/
def gHandle (s : State) (b : BitVec 512) : Handle := hreg s (BitVec.ofNat 4 (bodyNat b 16 4))

/-- A command-limit trap where a condition holds. -/
def limitIf (p : Bool) : Option Trap := if p then some (Trap.of .commandLimit) else none

/-- A gather or scatter command's checks, and the command (R204, R208). -/
def gatherCheck (scatter : Bool) (s : State) (t : BitVec 6) (b : BitVec 512) : Except Trap Command :=
  let k := s.core
  let H := gHandle s b
  let lo : Int := gTable b
  let idx := Range.of 1 (gList b) (4 * gRows b)
  let rows : Range := ⟨gBuf b, gSpOff b, gSpEnd b⟩
  match firstTrap
    [if bodyNat b 160 2 = 0 ∨ 3 < gSwz b ∨ (scatter = true ∧ bodyWpen b = true) then some (Trap.of .templateKind) else none,
      barCheck s b, limitIf (decide (gRowB b % 64 ≠ 0 ∨ gRowB b = 0)), limitIf (decide (gLimit b = 0)),
      limitIf (bodyWpen b && decide (gPitch b < gRowB b)), limitIf (decide (128 * 1024 < gRows b * gRowB b)),
      handleSide H lo (lo + gLimit b * gRowB b) scatter, bufferSide k 1 idx.lo idx.hi,
      bufferSide k (gBuf b) rows.lo rows.hi] with
  | some e => .error e
  | none =>
    let c := baseCommand s t b
    .ok (if scatter then { c with dst := H, reads := [idx, rows] } else { c with src := H, reads := [idx], writes := [rows] })

/-- A gather-class command enters the gather queue. -/
def enterGather (s : State) (c : Command) : State := enterPlain 2 (markDest s c) c

/-- TGATHER (R208). -/
def execTgather (t : BitVec 6) (f : BitVec 4) (v : BitVec 16) (s : State) : Out :=
  issueWord 2 1 t f v (gatherCheck false) enterGather s

/-- TSCATTER (R208). -/
def execTscatter (t : BitVec 6) (f : BitVec 4) (v : BitVec 16) (s : State) : Out :=
  issueWord 2 2 t f v (gatherCheck true) enterGather s

/-- GATHER_HOLD (R67). -/
def execGatherHold (t : BitVec 6) (f : BitVec 4) (v : BitVec 16) (s : State) : Out := holdWord 2 t f v s

/-! Rows (R209). -/

/-- Index j of a command's list. -/
def gIndex (k : Core) (b : BitVec 512) (j : Nat) : Nat := leNat (spRead k 1 (gList b + 4 * j) 4)

/-- A word that `n` bytes of a row, read through the command's own SWZ, meet has an uncorrectable error: how far into them (R209). -/
def rowBad (k : Core) (b : BitVec 512) (sp n : Nat) : Option Nat :=
  (List.range n).find? fun i => badWord k (gBuf b) (storedWith (gSwz b) (sp + i) / 8)

/-- Where a started gather or scatter stands after so many bytes: the offsets of the row's next byte in the table and in scratchpad, and
the bytes left of the row. -/
def gatherAt (c : Command) (done : Nat) : Nat × Nat × Nat :=
  let b := c.body
  let j := done / gRowB b
  let p := done % gRowB b
  (gTable b + c.indices.getD j 0 * gRowB b + p, gSpOff b + j * gPitch b + p, gRowB b - p)

/-- The next piece of a gather (R209): 64 bytes of a row at most, as far as their first fault. A piece covers whole words, so its writes meet
no error of a word. -/
def gatherPiece (s : State) (c : Command) : Piece :=
  let b := c.body
  let (row, sp, left) := gatherAt c c.progress
  let n := min left (64 - sp % 64)
  if accessHeld s (c.src.base + row) n then .wait s
  else
    let bad := lineFault s c.src row n
    let m := (bad.map Prod.fst).getD n
    let bytes := rdBytes s c.die (c.src.base + row) m
    let offs := (List.range m).map fun i => storedWith (gSwz b) (sp + i)
    .did (modCore (engineTouch s c.aspace c.src row n) fun k => spPut k (gBuf b) (offs.zip bytes)) m 0
      (bad.map fun f => (.storageError, f.2))

/-- The next piece of a scatter (R209): the bytes of a row that lie in one line of the table. -/
def scatterPiece (s : State) (c : Command) : Piece :=
  let b := c.body
  let (row, sp, left) := gatherAt c c.progress
  let n := min left (64 - row % 64)
  if accessHeld s (c.dst.base + row) n then .wait s
  else
    let buf := gBuf b
    let bad := firstFault
      [(rowBad s.core b sp n).map fun i => (i, .storageError, spAddr buf (sp + i)),
        (recordByte s (c.dst.base + row) n).map fun i => (i, .permission, c.dst.vbase + row + i)]
    let m := (bad.map fun f => f.1).getD n
    let offs := (List.range m).map fun i => storedWith (gSwz b) (sp + i)
    let bytes := offs.map (spByte s.core buf)
    let s1 := correctWords s c.die c.core fun w => w.1 == buf && offs.any fun o => decide (o / 8 = w.2)
    .did (engineWrite s1 c.aspace (c.dst.vbase + row) (c.dst.base + row) bytes) m 0 (bad.map Prod.snd)

/-- The scratchpad footprints of a gather-class command: its index list and its rows, or a scoring command's query and result. -/
def gatherFeet (b : BitVec 512) : List Range :=
  if bodyKind b = 3 then [Range.of 1 (16 * bodyNat b 80 14) (64 * (bodyNat b 96 4 + 1)),
    Range.of 1 (16 * bodyNat b 128 14) (8 * (bodyNat b 112 6 + 1) + 8)]
  else [Range.of 1 (gList b) (4 * gRows b), ⟨gBuf b, gSpOff b, gSpEnd b⟩]

/-- The fault that a gather-class command meets at its start (R136, R204, R209): a table page that is not there, a footprint that reaches a
bank of another BFMT, and, but for scoring, an error or an index out of range in the list, all of which is read first (log entry 113). -/
def gatherFault (s : State) (c : Command) : Option CmdFault :=
  let b := c.body
  let H := if bodyKind b = 2 then c.dst else c.src
  if notThere s H then some ⟨.notResident, BitVec.ofNat 64 ((if H.valid then H.vbase else 0) + gTable b), 0⟩
  else match otherBanks s.core (gatherFeet b) with
  | some a => some ⟨.bankFormat, BitVec.ofNat 64 a, 0⟩
  | none =>
  if bodyKind b = 3 then none
  else match spBad s.core 1 (gList b) (4 * gRows b) with
    | some o => some ⟨.storageError, BitVec.ofNat 64 (spAddr 1 (o / 8 * 8)), 0⟩
    | none =>
      ((List.range (gRows b)).find? fun j => decide (gLimit b ≤ gIndex s.core b j)).map fun j =>
        ⟨.indexRange, BitVec.ofNat 64 (spAddr 1 (gList b + 4 * j)), 0⟩

/-- The start reads the command's index list: a scoring command has none, and a table page that is not there and a bank of another BFMT are
met before any index (R136, R204, R209). -/
def listRead (c : Command) : Bool :=
  bodyKind c.body != 3 && !c.fault.any fun f => f.cause == .notResident || f.cause == .bankFormat

/-- A gather-class command started: its list read and kept, its write pointer bound (R142, R196, R209). -/
def gatherStarted (s : State) (c : Command) : State :=
  let b := c.body
  let c1 := settleCaps s c
  let c2 := { c1 with
    fault := gatherFault s c1, indices := if bodyKind b = 3 then [] else (List.range (gRows b)).map (gIndex s.core b) }
  let s1 := if listRead c2 then correctSoft s c.die c.core [Range.of 1 (gList b) (4 * gRows b)] else s
  modCore s1 fun k => bindPointer (startCommand k 2 c2) c2

/-- The head of the gather queue of a kind that may start: nothing else runs there (R195). -/
def gatherHead (s : State) (kind : Nat) : Option Command :=
  if vget s.core.run 2 [] = [] then (startHead s 2 (.tmpl kind)).filter fun c => !pointerBusy s.core c else none

/-- A gather-class command of a kind starts. -/
def gatherStart (kind : Nat) (s : State) : Out :=
  match gatherHead s kind with
  | some c => .next (gatherStarted s c)
  | none => .next s

/-- TGATHER_START (R209). It also ends a gather entry of a changed image that fails its checks (R106). -/
def execTgatherStart (s : State) : Out := endsBad 2 (fun k c => destBytes k 2 c) s (gatherStart 1 s)

/-- TSCATTER_START (R209). -/
def execTscatterStart (s : State) : Out := gatherStart 2 s

/-- TSCORE_START (R330). -/
def execTscoreStart (s : State) : Out := gatherStart 3 s

/-! Bit-serial key scoring (R327 to R330). -/

/-- D. -/
def scD (b : BitVec 512) : Nat := 64 * (bodyNat b 96 4 + 1)
/-- k. -/
def scK (b : BitVec 512) : Nat := bodyNat b 112 6 + 1
/-- FIRST. -/
def scFirst (b : BitVec 512) : Nat := bodyNat b 144 32
/-- The last key index. -/
def scLast (b : BitVec 512) : Nat := scFirst b + bodyNat b 176 16
/-- THR. -/
def scThr (b : BitVec 512) : Int := (b.extractLsb' 192 32).toInt
/-- Offset of the query. -/
def scQuery (b : BitVec 512) : Nat := 16 * bodyNat b 80 14
/-- Offset of the result. -/
def scResult (b : BitVec 512) : Nat := 16 * bodyNat b 128 14
/-- The blocks that hold the keys. -/
def scBlocks (b : BitVec 512) : List Nat := (List.range (scLast b / 64 + 1 - scFirst b / 64)).map fun i => scFirst b / 64 + i

/-- A scoring command's checks in the order of R329, and the command. -/
def scoreCheck (s : State) (t : BitVec 6) (b : BitVec 512) : Except Trap Command :=
  let k := s.core
  let H := gHandle s b
  let n := 64 * scD b
  let lo := gTable b + scFirst b / 64 * n
  let hi := gTable b + (scLast b / 64 + 1) * n
  let q := Range.of 1 (scQuery b) (scD b)
  let r := Range.of 1 (scResult b) (8 * scK b + 8)
  let page := H.valid && decide (H.pageSize < hi)
  match firstTrap
    [if bodyKind b ≠ 3 ∨ reservedSet 2 3 b = true ∨ 5 ≤ bodyNat b 480 3 ∨ bodyWpen b = true then some (Trap.of .templateKind)
      else none,
      limitIf (decide (128 * 1024 < hi - lo)), bufferSide k 1 q.lo q.hi, bufferSide k 1 r.lo r.hi,
      if page then some (Trap.at .handleRange (H.vbase + max lo H.pageSize)) else none,
      if H.valid && !H.r then some (Trap.at .permission (H.vbase + lo)) else none, barCheck s b] with
  | some e => .error e
  | none => .ok { baseCommand s t b with src := H, reads := [q], writes := [r] }

/-- TSCORE (R81, R328): a scoring template issued unchanged. -/
def execTscore (t : BitVec 6) (s : State) : Out := issueWord 2 3 t 15 0 scoreCheck enterGather s

/-- The body that BSCORE issues: the template with FIRST, NKM1 and THR replaced (R329). -/
def bscoreBody (s : State) (d a b : BitVec 5) : BitVec 512 :=
  let t := vget (vget s.core.tmpl 2 (Vector.replicate 64 0)) (snat s d % 64) 0
  putField (putField (putField t 144 32 (snat s a % 2 ^ 32)) 176 16 (snat s a / 2 ^ 32 % 2 ^ 16)) 192 32 (snat s b % 2 ^ 32)

/-- BSCORE (R329). -/
def execBscore (d a b : BitVec 5) (s : State) : Out :=
  if 64 ≤ snat s d ∨ 2 ^ 48 ≤ snat s a ∨ 2 ^ 32 ≤ snat s b then finish s (.trap (Trap.of .illegalInstruction))
  else if fenceHeld s.core.ctx then finish s .stall
  else
    whenRoom s (queueFree s.core 2)
      (match scoreCheck s (BitVec.ofNat 6 (snat s d)) (bscoreBody s d a b) with
      | .error e => .trap e
      | .ok c => .ok (enterGather s c))

/-- The query, as integers. -/
def scQ (k : Core) (b : BitVec 512) : List Int := (spRead k 1 (scQuery b) (scD b)).map fun x => x.toInt

/-- Where plane p of a block starts within the page (R327). -/
def planeAt (b : BitVec 512) (blk p : Nat) : Nat := gTable b + blk * 64 * scD b + (7 - p) * 8 * scD b

/-- The sum of q(d) over the set bits of a key's plane. -/
def planeSum (q : List Int) (bytes : List Byte) : Int :=
  q.zipIdx.foldl (fun m (x, d) => if (bytes.getD (d / 8) 0).getLsbD (d % 8) then m + x else m) 0

/-- A key's bytes of a plane. -/
def keyPlane (s : State) (c : Command) (i p : Nat) : List Byte :=
  rdBytes s c.die (c.src.base + planeAt c.body (i / 64) p + i % 64 * (scD c.body / 8)) (scD c.body / 8)

/-- w(p). -/
def planeWeight (p : Nat) : Int := if p = 7 then -128 else (2 ^ p : Nat)

/-- The whole score of a key. -/
def keyScore (s : State) (c : Command) (q : List Int) (i : Nat) : Int :=
  (List.range 8).foldl (fun m p => m + planeWeight p * planeSum q (keyPlane s c i p)) 0

/-- An entry put in its place: score down, index up (R330). -/
def insertScore (e : Int × Nat) : List (Int × Nat) → List (Int × Nat)
  | [] => [e]
  | f :: r => if e.1 > f.1 ∨ (e.1 = f.1 ∧ e.2 < f.2) then e :: f :: r else f :: insertScore e r

/-- The keys of a block that lie in the range. -/
def blockKeys (b : BitVec 512) (blk : Nat) : List Nat :=
  ((List.range 64).map fun i => 64 * blk + i).filter fun i => decide (scFirst b ≤ i) && decide (i ≤ scLast b)

/-- The threshold that a list gives (R330). -/
def thrOf (b : BitVec 512) (l : List (Int × Nat)) : Int :=
  match l[scK b - 1]? with
  | some e => max (scThr b) e.1
  | none => scThr b

/-- The list after one more block: what an unabandoned run has, which is what every run has (R330). -/
def offerBlock (s : State) (c : Command) (q : List Int) (l : List (Int × Nat)) (blk : Nat) : List (Int × Nat) :=
  let keys := (blockKeys c.body blk).map fun i => (keyScore s c q i, i)
  ((keys.filter fun e => decide (scThr c.body ≤ e.1)).foldl (fun m e => insertScore e m) l).take (scK c.body)

/-- The lists as they stand before each block and after the last. -/
def scoreLists (s : State) (c : Command) (q : List Int) : List Nat → List (Int × Nat) → List (List (Int × Nat))
  | [], l => [l]
  | blk :: r, l => l :: scoreLists s c q r (offerBlock s c q l blk)

/-- A block as its planes are scored: the live keys with their partial scores, SURV, PLANES, and an error's address. -/
structure Scoring where
  s : State
  live : List (Nat × Int)
  surv : Nat
  planes : Nat
  fault : Option Nat
deriving DecidableEq, Repr

/-- One plane of a block (R330): `tr` is the threshold read for it. -/
def scorePlane (c : Command) (q : List Int) (blk : Nat) (x : Scoring) (p : Nat) (tr : Int) : Scoring :=
  if x.fault.isSome || x.live == [] then x
  else
    let b := c.body
    let pos : Int := (q.map fun y => max y 0).sum
    match lineFault x.s c.src (planeAt b blk p) (8 * scD b) with
    | some f => { x with fault := some f.2 }
    | none =>
      let scored := x.live.map fun (i, P) => (i, P + planeWeight p * planeSum q (keyPlane x.s c i p))
      { s := engineTouch x.s c.aspace c.src (planeAt b blk p) (8 * scD b)
        live := scored.filter fun e => !decide (e.2 + ((2 ^ p - 1 : Nat) : Int) * pos < tr)
        surv := x.surv + (if p = 0 then x.live.length else 0), planes := x.planes + x.live.length, fault := none }

/-- One block: plane 7 first. `thrs` are the thresholds from this block's start on; which of them a plane reads is a free choice,
the first where REPRO.ON is 1 (R330; log entry 13). -/
def scoreBlock (c : Command) (q : List Int) (x : Scoring) (blk : Nat) (thrs : List Int) : Scoring :=
  [7, 6, 5, 4, 3, 2, 1, 0].foldl (fun y p =>
    let n := if c.repro then 0 else Config.freeThreshold y.s.fresh (8 * blk + p) % thrs.length
    scorePlane c q blk y p (thrs.getD n 0)) { x with live := (blockKeys c.body blk).map fun i => (i, 0) }

/-- Every block in ascending order. -/
def scoreBlocks (c : Command) (q : List Int) : List Nat → List Int → Scoring → Scoring
  | blk :: r, t :: ts, x => scoreBlocks c q r ts (scoreBlock c q x blk (t :: ts))
  | _, _, x => x

/-- The bytes of a result: k entries and the summary (R330). -/
def scoreBytes (b : BitVec 512) (l : List (Int × Nat)) (surv planes : Nat) : List Byte :=
  ((List.range (scK b)).flatMap fun e =>
    match l[e]? with
    | some (v, i) => leBytes 4 (BitVec.ofInt 32 v).toNat ++ leBytes 4 i
    | none => leBytes 4 0x80000000 ++ leBytes 4 0xFFFFFFFF) ++ leBytes 4 surv ++ leBytes 4 planes

/-- The work of a scoring command, in one piece: all of the result at its end, or none of it (R330). -/
def scorePiece (s : State) (c : Command) : Piece :=
  let b := c.body
  let n := 64 * scD b
  let lo := gTable b + scFirst b / 64 * n
  if accessHeld s (c.src.base + lo) ((scBlocks b).length * n) then .wait s
  else match spBad s.core 1 (scQuery b) (scD b) with
    | some o => .did s 0 0 (some (.storageError, spAddr 1 (o / 8 * 8)))
    | none =>
      let q := scQ s.core b
      let lists := scoreLists s c q (scBlocks b) []
      let s1 := correctSoft s c.die c.core [Range.of 1 (scQuery b) (scD b)]
      let x := scoreBlocks c q (scBlocks b) (lists.map (thrOf b)) ⟨s1, [], 0, 0, none⟩
      match x.fault with
      | some a => .did x.s 0 0 (some (.storageError, a))
      | none =>
        let bytes := scoreBytes b (lists.getLast?.getD []) x.surv x.planes
        match spBadWrite x.s.core 1 (scResult b) bytes.length with
        | some o => .did x.s 0 0 (some (.storageError, spAddr 1 (o / 8 * 8)))
        | none => .did (modCore x.s fun k => spWrite k 1 (scResult b) bytes) bytes.length 0 none

end Sys2Proof.Machine
end

