-- ==== Sys2Proof/Machine/Special.lean ====
section
/-! DEFINITION. The special functions of VSFU (R158): a reference value in exact integer arithmetic, and the result: any value
within the accuracy the rule states, chosen freely (log entry 3), or the special case the table gives. -/

namespace Sys2Proof.Machine

/-- Fraction bits of the fixed-point numbers below. -/
def fxP : Nat := 200

/-- floor(sqrt x) for x below 4^n, from a partial root `r`. -/
def isqrtFrom (x : Nat) : Nat → Nat → Nat
  | 0, r => r
  | n + 1, r => let t := r + 2 ^ n; isqrtFrom x n (if t * t ≤ x then t else r)

/-- floor(sqrt x) for x below 4^512. -/
def isqrt (x : Nat) : Nat := isqrtFrom x (x.log2 / 2 + 1) 0

/-- ln 2, log2 e, 1 / (2π) and 2π, each times a power of two, rounded down. -/
def ln2x160 : Nat := 1013035739299659071135698605846798551586536899366
/-- log2 e × 2^160. -/
def log2ex160 : Nat := 2108501164428393954197770173035669514763056903505
/-- 2^320 / (2π). -/
def inv2pix320 : Nat := 339952895147018642535639799349517299692324064546005894715236429198937636543799886830530695754936
/-- 2π × 2^160. -/
def twoPix160 : Nat := 9182885614096437842769610399486622256908310048836

/-- Σ t^k / k! from term k, in fixed point with 160 fraction bits. -/
def expSeries (t : Nat) : Nat → Nat → Nat → Nat
  | 0, _, _ => 0
  | fuel + 1, k, term => term + expSeries t fuel (k + 1) (term * t / 2 ^ 160 / (k + 1))

/-- 2^y for a fixed-point y with 160 fraction bits: mantissa with 160 fraction bits, and exponent. -/
def exp2Fix (y : Int) : Nat × Int :=
  let k := y.fdiv ((2 ^ 160 : Nat) : Int)
  let f := (y - k * ((2 ^ 160 : Nat) : Int)).toNat
  (expSeries (f * ln2x160 / 2 ^ 160) 64 0 (2 ^ 160), k)

/-- Fraction bits of log2 of a mantissa in [1, 2), by squaring. -/
def log2Bits : Nat → Nat → Nat → Nat
  | 0, _, acc => acc
  | n + 1, y, acc =>
    let q := y * y / 2 ^ fxP
    if q ≥ 2 ^ (fxP + 1) then log2Bits n (q / 2) (2 * acc + 1) else log2Bits n q (2 * acc)

/-- Alternating series of sine (k = 1) or cosine (k = 0) of an angle t, fixed point with 160 fraction bits. -/
def trigSeries (t2 : Nat) : Nat → Nat → Nat → Int
  | 0, _, _ => 0
  | fuel + 1, k, term => (term : Int) - trigSeries t2 fuel (k + 2) (term * t2 / 2 ^ 160 / ((k + 1) * (k + 2)))

/-- A reference: sign, numerator, denominator, exponent. -/
structure Ref where
  neg : Bool
  n : Nat
  d : Nat
  e : Int
deriving DecidableEq, Repr

/-- A finite value as a reference. -/
def Ref.ofFixed (x : Int) (e : Int) : Ref := ⟨decide (x < 0), x.natAbs, 1, e⟩

/-- The fixed-point product of a finite source of magnitude at most 2^9 and a constant with 160 fraction bits. -/
def mulConst (neg : Bool) (m : Nat) (e : Int) (k : Nat) : Int :=
  let x : Int := (m * k : Nat)
  let y := if 0 ≤ e then x * ((2 ^ e.toNat : Nat) : Int) else x.fdiv ((2 ^ (-e).toNat : Nat) : Int)
  if neg then -y else y

/-- A finite source whose magnitude is cut at 2^9, which no function here can tell apart within its accuracy. -/
def clampSrc (m : Nat) (e : Int) : Nat × Int := if ratLog2 m 1 + e ≥ 9 then (1, 9) else (m, e)

/-- Reference of 2^x. -/
def refExp2 (neg : Bool) (m : Nat) (e : Int) : Ref :=
  let (m, e) := clampSrc m e
  let y := mulConst neg m e (2 ^ 160)
  let (t, k) := exp2Fix y
  ⟨false, t, 1, k - 160⟩

/-- Reference of log2 x, x > 0: the characteristic and 160 bits of the mantissa's logarithm. -/
def refLog2 (m : Nat) (e : Int) : Ref :=
  let l := m.log2
  let y := m * 2 ^ fxP / 2 ^ l
  Ref.ofFixed (((l : Int) + e) * ((2 ^ 160 : Nat) : Int) + log2Bits 160 y 0) (-160)

/-- A reference of zero, with the sign that its nearest result has. -/
def Ref.zero (neg : Bool) : Ref := ⟨neg, 0, 1, -200⟩

/-- A reference of one. -/
def Ref.one : Ref := ⟨false, 1, 1, 0⟩

/-- Reference of sine or cosine: the angle is reduced by whole turns exactly, and the sum kept between -1 and 1. -/
def refTrig (cosine neg : Bool) (m : Nat) (e : Int) : Ref :=
  let turns := if 0 ≤ e then m * inv2pix320 * 2 ^ e.toNat else m * inv2pix320 / 2 ^ (-e).toNat
  let f := turns % 2 ^ 320
  let t := f * twoPix160 / 2 ^ 320
  let t2 := t * t / 2 ^ 160
  let v := if cosine then trigSeries t2 100 0 (2 ^ 160) else trigSeries t2 100 1 t
  let one : Int := 2 ^ 160
  Ref.ofFixed (max (-one) (min one (if neg && !cosine then -v else v))) (-160)

/-- Reference of tanh x, x ≠ 0. -/
def refTanh (neg : Bool) (m : Nat) (e : Int) : Ref :=
  if ratLog2 m 1 + e < -20 then
    let s := (-e).toNat
    ⟨neg, m * (15 * 2 ^ (4 * s) - 5 * m * m * 2 ^ (2 * s) + 2 * m * m * m * m), 15, e - 4 * s⟩
  else
    let (m, e) := clampSrc m e
    let (t, k) := exp2Fix (mulConst false m (e + 1) log2ex160)
    let one := 2 ^ 160
    let big := t * 2 ^ k.toNat
    ⟨neg, big - one, big + one, 0⟩

/-- Reference of 1 / (1 + 2^(−x log2 e)). -/
def refSigm (neg : Bool) (m : Nat) (e : Int) : Ref :=
  let (m, e) := clampSrc m e
  let (t, k) := exp2Fix (mulConst (!neg) m e log2ex160)
  if 0 ≤ k then ⟨false, 2 ^ 160, 2 ^ 160 + t * 2 ^ k.toNat, 0⟩
  else ⟨false, 2 ^ 160 * 2 ^ (-k).toNat, 2 ^ 160 * 2 ^ (-k).toNat + t, 0⟩

/-- Reference of 1 / sqrt x, x > 0. -/
def refRsqrt (m : Nat) (e : Int) : Ref :=
  let (m, e) := if e % 2 = 0 then (m, e) else (2 * m, e - 1)
  ⟨false, isqrt (2 ^ 400 / m), 1, -200 - e / 2⟩

/-- The accuracy of a function: so many ulp of the result, or an absolute error of 2^-n. -/
inductive Accuracy where
  | ulp (n : Nat)
  | abs (n : Nat)
deriving DecidableEq, Repr

/-- |a| as an integer multiple of d × 2^q for a reference with denominator d. -/
def Ref.scaled (r : Ref) (q : Int) : Int :=
  let x : Int := (r.n <<< (r.e - q).toNat : Nat)
  if r.neg then -x else x

/-- A finite FP32 pattern lies within the accuracy of a reference. -/
def within (r : Ref) (acc : Accuracy) (bits : Nat) : Bool :=
  match FFmt.f32.val bits with
  | .fin neg m e =>
    let unit : Int := match acc with
      | .ulp _ => max (ratLog2 r.n r.d + r.e) FFmt.f32.emin - 23
      | .abs n => -(n : Int)
    let tol : Nat := match acc with
      | .ulp n => n
      | .abs _ => 1
    let q := min (min r.e e) unit
    let diff := (r.scaled q - scaledInt neg m e q * r.d).natAbs
    decide (diff ≤ (tol * r.d) <<< (unit - q).toNat)
  | _ => false

/-- The result of a function with a reference: the freely chosen value if it lies within the accuracy, else the rounded
reference; infinite with OF beyond the largest finite magnitude; flushed under FTZ with UF (R158). -/
def accurate (fresh : Nat) (fn : BitVec 7) (src : Nat) (ftz : Bool) (r : Ref) (acc : Accuracy) : Nat × Fl :=
  let (mn, md) := ratScale r.n r.d r.e
  if mn > (2 ^ 128 - 2 ^ 104) * md then (withSign .f32 r.neg FFmt.f32.infMag, { ovf := true })
  else
    let free := (Config.freeUlp fresh fn (BitVec.ofNat 32 src)).toNat
    let best := (roundRat .f32 .rne r.neg r.n r.d r.e).1
    let res := if within r acc free then free else best
    if ftz && FFmt.f32.subnormal res then (res / 2 ^ 31 * 2 ^ 31, { uf := true }) else (res, {})

/-- VSFU of one lane (R158). -/
def sfuLane (fresh : Nat) (ftz : Bool) (fn : BitVec 7) (bits : Nat) : Nat × Fl :=
  let f := FFmt.f32
  let src := f.flushSrc ftz bits
  let inf (neg : Bool) : Nat := withSign f neg f.infMag
  let zero (neg : Bool) : Nat := withSign f neg 0
  let one : Nat := 0x3F800000
  let bad : Nat × Fl := (f.nan, { nv := true })
  let go := accurate fresh fn src ftz
  match f.val src with
  | .nan => (f.nan, { nv := f.snan bits })
  | .inf neg =>
    match fn.toNat with
    | 0 => (zero neg, {})
    | 1 => if neg then bad else (zero false, {})
    | 2 => if neg then bad else (inf false, {})
    | 3 => if neg then (zero false, {}) else (inf false, {})
    | 4 => if neg then bad else (inf false, {})
    | 5 => bad
    | 6 => bad
    | 7 => (withSign f neg one, {})
    | _ => if neg then (zero false, {}) else (one, {})
  | .fin neg m e =>
    match fn.toNat with
    | 0 => if m = 0 then (inf neg, { dz := true }) else go ⟨neg, 1, m, -e⟩ (.ulp 1)
    | 1 =>
      if m = 0 then (inf neg, { dz := true })
      else if neg then bad else go (refRsqrt m e) (.ulp 1)
    | 2 =>
      if m = 0 then (zero neg, {})
      else if neg then bad
      else
        let (m, e) := if e % 2 = 0 then (m, e) else (2 * m, e - 1)
        let x := m * 2 ^ 80
        let r := isqrt x
        ((roundRat f .rne false (2 * r + (if r * r = x then 0 else 1)) 1 (e / 2 - 41)).1, {})
    | 3 => if decide (ratLog2 (max m 1) 1 + e ≥ 7) && !neg && m != 0 then (inf false, { ovf := true })
           else go (if m = 0 then .one else refExp2 neg m e) (.ulp 2)
    | 4 =>
      if m = 0 then (inf true, { dz := true })
      else if neg then bad
      else if 2 ^ m.log2 = m then ((roundTo f .rne (Val.ofInt ((m.log2 : Int) + e))).1, {})
      else go (refLog2 m e) (.ulp 2)
    | 5 =>
      go (if m = 0 then .zero neg else refTrig false neg m e) (.abs (if ratLog2 m 1 + e < 15 ∨ (2 ^ m.log2 = m ∧ ratLog2 m 1 + e = 15) then 22 else 10))
    | 6 =>
      go (if m = 0 then .one else refTrig true neg m e) (.abs (if ratLog2 m 1 + e < 15 ∨ (2 ^ m.log2 = m ∧ ratLog2 m 1 + e = 15) then 22 else 10))
    | 7 => go (if m = 0 then .zero neg else refTanh neg m e) (.ulp 2)
    | _ => go (if m = 0 then ⟨false, 1, 2, 0⟩ else refSigm neg m e) (.abs 24)

end Sys2Proof.Machine
end

