-- ==== Sys2Proof/Machine/Vector.lean ====
section
/-! DEFINITION. Meanings of the vector instructions of majors 0x20 to 0x28 and 0x2B: arithmetic, comparison, conversion, special
functions, the axes, permutes, scratchpad load and store, and masks (R151 to R164, R168). Each has an effect, which the vector
queue runs, and a meaning, which issues it. -/

namespace Sys2Proof.Machine

/-! Float arithmetic (R151). -/

/-- A float member on x, y and the destination's old lane. -/
def floatLanes (d a b : BitVec 5) (m : BitVec 3) (z : BitVec 1) (f : Nat → Nat → Nat → Nat × Fl) (s : State) : VEff :=
  let c := s.core.ctx
  let act := mreg c m
  let (x, y, w) := (vreg c a, vreg c b, vreg c d)
  verdictFree act [x, y] (laneWise s d m z fun i =>
    let (r, fl) := f (laneAt x i) (laneAt y i) (laneAt w i)
    (BitVec.ofNat 32 r, fl))

/-- VFMA and VFMS read the destination too, so its verdict words count. -/
def fusedLanes (d a b : BitVec 5) (m : BitVec 3) (z : BitVec 1) (f : Nat → Nat → Nat → Nat × Fl) (s : State) : VEff :=
  verdictFree (mreg s.core.ctx m) [vreg s.core.ctx d] (floatLanes d a b m z f s)

/-- A sign operation: exact, a NaN x gives the default NaN, and a subnormal x reads as zero under FTZ (R151). -/
def signOp (ftz : Bool) (x : Nat) (sign : Bool → Bool) : Nat × Fl :=
  let f := FFmt.f32
  if (f.val x).isNan then (f.nan, { nv := f.snan x })
  else
    let x' := f.flushSrc ftz x
    (x' % f.signBit + (if sign (decide (f.signBit ≤ x')) then f.signBit else 0), {})

/-- The effect of VADD (R151). -/
def effVadd (d a b : BitVec 5) (m : BitVec 3) (z : BitVec 1) (o : VOps) (s : State) : Eff :=
  vecDone s (floatLanes d a b m z (fun x y _ => fAdd .f32 o.narrow x y) s)

/-- VADD (R151). -/
def execVadd (d a b : BitVec 5) (m : BitVec 3) (z : BitVec 1) (s : State) : Out :=
  vecIssue (.vadd d a b m z) (vecOps s 0 0) (effVadd d a b m z) s

/-- The effect of VSUB (R151). -/
def effVsub (d a b : BitVec 5) (m : BitVec 3) (z : BitVec 1) (o : VOps) (s : State) : Eff :=
  vecDone s (floatLanes d a b m z (fun x y _ => fSub .f32 o.narrow x y) s)

/-- VSUB (R151). -/
def execVsub (d a b : BitVec 5) (m : BitVec 3) (z : BitVec 1) (s : State) : Out :=
  vecIssue (.vsub d a b m z) (vecOps s 0 0) (effVsub d a b m z) s

/-- The effect of VMUL (R151). -/
def effVmul (d a b : BitVec 5) (m : BitVec 3) (z : BitVec 1) (o : VOps) (s : State) : Eff :=
  vecDone s (floatLanes d a b m z (fun x y _ => fMul .f32 o.narrow x y) s)

/-- VMUL (R151). -/
def execVmul (d a b : BitVec 5) (m : BitVec 3) (z : BitVec 1) (s : State) : Out :=
  vecIssue (.vmul d a b m z) (vecOps s 0 0) (effVmul d a b m z) s

/-- The effect of VFMA (R151). -/
def effVfma (d a b : BitVec 5) (m : BitVec 3) (z : BitVec 1) (o : VOps) (s : State) : Eff :=
  vecDone s (fusedLanes d a b m z (fun x y w => fMulAdd .f32 o.narrow false x y w) s)

/-- VFMA (R151). -/
def execVfma (d a b : BitVec 5) (m : BitVec 3) (z : BitVec 1) (s : State) : Out :=
  vecIssue (.vfma d a b m z) (vecOps s 0 0) (effVfma d a b m z) s

/-- The effect of VFMS (R151). -/
def effVfms (d a b : BitVec 5) (m : BitVec 3) (z : BitVec 1) (o : VOps) (s : State) : Eff :=
  vecDone s (fusedLanes d a b m z (fun x y w => fMulAdd .f32 o.narrow true x y w) s)

/-- VFMS (R151). -/
def execVfms (d a b : BitVec 5) (m : BitVec 3) (z : BitVec 1) (s : State) : Out :=
  vecIssue (.vfms d a b m z) (vecOps s 0 0) (effVfms d a b m z) s

/-- The effect of VMIN (R119, R151). -/
def effVmin (d a b : BitVec 5) (m : BitVec 3) (z : BitVec 1) (o : VOps) (s : State) : Eff :=
  vecDone s (floatLanes d a b m z (fun x y _ => fMinMax .f32 false (vmodeFTZ o.vmode) x y) s)

/-- VMIN (R119, R151). -/
def execVmin (d a b : BitVec 5) (m : BitVec 3) (z : BitVec 1) (s : State) : Out :=
  vecIssue (.vmin d a b m z) (vecOps s 0 0) (effVmin d a b m z) s

/-- The effect of VMAX (R119, R151). -/
def effVmax (d a b : BitVec 5) (m : BitVec 3) (z : BitVec 1) (o : VOps) (s : State) : Eff :=
  vecDone s (floatLanes d a b m z (fun x y _ => fMinMax .f32 true (vmodeFTZ o.vmode) x y) s)

/-- VMAX (R119, R151). -/
def execVmax (d a b : BitVec 5) (m : BitVec 3) (z : BitVec 1) (s : State) : Out :=
  vecIssue (.vmax d a b m z) (vecOps s 0 0) (effVmax d a b m z) s

/-- The effect of VABS (R151). -/
def effVabs (d a : BitVec 5) (m : BitVec 3) (z : BitVec 1) (o : VOps) (s : State) : Eff :=
  vecDone s (floatLanes d a a m z (fun x _ _ => signOp (vmodeFTZ o.vmode) x fun _ => false) s)

/-- VABS (R151). -/
def execVabs (d a : BitVec 5) (m : BitVec 3) (z : BitVec 1) (s : State) : Out :=
  vecIssue (.vabs d a m z) (vecOps s 0 0) (effVabs d a m z) s

/-- The effect of VNEG (R151). -/
def effVneg (d a : BitVec 5) (m : BitVec 3) (z : BitVec 1) (o : VOps) (s : State) : Eff :=
  vecDone s (floatLanes d a a m z (fun x _ _ => signOp (vmodeFTZ o.vmode) x not) s)

/-- VNEG (R151). -/
def execVneg (d a : BitVec 5) (m : BitVec 3) (z : BitVec 1) (s : State) : Out :=
  vecIssue (.vneg d a m z) (vecOps s 0 0) (effVneg d a m z) s

/-- The effect of VCPYS (R151). -/
def effVcpys (d a b : BitVec 5) (m : BitVec 3) (z : BitVec 1) (o : VOps) (s : State) : Eff :=
  vecDone s (floatLanes d a b m z (fun x y _ => signOp (vmodeFTZ o.vmode) x fun _ => decide (2 ^ 31 ≤ y)) s)

/-- VCPYS (R151). -/
def execVcpys (d a b : BitVec 5) (m : BitVec 3) (z : BitVec 1) (s : State) : Out :=
  vecIssue (.vcpys d a b m z) (vecOps s 0 0) (effVcpys d a b m z) s

/-! Integer arithmetic and logic (R152). -/

/-- An integer member: no flag, no trap. -/
def intLanes (d a b : BitVec 5) (m : BitVec 3) (z : BitVec 1) (f : Nat → Nat → Nat) (s : State) : VEff :=
  let c := s.core.ctx
  laneWise s d m z fun i => (BitVec.ofNat 32 (f (laneAt (vreg c a) i) (laneAt (vreg c b) i)), {})

/-- The effect of VIADD (R152). -/
def effViadd (d a b : BitVec 5) (m : BitVec 3) (z : BitVec 1) (_ : VOps) (s : State) : Eff :=
  vecDone s (intLanes d a b m z (aluRes .add 32) s)

/-- VIADD (R152). -/
def execViadd (d a b : BitVec 5) (m : BitVec 3) (z : BitVec 1) (s : State) : Out :=
  vecIssue (.viadd d a b m z) (vecOps s 0 0) (effViadd d a b m z) s

/-- The effect of VISUB (R152). -/
def effVisub (d a b : BitVec 5) (m : BitVec 3) (z : BitVec 1) (_ : VOps) (s : State) : Eff :=
  vecDone s (intLanes d a b m z (aluRes .sub 32) s)

/-- VISUB (R152). -/
def execVisub (d a b : BitVec 5) (m : BitVec 3) (z : BitVec 1) (s : State) : Out :=
  vecIssue (.visub d a b m z) (vecOps s 0 0) (effVisub d a b m z) s

/-- The effect of VIMUL (R152). -/
def effVimul (d a b : BitVec 5) (m : BitVec 3) (z : BitVec 1) (_ : VOps) (s : State) : Eff :=
  vecDone s (intLanes d a b m z (aluRes .mul 32) s)

/-- VIMUL (R152). -/
def execVimul (d a b : BitVec 5) (m : BitVec 3) (z : BitVec 1) (s : State) : Out :=
  vecIssue (.vimul d a b m z) (vecOps s 0 0) (effVimul d a b m z) s

/-- The effect of VAND (R152). -/
def effVand (d a b : BitVec 5) (m : BitVec 3) (z : BitVec 1) (_ : VOps) (s : State) : Eff :=
  vecDone s (intLanes d a b m z (aluRes .and 32) s)

/-- VAND (R152). -/
def execVand (d a b : BitVec 5) (m : BitVec 3) (z : BitVec 1) (s : State) : Out :=
  vecIssue (.vand d a b m z) (vecOps s 0 0) (effVand d a b m z) s

/-- The effect of VOR (R152). -/
def effVor (d a b : BitVec 5) (m : BitVec 3) (z : BitVec 1) (_ : VOps) (s : State) : Eff :=
  vecDone s (intLanes d a b m z (aluRes .or 32) s)

/-- VOR (R152). -/
def execVor (d a b : BitVec 5) (m : BitVec 3) (z : BitVec 1) (s : State) : Out :=
  vecIssue (.vor d a b m z) (vecOps s 0 0) (effVor d a b m z) s

/-- The effect of VXOR (R152). -/
def effVxor (d a b : BitVec 5) (m : BitVec 3) (z : BitVec 1) (_ : VOps) (s : State) : Eff :=
  vecDone s (intLanes d a b m z (aluRes .xor 32) s)

/-- VXOR (R152). -/
def execVxor (d a b : BitVec 5) (m : BitVec 3) (z : BitVec 1) (s : State) : Out :=
  vecIssue (.vxor d a b m z) (vecOps s 0 0) (effVxor d a b m z) s

/-- The effect of VSHL (R152). -/
def effVshl (d a b : BitVec 5) (m : BitVec 3) (z : BitVec 1) (_ : VOps) (s : State) : Eff :=
  vecDone s (intLanes d a b m z (aluRes .shl 32) s)

/-- VSHL (R152). -/
def execVshl (d a b : BitVec 5) (m : BitVec 3) (z : BitVec 1) (s : State) : Out :=
  vecIssue (.vshl d a b m z) (vecOps s 0 0) (effVshl d a b m z) s

/-- The effect of VSHR (R152). -/
def effVshr (d a b : BitVec 5) (m : BitVec 3) (z : BitVec 1) (_ : VOps) (s : State) : Eff :=
  vecDone s (intLanes d a b m z (aluRes .shr 32) s)

/-- VSHR (R152). -/
def execVshr (d a b : BitVec 5) (m : BitVec 3) (z : BitVec 1) (s : State) : Out :=
  vecIssue (.vshr d a b m z) (vecOps s 0 0) (effVshr d a b m z) s

/-- The effect of VSAR (R152). -/
def effVsar (d a b : BitVec 5) (m : BitVec 3) (z : BitVec 1) (_ : VOps) (s : State) : Eff :=
  vecDone s (intLanes d a b m z (aluRes .sar 32) s)

/-- VSAR (R152). -/
def execVsar (d a b : BitVec 5) (m : BitVec 3) (z : BitVec 1) (s : State) : Out :=
  vecIssue (.vsar d a b m z) (vecOps s 0 0) (effVsar d a b m z) s

/-- The effect of VIMIN (R152). -/
def effVimin (d a b : BitVec 5) (m : BitVec 3) (z : BitVec 1) (_ : VOps) (s : State) : Eff :=
  vecDone s (intLanes d a b m z (aluRes .min 32) s)

/-- VIMIN (R152). -/
def execVimin (d a b : BitVec 5) (m : BitVec 3) (z : BitVec 1) (s : State) : Out :=
  vecIssue (.vimin d a b m z) (vecOps s 0 0) (effVimin d a b m z) s

/-- The effect of VIMAX (R152). -/
def effVimax (d a b : BitVec 5) (m : BitVec 3) (z : BitVec 1) (_ : VOps) (s : State) : Eff :=
  vecDone s (intLanes d a b m z (aluRes .max 32) s)

/-- VIMAX (R152). -/
def execVimax (d a b : BitVec 5) (m : BitVec 3) (z : BitVec 1) (s : State) : Out :=
  vecIssue (.vimax d a b m z) (vecOps s 0 0) (effVimax d a b m z) s

/-- The effect of VIMIN.n32 (R152). -/
def effViminN32 (d a b : BitVec 5) (m : BitVec 3) (z : BitVec 1) (_ : VOps) (s : State) : Eff :=
  vecDone s (intLanes d a b m z (aluRes .minn 32) s)

/-- VIMIN.n32 (R152). -/
def execViminN32 (d a b : BitVec 5) (m : BitVec 3) (z : BitVec 1) (s : State) : Out :=
  vecIssue (.viminN32 d a b m z) (vecOps s 0 0) (effViminN32 d a b m z) s

/-- The effect of VIMAX.n32 (R152). -/
def effVimaxN32 (d a b : BitVec 5) (m : BitVec 3) (z : BitVec 1) (_ : VOps) (s : State) : Eff :=
  vecDone s (intLanes d a b m z (aluRes .maxn 32) s)

/-- VIMAX.n32 (R152). -/
def execVimaxN32 (d a b : BitVec 5) (m : BitVec 3) (z : BitVec 1) (s : State) : Out :=
  vecIssue (.vimaxN32 d a b m z) (vecOps s 0 0) (effVimaxN32 d a b m z) s

/-! Comparison (R153). -/

/-- A condition of two .f32 lanes and its flags. -/
def vcmpFloat (c : Nat) (ftz : Bool) (a b : Nat) : Bool × Fl :=
  let x := (readSrc .f32 ftz a).1
  let y := (readSrc .f32 ftz b).1
  let un := x.isNan || y.isNan
  let d := cmpV x y
  match c with
  | 0 => (!un && decide (d = 0), { nv := FFmt.f32.snan a || FFmt.f32.snan b })
  | 1 => (un || decide (d ≠ 0), { nv := FFmt.f32.snan a || FFmt.f32.snan b })
  | 2 => (!un && decide (d < 0), { nv := un })
  | 3 => (!un && decide (d ≤ 0), { nv := un })
  | 4 => (!un && decide (d > 0), { nv := un })
  | _ => (!un && decide (d ≥ 0), { nv := un })

/-- A condition of two lanes of a type: .f32, .i32 or .n32 (R61, R153). -/
def vcmpLane (c t : Nat) (ftz : Bool) (a b : Nat) : Bool × Fl :=
  match t with
  | 0 => vcmpFloat c ftz a b
  | 1 => (cmpHolds c 32 a b, {})
  | _ => (cmpHolds (if c < 2 then c else c + 4) 32 a b, {})

/-- The effect of VCMP (R153). -/
def effVcmp (d : BitVec 3) (a b : BitVec 5) (cond : BitVec 3) (t : BitVec 2) (m : BitVec 3) (z : BitVec 1) (o : VOps) (s : State) :
    Eff :=
  let c := s.core.ctx
  let act := mreg c m
  let r (i : Nat) : Bool × Fl :=
    vcmpLane cond.toNat t.toNat (vmodeFTZ o.vmode) (laneAt (vreg c a) i) (laneAt (vreg c b) i)
  vecDone s (verdictFree act [vreg c a, vreg c b]
    (.ok (setM c d (maskUnder act (z == 1) (mreg c d) fun i => (r i).1), maskFlags act fun i => (r i).2)))

/-- VCMP (R153). -/
def execVcmp (d : BitVec 3) (a b : BitVec 5) (c : BitVec 3) (t : BitVec 2) (m : BitVec 3) (z : BitVec 1) (s : State) : Out :=
  vecIssue (.vcmp d a b c t m z) (vecOps s 0 0) (effVcmp d a b c t m z) s

/-! Conversion (R154 to R157). -/

/-- The low bits a format reads of a lane (R145). -/
def lowBits (code lane : Nat) : Nat := lane % 2 ^ codeWidth code

/-- VCVT between formats other than .q4e (R154): a narrow form, or a full lane. -/
def cvtLane (o : VOps) (src tgt lane : Nat) : Nat × Fl :=
  match numFmt src, numFmt tgt with
  | some f, some g => convert f g ⟨vmodeRM o.vmode, vmodeSAT o.vmode, vmodeFTZ o.vmode⟩ (lowBits src lane)
  | _, _ => (0, {})

/-- The scale of a lane's block, from the destination's old lanes (R155). -/
def q4Scale (w : VReg) (i : Nat) : Nat := laneAt w (i / 32 * 32) % 2 ^ 16

/-- The groups of four columns that hold an active lane (R155). -/
def liveGroups (act : BitVec 1024) : List Nat :=
  (List.range 256).filter fun g => (List.range 4).any fun k => act.getLsbD (4 * g + k)

/-- Every lane of a live group. -/
def groupMask (act : BitVec 1024) : BitVec 1024 :=
  maskOf fun i => (List.range 4).any fun k => act.getLsbD (i / 4 * 4 + k)

/-- The encode of a group into four slots, with its flags (R35, R155). -/
def encodeGroup (a w : VReg) (g : Nat) : Nat × Fl :=
  let xs := (List.range 4).map fun k => laneAt a (4 * g + k)
  q4Encode (xs.map FFmt.f32.val) (xs.map FFmt.f32.snan) (FFmt.bf16.val (q4Scale w (4 * g)))

/-- The 16 bits of a group held in four lanes. -/
def groupBits (a : VReg) (g : Nat) : Nat :=
  (List.range 4).foldl (fun n k => n + laneAt a (4 * g + k) % 16 * 2 ^ (4 * k)) 0

/-- The decode of element k of a group, rounded to .f32 (R34, R155). -/
def decodeElt (o : VOps) (a w : VReg) (i : Nat) : Nat × Fl :=
  match q4Decode (groupBits a (i / 4)) with
  | some vs =>
    let sc := q4Scale w i
    let (v, bad) := mulV (vs.getD (i % 4) .nan) (readSrc .bf16 (vmodeFTZ o.vmode) sc).1
    let (r, fl) := roundTo .f32 o.narrow v
    (r, fl.join { nv := bad || FFmt.bf16.snan sc })
  | none => (0, {})

/-- The effect of VCVT (R154, R155). The verdict test is made on the lanes of a alone, not on a scale in v(d) (log entry 70).
A verdict word is reported before a format conflict: the manual gives the two no order (log entry 107). -/
def effVcvt (d a src tgt : BitVec 5) (m : BitVec 3) (z : BitVec 1) (o : VOps) (s : State) : Eff :=
  let c := s.core.ctx
  let act := mreg c m
  let (x, w) := (vreg c a, vreg c d)
  vecDone s
    (if tgt = 13 then
      let live := liveGroups act
      let enc := live.map fun g => (g, encodeGroup x w g)
      verdictFree (groupMask act) [x]
        (.ok (setV c d (underMask act (z == 1) w fun i =>
            BitVec.ofNat 32 (q4Slot (((assocGet enc (i / 4)).getD (0, {})).1) (i % 4))),
          enc.foldl (fun fl e => fl.join e.2.2) {}))
    else if src = 13 then
      verdictFree (groupMask act) [x]
        (if (liveGroups act).any fun g => (q4Decode (groupBits x g)).isNone then .error (Trap.of .formatConflict)
         else .ok (setV c d (underMask act (z == 1) w fun i => BitVec.ofNat 32 (decodeElt o x w i).1),
           maskFlags (groupMask act) fun i => (decodeElt o x w i).2))
    else
      verdictFree act [x] (laneWise s d m z fun i =>
        let (r, fl) := cvtLane o src.toNat tgt.toNat (laneAt x i)
        (BitVec.ofNat 32 r, fl)))

/-- VCVT (R154, R155). -/
def execVcvt (d a src tgt : BitVec 5) (m : BitVec 3) (z : BitVec 1) (s : State) : Out :=
  vecIssue (.vcvt d a src tgt m z) (vecOps s 0 0) (effVcvt d a src tgt m z) s

/-- The effect of VSPLIT (R49, R156). -/
def effVsplit (d a : BitVec 5) (m : BitVec 3) (z : BitVec 1) (_ : VOps) (s : State) : Eff :=
  let c := s.core.ctx
  let act := mreg c m
  let x := vreg c a
  let part (k : Nat) (i : Nat) : BitVec 32 :=
    let (p, q, r, _) := split3 (laneAt x i)
    BitVec.ofNat 32 (if k = 0 then p else if k = 1 then q else r)
  let put (c : Context) (k : Nat) : Context :=
    let r := d + BitVec.ofNat 5 k
    setV c r (underMask act (z == 1) (vreg c r) (part k))
  vecDone s (verdictFree act [x] (.ok (put (put (put c 0) 1) 2, maskFlags act fun i => (split3 (laneAt x i)).2.2.2)))

/-- VSPLIT (R156). -/
def execVsplit (d a : BitVec 5) (m : BitVec 3) (z : BitVec 1) (s : State) : Out :=
  vecIssue (.vsplit d a m z) (vecOps s 0 0) (effVsplit d a m z) s

/-- Elements a lane packs at a format (R157). -/
def packK (code : Nat) : Nat := 32 / codeWidth code

/-- Result of VPACK at a lane: k elements of the row packed, zero beyond the row's last (R157). -/
def packLane (x : VReg) (code i : Nat) : Nat :=
  let k := packK code
  let c := i % 64
  if c < 64 / k then
    (List.range k).foldl (fun n j => n + lowBits code (laneAt x (i / 64 * 64 + k * c + j)) * 2 ^ (codeWidth code * j)) 0
  else 0

/-- The effect of VPACK (R157). -/
def effVpack (d a f : BitVec 5) (m : BitVec 3) (z : BitVec 1) (_ : VOps) (s : State) : Eff :=
  let c := s.core.ctx
  let act := mreg c m
  let k := packK f.toNat
  let read := maskOf fun j => (List.range 16).any fun r => decide (j / 64 = r) && act.getLsbD (r * 64 + j % 64 / k)
  vecDone s (verdictFree read [vreg c a]
    (laneWise s d m z fun i => (BitVec.ofNat 32 (packLane (vreg c a) f.toNat i), {})))

/-- VPACK (R157). -/
def execVpack (d a f : BitVec 5) (m : BitVec 3) (z : BitVec 1) (s : State) : Out :=
  vecIssue (.vpack d a f m z) (vecOps s 0 0) (effVpack d a f m z) s

/-- The lane VUNPK reads for a destination lane. -/
def unpackFrom (code i : Nat) : Nat := i / 64 * 64 + i % 64 / packK code

/-- The effect of VUNPK (R157). -/
def effVunpk (d a f : BitVec 5) (m : BitVec 3) (z : BitVec 1) (_ : VOps) (s : State) : Eff :=
  let c := s.core.ctx
  let act := mreg c m
  let code := f.toNat
  let read := maskOf fun j =>
    (List.range (packK code)).any fun n => act.getLsbD (j / 64 * 64 + (j % 64 * packK code + n)) &&
      decide (j % 64 * packK code + n < 64)
  vecDone s (verdictFree read [vreg c a]
    (laneWise s d m z fun i => (BitVec.ofNat 32 (eltOf code (laneAt (vreg c a) (unpackFrom code i)) (i % 64 % packK code)), {})))

/-- VUNPK (R157). -/
def execVunpk (d a f : BitVec 5) (m : BitVec 3) (z : BitVec 1) (s : State) : Out :=
  vecIssue (.vunpk d a f m z) (vecOps s 0 0) (effVunpk d a f m z) s

/-- The effect of VSFU (R158). Each lane's allowed result is chosen freely (log entry 3). -/
def effVsfu (d a : BitVec 5) (f : BitVec 7) (m : BitVec 3) (z : BitVec 1) (o : VOps) (s : State) : Eff :=
  let c := s.core.ctx
  let x := vreg c a
  vecDone s (verdictFree (mreg c m) [x] (laneWise s d m z fun i =>
    let (r, fl) := sfuLane (s.fresh * 1024 + i) (vmodeFTZ o.vmode) f (laneAt x i)
    (BitVec.ofNat 32 r, fl)))

/-- VSFU (R158). -/
def execVsfu (d a : BitVec 5) (f : BitVec 7) (m : BitVec 3) (z : BitVec 1) (s : State) : Out :=
  vecIssue (.vsfu d a f m z) (vecOps s 0 0) (effVsfu d a f m z) s

/-! The axes (R159 to R161). -/

/-- A move along an axis: each lane takes the lane of its row or column at the place `f` gives (R159). -/
def axisMove (ax : Axis) (d a : BitVec 5) (m : BitVec 3) (z : BitVec 1) (f : Nat → Nat) (s : State) : VEff :=
  let x := vreg s.core.ctx a
  laneWise s d m z fun i => (BitVec.ofNat 32 (laneAt x (ax.lane (ax.group i) (f (ax.place i)))), {})

/-- The place a rotate reads: `k` below its own, modulo the axis. -/
def rotFrom (ax : Axis) (k p : Nat) : Nat := (p + ax.len - k % ax.len) % ax.len

/-- The sources of the float forms along an axis must not be verdict words: every lane of a live row or column counts (R160). -/
def axisFree (ax : Axis) (t : BitVec 2) (act : BitVec 1024) (x : VReg) (e : VEff) : VEff :=
  if t = 0 then verdictFree (ax.spread act) [x] e else e

/-- The values of a row or column. -/
def axisVals (ax : Axis) (x : VReg) (g : Nat) : List Nat := (ax.lanes g).map (laneAt x)

/-- The live rows or columns. -/
def axisLive (ax : Axis) (act : BitVec 1024) : List Nat :=
  (List.range ax.count).filter fun g => (ax.lanes g).any fun i => act.getLsbD i

/-- A source as a reduction or scan reads it: on .f32 a NaN is the default one and FTZ applies (R31, R40), also where the element is
a prefix of its own. -/
def axisSrc (t : BitVec 2) (ftz : Bool) (x : Nat) : Nat :=
  if t = 0 then (if (FFmt.f32.val x).isNan then FFmt.f32.nan else FFmt.f32.flushSrc ftz x) else x

/-- NV of the signalling sources of a reduction or scan on .f32 (R31). -/
def axisNv (t : BitVec 2) (xs : List Nat) : Fl := { nv := t == 0 && xs.any FFmt.f32.snan }

/-- A reduction or scan along an axis (R44, R160): the values at each place of each live row or column. -/
def axisEffect (ax : Axis) (scan : Bool) (d a : BitVec 5) (t op : BitVec 2) (m : BitVec 3) (z : BitVec 1) (o : VOps) (s : State) :
    VEff :=
  let c := s.core.ctx
  let act := mreg c m
  let x := vreg c a
  let res := (axisLive ax act).map fun g =>
    let xs := (axisVals ax x g).map (axisSrc t (vmodeFTZ o.vmode))
    let (ys, fl) :=
      if scan then axisScan ax (axisOp o t op) 0 xs
      else let (y, fl) := axisReduce ax (axisOp o t op) 0 xs; (List.replicate ax.len y, fl)
    (g, ys, (fl.join (axisNv t (axisVals ax x g))).join (rsumov t op xs ys))
  axisFree ax t act x
    (.ok (setV c d (underMask act (z == 1) (vreg c d) fun i =>
        BitVec.ofNat 32 ((((assocGet res (ax.group i)).getD ([], {})).1).getD (ax.place i) 0)),
      res.foldl (fun fl e => fl.join e.2.2) {}))

/-- The compensated reduction along an axis (R45, R161): sum into d, error term into d + 1. -/
def axisPair (ax : Axis) (d a : BitVec 5) (m : BitVec 3) (z : BitVec 1) (o : VOps) (s : State) : VEff :=
  let c := s.core.ctx
  let act := mreg c m
  let x := vreg c a
  let ftz := vmodeFTZ o.vmode
  let res := (axisLive ax act).map fun g =>
    (g, axisReduce ax (pairAdd ftz) (0, 0) ((axisVals ax x g).map fun v => (FFmt.f32.flushSrc ftz v, 0)))
  let val (i : Nat) : Nat × Nat := ((assocGet res (ax.group i)).getD ((0, 0), {})).1
  let c1 := setV c d (underMask act (z == 1) (vreg c d) fun i => BitVec.ofNat 32 (val i).1)
  axisFree ax 0 act x
    (.ok (setV c1 (d + 1) (underMask act (z == 1) (vreg c1 (d + 1)) fun i => BitVec.ofNat 32 (val i).2),
      res.foldl (fun fl e => fl.join e.2.2) {}))

/-- The effect of VROTR (R159); its field b names the scalar register that issue reads. -/
def effVrotr (d a : BitVec 5) (m : BitVec 3) (z : BitVec 1) (o : VOps) (s : State) : Eff :=
  vecDone s (axisMove .row d a m z (rotFrom .row o.sb.toNat) s)

/-- VROTR (R159). -/
def execVrotr (d a b : BitVec 5) (m : BitVec 3) (z : BitVec 1) (s : State) : Out :=
  vecIssue (.vrotr d a b m z) (vecOps s 0 b) (effVrotr d a m z) s

/-- The effect of VBCR (R159); its field b names the scalar register that issue reads. -/
def effVbcr (d a : BitVec 5) (m : BitVec 3) (z : BitVec 1) (o : VOps) (s : State) : Eff :=
  vecDone s (axisMove .row d a m z (fun _ => o.sb.toNat % 64) s)

/-- VBCR (R159). -/
def execVbcr (d a b : BitVec 5) (m : BitVec 3) (z : BitVec 1) (s : State) : Out :=
  vecIssue (.vbcr d a b m z) (vecOps s 0 b) (effVbcr d a m z) s

/-- The effect of VROTC (R159); its field b names the scalar register that issue reads. -/
def effVrotc (d a : BitVec 5) (m : BitVec 3) (z : BitVec 1) (o : VOps) (s : State) : Eff :=
  vecDone s (axisMove .col d a m z (rotFrom .col o.sb.toNat) s)

/-- VROTC (R159). -/
def execVrotc (d a b : BitVec 5) (m : BitVec 3) (z : BitVec 1) (s : State) : Out :=
  vecIssue (.vrotc d a b m z) (vecOps s 0 b) (effVrotc d a m z) s

/-- The effect of VBCC (R159); its field b names the scalar register that issue reads. -/
def effVbcc (d a : BitVec 5) (m : BitVec 3) (z : BitVec 1) (o : VOps) (s : State) : Eff :=
  vecDone s (axisMove .col d a m z (fun _ => o.sb.toNat % 16) s)

/-- VBCC (R159). -/
def execVbcc (d a b : BitVec 5) (m : BitVec 3) (z : BitVec 1) (s : State) : Out :=
  vecIssue (.vbcc d a b m z) (vecOps s 0 b) (effVbcc d a m z) s

/-- The effect of VREDR (R160). -/
def effVredr (d a : BitVec 5) (t op : BitVec 2) (m : BitVec 3) (z : BitVec 1) (o : VOps) (s : State) : Eff :=
  vecDone s (axisEffect .row false d a t op m z o s)

/-- VREDR (R160). -/
def execVredr (d a : BitVec 5) (t op : BitVec 2) (m : BitVec 3) (z : BitVec 1) (s : State) : Out :=
  vecIssue (.vredr d a t op m z) (vecOps s 0 0) (effVredr d a t op m z) s

/-- The effect of VSCANR (R160). -/
def effVscanr (d a : BitVec 5) (t op : BitVec 2) (m : BitVec 3) (z : BitVec 1) (o : VOps) (s : State) : Eff :=
  vecDone s (axisEffect .row true d a t op m z o s)

/-- VSCANR (R160). -/
def execVscanr (d a : BitVec 5) (t op : BitVec 2) (m : BitVec 3) (z : BitVec 1) (s : State) : Out :=
  vecIssue (.vscanr d a t op m z) (vecOps s 0 0) (effVscanr d a t op m z) s

/-- The effect of VREDC (R160). -/
def effVredc (d a : BitVec 5) (t op : BitVec 2) (m : BitVec 3) (z : BitVec 1) (o : VOps) (s : State) : Eff :=
  vecDone s (axisEffect .col false d a t op m z o s)

/-- VREDC (R160). -/
def execVredc (d a : BitVec 5) (t op : BitVec 2) (m : BitVec 3) (z : BitVec 1) (s : State) : Out :=
  vecIssue (.vredc d a t op m z) (vecOps s 0 0) (effVredc d a t op m z) s

/-- The effect of VSCANC (R160). -/
def effVscanc (d a : BitVec 5) (t op : BitVec 2) (m : BitVec 3) (z : BitVec 1) (o : VOps) (s : State) : Eff :=
  vecDone s (axisEffect .col true d a t op m z o s)

/-- VSCANC (R160). -/
def execVscanc (d a : BitVec 5) (t op : BitVec 2) (m : BitVec 3) (z : BitVec 1) (s : State) : Out :=
  vecIssue (.vscanc d a t op m z) (vecOps s 0 0) (effVscanc d a t op m z) s

/-- The effect of VREDR.c (R161). -/
def effVredrC (d a : BitVec 5) (m : BitVec 3) (z : BitVec 1) (o : VOps) (s : State) : Eff :=
  vecDone s (axisPair .row d a m z o s)

/-- VREDR.c (R161). -/
def execVredrC (d a : BitVec 5) (m : BitVec 3) (z : BitVec 1) (s : State) : Out :=
  vecIssue (.vredrC d a m z) (vecOps s 0 0) (effVredrC d a m z) s

/-- The effect of VREDC.c (R161). -/
def effVredcC (d a : BitVec 5) (m : BitVec 3) (z : BitVec 1) (o : VOps) (s : State) : Eff :=
  vecDone s (axisPair .col d a m z o s)

/-- VREDC.c (R161). -/
def execVredcC (d a : BitVec 5) (m : BitVec 3) (z : BitVec 1) (s : State) : Out :=
  vecIssue (.vredcC d a m z) (vecOps s 0 0) (effVredcC d a m z) s

/-! Permute, select and move (R162). -/

/-- The effect of VPERM. -/
def effVperm (d a b : BitVec 5) (m : BitVec 3) (z : BitVec 1) (_ : VOps) (s : State) : Eff :=
  let (x, y) := (vreg s.core.ctx a, vreg s.core.ctx b)
  vecDone s (laneWise s d m z fun i => (x[laneAt y i % 1024]?.getD 0, {}))

/-- VPERM (R162). -/
def execVperm (d a b : BitVec 5) (m : BitVec 3) (z : BitVec 1) (s : State) : Out :=
  vecIssue (.vperm d a b m z) (vecOps s 0 0) (effVperm d a b m z) s

/-- The effect of VSEL: every lane is written. -/
def effVsel (d a b : BitVec 5) (m : BitVec 3) (_ : VOps) (s : State) : Eff :=
  let c := s.core.ctx
  let act := mreg c m
  vecDone s (.ok (setV c d (Vector.ofFn fun i => if act.getLsbD i then (vreg c a)[i] else (vreg c b)[i]), {}))

/-- VSEL (R162). -/
def execVsel (d a b : BitVec 5) (m : BitVec 3) (s : State) : Out :=
  vecIssue (.vsel d a b m) (vecOps s 0 0) (effVsel d a b m) s

/-- The effect of VMOV. -/
def effVmov (d a : BitVec 5) (m : BitVec 3) (z : BitVec 1) (_ : VOps) (s : State) : Eff :=
  let x := vreg s.core.ctx a
  vecDone s (laneWise s d m z fun i => (x[i]?.getD 0, {}))

/-- VMOV (R162). -/
def execVmov (d a : BitVec 5) (m : BitVec 3) (z : BitVec 1) (s : State) : Out :=
  vecIssue (.vmov d a m z) (vecOps s 0 0) (effVmov d a m z) s

/-- The effect of VIOTA. -/
def effViota (d : BitVec 5) (m : BitVec 3) (z : BitVec 1) (o : VOps) (s : State) : Eff :=
  vecDone s (laneWise s d m z fun i => (BitVec.ofNat 32 (o.sa.toNat + i), {}))

/-- VIOTA (R162). -/
def execViota (d a : BitVec 5) (m : BitVec 3) (z : BitVec 1) (s : State) : Out :=
  vecIssue (.viota d a m z) (vecOps s a 0) (effViota d m z) s

/-- The effect of VINS. -/
def effVins (d : BitVec 5) (o : VOps) (s : State) : Eff :=
  let c := s.core.ctx
  vecDone s (.ok (setV c d (vset (vreg c d) (o.sb.toNat % 1024) (o.sa.extractLsb' 0 32)), {}))

/-- VINS (R162). -/
def execVins (d a b : BitVec 5) (s : State) : Out := vecIssue (.vins d a b) (vecOps s a b) (effVins d) s

/-- The effect of VEXT. -/
def effVext (d a : BitVec 5) (o : VOps) (s : State) : Eff :=
  .ok (setS s d (BitVec.ofNat 64 (laneAt (vreg s.core.ctx a) (o.sb.toNat % 1024))))

/-- VEXT (R162). -/
def execVext (d a b : BitVec 5) (s : State) : Out := vecIssue (.vext d a b) (vecOps s 0 b) (effVext d a) s

/-! Scratchpad load and store (R163, R164). -/

/-- The first storage error among the rows of a register footprint: the failing word's offset (R143). -/
def footBad (k : Core) (b : BitVec 2) (addr : Nat) (f : Foot) : Option Nat :=
  if k.bad = [] ∧ k.failedBanks = [] then none
  else (List.range 16).findSome? fun r => (spBad k b (addr + r * f.pitch) (rowBytes f.fmt)).map fun o => o / 8 * 8

/-- The effect of VLD. -/
def effVld (v : BitVec 5) (u : BitVec 2) (off : BitVec 13) (o : VOps) (s : State) : Eff :=
  let k := s.core
  let addr := o.sa.toNat + 64 * off.toNat
  match footCheck k u addr false with
  | .error t => .trap t
  | .ok f =>
    match footBad k u addr f with
    | some w => .trap (Trap.at .storageError (spAddr u w))
    | none =>
      let rows := (List.range 16).map fun r => leNat (rowRead k u addr f r)
      let lanes : VReg := Vector.ofFn fun i => widenElt f.fmt (eltOf f.fmt (rows.getD (i / 64) 0) (i % 64))
      let read := (List.range 16).map fun r => Range.of u (addr + r * f.pitch) (rowBytes f.fmt)
      vecDone (correctSoft s k.die k.num read) (.ok (setV k.ctx v lanes, {}))

/-- The range checker's wait of VLD and VST at issue (R164). -/
def vmHeld (s : State) (u : BitVec 2) (addr : Nat) (store : Bool) : Bool :=
  match footCheck s.core u addr store with
  | .error _ => false
  | .ok f =>
    let r := [Range.of u addr f.len]
    commandWaits s.core s.core.seq (if store then [] else r) (if store then r else [])

/-- VLD (R163). -/
def execVld (v : BitVec 5) (u : BitVec 2) (sr : BitVec 5) (off : BitVec 13) (s : State) : Out :=
  if vmHeld s u (snat s sr + 64 * off.toNat) false then finish s .stall
  else vecIssue (.vld v u sr off) (vecOps s sr 0) (effVld v u off) s

/-- A row narrowed into a bank's format. -/
def narrowRow (o : VOps) (f : Foot) (x : VReg) (r : Nat) : List Byte :=
  leBytes (rowBytes f.fmt)
    ((List.range 64).foldl (fun n c => n + (narrowElt o f.sat f.fmt (laneAt x (r * 64 + c))).1 * 2 ^ (c * codeWidth f.fmt)) 0)

/-- The effect of VST. -/
def effVst (v : BitVec 5) (u : BitVec 2) (off : BitVec 13) (o : VOps) (s : State) : Eff :=
  let k := s.core
  let addr := o.sa.toNat + 64 * off.toNat
  let x := vreg k.ctx v
  match footCheck k u addr true with
  | .error t => .trap t
  | .ok f =>
    if narrowing f.fmt && anyVerdict (BitVec.allOnes 1024) x then .trap (Trap.of .verdictOperand)
    else
      let fl := maskFlags (BitVec.allOnes 1024) fun i => (narrowElt o f.sat f.fmt (laneAt x i)).2
      let k' := (List.range 16).foldl (fun k r => spWrite k u (addr + r * f.pitch) (narrowRow o f x r)) k
      .ok (raiseFlags { s with core := k' } fl)

/-- VST (R163). -/
def execVst (v : BitVec 5) (u : BitVec 2) (sr : BitVec 5) (off : BitVec 13) (s : State) : Out :=
  if vmHeld s u (snat s sr + 64 * off.toNat) true then finish s .stall
  else vecIssue (.vst v u sr off) (vecOps s sr 0) (effVst v u off) s

/-! Masks (R168). -/

/-- The effect of MAND. -/
def effMand (d a b : BitVec 3) (_ : VOps) (s : State) : Eff :=
  let c := s.core.ctx
  .ok (modCtx s fun _ => setM c d (mreg c a &&& mreg c b))

/-- MAND (R168). -/
def execMand (d a b : BitVec 3) (s : State) : Out := vecIssue (.mand d a b) (vecOps s 0 0) (effMand d a b) s

/-- The effect of MOR. -/
def effMor (d a b : BitVec 3) (_ : VOps) (s : State) : Eff :=
  let c := s.core.ctx
  .ok (modCtx s fun _ => setM c d (mreg c a ||| mreg c b))

/-- MOR (R168). -/
def execMor (d a b : BitVec 3) (s : State) : Out := vecIssue (.mor d a b) (vecOps s 0 0) (effMor d a b) s

/-- The effect of MXOR. -/
def effMxor (d a b : BitVec 3) (_ : VOps) (s : State) : Eff :=
  let c := s.core.ctx
  .ok (modCtx s fun _ => setM c d (mreg c a ^^^ mreg c b))

/-- MXOR (R168). -/
def execMxor (d a b : BitVec 3) (s : State) : Out := vecIssue (.mxor d a b) (vecOps s 0 0) (effMxor d a b) s

/-- The effect of MNOT. -/
def effMnot (d a : BitVec 3) (_ : VOps) (s : State) : Eff := .ok (modCtx s fun c => setM c d (~~~(mreg c a)))

/-- MNOT (R168). -/
def execMnot (d a : BitVec 3) (s : State) : Out := vecIssue (.mnot d a) (vecOps s 0 0) (effMnot d a) s

/-- The effect of MPOPC. -/
def effMpopc (d : BitVec 5) (a : BitVec 3) (_ : VOps) (s : State) : Eff :=
  .ok (setS s d (BitVec.ofNat 64 (popcount (mreg s.core.ctx a).toNat 1024)))

/-- MPOPC (R168). -/
def execMpopc (d : BitVec 5) (a : BitVec 3) (s : State) : Out := vecIssue (.mpopc d a) (vecOps s 0 0) (effMpopc d a) s

/-- The effect of MTEST. -/
def effMtest (d a b : BitVec 3) (_ : VOps) (s : State) : Eff :=
  .ok (setP s d (mreg s.core.ctx a &&& mreg s.core.ctx b != 0))

/-- MTEST (R168). -/
def execMtest (d a b : BitVec 3) (s : State) : Out := vecIssue (.mtest d a b) (vecOps s 0 0) (effMtest d a b) s

end Sys2Proof.Machine
end

