-- ==== Sys2Proof/Machine/VectorMem.lean ====
section
/-! DEFINITION. Meanings of the vector accesses to global memory and of the feeds' pops and pushes (R165 to R167). -/

namespace Sys2Proof.Machine

/-! Global load and store (R165, R166). -/

/-- Where an element of VLDG or VSTG lies: its virtual address, and its physical one when its page is resident. -/
structure Element where
  lane : Nat
  va : Nat
  pa : Option Nat
deriving DecidableEq, Repr

/-- The translation and rights of one element (R165): within the handle's page by the handle, beyond it by a walk made now. -/
def vgElement (s : State) (H : Handle) (size : Nat) (store : Bool) (lane off : Nat) : Except Trap Element :=
  let c := s.core.ctx
  let va := H.vbase + off
  let found : Except Trap (Bool × Option Nat) :=
    if off ≥ 2 * H.pageSize then .error (Trap.at .handleRange va)
    else if off < H.pageSize then .ok (if store then H.w else H.r, if H.res then some (H.base + off) else none)
    else match walk s c.aspace va with
      | .error e => .error (Trap.at e va)
      | .ok l =>
        .ok (if store then dW l.desc else dR l.desc,
          if residentFor s l c.aspace s.core.die c.seqTag then some (leafPa l va) else none)
  match found with
  | .error t => .error t
  | .ok (right, pa) =>
    let pa' := pa.filter fun p => pathUp s p
    if !right then .error (Trap.at .permission va)
    else match pa' with
      | some p => if store && inWindowRecord s p size then .error (Trap.at .permission va) else .ok ⟨lane, va, some p⟩
      | none => .ok ⟨lane, va, none⟩

/-- Every active element in ascending lane order, or the first trap. -/
def vgElements (s : State) (H : Handle) (size : Nat) (store : Bool) : List (Nat × Nat) → Except Trap (List Element)
  | [] => .ok []
  | (i, off) :: r =>
    match vgElement s H size store i off with
    | .error t => .error t
    | .ok e =>
      match vgElements s H size store r with
      | .error t => .error t
      | .ok es => .ok (e :: es)

/-- The active lanes with their offsets. -/
def vgLanes (c : Context) (vi : BitVec 5) (m : BitVec 3) : List (Nat × Nat) :=
  let act := mreg c m
  ((List.range 1024).filter fun i => act.getLsbD i).map fun i => (i, laneAt (vreg c vi) i)

/-- The checks of VLDG and VSTG (R165): a trap, none where the handle is invalid, or the elements. TADDR of a misaligned lane through an invalid
handle is the lane's offset alone, where R165 names an address that such a handle has no base for (log entry 33). -/
def vgCheck (s : State) (H : Handle) (size : Nat) (store : Bool) (lanes : List (Nat × Nat)) :
    Except Trap (Option (List Element)) :=
  match lanes.find? fun l => l.2 % size ≠ 0 with
  | some l => .error (Trap.at .misalignedAccess (if H.valid then H.vbase + l.2 else l.2))
  | none =>
    if !H.valid then .ok none
    else match vgElements s H size store lanes with
      | .error t => .error t
      | .ok es => .ok (some es)

/-- The residency mask, and the count of an instruction with any flag (R130, R165). -/
def vgFlags (s : State) (rf : BitVec 3) (flags : List Nat) : State :=
  modCtx s fun c =>
    let c1 := setM c rf (maskOf fun i => flags.contains i)
    if flags = [] then c1 else addPerf c1 6 1

/-- The lines that elements lie in, by virtual and physical address. -/
def vgLines (es : List Element) : List (Nat × Nat) :=
  (es.filterMap fun e => e.pa.map fun p => (e.va / 64 * 64, p / 64 * 64)).eraseDups

/-- What the lines read leave at the slices and page descriptors (R257, R373). -/
def vgTouch (s : State) (es : List Element) : State :=
  (vgLines es).foldl (fun t l => touchAt t t.core.ctx.aspace t.core.die l.1 l.2) s

/-- The elements of resident pages, as the parts of one access. -/
def vgParts (es : List Element) (size : Nat) : List (Nat × Nat × Nat) := es.filterMap fun e => e.pa.map fun p => (e.va, p, size)

/-- The values of the lanes whose elements an access has brought: `bytes` are those of the resident elements, in lane order. -/
def vgValues (size : Nat) : List Element → List Byte → List (Nat × Nat)
  | [], _ => []
  | e :: r, bytes =>
    match e.pa with
    | some _ => (e.lane, leNat (bytes.take size)) :: vgValues size r (bytes.drop size)
    | none => vgValues size r bytes

/-- The first element that lies in a failing line (R416). -/
def vgBad (s : State) (size : Nat) (es : List Element) : Option Nat :=
  es.findSome? fun e => e.pa.bind fun p => if (badByte s p size).isSome then some e.va else none

/-- The lanes of a VLDG written, its flags raised. -/
def vgLoaded (s : State) (v : BitVec 5) (m rf : BitVec 3) (size : Nat) (es : List Element) (bytes : List Byte) : State :=
  let vals := vgValues size es bytes
  let s1 := modCtx s fun c =>
    setV c v (underMask (mreg c m) false (vreg c v) fun i => BitVec.ofNat 32 ((assocGet vals i).getD 0))
  vgFlags s1 rf ((es.filter fun e => e.pa.isNone).map Element.lane)

/-- The effect of VLDG: one access, which waits for its place in the load queue (R166, R223, R224). -/
def effVldg (v vi : BitVec 5) (m rf : BitVec 3) (z : BitVec 2) (o : VOps) (s : State) : Eff :=
  let c := s.core.ctx
  let size := 2 ^ z.toNat
  let lanes := vgLanes c vi m
  match vgCheck s o.h size false lanes with
  | .error t => .trap t
  | .ok none =>
    let s1 := modCtx s fun c => setV c v (underMask (mreg c m) false (vreg c v) fun _ => 0)
    .ok (vgFlags s1 rf (lanes.map Prod.fst))
  | .ok (some es) =>
    match loadFinds s c.accessQ (vgParts es size) with
    | .wait => .stall
    | .forwarded bytes => .ok (vgLoaded s v m rf size es bytes)
    | .read bytes =>
      match vgBad s size es with
      | some va => .trap (Trap.at .storageError va)
      | none => .ok (vgTouch (vgLoaded s v m rf size es bytes) es)

/-- VLDG (R165). -/
def execVldg (v : BitVec 5) (h : BitVec 4) (vi : BitVec 5) (m rf : BitVec 3) (z : BitVec 2) (s : State) : Out :=
  vecIssue (.vldg v h vi m rf z) { vecOps s 0 0 with h := hreg s h } (effVldg v vi m rf z) s

/-- A vector store enters the store queue with its instruction's place in the issue order (R166, R223). -/
def vecStore (s : State) (o : VOps) (k : AccessKind) : State :=
  modCore s fun c => { c with
    seq := max c.seq (o.seq + 1), ctx := { c.ctx with accessQ := c.ctx.accessQ ++ [⟨o.seq, k⟩] } }

/-- The effect of VSTG: the store enters the queue whole (R223). -/
def effVstg (v vi : BitVec 5) (m rf : BitVec 3) (z : BitVec 2) (o : VOps) (s : State) : Eff :=
  let c := s.core.ctx
  let size := 2 ^ z.toNat
  let lanes := vgLanes c vi m
  match vgCheck s o.h size true lanes with
  | .error t => .trap t
  | .ok none => .ok (vgFlags s rf (lanes.map Prod.fst))
  | .ok (some es) =>
    let cells := es.flatMap fun e =>
      match e.pa with
      | some p => cellsFrom (canonPa s p) (leBytes size (laneAt (vreg c v) e.lane))
      | none => []
    let s1 := if cells = [] then s else vecStore s o (.write cells (vgLines es))
    .ok (vgFlags s1 rf ((es.filter fun e => e.pa.isNone).map Element.lane))

/-- VSTG (R165). -/
def execVstg (v : BitVec 5) (h : BitVec 4) (vi : BitVec 5) (m rf : BitVec 3) (z : BitVec 2) (s : State) : Out :=
  vecIssue (.vstg v h vi m rf z) { vecOps s 0 0 with h := hreg s h } (effVstg v vi m rf z) s

/-! Feeds (R167). -/

/-- A feed of the core. -/
def feedOf (k : Core) (f : BitVec 3) : Feed := vget k.feeds f.toNat Feed.reset

/-- Elements a feed's pops and pushes have claimed (R212). -/
def feedPos (f : Feed) : Nat := bodyNat f.image 352 32

/-- STATE of a feed record written. -/
def Feed.setState (f : Feed) (st : Nat) : Feed := { f with image := putField f.image 0 4 st }

/-- A register's worth of elements claimed (R167). -/
def Feed.claim (f : Feed) : Feed := { f with image := putField f.image 352 32 (feedPos f + 1024) }

/-- A feed whose stream is over becomes stopped (R214). -/
def Feed.endIf (f : Feed) (pos : Nat) : Feed :=
  if feedState f = 1 ∧ pos ≥ feedLen f ∧ f.out = [] then f.setState 2 else f

/-- A feed is fit for a pop or a push (R167). -/
def feedFit (f : Feed) (out : Bool) : Bool := decide (feedState f = 1) && feedOut f == out

/-- Elements an output feed holds that are not yet written, at most (R214; log entry 11). -/
def feedRoom : Nat := 4096

/-- Vector instructions queued on a feed: each has claimed a register's worth of its elements (R167). -/
def feedClaims (c : Context) (n : BitVec 3) : Nat :=
  (c.vq.filter fun e =>
    match e with
    | .instr (.vpop _ q _ _) _ _ => q == n
    | .instr (.vpush _ q _) _ _ => q == n
    | _ => false).length

/-- An input feed holds a register's worth of elements that nothing has claimed (R167). -/
def popReady (s : State) (n : BitVec 3) : Bool :=
  decide (1024 * (feedClaims s.core.ctx n + 1) ≤ (feedOf s.core n).ahead.length)

/-- An output feed has room for a register's worth of elements that nothing has claimed (R167). -/
def pushReady (s : State) (n : BitVec 3) : Bool :=
  let f := feedOf s.core n
  let w := 1024 * (feedClaims s.core.ctx n + 1)
  decide (f.out.length + w ≤ feedRoom) && decide (f.done + w ≤ feedLen f)

/-- What issue fixes for a pop or a push: 1 where it has claimed its elements, 0 where the feed was unfit (R167). -/
def feedOps (s : State) (fit : Bool) : VOps := { vecOps s 0 0 with sa := if fit then 1 else 0 }

/-- The effect of VPOP. -/
def effVpop (d : BitVec 5) (n : BitVec 3) (m : BitVec 3) (z : BitVec 1) (o : VOps) (s : State) : Eff :=
  let f := feedOf s.core n
  if o.sa = 0 then .trap (Trap.of .feedState)
  else
    let code := feedFmt f
    let elts := f.ahead.take 1024
    let pos := feedPos f + 1024
    let f' := ({ f with ahead := f.ahead.drop 1024 }.claim).endIf pos
    let s1 := modCtx s fun c =>
      setV c d (underMask (mreg c m) (z == 1) (vreg c d) fun i => widenElt code (elts.getD i 0).toNat)
    .ok (modCore s1 fun k => { k with feeds := vset k.feeds n.toNat f' })

/-- VPOP (R167): it does not issue until its elements are there. -/
def execVpop (d : BitVec 5) (n : BitVec 3) (m : BitVec 3) (z : BitVec 1) (s : State) : Out :=
  let fit := feedFit (feedOf s.core n) false
  if (Instr.vpop d n m z).wf && fit && !popReady s n then finish s .stall
  else vecIssue (.vpop d n m z) (feedOps s fit) (effVpop d n m z) s

/-- The effect of VPUSH. -/
def effVpush (a : BitVec 5) (n : BitVec 3) (m : BitVec 3) (o : VOps) (s : State) : Eff :=
  let c := s.core.ctx
  let f := feedOf s.core n
  let act := mreg c m
  let x := vreg c a
  let code := feedFmt f
  let sat := f.image.getLsbD 13
  if o.sa = 0 then .trap (Trap.of .feedState)
  else if narrowing code && anyVerdict act x then .trap (Trap.of .verdictOperand)
  else
    let pos := f.done
    let new := ((List.range 1024).filter fun i => act.getLsbD i).map fun i =>
      (pos + i, BitVec.ofNat 32 (narrowElt o sat code (laneAt x i)).1)
    let fl := maskFlags act fun i => (narrowElt o sat code (laneAt x i)).2
    let f' := ({ f with out := if feedState f = 1 then f.out ++ new else f.out, done := pos + 1024 }.claim).endIf (pos + 1024)
    .ok (raiseFlags (modCore s fun k => { k with feeds := vset k.feeds n.toNat f' }) fl)

/-- VPUSH (R167): it does not issue until its feed has room. -/
def execVpush (a : BitVec 5) (n : BitVec 3) (m : BitVec 3) (s : State) : Out :=
  let fit := feedFit (feedOf s.core n) true
  if (Instr.vpush a n m).wf && fit && !pushReady s n then finish s .stall
  else vecIssue (.vpush a n m) (feedOps s fit) (effVpush a n m) s

end Sys2Proof.Machine
end

