-- ==== Sys2Proof/Machine/Verdict.lean ====
section
/-! DEFINITION. Meanings of the verdict instructions that run in the vector queue: the monitor, the bound arithmetic, the
threshold, and the running top-k list (R316 to R326). -/

namespace Sys2Proof.Machine

/-- IEEE less-than: false for a NaN. -/
def ltV (a b : Val) : Bool := !a.isNan && !b.isNan && decide (cmpV a b < 0)

/-- The value is below −0 (a negative number or −∞). -/
def Val.below0 (v : Val) : Bool := ltV v (.fin false 0 0)

/-- One rounding to FP32 of an exact value, as a value. -/
def roundV (mode : RMode) (v : Val) : Val := FFmt.f32.val (roundTo .f32 ⟨mode, false, false⟩ v).1

/-- The exact sum of two values. -/
def plusV (a b : Val) : Val := (addV .rne a b).1

/-- B and E of R319 for a running sum S, a header, the bound Q and n chunks still to come. -/
def vdMargins (S H Q : Val) (n : Nat) : Val × Val :=
  if n = 0 then (.fin false 0 0, .fin false 0 0)
  else
    let B := if H.isNan || H.below0 then .inf false else roundV .rup (mulV Q H).1
    let absS := if S.below0 then negV S else S
    let M := roundV .rup (plusV absS B)
    let inner := plusV (mulV M (.fin false 1 (-23))).1 (.fin false 1 (-149))
    (B, roundV .rup (mulV (.fin false (16 * n) 0) inner).1)

/-- dn and up of R319. -/
def vdBounds (S H Q : Val) (n : Nat) (nonneg : Bool) : Val × Val :=
  let (B, E) := vdMargins S H Q n
  (if nonneg then S else roundV .rdn (plusV (plusV S (negV B)) (negV E)), roundV .rup (plusV (plusV S B) E))

/-- The fix table of R319: none leaves the column live. -/
def vdFix (kind : Nat) (lock : Bool) (dn up T : Val) : Option Bool :=
  let zero : Val := .fin false 0 0
  match kind with
  | 0 => if ltV zero dn then some true else if !up.isNan && !ltV zero up then some false else none
  | 1 => if lock && ltV T dn then some true else if !up.isNan && !T.isNan && !ltV T up then some false else none
  | 2 => if lock && ltV up T then some true else if !dn.isNan && !T.isNan && !ltV dn T then some false else none
  | _ => if ltV T dn then some false else none

/-- Row 0, or another row, of column c of a register. -/
def colAt (v : VReg) (r c : Nat) : Nat := laneAt v (r * 64 + c)

/-- The live columns of an accumulator (R319). -/
def liveCols (v : VReg) : List Nat := (List.range 64).filter fun c => !isVerdict (BitVec.ofNat 32 (colAt v 0 c))

/-- A verdict-state trap. -/
def vdState : VEff := .error (Trap.of .verdictState)

/-- The effect of VDOPEN (R318). -/
def effVdopen (d : BitVec 5) (o : VOps) (s : State) : Eff :=
  let c := s.core.ctx
  let kind := o.sb.extractLsb' 48 2
  let qb := o.sb.extractLsb' 0 32
  let q := FFmt.f32.val qb.toNat
  let list := o.sa.extractLsb' 8 5
  let km1 := o.sa.extractLsb' 0 6
  let k3 := kind == 3
  let lv := vreg c list
  let t : BitVec 32 :=
    if k3 then BitVec.ofNat 32 (colAt lv 0 km1.toNat) else if kind = 0 then 0 else o.sa.extractLsb' 0 32
  let badA :=
    if kind = 0 then o.sa != 0
    else if k3 then o.sa &&& ~~~(0x1F3F : Word) != 0
    else o.sa.extractLsb' 32 32 != 0
  vecDone s
    (if c.monitor.isOpen || o.sb.extractLsb' 52 12 != 0 || badA || q.isNan || !q.isFin || q.below0 ||
        (FFmt.f32.val t.toNat).isNan || (k3 && (o.sb.getLsbD 51 || list == d)) then vdState
     else
      let mon : Monitor :=
        { isOpen := true, kind := kind, nonneg := o.sb.getLsbD 50, lock := o.sb.getLsbD 51, d := d
          list := if k3 then list else 0, km1 := if k3 then km1 else 0, q := qb, t := t
          tidx := if k3 then BitVec.ofNat 32 (colAt lv 1 km1.toNat) else 0
          nc := (o.sb.extractLsb' 32 16).toNat + 1, j := 0 }
      let v := vreg c d
      .ok ({ setV c d (Vector.ofFn fun i => if i.val < 64 then 0 else v[i]) with monitor := mon }, {}))

/-- VDOPEN (R318). -/
def execVdopen (d a b : BitVec 5) (s : State) : Out := vecIssue (.vdopen d a b) (vecOps s a b) (effVdopen d) s

/-- The trap a live column's terms raise (R319). -/
def vdTermTrap (nonneg : Bool) (a : VReg) (c : Nat) : Option Cause :=
  let terms := (List.range 16).map fun r => colAt a r c
  if terms.any fun t => isVerdict (BitVec.ofNat 32 t) then some .verdictOperand
  else if nonneg && terms.any fun t => (FFmt.f32.val t).isNan || (FFmt.f32.val t).below0 then some .verdictState
  else none

/-- The sum S of a live column after its chunk (R319). -/
def vdSum (acc a : VReg) (c : Nat) : Nat :=
  let s := (List.range 15).foldl (fun s r => (fAdd .f32 .rne s (colAt a (r + 1) c)).1) (colAt a 0 c)
  (fAdd .f32 .rne (colAt acc 0 c) s).1

/-- What a live column's row 0 becomes (R319). -/
def vdStep (mon : Monitor) (acc a b : VReg) (c : Nat) : BitVec 32 :=
  let S := vdSum acc a c
  let n := mon.nc - mon.j - 1
  let H := FFmt.f32.val (colAt b (mon.j % 16) c)
  let (dn, up) := vdBounds (FFmt.f32.val S) H (FFmt.f32.val mon.q.toNat) n mon.nonneg
  match vdFix mon.kind.toNat mon.lock dn up (FFmt.f32.val mon.t.toNat) with
  | some fix => mkVerdict fix mon.kind (mon.j + 1)
  | none => BitVec.ofNat 32 S

/-- The effect of VDACC (R319). -/
def effVdacc (d a b : BitVec 5) (_ : VOps) (s : State) : Eff :=
  let c := s.core.ctx
  let mon := c.monitor
  let acc := vreg c d
  let live := liveCols acc
  vecDone s
    (if !mon.isOpen || d != mon.d || decide (mon.nc ≤ mon.j) || a == d || b == d then vdState
     else match live.findSome? (vdTermTrap mon.nonneg (vreg c a)) with
      | some t => .error (Trap.of t)
      | none =>
        .ok ({ setV c d (Vector.ofFn fun i =>
            if live.contains i.val then vdStep mon acc (vreg c a) (vreg c b) i else acc[i]) with
          monitor := { mon with j := mon.j + 1 } }, {}))

/-- VDACC (R319). -/
def execVdacc (d a b : BitVec 5) (s : State) : Out := vecIssue (.vdacc d a b) (vecOps s 0 0) (effVdacc d a b) s

/-- The effect of VDTHR (R321). -/
def effVdthr (o : VOps) (s : State) : Eff :=
  let c := s.core.ctx
  let mon := c.monitor
  let new := o.sa.extractLsb' 0 32
  let idx := o.sa.extractLsb' 32 32
  let x := FFmt.f32.val new.toNat
  let t := FFmt.f32.val mon.t.toNat
  let mon' : Monitor :=
    match mon.kind.toNat with
    | 1 => if ltV t x then { mon with t := new } else mon
    | 2 => if ltV x t then { mon with t := new } else mon
    | _ =>
      if ltV x t || (!x.isNan && !t.isNan && decide (cmpV x t = 0) && decide (idx.toNat < mon.tidx.toNat)) then
        { mon with t := new, tidx := idx }
      else mon
  vecDone s
    (if !mon.isOpen || mon.kind == 0 || mon.lock || (mon.kind != 3 && idx != 0) then vdState
     else .ok ({ c with monitor := mon' }, {}))

/-- VDTHR (R321). -/
def execVdthr (a : BitVec 5) (s : State) : Out := vecIssue (.vdthr a) (vecOps s a 0) effVdthr s

/-- The predicate's value on a column's final sum (R318, R323). -/
def vdPredicate (kind : Nat) (S T : Val) : Bool :=
  match kind with
  | 0 => ltV (.fin false 0 0) S
  | 1 => ltV T S
  | _ => ltV S T

/-- The effect of VDCLOSE (R323). -/
def effVdclose (d : BitVec 5) (_ : VOps) (s : State) : Eff :=
  let c := s.core.ctx
  let mon := c.monitor
  let acc := vreg c d
  let live := liveCols acc
  let fin (i : Nat) : BitVec 32 :=
    mkVerdict (vdPredicate mon.kind.toNat (FFmt.f32.val (laneAt acc i)) (FFmt.f32.val mon.t.toNat)) mon.kind mon.nc
  vecDone s
    (if !mon.isOpen || d != mon.d || (decide (mon.j < mon.nc) && live != []) then vdState
     else .ok ({ setV c d (Vector.ofFn fun i => if mon.kind != 3 && live.contains i.val then fin i else acc[i]) with
          monitor := Monitor.closed }, {}))

/-- VDCLOSE (R323). -/
def execVdclose (d : BitVec 5) (s : State) : Out := vecIssue (.vdclose d) (vecOps s 0 0) (effVdclose d) s

/-- A test of the lanes of a register for verdict words (R324). -/
def vdTest (any : Bool) (d : BitVec 3) (a : BitVec 5) (m : BitVec 3) (z : BitVec 1) (s : State) : Eff :=
  let c := s.core.ctx
  let act := mreg c m
  let x := vreg c a
  let w (i : Nat) : BitVec 32 := x[i]?.getD 0
  vecDone s
    (if (List.range 1024).any fun i => act.getLsbD i && isVerdict (w i) && decide (3 < ((w i).extractLsb' 16 5).toNat) then
      .error (Trap.of .verdictOperand)
     else .ok (setM c d (maskUnder act (z == 1) (mreg c d) fun i => isVerdict (w i) && (any || (w i).getLsbD 31)), {}))

/-- The effect of VDTEST. -/
def effVdtest (d : BitVec 3) (a : BitVec 5) (m : BitVec 3) (z : BitVec 1) (_ : VOps) (s : State) : Eff := vdTest false d a m z s

/-- VDTEST (R324). -/
def execVdtest (d : BitVec 3) (a : BitVec 5) (m : BitVec 3) (z : BitVec 1) (s : State) : Out :=
  vecIssue (.vdtest d a m z) (vecOps s 0 0) (effVdtest d a m z) s

/-- The effect of VDTEST.any. -/
def effVdtestAny (d : BitVec 3) (a : BitVec 5) (m : BitVec 3) (z : BitVec 1) (_ : VOps) (s : State) : Eff := vdTest true d a m z s

/-- VDTEST.any (R324). -/
def execVdtestAny (d : BitVec 3) (a : BitVec 5) (m : BitVec 3) (z : BitVec 1) (s : State) : Out :=
  vecIssue (.vdtestAny d a m z) (vecOps s 0 0) (effVdtestAny d a m z) s

/-! Running top-k (R325, R326). -/

/-- Entry e comes before entry f: smaller value, then smaller index (R325). -/
def entryBefore (e f : BitVec 32 × BitVec 32) : Bool :=
  let (x, y) := (FFmt.f32.val e.1.toNat, FFmt.f32.val f.1.toNat)
  ltV x y || (decide (cmpV x y = 0) && decide (e.2.toNat < f.2.toNat))

/-- An entry put in its place. -/
def insertEntry (e : BitVec 32 × BitVec 32) : List (BitVec 32 × BitVec 32) → List (BitVec 32 × BitVec 32)
  | [] => [e]
  | f :: r => if entryBefore e f then e :: f :: r else f :: insertEntry e r

/-- The candidates of TOPKI, or its trap (R326). -/
def topkCands (a : VReg) (base : BitVec 32) : List Nat → Except Trap (List (BitVec 32 × BitVec 32))
  | [] => .ok []
  | c :: r =>
    let x := BitVec.ofNat 32 (colAt a 0 c)
    if isVerdict x && !(x.extractLsb' 16 5 == 3 && !x.getLsbD 31) then .error (Trap.of .verdictOperand)
    else match topkCands a base r with
      | .error t => .error t
      | .ok cs => .ok (if isVerdict x || (FFmt.f32.val x.toNat).isNan then cs else (x, base + BitVec.ofNat 32 c) :: cs)

/-- An empty entry (R325). -/
def emptyEntry : BitVec 32 × BitVec 32 := (0x7F800000, 0xFFFFFFFF)

/-- The monitor after a merge into its list: its threshold becomes entry k - 1, or stays where it is earlier already, since no instruction moves it so
that more candidates would survive (R322, R325, R326; log entry 119, DEDUCED). -/
def tightened (mon : Monitor) (e : BitVec 32 × BitVec 32) : Monitor :=
  if !(FFmt.f32.val mon.t.toNat).isNan && entryBefore (mon.t, mon.tidx) e then mon else { mon with t := e.1, tidx := e.2 }

/-- The effect of TOPKI (R326). -/
def effTopki (d a : BitVec 5) (m : BitVec 3) (o : VOps) (s : State) : Eff :=
  let c := s.core.ctx
  let mon := c.monitor
  let lv := vreg c d
  let km1 := o.sb.extractLsb' 32 6
  let k := km1.toNat + 1
  let act := mreg c m
  let sync := mon.isOpen && mon.kind == 3 && mon.list == d
  let old := ((List.range k).map fun e => (BitVec.ofNat 32 (colAt lv 0 e), BitVec.ofNat 32 (colAt lv 1 e))).filter fun e =>
    !(FFmt.f32.val e.1.toNat).isNan
  vecDone s
    (if o.sb.extractLsb' 38 26 != 0 || d == a then vdState
     else match topkCands (vreg c a) (o.sb.extractLsb' 0 32) ((List.range 64).filter fun i => act.getLsbD i) with
      | .error t => .error t
      | .ok cs =>
        if sync && mon.km1 != km1 then vdState
        else
          let top := ((old ++ cs).foldl (fun l e => insertEntry e l) []).take k
          let ent (e : Nat) : BitVec 32 × BitVec 32 := top.getD e emptyEntry
          let v : VReg := Vector.ofFn fun i =>
            if i.val < k then (ent i).1 else if 64 ≤ i.val ∧ i.val < 64 + k then (ent (i - 64)).2 else lv[i]
          let mon' : Monitor := if sync then tightened mon (ent (k - 1)) else mon
          .ok ({ setV c d v with monitor := mon' }, {}))

/-- TOPKI (R326). -/
def execTopki (d a b : BitVec 5) (m : BitVec 3) (s : State) : Out :=
  vecIssue (.topki d a b m) (vecOps s 0 b) (effTopki d a m) s

end Sys2Proof.Machine
end

