-- ==== Sys2Proof/Machine/VectorQueue.lean ====
section
/-! DEFINITION. The vector queue: what a queued instruction does when it starts, what its results and its trap do to what was issued
behind it, and the queue's NOTIFY marker (R148, R149, R199). -/

namespace Sys2Proof.Machine

/-! The vector queue (R148, R149). -/

/-- The effect of an instruction that stands in the vector queue; one that never does has none. -/
def vecEffect (i : Instr) (o : VOps) (s : State) : Eff :=
  match i with
  | .vadd d a b m z => effVadd d a b m z o s
  | .vsub d a b m z => effVsub d a b m z o s
  | .vmul d a b m z => effVmul d a b m z o s
  | .vfma d a b m z => effVfma d a b m z o s
  | .vfms d a b m z => effVfms d a b m z o s
  | .vmin d a b m z => effVmin d a b m z o s
  | .vmax d a b m z => effVmax d a b m z o s
  | .vabs d a m z => effVabs d a m z o s
  | .vneg d a m z => effVneg d a m z o s
  | .vcpys d a b m z => effVcpys d a b m z o s
  | .viadd d a b m z => effViadd d a b m z o s
  | .visub d a b m z => effVisub d a b m z o s
  | .vimul d a b m z => effVimul d a b m z o s
  | .vand d a b m z => effVand d a b m z o s
  | .vor d a b m z => effVor d a b m z o s
  | .vxor d a b m z => effVxor d a b m z o s
  | .vshl d a b m z => effVshl d a b m z o s
  | .vshr d a b m z => effVshr d a b m z o s
  | .vsar d a b m z => effVsar d a b m z o s
  | .vimin d a b m z => effVimin d a b m z o s
  | .vimax d a b m z => effVimax d a b m z o s
  | .viminN32 d a b m z => effViminN32 d a b m z o s
  | .vimaxN32 d a b m z => effVimaxN32 d a b m z o s
  | .vcmp d a b c t m z => effVcmp d a b c t m z o s
  | .vcvt d a f t m z => effVcvt d a f t m z o s
  | .vsplit d a m z => effVsplit d a m z o s
  | .vpack d a f m z => effVpack d a f m z o s
  | .vunpk d a f m z => effVunpk d a f m z o s
  | .vsfu d a f m z => effVsfu d a f m z o s
  | .vrotr d a _ m z => effVrotr d a m z o s
  | .vbcr d a _ m z => effVbcr d a m z o s
  | .vrotc d a _ m z => effVrotc d a m z o s
  | .vbcc d a _ m z => effVbcc d a m z o s
  | .vredr d a t p m z => effVredr d a t p m z o s
  | .vscanr d a t p m z => effVscanr d a t p m z o s
  | .vredc d a t p m z => effVredc d a t p m z o s
  | .vscanc d a t p m z => effVscanc d a t p m z o s
  | .vredrC d a m z => effVredrC d a m z o s
  | .vredcC d a m z => effVredcC d a m z o s
  | .vperm d a b m z => effVperm d a b m z o s
  | .vsel d a b m => effVsel d a b m o s
  | .vmov d a m z => effVmov d a m z o s
  | .viota d _ m z => effViota d m z o s
  | .vins d _ _ => effVins d o s
  | .vext d a _ => effVext d a o s
  | .vld v u _ off => effVld v u off o s
  | .vst v u _ off => effVst v u off o s
  | .vldg v _ vi m rf z => effVldg v vi m rf z o s
  | .vstg v _ vi m rf z => effVstg v vi m rf z o s
  | .vpop d n m z => effVpop d n m z o s
  | .vpush a n m => effVpush a n m o s
  | .mand d a b => effMand d a b o s
  | .mor d a b => effMor d a b o s
  | .mxor d a b => effMxor d a b o s
  | .mnot d a => effMnot d a o s
  | .mpopc d a => effMpopc d a o s
  | .mtest d a b => effMtest d a b o s
  | .vdopen d _ _ => effVdopen d o s
  | .vdacc d a b => effVdacc d a b o s
  | .vdthr _ => effVdthr o s
  | .vdclose d => effVdclose d o s
  | .vdtest d a m z => effVdtest d a m z o s
  | .vdtestAny d a m z => effVdtestAny d a m z o s
  | .topki d a _ m => effTopki d a m o s
  | _ => .ok s

/-! Results and traps (R149). -/

/-- A value that an older instruction changes from `old` to `new` is changed in what a trap returns to as well. -/
def follow {α : Type} [DecidableEq α] (old new x : α) : α := if old = new then x else new

/-- The flags that a vector instruction raises, whether or not they stand already, with its count of R39 in UNDERCNT's place, whether or not
the count has room for it. -/
def raisedBy (i : Instr) (o : VOps) (s : State) : Word :=
  match vecEffect i o (modCtx s fun c => { c with vmode := c.vmode &&& 0xFFFFF03F }) with
  | .ok t => t.core.ctx.vmode &&& 0xFFFFFFFF00000FC0
  | _ => 0

/-- What a trap returns to, once an older vector instruction has taken a context from `old` to `new`: registers, predicates, the flags that
it raised, the count of R39 and NONRES follow. A flag that the sequencer raised behind it does not. -/
def Snap.after (raised : Word) (old new : Context) (x : Snap) : Snap :=
  { x with
    s := Vector.ofFn fun i => follow old.s[i] new.s[i] x.s[i]
    p := (x.p &&& ~~~(old.p ^^^ new.p)) ||| (new.p &&& (old.p ^^^ new.p))
    vmode := addUnder (x.vmode ||| (raised &&& 0xFC0)) (raised.extractLsb' 32 32).toNat
    perf := vset x.perf 6 (vget x.perf 6 0 + (vget new.perf 6 0 - vget old.perf 6 0)) }

/-- The same for every instruction that stands in a context's vector queue. -/
def followQueue (raised : Word) (old c : Context) : Context :=
  { c with vq := c.vq.map fun e =>
      match e with
      | .instr i o x => .instr i o (x.after raised old c)
      | .marker => .marker }

/-- The context as the trap of a vector instruction finds it: everything the sequencer did behind the instruction is undone, a DONE
among it, and its counts of instructions, vector instructions, commands and flagged accesses with it; those of cycles stay (R130; log
entry 75). -/
def cancelCtx (seq : Nat) (x : Snap) (c : Context) : Context :=
  let keep (n : Nat) (v : Vector Word 8) : Vector Word 8 := vset v n (vget x.perf n 0)
  { c with
    state := .running, wait := .none, park := none, pc := x.pc, ir := x.ir, s := x.s, p := x.p, lc := x.lc, loops := x.loops
    h := x.h, staging := x.staging, vmode := x.vmode
    perf := addPerfAt (keep 6 (keep 3 (keep 2 (keep 1 c.perf)))) 2
    vq := [], drainTo := none, accessQ := c.accessQ.filter fun a => decide (a.seq ≤ seq) }
where
  /-- The trapping instruction itself was issued. -/
  addPerfAt (v : Vector Word 8) (n : Nat) : Vector Word 8 := vset v n (vget v n 0 + 1)

/-- The unstarted commands that the started context of a core issued behind a place in the issue order. -/
def issuedAfter (k : Core) (seq : Nat) : List Command :=
  (List.range 5).flatMap fun n =>
    (queueOf k n).filter fun c => c.die == k.die && c.core == k.num && c.ctxId == k.ctx.ctxId && decide (seq < c.seq)

/-- The claims of a removed tile command given back (R149, R181). -/
def unclaim (k : Core) (c : Command) : Core :=
  let back (rs : Vector Ring 8) (n start : Nat) : Vector Ring 8 :=
    vset rs n { vget rs n Ring.reset with ihead := BitVec.ofNat 24 start }
  if c.kind ≠ .marker ∧ tileMul c.body = true then
    { k with rings := back (back k.rings (bodyNat c.body 16 3) c.aStart) (bodyNat c.body 20 3) c.bStart }
  else k

/-- A command removed unstarted from the queues of every participant; a marker that this leaves at its queue's head is reached. -/
def withdraw (s : State) (c : Command) : State :=
  c.gang.foldl (fun t n =>
    let k := getCore t c.die n
    putCore t (popMarkers { k with q := k.q.map fun q => q.filter fun x => !decide (x.gid = c.gid) })) s

/-- What the sequencer did behind a vector instruction is cancelled (R149): the context returns to its values at the instruction, and the
commands and NOTIFYs issued since leave their queues unstarted, the youngest first. -/
def cancelAfter (s : State) (seq : Nat) (x : Snap) : State :=
  let gone := issuedAfter s.core seq
  let tiles := gone.filter fun c => (queueOf s.core 0).any fun y => y.gid == c.gid
  let s1 := gone.foldl withdraw s
  modCore s1 fun k =>
    let k1 := tiles.reverse.foldl unclaim k
    { k1 with
      notifies := k1.notifies.filter fun n => !(n.ctxId == k1.ctx.ctxId) || decide (n.seq ≤ seq)
      ctx := cancelCtx seq x k1.ctx }

/-- The vector queue's NOTIFY marker leaves it: NOTIFIED bit 5 (R199). -/
def vecMarked (s : State) : State := modCore s fun k => markNotified k k.ctx.ctxId 5

/-- VECTOR_INSTRUCTION_START (R148, R149): the head of the vector queue starts, runs its check pass, and either has its effect or
traps at its own address; what was issued after it is cancelled. A marker at the head leaves. -/
def execVectorInstructionStart (s : State) : Out :=
  match s.core.ctx.vq with
  | [] => .next s
  | .marker :: r => .next (vecMarked (modCtx s fun c => { c with vq := r }))
  | .instr i o x :: r =>
    let started := modCtx s fun c => { c with vq := r }
    match vecEffect i o started with
    | .ok t => .next (tick (modCtx t (followQueue (raisedBy i o started) s.core.ctx)))
    | .trap t => .next (takeTrapAt (cancelAfter started o.seq x) t x.pc x.ir)
    | .stall => .next s

end Sys2Proof.Machine
end

