-- ==== Sys2Proof/Machine/Queue.lean ====
section
/-! DEFINITION. Meanings of the queue instructions of major 0x3A: TMPL and TMPL.bfmt (R137, R202), NOTIFY and its event (R199, R200),
QDRAIN (R201), WPWAIT (R211), and the feeds' binding, transfers and stop (R212 to R215). -/

namespace Sys2Proof.Machine

/-! Templates and bank formats (R137, R202). -/

/-- A sequencer read of scratchpad by logical offset (R121, R143, R197): its bytes, a trap, or a wait. -/
def spFetch (k : Core) (buf : BitVec 2) (off align n : Nat) : Except (Option Trap) (List Byte) :=
  if off % align ≠ 0 then .error (some (Trap.at .misalignedAccess (spAddr buf off)))
  else if bufSize k buf < off + n then .error (some (Trap.at .scratchpadRange (spAddr buf (max off (bufSize k buf)))))
  else if fullWait k [Range.of buf off n] [] then .error none
  else match spBad k buf off n with
    | some o => .error (some (Trap.at .storageError (spAddr buf (o / 8 * 8))))
    | none => .ok (spRead k buf off n)

/-- A fetch that fails, as an effect. -/
def fetchFails : Option Trap → Eff
  | some t => .trap t
  | none => .stall

/-- TMPL (R202). -/
def execTmpl (a : BitVec 5) (b : BitVec 2) (c : BitVec 3) (t : BitVec 6) (s : State) : Out :=
  let size := if c = 0 then 32 else 64
  if (Instr.tmpl a b c t).wf = false then finish s (.trap (Trap.of .illegalInstruction))
  else
    inLine s
      (if c = 4 ∧ capsQuesar s = false then .trap (Trap.of .unitAbsent)
      else match spFetch s.core b (snat s a) size size with
        | .error e => fetchFails e
        | .ok bytes =>
          .ok (modCore (correctSoft s s.core.die s.core.num [⟨b, snat s a, snat s a + size⟩]) fun k => { k with
            tmpl := vset k.tmpl c.toNat (vset (vget k.tmpl c.toNat (Vector.replicate 64 0)) t.toNat (BitVec.ofNat 512 (leNat bytes))) }))

/-- The buffer in which a bank lies. -/
def bankBuf (bank : Nat) : BitVec 2 := if bank < 12 then 0 else if bank < 20 then 1 else 2

/-- A format that the banks of a buffer may hold (R133). -/
def bankFmtOk (buf : BitVec 2) (fmt : Nat) : Bool :=
  match buf.toNat with
  | 0 => decide (fmt ≤ 6 ∨ fmt = 13)
  | 1 => decide (fmt ≤ 6 ∨ fmt = 9 ∨ fmt = 10 ∨ fmt = 13)
  | _ => decide (fmt = 0 ∨ fmt = 9 ∨ fmt = 10)

/-- A BFMT value that R137 accepts for a bank. -/
def bfmtOk (bank : Nat) (v : Word) : Bool :=
  let w := v.extractLsb' 0 32
  let fmt := bfmtFmt w
  v.extractLsb' 32 32 == 0 && w &&& 0xE000FFC0 == 0 && decide (bfmtSwz w ≤ 3) && bankFmtOk (bankBuf bank) fmt &&
    !(bfmtSat w && fmt != 3 && fmt != 4) && !(bfmtPitch w != 0 && decide (64 * bfmtPitch w < 8 * codeWidth fmt))

/-- TMPL.bfmt (R137). -/
def execTmplBfmt (a n : BitVec 5) (s : State) : Out :=
  let bank := n.toNat
  let buf := bankBuf bank
  let lo := 0x8000 * (bank - bufBank0 buf)
  if (Instr.tmplBfmt a n).wf = false then finish s (.trap (Trap.of .illegalInstruction))
  else
    inLine s
      (if !bfmtOk bank (sreg s a) then .trap (Trap.of .bankFormat)
      else if bufSize s.core buf ≤ lo then .trap (Trap.at .scratchpadRange (spAddr buf lo))
      else if mustWait s.core [] [Range.of buf lo 0x8000] then .stall
      else .ok (modCore s fun k => { k with bfmt := vset k.bfmt bank ((sreg s a).extractLsb' 0 32) }))

/-! NOTIFY (R199, R200). -/

/-- Field a of a NOTIFY as its level reads it. -/
def notifyBar (s : State) (a : BitVec 5) (l : BitVec 3) : Nat :=
  if l = 0 then a.toNat else if l = 5 then 0 else snat s a

/-- The body of a marker (R200). -/
def markerBody (bar : Nat) (l : BitVec 3) (c : BitVec 6) : BitVec 512 :=
  BitVec.ofNat 512 (bar % 2 ^ 32 * 2 ^ 32 + l.toNat * 2 ^ 16 + c.toNat * 2 ^ 8 + 0xFF)

/-- Every queue that a NOTIFY names has a free entry. -/
def notifyRoom (k : Core) (c : BitVec 6) : Bool :=
  ((List.range 5).all fun n => !c.getLsbD n || queueFree k n) && (!c.getLsbD 5 || decide (vecQueued k.ctx < 16))

/-- One marker placed in each named queue; those already reached leave at once. -/
def placeMarkers (s : State) (m : Command) (c : BitVec 6) : State :=
  let s1 := (List.range 5).foldl (fun t n => if c.getLsbD n then enterPlain n t m else t) s
  let s2 :=
    if !c.getLsbD 5 then s1
    else if s1.core.ctx.vq = [] then vecMarked s1
    else modCtx s1 fun x => { x with vq := x.vq ++ [.marker] }
  modCore s2 popMarkers

/-- The started context's outstanding NOTIFY (R199). -/
def notifyOf (k : Core) : Option Notify := k.notifies.find? fun n => n.ctxId == k.ctx.ctxId

/-- NOTIFY (R199). -/
def execNotify (a : BitVec 5) (l : BitVec 3) (c : BitVec 6) (s : State) : Out :=
  let x := s.core.ctx
  let bar := notifyBar s a l
  if (Instr.notify a l c).wf = false then finish s (.trap (Trap.of .illegalInstruction))
  else
    whenRoom s ((notifyOf s.core).isSome || notifyRoom s.core c)
      (if c.getLsbD 4 && !capsQuesar s then .trap (Trap.of .unitAbsent)
      else if (notifyOf s.core).isSome then .stall
      else if l ≠ 5 ∧ barCount l.toNat ≤ bar then .trap (Trap.of .commandLimit)
      else if l ≠ 5 ∧ allotted s (barKey l.toNat s.core.die s.core.num bar) x.aspace = false then .trap (Trap.of .permission)
      else
        let m := { baseCommand s 0 (markerBody bar l c) with kind := .marker }
        let n : Notify := ⟨x.ctxId, x.kernelId, x.aspace, s.core.seq, l, BitVec.ofNat 32 bar, c, 0⟩
        .ok (placeMarkers (modCore s fun k => { k with seq := k.seq + 1, notifies := k.notifies ++ [n] }) m c))

/-- An access that a context issued before a place in its core's issue order has not been performed (R227). -/
def accessBefore (s : State) (ctxId : Word) (seq : Nat) : Bool :=
  (match ctxById s ctxId with
  | some x => x.accessQ.any fun a => decide (a.seq < seq)
  | none => false) || writesBefore s ctxId seq

/-- What a NOTIFY event waits for beside its markers (R149, R199, R229): every vector instruction before it has passed its check pass; the
vector queue's writes are performed; and, where it signals a barrier, every access that its context issued before it, as for any release. -/
def notifyReady (s : State) (n : Notify) : Bool :=
  decide (n.notified = n.classes) && !((ctxById s n.ctxId).any fun c => uncheckedBefore c n.seq) &&
    (if n.level = 5 then !(n.classes.getLsbD 5 && writesBefore s n.ctxId n.seq)
    else !accessBefore s n.ctxId n.seq && barReachable s (barKey n.level.toNat s.core.die s.core.num n.barrier.toNat))

/-- NOTIFY_EVENT (R199, R229): every named queue has reached its marker; the writes are performed at the level's scope and the barrier
is signalled. -/
def execNotifyEvent (s : State) : Out :=
  match s.core.notifies.find? (notifyReady s) with
  | none => .next s
  | some n =>
    let s1 := modCore s fun k => { k with notifies := k.notifies.filter fun x => !(x.ctxId == n.ctxId) }
    if n.level = 5 then .next s1
    else
      let q : Charge := ⟨n.aspace, n.kernelId, n.ctxId, s.core.die, s.core.num⟩
      let s2 := releaseAt s1 (levelWide n.level.toNat)
      .next (if n.level = 0 then signalHome s2 q n.barrier.toNat false
        else signal s2 q (barKey n.level.toNat s.core.die s.core.num n.barrier.toNat) false false)

/-! QDRAIN (R201). -/

/-- An entry that stood in a named queue before a place in the issue order has not ended. -/
def drainWaits (k : Core) (c : BitVec 6) (seq : Nat) : Bool :=
  ((unended k).any fun (n, _, x) => c.getLsbD n && decide (x.seq < seq)) || (c.getLsbD 5 && decide (k.ctx.vq ≠ []))

/-- QDRAIN (R201). -/
def execQdrain (c : BitVec 6) (s : State) : Out :=
  let upTo := s.core.ctx.drainTo.getD s.core.seq
  if (Instr.qdrain c).wf = false then finish s (.trap (Trap.of .illegalInstruction))
  else if drainWaits s.core c upTo then .next (stallStep (modCtx s fun x => { x with drainTo := some upTo }))
  else inLine s (.ok (modCtx s fun x => { x with drainTo := none }))

/-! WPWAIT (R211). -/

/-- An earlier command that names the pointer has not started. -/
def pointerPending (k : Core) (p : Nat) : Bool := (queueOf k 1 ++ queueOf k 2).any fun c => wpOf c == some p

/-- WPWAIT (R211). -/
def execWpwait (a : BitVec 5) (p : BitVec 4) (s : State) : Out :=
  let w := vget s.core.wps p.toNat WritePtr.reset
  let lim := snat s a
  inLine s
    (if pointerPending s.core p.toNat then .stall
    else if w.buf = 3 then .trap (Trap.of .writePointerState)
    else if w.ptr < lim then (if w.done then .trap (Trap.of .writePointerFault) else .stall)
    else if w.done then .ok s
    else .ok (modCore s fun k => { k with early := k.early ++ [(p.toNat, lim, k.seq)] }))

/-! Feeds (R212 to R215). -/

/-- The fields of a feed record that FEEDBIND requires zero: reserved ones and those the transfer unit keeps. -/
def feedKept : BitVec 512 :=
  [(424, 88), (416, 8), (384, 32), (352, 32), (336, 16), (20, 12), (0, 4)].foldl
    (fun (b : BitVec 512) (x : Nat × Nat) => putField b x.1 x.2 (2 ^ x.2 - 1)) 0

/-- A descriptor that R213 rejects with "feed state". An indirect one whose DIMS is not the 0 of R212 is rejected so too; R213's list does
not name it (log entry 112, DESIGN CHOICE). -/
def feedBad (f : Feed) : Bool :=
  f.image &&& feedKept != 0 || decide (10 < feedFmt f) || (f.image.getLsbD 13 && feedFmt f != 3 && feedFmt f != 4) ||
    decide (feedLen f % 1024 ≠ 0) || decide (2 ^ 32 < feedLen f) || (feedKind f == 1 && feedOut f) ||
    (feedIndirect f && feedDims f != 0)

/-- The checks of a feed's range and rights (R213). -/
def feedSide (k : Core) (f : Feed) : Option Trap :=
  let (lo, hi) := feedBounds f
  let H := f.cap
  let right := if feedOut f then H.w else H.r
  if feedKind f = 0 then
    if !H.valid then none
    else if !feedIndirect f && (decide (lo < 0) || decide ((H.pageSize : Int) < hi)) then
      some (Trap.at .handleRange (if lo < 0 then (H.vbase + lo).toNat else H.vbase + max lo.toNat H.pageSize))
    else if !right then some (Trap.at .permission (H.vbase + feedBase f))
    else none
  else if feedIndirect f then none
  else bufferSide k (feedBuf f) lo hi

/-- FEEDBIND (R213). -/
def execFeedbind (a : BitVec 5) (u : BitVec 2) (n : BitVec 3) (s : State) : Out :=
  let k := s.core
  if (Instr.feedbind a u n).wf = false then finish s (.trap (Trap.of .illegalInstruction))
  else
    inLine s
      (match spFetch k u (snat s a) 64 64 with
      | .error e => fetchFails e
      | .ok bytes =>
        let image := BitVec.ofNat 512 (leNat bytes)
        let c := k.ctx
        let f0 : Feed := ⟨image, Handle.invalid, c.aspace, c.ctxId, c.seqTag, k.seq, [], [], 0⟩
        let f := { f0 with cap := if feedKind f0 = 0 then hreg s (BitVec.ofNat 4 (bodyNat image 14 4)) else Handle.invalid }
        if feedState (feedOf k n) = 1 ∨ feedBad f = true then .trap (Trap.of .feedState)
        else match feedSide k f with
          | some t => .trap t
          | none =>
            let (rd, wr) := feedRanges k f
            if fullWait k rd wr then .stall
            else .ok (modCore (correctSoft s k.die k.num [Range.of u (snat s a) 64]) fun k => { k with
              seq := k.seq + 1, feeds := vset k.feeds n.toNat (f.setState 1) }))

/-- FEEDSTOP (R215). -/
def execFeedstop (n : BitVec 3) (s : State) : Out :=
  let f := feedOf s.core n
  inLine s
    (if feedState f ≠ 1 then .ok s
    else if feedOut f ∧ f.out ≠ [] then .stall
    else .ok (modCore s fun k => { k with feeds := vset k.feeds n.toNat ({ f with ahead := [] }.setState 2) }))

/-- The indices of an affine element, dimension 0 first. -/
def feedIndex (f : Feed) : Nat → Nat → Nat → List Nat
  | 0, _, _ => []
  | fuel + 1, d, e => e % feedExt f d :: feedIndex f fuel (d + 1) (e / feedExt f d)

/-- The byte offset of stream element e, or the fault of its index (R212, R214). -/
def feedOffset (k : Core) (f : Feed) (e : Nat) : Except (Cause × Nat) Int :=
  if feedIndirect f then
    let at_ := 16 * bodyNat f.image 320 16 + 4 * e
    if bufSize k 1 < at_ + 4 then .error (.scratchpadRange, spAddr 1 at_)
    else match spBad k 1 at_ 4 with
      | some o => .error (.storageError, spAddr 1 (o / 8 * 8))
      | none =>
        let x := leNat (spRead k 1 at_ 4)
        if bodyNat f.image 128 32 ≤ x then .error (.indexRange, spAddr 1 at_) else .ok (feedBase f + (x : Int) * feedStr f 1)
  else
    .ok ((feedIndex f (feedDims f + 1) 0 e).zipIdx.foldl (fun m (i, d) =>
      m + (i : Int) * (if d = 0 then (feedElt f : Int) else feedStr f d)) (feedBase f))

/-- The word of an indirect element's index loses its single-bit error as it is read, whatever becomes of the element (R143). One
beyond the buffer is not read. -/
def indexRead (s : State) (f : Feed) (e : Nat) : State :=
  let at_ := 16 * bodyNat f.image 320 16 + 4 * e
  if feedIndirect f ∧ at_ + 4 ≤ bufSize s.core 1 then correctSoft s s.core.die s.core.num [Range.of 1 at_ 4] else s

/-- A feed with its captured handle as the transfer finds it (R204, R213). -/
def feedNow (s : State) (f : Feed) : Feed := { f with cap := settleHandle s f.aspace s.core.die f.seqTag f.cap }

/-- A transfer between global memory and a feed waits: for the stores that the feed's context issued before FEEDBIND (R214), for a mark of
a FENCE (R231), and for a RED that holds the element's bytes (R236). -/
def feedHeld (s : State) (f : Feed) (o : Int) : Bool :=
  feedKind f == 0 && (writesBefore s f.ctxId f.seq || fenceHeld s.core.ctx || redHolds s (f.cap.base + o.toNat) (feedElt f))

/-- The feed of the core replaced. -/
def putFeed (s : State) (n : BitVec 3) (f : Feed) : State := modCore s fun k => { k with feeds := vset k.feeds n.toNat f }

/-- A feed that recorded a fault (R214). -/
def Feed.faulted (f : Feed) (c : Cause) : Feed := { f with image := putField (putField f.image 0 4 3) 416 8 c.code }

/-- NONRES counts one more element. -/
def Feed.missed (f : Feed) : Feed := { f with image := putField f.image 384 32 (min 0xFFFFFFFF (bodyNat f.image 384 32 + 1)) }

/-- An element written by an output feed: the machine, or the cause. None: its page is not resident. -/
def feedStore (s : State) (f : Feed) (o : Int) (v : BitVec 32) : Except Cause (Option State) :=
  let n := feedElt f
  let bytes := leBytes n v.toNat
  if feedKind f = 0 then
    if notThere s f.cap then .ok none
    else if o < 0 ∨ (f.cap.pageSize : Int) < o + n then .error .handleRange
    else if inWindowRecord s (f.cap.base + o.toNat) n then .error .permission
    else
      let s1 := if capsDirty s then setDirty s f.aspace (f.cap.vbase + o.toNat) else s
      .ok (some (engineWrite s1 f.aspace (f.cap.vbase + o.toNat) (f.cap.base + o.toNat) bytes))
  else if o < 0 ∨ (bufSize s.core (feedBuf f) : Int) < o + n then .error .scratchpadRange
  else if (spBadWrite s.core (feedBuf f) o.toNat n).isSome then .error .storageError
  else .ok (some (modCore s fun k => spWrite k (feedBuf f) o.toNat bytes))

/-- An element read by an input feed. -/
def feedLoad (s : State) (f : Feed) (o : Int) : Except Cause (Option (State × BitVec 32)) :=
  let n := feedElt f
  if feedKind f = 0 then
    if notThere s f.cap then .ok none
    else if o < 0 ∨ (f.cap.pageSize : Int) < o + n then .error .handleRange
    else if (badByte s (f.cap.base + o.toNat) n).isSome then .error .storageError
    else .ok (some (engineTouch s f.aspace f.cap o.toNat n, BitVec.ofNat 32 (leNat (rdBytes s s.core.die (f.cap.base + o.toNat) n))))
  else if o < 0 ∨ (bufSize s.core (feedBuf f) : Int) < o + n then .error .scratchpadRange
  else if (spBad s.core (feedBuf f) o.toNat n).isSome then .error .storageError
  else .ok (some (correctSoft s s.core.die s.core.num [Range.of (feedBuf f) o.toNat n],
    BitVec.ofNat 32 (leNat (spRead s.core (feedBuf f) o.toNat n))))

/-- The next element that an output feed writes, at its place in the stream. -/
def feedOutStep (s : State) (n : BitVec 3) (f : Feed) (e : Nat) (v : BitVec 32) (r : List (Nat × BitVec 32)) : State :=
  let f' := { f with out := r }
  match feedOffset s.core f e with
  | .error c => putFeed (indexRead s f e) n ({ f with out := [] }.faulted c.1)
  | .ok o =>
    if feedHeld s (feedNow s f) o then s
    else match feedStore (indexRead s f e) (feedNow s f) o v with
      | .error c => putFeed (indexRead s f e) n ({ f with out := [] }.faulted c)
      | .ok none => putFeed (indexRead s f e) n (f'.missed.endIf f'.done)
      | .ok (some t) => putFeed t n (f'.endIf f'.done)

/-- The next element that an input feed reads. -/
def feedInStep (s : State) (n : BitVec 3) (f : Feed) : State :=
  match feedOffset s.core f f.done with
  | .error c => putFeed (indexRead s f f.done) n (f.faulted c.1)
  | .ok o =>
    if feedHeld s (feedNow s f) o then s
    else match feedLoad (indexRead s f f.done) (feedNow s f) o with
      | .error c => putFeed (indexRead s f f.done) n (f.faulted c)
      | .ok none => putFeed (indexRead s f f.done) n ({ f with ahead := f.ahead ++ [0], done := f.done + 1 }.missed)
      | .ok (some (t, v)) => putFeed t n { f with ahead := f.ahead ++ [v], done := f.done + 1 }

/-- FEED_TRANSFER (R214): an active feed transfers its next element, unless it has to wait. The rule gives no order among a feed's
elements; the model takes the stream's order (log entry 112, DESIGN CHOICE), which shows where the strides of an output feed make elements
coincide. -/
def execFeedTransfer (n : BitVec 3) (s : State) : Out :=
  let f := feedOf s.core n
  if feedState f ≠ 1 then .next s
  else if feedOut f then
    match f.out with
    | [] => .next s
    | (e, v) :: r => .next (feedOutStep s n f e v r)
  else if f.done < feedLen f ∧ f.ahead.length < 4096 then .next (feedInStep s n f)
  else .next s

end Sys2Proof.Machine
end

