-- ==== Sys2Proof/Machine/Kernel.lean ====
section
/-! DEFINITION. The kernel: launch records, acceptance by a die's Steward, the end of a kernel, and the instructions of major 0x3C
(R217 to R219, R280 to R297). -/

namespace Sys2Proof.Machine

/-! Launch records (R280 to R284). -/

/-- A natural of `n` bytes at an offset of a record. -/
def recNat (b : List Byte) (o n : Nat) : Nat := leNat ((b.drop o).take n)

/-- A word of a record. -/
def recWord (b : List Byte) (o : Nat) : Word := BitVec.ofNat 64 (recNat b o 8)

/-- The fields of a record, whatever they hold. -/
def readRec (b : List Byte) : LaunchRec :=
  let ctl := recNat b 0x10 8
  { entry := recWord b 0, handler := recWord b 8, prio := BitVec.ofNat 8 (natBits ctl 55 48), cores := natBits ctl 47 40
    gang := natBits ctl 39 38, task := ctl.testBit 36, restart := ctl.testBit 35, repro := ctl.testBit 34
    nest := natBits ctl 33 31, parg := natBits ctl 30 27, harg := natBits ctl 26 23
    seqTag := BitVec.ofNat 32 (recNat b 0x18 4), caddr := recWord b 0x20, cbar := recWord b 0x28
    ext := (List.range 6).map fun n => recNat b (0x30 + 4 * n) 4, order := recWord b 0x48
    args := (List.range 8).map fun n => recWord b (0x50 + 8 * n)
    regions := (List.range 4).map fun n =>
      let hi := recNat b (0x98 + 16 * n) 8
      ⟨recWord b (0x90 + 16 * n), hi % 2 ^ 40, hi.testBit 40⟩
    prefs := (List.range 2).map fun n =>
      let o := 0xD0 + 48 * n
      let dst := recNat b (o + 12) 4
      { src := recWord b o, len := recNat b (o + 8) 4, dst := dst % 2 ^ 19, buf := BitVec.ofNat 2 (natBits dst 20 19)
        dslot := recNat b (o + 16) 4, step := (List.range 6).map fun i => BitVec.ofNat 32 (recNat b (o + 24 + 4 * i) 4) } }

/-- A reserved field of a record is set (R280 to R283). -/
def recReserved (b : List Byte) : Bool :=
  let ctl := recNat b 0x10 8
  natBits ctl 63 56 != 0 || ctl.testBit 37 || natBits ctl 22 0 != 0 || recNat b 0x1C 4 != 0 || recNat b 0x28 8 / 2 ^ 20 != 0 ||
    Nat.land (recNat b 0x48 8) 0xFFFFFFFFFF888888 != 0 || recNat b 0x130 16 != 0 ||
    ((List.range 4).any fun n => recNat b (0x98 + 16 * n) 8 / 2 ^ 41 != 0) ||
    ((List.range 2).any fun n => recNat b (0xD0 + 48 * n + 12) 4 / 2 ^ 21 != 0 || recNat b (0xD0 + 48 * n + 20) 4 != 0)

/-- An extent EXTn + 1 of a record's nest. -/
def LaunchRec.extent (r : LaunchRec) (n : Nat) : Nat := r.ext.getD n 0 + 1

/-- The iterations of a record (R292). -/
def LaunchRec.count (r : LaunchRec) : Nat := (List.range r.nest).foldl (fun m n => m * r.extent n) 1

/-- The level at walk position k. -/
def LaunchRec.levelAt (r : LaunchRec) (k : Nat) : Nat := natBits r.order.toNat (4 * k + 2) (4 * k)

/-- The full size of a buffer. -/
def bufBytes (b : BitVec 2) : Nat := 0x8000 * bufBanks b

/-- A declared input breaks R284. -/
def Pref.bad (p : Pref) : Bool :=
  p.len != 0 && (p.len % 64 != 0 || decide (131072 < p.len) || p.dst % 64 != 0 || p.buf == 3 ||
    (List.range 3).any fun q => decide (bufBytes p.buf < p.dst + q * p.dslot + p.len))

/-- EN of CBAR. -/
def LaunchRec.cbarOn (r : LaunchRec) : Bool := r.cbar.getLsbD 19

/-- The level of CBAR. -/
def LaunchRec.cbarLevel (r : LaunchRec) : Nat := (r.cbar.extractLsb' 16 3).toNat

/-- The barrier that CBAR names, for a kernel of a die (R280). -/
def LaunchRec.cbarKey (r : LaunchRec) (die : Nat) : BarKey :=
  let n := (r.cbar.extractLsb' 0 16).toNat
  match r.cbarLevel with
  | 1 => ⟨1, die * 48 + natBits n 11 6, n % 64⟩
  | 2 => ⟨2, die, n⟩
  | l => ⟨l, 0, n⟩

/-- CBAR breaks R284. -/
def LaunchRec.cbarBad (r : LaunchRec) : Bool :=
  let n := (r.cbar.extractLsb' 0 16).toNat
  r.cbarOn && (decide (r.cbarLevel = 0) || decide (4 < r.cbarLevel) ||
    (if r.cbarLevel = 1 then decide (47 < natBits n 11 6) || natBits n 15 12 != 0 else decide (barCount r.cbarLevel ≤ n)))

/-- ORDER names each level below NEST once, and nothing above (R284). -/
def LaunchRec.orderOk (r : LaunchRec) : Bool :=
  ((List.range r.nest).all fun n => ((List.range r.nest).filter fun k => r.levelAt k = n).length == 1) &&
    (List.range 6).all fun k => decide (k < r.nest) || r.levelAt k == 0

/-- A record is malformed (R284). -/
def recBad (b : List Byte) : Bool :=
  let r := readRec b
  recReserved b || r.entry.toNat % 4 != 0 || r.handler.toNat % 4 != 0 || decide (r.cores = 0) || decide (192 < r.cores) ||
    r.cores % (r.gang + 1) != 0 || (r.task && (r.cores != 1 || r.gang != 0 || r.nest != 0)) || decide (r.nest = 7) ||
    ((List.range 6).any fun n => decide (r.nest ≤ n) && r.ext.getD n 0 != 0) || !r.orderOk || decide (2 ^ 48 < r.count) ||
    r.cbarBad || r.caddr.toNat % 16 != 0 || decide (8 < r.parg) || decide (8 < r.harg) || r.prefs.any Pref.bad

/-- The record, unless it is malformed. -/
def parseRec (b : List Byte) : Option LaunchRec := if recBad b then none else some (readRec b)

/-- The barrier of CBAR is allotted to the address space (R284). -/
def cbarAllotted (s : State) (die : Nat) (aspace : BitVec 12) (r : LaunchRec) : Bool :=
  !r.cbarOn || allotted s (r.cbarKey die) aspace

/-! Steward entries (R217 to R219). -/

/-- A kernel has not ended. -/
def KEntry.live (k : KEntry) : Bool := k.state != .ended

/-- The entry numbers of a die that are taken. -/
def takenEntries (s : State) (die : Nat) : List Nat :=
  (s.kernels.filter fun k => decide (k.die = die) && k.live).map fun k => k.entry

/-- The entry a new kernel of a depth takes: the lowest free ordinary one, else the reserved one of its depth. -/
def freeEntry (s : State) (die depth : Nat) : Option Nat :=
  let used := takenEntries s die
  match (List.range (min 65528 (used.length + 1))).find? fun n => !used.contains n with
  | some n => some n
  | none => if used.contains (65528 + depth) then none else some (65528 + depth)

/-- Two regions conflict: a byte lies in both and one of them writes (R218). -/
def Region.conflicts (a b : Region) : Bool :=
  (a.w || b.w) && decide (a.len ≠ 0) && decide (b.len ≠ 0) && overlaps a.base.toNat a.len b.base.toNat b.len

/-- Entries conflict by their job cards. -/
def cardsConflict (a b : LaunchRec) : Bool := a.regions.any fun x => b.regions.any fun y => x.conflicts y

/-- The KERNEL_ID of an entry (R285). -/
def kernelId (die entry : Nat) (serial : BitVec 32) : Word :=
  (0 : BitVec 15) ++ BitVec.ofNat 1 die ++ BitVec.ofNat 16 entry ++ serial

/-- A record accepted by a die's Steward (R219, R285, R291): its KERNEL_ID, or none where no entry is free. What a held entry lends to those
that hold it passes on along the locks that their contexts wait on (R218, R277). Entries are kernels and tasks: no launch format makes one of
kind search or fetch (log entry 85). -/
def accept (s : State) (die : Nat) (aspace : BitVec 12) (depth : Nat) (r : LaunchRec) : Option (State × Word) :=
  match freeEntry s die depth with
  | none => none
  | some entry =>
    let serial := vget s.kserial die 0
    let id := kernelId die entry serial
    let holds := s.kernels.filter fun k => decide (k.die = die) && k.live && k.aspace == aspace && cardsConflict k.launch r
    let k : KEntry :=
      { die := die, entry := entry, id := id, state := if holds = [] then .eligible else .held, launch := r, aspace := aspace
        depth := BitVec.ofNat 3 depth, arrival := s.order, dispatched := 0, heldBy := holds.map fun k => k.id, nextT := 0
        redo := [], retired := 0, cause := 0, endCode := 0, cores := [], frames := [], images := [], victim := none, cycles := 0
        guard := false, owed := [] }
    let rest := s.kernels.filter fun k => !decide (k.die = die ∧ k.entry = entry)
    let t := { s with kernels := rest ++ [k], kserial := vset s.kserial die (serial + 1), order := s.order + 1 }
    some (if holds = [] then t else relend t, id)

/-! The end of a kernel (R295 to R297). -/

/-- END of a kernel that ends now. -/
def KEntry.endOf (k : KEntry) : Nat := if k.endCode = 0 then 1 else k.endCode

/-- The end word (R295). -/
def KEntry.endWord (k : KEntry) : Word :=
  BitVec.ofNat 32 k.retired ++ k.cause ++ (0 : BitVec 20) ++ BitVec.ofNat 4 k.endOf

/-- Why a completion record cannot be written, or where it goes (R297). -/
def caddrAt (s : State) (k : KEntry) : Except Cause Nat :=
  let va := k.launch.caddr.toNat
  match walk s k.aspace va with
  | .error e => .error e
  | .ok l =>
    let pa := leafPa l va
    if !(residentFor s l k.aspace k.die k.launch.seqTag && pathUp s pa) then .error .notResident
    else if !dW l.desc || inWindowRecord s pa 16 then .error .permission
    else .ok pa

/-- Step 2 of R297: the completion record, or a record of SRC 9. -/
def writeCompletion (s : State) (k : KEntry) : State :=
  if k.launch.caddr = 0 then s
  else match caddrAt s k with
    | .error c => writeRecord s k.aspace { cause := c, src := 9, kernelId := k.id, addr := k.launch.caddr, die := k.die }
    | .ok pa =>
      let s1 := flushHeld (flushHeld s 0 pa 16) 1 pa 16
      let s2 := wrHomeBytes s1 pa (leBytes 8 k.id.toNat ++ leBytes 8 k.endWord.toNat)
      raiseMsix (setDirty s2 k.aspace k.launch.caddr.toNat) 0 (2 * k.die)

/-- Step 3 of R297: the arrival at CBAR. -/
def signalCbar (s : State) (k : KEntry) : State :=
  let q : Charge := ⟨k.aspace, k.id, 0, k.die, 0⟩
  if !k.launch.cbarOn then s
  else if !allotted s (k.launch.cbarKey k.die) k.aspace then discardSignal s q .permission
  else signal s q (k.launch.cbarKey k.die) (decide (k.endOf = 2 ∨ k.endOf = 4)) false

/-- Step 4 of R297: contexts parked in SHWAIT receive the end word. -/
def wakeKernel (s : State) (id : Word) (v : Word) : State :=
  mapCores s fun k =>
    match k.ctx.park with
    | some (.kernel id' dst) => if id' = id then { k with ctx := giveWake k.ctx dst v } else k
    | _ => k

/-- The contexts of a core perform no operation on a stream entry any more (R363). -/
def dropStreamOps (s : State) (k : Core) : State :=
  { s with streamOps := s.streamOps.filter fun o => !((k.ctx :: k.shadows).any fun c => c.state != .empty && c.ctxId == o.ctxId) }

/-- Cores leave their group (R307). -/
def freeCores (s : State) (die : Nat) (cores : List Nat) : State :=
  cores.foldl (fun t n =>
    let k := getCore t die n
    putCore (dropStreamOps t k) { k with
      group := none, gang := [], stopping := false, draining := false, scrubbing := false, shadows := []
      ctx := Context.blank k.ctx.slot, guardMode := false, q := Vector.replicate 5 [], run := vset k.run 4 []
      notifies := reachedNotifies k }) s

/-- The dirty marks of a kernel's cores, and its die's bytes, written home: its completion is a release at .pkg (R218, R229,
R297). -/
def kernelRelease (s : State) (k : KEntry) : State := flushDie (k.cores.foldl (fun t n => flushTlb t k.die n) s) k.die

/-- One kernel ended, up to the entries it held (R297). -/
def endOne (s : State) (k : KEntry) : State :=
  let s1 := signalCbar (writeCompletion (kernelRelease s k) k) k
  let s2 := freeCores (wakeKernel s1 k.id k.endWord) k.die k.cores
  modKernel s2 k.id fun e => { e with state := .ended, endCode := k.endOf, cores := [], frames := [], images := [], victim := none }

/-- The entries held by an ended one: cancelled with it, or released when nothing else holds them (R218). -/
def releaseHeld (s : State) (id : Word) : State :=
  { s with kernels := s.kernels.map fun k =>
      let rest := k.heldBy.filter fun h => !decide (h = id)
      { k with heldBy := rest, state := if k.state = .held ∧ rest = [] then .eligible else k.state } }

/-- A kernel ends; an aborted or cancelled one cancels the entries it holds, transitively (R218, R297). -/
def endKernel : Nat → State → Word → State
  | 0, s, _ => s
  | fuel + 1, s, id =>
    match kernelById s id with
    | none => s
    | some k =>
      let s1 := endOne s k
      if k.endOf = 3 ∨ k.endOf = 4 then
        let held := s1.kernels.filter fun h => decide (h.state = .held) && h.heldBy.contains id
        releaseHeld (held.foldl (fun t h =>
          if (kernelById t h.id).any fun e => e.state == .held then
            endKernel fuel (modKernel t h.id fun e => { e with endCode := 3, state := .eligible }) h.id
          else t) s1) id
      else releaseHeld s1 id

/-- The same with fuel for every entry; what the entries that it held lent to it, and so onward, ends (R218, R277). -/
def endNow (s : State) (id : Word) : State :=
  let t := endKernel (s.kernels.length + 1) s id
  if s.kernels.any fun k => k.state == .held && k.heldBy.contains id then relend t else t

/-- Every RED of a kernel has been performed, or has faulted: its completion is a release of every write, and no late fault comes after it
(R219, R229, R236, R297). -/
def redsDone (s : State) (id : Word) : Bool := s.reds.all fun r => r.kernelId != id

/-- A kernel that holds no core and is to end with the END it has: at once, or, where REDs of it are not over, when they are (R236, R297). -/
def endOffCores (s : State) (id : Word) : State :=
  if redsDone s id then endNow s id else modKernel s id fun e => { e with state := .stopping, cores := [] }

/-- A saved group is cancelled (END 3) or aborted (END 4): its locks go, an aborted one's page requests too, and its images (R255, R294,
R401). -/
def savedEnds (s : State) (k : KEntry) (code : Nat) : State :=
  let s1 := leaveLocks s k.die k.entry
  let s2 := if code = 4 then cancelReqs s1 (fun _ => true) k.id else s1
  endOffCores (modKernel (dropImages s2 k) k.id fun e => { e with endCode := code }) k.id

/-! ENQ, KLAUNCH and SPAWN (R287, R288). -/

/-- The checks of a record's page before it is read (R287). -/
def recAccess (s : State) (H : Handle) (off : Nat) : Option Trap :=
  let va := (if H.valid then H.vbase else 0) + off
  if off % 64 ≠ 0 then some (Trap.at .misalignedAccess va)
  else if notThere s H then some (Trap.at .notResident va)
  else if H.pageSize < off + 320 then some (Trap.at .handleRange va)
  else if !H.r then some (Trap.at .permission va)
  else match badByte s (H.base + off) 320 with
    | some i => some (Trap.at .storageError (va + i))
    | none => none

/-- The launch of a record by a program: `depth` the new depth, `full` what a missing entry answers, once the record is read. -/
def launchFrom (s : State) (a b : BitVec 5) (h : BitVec 4) (depth : Nat) (full : State → Eff) : Eff :=
  let c := s.core.ctx
  let off := snat s a
  let H := hreg s h
  match recAccess s H off with
  | some t => .trap t
  | none =>
    if !accessesDone s || redHolds s (H.base + off) 320 then .stall
    else
      let t := releaseAt s true
      match parseRec (rdBytes t t.core.die (H.base + off) 320) with
      | none => .trap (Trap.at .badRecord (H.vbase + off))
      | some r =>
        if !cbarAllotted s s.core.die c.aspace r then .trap (Trap.at .permission (H.vbase + off))
        else
          let read := engineTouch t c.aspace H off 320
          match accept read s.core.die c.aspace depth r with
          | none => full read
          | some (t', id) => .ok (setS t' b id)

/-- ENQ (R287). -/
def execEnq (a b : BitVec 5) (h : BitVec 4) (s : State) : Out :=
  behindFence s
    (if s.core.ctx.depth = 7 then .trap (Trap.of .nestingDepth)
    else launchFrom s a b h (s.core.ctx.depth.toNat + 1) fun _ => .stall)

/-- KLAUNCH (R288). -/
def execKlaunch (a b : BitVec 5) (h : BitVec 4) (s : State) : Out :=
  behindFence s (launchFrom s a b h 0 fun t => .ok (setS t b (BitVec.allOnes 64)))

/-- The task that SPAWN makes of its spawner (R288). -/
def spawnRec (s : State) (entry : Word) : LaunchRec :=
  let c := s.core.ctx
  { entry := entry, handler := c.handler, prio := c.prio, cores := 1, gang := 0, task := true, restart := false
    repro := c.repro.getLsbD 0, nest := 0, parg := 0, harg := 0, seqTag := c.seqTag, caddr := 0, cbar := 0
    ext := [0, 0, 0, 0, 0, 0], order := 0, args := (List.range 8).map fun n => vget c.s (n + 1) 0, regions := [], prefs := [] }

/-- SPAWN (R288). -/
def execSpawn (a b : BitVec 5) (s : State) : Out :=
  let c := s.core.ctx
  behindFence s
    (if c.depth = 7 then .trap (Trap.of .nestingDepth)
    else if snat s a % 4 ≠ 0 then .trap (Trap.of .misalignedTarget)
    else if !accessesDone s then .stall
    else match accept (releaseAt s true) s.core.die c.aspace (c.depth.toNat + 1) (spawnRec s (sreg s a)) with
      | none => .stall
      | some (t', id) => .ok (setS t' b id))

/-! Armed launches (R290). -/

/-- The arm table is as R290 sizes it. -/
def armRoom (s : State) : Bool := decide (s.arms.length < 4096)

/-- KARM (R290). -/
def execKarm (a b : BitVec 5) (o : BitVec 1) (h : BitVec 4) (s : State) : Out :=
  let c := s.core.ctx
  let off := snat s a
  let H := hreg s h
  let tag := (sreg s b).extractLsb' 0 32
  behindFence s
    (if !capsEth s then .trap (Trap.of .unitAbsent)
    else match recAccess s H off with
      | some t => .trap t
      | none =>
        match loadBytes s (H.vbase + off) (H.base + off) 320 with
        | .wait => .stall
        | .forwarded _ => .stall
        | .read bytes =>
          let old := s.arms.find? fun x => x.tag = tag
          match parseRec bytes with
          | none => .trap (Trap.at .badRecord (H.vbase + off))
          | some r =>
            if 2 ^ 32 ≤ snat s b then .trap (Trap.of .commandLimit)
            else if old.isNone && !armRoom s then .trap (Trap.of .commandLimit)
            else if old.any fun x => x.aspace != c.aspace then .trap (Trap.of .permission)
            else
              let x : Arm := ⟨tag, c.aspace, s.core.die, o == 1, r⟩
              .ok (engineTouch { s with arms := s.arms.filter (fun y => !decide (y.tag = tag)) ++ [x] } c.aspace H off 320))

/-- KDISARM (R290). -/
def execKdisarm (a : BitVec 5) (s : State) : Out :=
  behindFence s
    (if !capsEth s then .trap (Trap.of .unitAbsent)
    else .ok { s with arms := s.arms.filter fun x => !decide (x.tag.toNat = snat s a ∧ x.aspace = s.core.ctx.aspace) })

/-! Cancelling and waiting (R294, R295). -/

/-- A kernel cancelled (R294, R312): an entry not dispatched or saved ends, once its REDs are over (R236); a group stops; a save or a
restore runs to its end first. -/
def cancelKernel (s : State) (k : KEntry) : State :=
  let mark (t : State) : State := modKernel t k.id fun e => { e with endCode := 3 }
  match k.state with
  | .held => endOffCores (mark s) k.id
  | .eligible => endOffCores (mark s) k.id
  | .saved => savedEnds s k 3
  | .saving => mark s
  | .restoring => mark s
  | .stopping => s
  | .ending => s
  | .ended => s
  | _ =>
    let s1 := leaveLocks (stopGroup s k.die k.cores) k.die k.entry
    modKernel s1 k.id fun e => { e with state := .stopping, endCode := 3, victim := none }

/-- The kernel that an instruction names in its own address space. -/
def kernelNamed (s : State) (id : Word) : Option KEntry := (kernelById s id).filter fun k => k.aspace == s.core.ctx.aspace

/-- The end of the kernel is already decided: a KCANCEL is too late for one that has ended, and also, where R294 gives neither answer, for one
whose last iteration has retired or that is stopping; a cancelled group that is still being saved or restored answers 0 again (log entry 125,
DESIGN CHOICE). -/
def KEntry.over (k : KEntry) : Bool := k.state == .ended || k.state == .ending || k.state == .stopping

/-- KCANCEL (R294). A context that cancels its own kernel writes its status first and then stops. -/
def execKcancel (a b : BitVec 5) (s : State) : Out :=
  if fenceHeld s.core.ctx then finish s .stall
  else match kernelNamed s (sreg s a) with
    | none => .next (retire (setS s b 2))
    | some k => if k.over then .next (retire (setS s b 1)) else .next (cancelKernel (retire (setS s b 0)) k)

/-- The GONE word (R295). -/
def goneWord : Word := 16

/-- SHWAIT (R295): finding the kernel ended is an acquire at .pkg. -/
def execShwait (a b : BitVec 5) (s : State) : Out :=
  let id := sreg s a
  if fenceHeld s.core.ctx then finish s .stall
  else if id = s.core.ctx.kernelId then finish s (.trap (Trap.of .selfWait))
  else match kernelNamed s id with
    | none => .next (retire (setS s b goneWord))
    | some k =>
      if k.state = .ended then .next (retire (acquireAt (setS s b k.endWord) true))
      else .next (parkCtx s .shwait (.kernel id b))

/-! Launches from outside (R289, R290, R395). -/

/-- The recorded root of an address space replaced: cached translations go (R289). -/
def setRoot (s : State) (aspace : BitVec 12) (root : Nat) : State :=
  { s with
    roots := assocSet s.roots aspace root
    bindings := s.bindings.map fun b => if b.aspace = aspace then { b with filter := [] } else b }

/-- A kernel of the address space waits, runs or is saved; one that drains counts too (log entry 111). -/
def spaceBusy (s : State) (aspace : BitVec 12) : Bool := s.kernels.any fun k => k.aspace == aspace && k.live

/-- The status that a launch request gets, with its effect (R289). -/
def hostLaunch (s : State) (die req : Nat) : State × Word :=
  let rec_ := rdHomeNat s req 8
  let space := rdHomeNat s (req + 8) 8
  let aspace := BitVec.ofNat 12 space
  let root := natBits space 51 12 * 4096
  let bad : State × Word := (s, 0xFFFFFFFFFFFFFFFE)
  if rec_ % 64 ≠ 0 ∨ rdHomeNat s (req + 24) 8 ≠ 0 ∨ 2 ^ 52 ≤ space then bad
  else match parseRec (rdHome s rec_ 320) with
    | none => bad
    | some r =>
      let other := (rootOf s aspace).any fun x => x != root
      if (other && spaceBusy s aspace) || !cbarAllotted s die aspace r then bad
      else
        let s1 := if rootOf s aspace = some root then s else setRoot (flushMarks s fun m => m.1 == aspace) aspace root
        match accept s1 die aspace 0 r with
        | some x => x
        | none => (s, BitVec.allOnes 64)

end Sys2Proof.Machine
end

