-- ==== Sys2Proof/Machine/Collective.lean ====
section
/-! DEFINITION. Collectives: communicators, TCOLL from issue to end, matching and the reduction (R387 to R390). -/

namespace Sys2Proof.Machine

/-! Fields of a collective body (R69, R70, R388). -/

/-- The source buffer. -/
def collSrc (b : BitVec 512) : Nat := bodyNat b 16 4
/-- The destination buffer. -/
def collDst (b : BitVec 512) : Nat := bodyNat b 24 4
/-- SOFF. -/
def collSoff (b : BitVec 512) : Nat := bodyNat b 32 48
/-- DOFF. -/
def collDoff (b : BitVec 512) : Nat := bodyNat b 80 48
/-- n. -/
def collCount (b : BitVec 512) : Nat := bodyNat b 128 32
/-- ROOT. -/
def collRoot (b : BitVec 512) : Nat := bodyNat b 160 16
/-- COMM. -/
def collComm (b : BitVec 512) : Nat := bodyNat b 176 16
/-- OP. -/
def collOp (b : BitVec 512) : Nat := bodyNat b 192 4
/-- FMT. -/
def collFmt (b : BitVec 512) : Nat := bodyNat b 196 5
/-- ROP. -/
def collRop (b : BitVec 512) : Nat := bodyNat b 201 3
/-- SCOPE. -/
def collScope (b : BitVec 512) : Nat := bodyNat b 204 4

/-- The operation reduces. -/
def collReduces (b : BitVec 512) : Bool := [0, 1, 4].contains (collOp b)

/-- A field that names a buffer, an operation, a format or a scope holds a value it does not assign. -/
def collBadFields (b : BitVec 512) : Bool :=
  let buf (x : Nat) : Bool := x == 1 || x == 2
  !buf (collSrc b) || !buf (collDst b) || decide (6 ≤ collOp b) || decide (3 ≤ collRop b) || !([4, 6, 7, 8].contains (collScope b)) ||
    !(if collReduces b then [0, 1, 2, 9, 10].contains (collFmt b) else decide (collFmt b ≤ 10))

/-! Communicators (R387). -/

/-- A member: module, die and core. -/
structure Member where
  pkg : Nat
  die : Nat
  core : Nat
deriving DecidableEq, Repr

/-- A communicator's entry. -/
def commEntry (s : State) (die c : Nat) : BitVec 128 :=
  BitVec.ofNat 128 (rdHomeNat s ((vget s.linkCtl die ⟨0, 0, 0, 0, 0⟩).commbase.toNat + 16 * c) 16)

/-- VALID of an entry. -/
def commValid (e : BitVec 128) : Bool := e.getLsbD 63

/-- The members an entry names, unless it is not valid or malformed. -/
def commMembers (s : State) (e : BitVec 128) : Option (List Member) :=
  let a := (e.extractLsb' 2 50).toNat * 4
  let n := rdHomeNat s a 4 % 2 ^ 13
  if !commValid e || e.extractLsb' 76 52 != 0 || e.extractLsb' 52 11 != 0 || e.extractLsb' 0 2 != 0 || n < 2 || 4096 < n then none
  else
    let words := (List.range n).map fun r => rdHomeNat s (a + 4 + 4 * r) 4
    if words.eraseDups.length ≠ n ∨ words.any fun w => decide (2 ^ 19 ≤ w) then none
    else some (words.map fun w => ⟨w % 2 ^ 10, natBits w 10 10, natBits w 18 11⟩)

/-- A core of this module, as a member. -/
def asMember (s : State) (die core : Nat) : Member := ⟨s.pkgId.toNat, die, core⟩

/-- What a scope behaves as where the level that it names is degenerate (R13, R18): .pod without a Kolnel link in service as .pkg, and .pkg
of a single die as .die. -/
def effScope (s : State) (scope : Nat) : Nat :=
  let a := if scope = 8 ∧ ((List.range 18).any (portUp s)) = false then 7 else scope
  if a = 7 ∧ capsDies s = 1 then 6 else a

/-- A member lies within a scope of a core. -/
def Member.within (scope : Nat) (me x : Member) : Bool :=
  match scope with
  | 4 => x.pkg == me.pkg && x.die == me.die && x.core / 4 == me.core / 4
  | 6 => x.pkg == me.pkg && x.die == me.die
  | 7 => x.pkg == me.pkg
  | _ => true

/-! Sizes (R389). -/

/-- Source elements of rank r among N. -/
def srcElts (b : BitVec 512) (r N : Nat) : Nat :=
  let n := collCount b
  match collOp b with
  | 2 => if r = collRoot b then n else 0
  | 4 => N * n
  | 5 => N * n
  | _ => n

/-- Destination elements of rank r among N. -/
def dstElts (b : BitVec 512) (r N : Nat) : Nat :=
  let n := collCount b
  match collOp b with
  | 1 => if r = collRoot b then n else 0
  | 3 => N * n
  | 5 => N * n
  | _ => n

/-- Bytes of an element. -/
def collElt (b : BitVec 512) : Nat := codeWidth (collFmt b) / 8

/-- The source's footprint. -/
def srcRange (b : BitVec 512) (r N : Nat) : Range := Range.of (BitVec.ofNat 2 (collSrc b)) (collSoff b) (srcElts b r N * collElt b)

/-- The destination's footprint. -/
def dstRange (b : BitVec 512) (r N : Nat) : Range := Range.of (BitVec.ofNat 2 (collDst b)) (collDoff b) (dstElts b r N * collElt b)

/-! Issue (R388, R390). -/

/-- How many collectives of a communicator a core has issued. -/
def collCountOf (s : State) (comm die core : Nat) : Nat :=
  ((s.collCounts.find? fun x => x.1 = comm ∧ x.2.1 = die ∧ x.2.2.1 = core).map fun x => x.2.2.2).getD 0

/-- One more. -/
def collCounted (s : State) (comm die core : Nat) : State :=
  let n := collCountOf s comm die core
  { s with collCounts := s.collCounts.filter (fun x => !decide (x.1 = comm ∧ x.2.1 = die ∧ x.2.2.1 = core)) ++ [(comm, die, core, n + 1)] }

/-- A footprint that leaves its buffer. -/
def offBuffer (k : Core) (r : Range) : Option Trap := if r.lo = r.hi then none else bufferSide k r.buf r.lo r.hi

/-- A collective's checks against its communicator, and the command. -/
def collWith (s : State) (t : BitVec 6) (b : BitVec 512) (ms : List Member) : Except Trap Command :=
  let me := asMember s s.core.die s.core.num
  match ms.findIdx? fun m => m = me with
  | none => .error (Trap.of .collectiveState)
  | some r =>
    let rd := srcRange b r ms.length
    let wr := dstRange b r ms.length
    match firstTrap
      [if ms.any fun m => !m.within (effScope s (collScope b)) me then some (Trap.of .collectiveState) else none,
        limitIf (([1, 2].contains (collOp b)) && decide (ms.length ≤ collRoot b)),
        limitIf (decide (131072 < rd.hi - rd.lo ∨ 131072 < wr.hi - wr.lo)), offBuffer s.core rd, offBuffer s.core wr,
        limitIf (anyMeets [rd] [wr])] with
    | some e => .error e
    | none =>
      .ok { baseCommand s t b with
        reads := if rd.lo = rd.hi then [] else [rd], writes := if wr.lo = wr.hi then [] else [wr]
        part := collCountOf s (collComm b) s.core.die s.core.num }

/-- A collective's checks, and the command (R388). -/
def collCheck (s : State) (t : BitVec 6) (b : BitVec 512) : Except Trap Command :=
  let e := commEntry s s.core.die (collComm b)
  let high (x off : Nat) : Option Trap :=
    if 2 ^ 19 ≤ off then some (Trap.at .scratchpadRange (spAddr (BitVec.ofNat 2 x) (off % 2 ^ 62))) else none
  match firstTrap
    [if collBadFields b then some (Trap.of .templateKind) else none, barCheck s b, high (collSrc b) (collSoff b),
      high (collDst b) (collDoff b), limitIf (decide (collCount b = 0))] with
  | some e => .error e
  | none =>
    match commMembers s e with
    | none => .error (Trap.of .collectiveState)
    | some ms => if e.extractLsb' 64 12 ≠ s.core.ctx.aspace then .error (Trap.of .collectiveState) else collWith s t b ms

/-- A collective enters the collective queue and takes its place in the communicator's count. -/
def enterColl (s : State) (c : Command) : State :=
  let t := modCore s fun k => pushCommand k 3 c
  collCounted { t with order := t.order + 1 } (collComm c.body) s.core.die s.core.num

/-- TCOLL (R388). -/
def execTcoll (t : BitVec 6) (f : BitVec 4) (v : BitVec 16) (s : State) : Out := issueWord 3 1 t f v collCheck enterColl s

/-- COLLECTIVE_HOLD (R67). -/
def execCollectiveHold (t : BitVec 6) (f : BitVec 4) (v : BitVec 16) (s : State) : Out := holdWord 3 t f v s

/-- Communicators whose entry is no longer valid start their counts anew (R390). -/
def pruneColl (s : State) : State :=
  if s.collCounts = [] ∧ s.collGone = [] then s
  else
    let valid (c : Nat) : Bool := commValid (commEntry s 0 c) || commValid (commEntry s 1 c)
    { s with collCounts := s.collCounts.filter fun x => valid x.1, collGone := s.collGone.filter fun x => valid x.1 }

/-! The reduction (R389). -/

/-- An element as .f32, exact. -/
def toF32 (fmt bits : Nat) : Nat :=
  match numFmt fmt with
  | some (.flt f) => if f = .f32 then bits else (fCvt f .f32 .rne bits).1
  | _ => bits

/-- One step of a float reduction. -/
def redFloat (rop acc x : Nat) : Nat :=
  match rop with
  | 0 => (fAdd .f32 .rne acc x).1
  | 1 => (fMinMax .f32 false false acc x).1
  | _ => (fMinMax .f32 true false acc x).1

/-- One step of an integer reduction. -/
def redInt (rop : Nat) (signed : Bool) (acc x : Nat) : Nat :=
  let v (n : Nat) : Int := if signed then signedOf 32 n else (n : Int)
  match rop with
  | 0 => (acc + x) % 2 ^ 32
  | 1 => if v acc ≤ v x then acc else x
  | _ => if v acc ≤ v x then x else acc

/-- red: the values in ascending rank order. -/
def redValues (fmt rop : Nat) : List Nat → Nat
  | [] => 0
  | x :: xs =>
    match numFmt fmt with
    | some (.flt f) =>
      let acc := (xs.map (toF32 fmt)).foldl (redFloat rop) (toF32 fmt x)
      if f = .f32 then acc else (fCvt .f32 f .rne acc).1
    | some (.int _ sg) => xs.foldl (redInt rop sg) x
    | _ => x

/-- Element i of a source's bytes. -/
def eltAt (e : Nat) (bytes : List Byte) (i : Nat) : Nat := leNat ((bytes.drop (i * e)).take e)

/-- The destination bytes of rank r. -/
def collBytes (b : BitVec 512) (srcs : List (List Byte)) (r : Nat) : List Byte :=
  let e := collElt b
  let n := collCount b
  let red (i : Nat) : List Byte := leBytes e (redValues (collFmt b) (collRop b) (srcs.map fun s => eltAt e s i))
  match collOp b with
  | 0 => (List.range n).flatMap red
  | 1 => if r = collRoot b then (List.range n).flatMap red else []
  | 2 => srcs.getD (collRoot b) []
  | 3 => srcs.flatMap id
  | 4 => (List.range n).flatMap fun i => red (r * n + i)
  | _ => srcs.flatMap fun s => (s.drop (r * n * e)).take (n * e)

/-! Matching, start and end (R390). -/

/-- A core's matching entry at the head of its queue, released. -/
def collReady (s : State) (comm j : Nat) (m : Member) : Option Command :=
  let k := getCore s m.die m.core
  match queueOf k 3 with
  | c :: _ =>
    if c.kind = .tmpl 1 ∧ collComm c.body = comm ∧ c.part = j ∧ released s k 3 c = true ∧ issuerClear s c = true ∧
        (vget k.run 3 []).length < 4 then some c
    else none
  | [] => none

/-- Every member's matching entry, in rank order, when all are ready. A member on another module never is (log entry 19). -/
def collMatch (s : State) (comm j : Nat) (ms : List Member) : Option (List Command) :=
  ms.mapM fun m => if m.pkg = s.pkgId.toNat then collReady s comm j m else none

/-- Matching entries agree. -/
def collAgree (a b : Command) : Bool :=
  let f (c : Command) : List Nat :=
    [collOp c.body, collFmt c.body, collRop c.body, collCount c.body, collRoot c.body, collScope c.body]
  f a == f b

/-- The first fault that the members meet: a source or destination that reaches a bank of another BFMT (R136), then among the sources an
uncorrectable word or a verdict word, and then one among the destinations (log entry 113). -/
def collFault (s : State) (cs : List Command) (ms : List Member) (srcs : List (List Byte)) : Option (Cause × Nat) :=
  let N := ms.length
  let format := (ms.zip cs).zipIdx.findSome? fun ((m, c), r) =>
    (otherBanks (getCore s m.die m.core) [srcRange c.body r N, dstRange c.body r N]).map fun a => (Cause.bankFormat, a)
  let bad := (ms.zip cs).zipIdx.findSome? fun ((m, c), r) =>
    let x := srcRange c.body r N
    spBad (getCore s m.die m.core) x.buf x.lo (x.hi - x.lo) |>.map fun o => (Cause.storageError, spAddr x.buf (o / 8 * 8))
  let verdict := (cs.zip srcs).any fun (c, bytes) =>
    collReduces c.body && collFmt c.body == 0 && (List.range (bytes.length / 4)).any fun i => isVerdict (BitVec.ofNat 32 (eltAt 4 bytes i))
  let dest := (ms.zip cs).zipIdx.findSome? fun ((m, c), r) =>
    let x := dstRange c.body r N
    spBadWrite (getCore s m.die m.core) x.buf x.lo (x.hi - x.lo) |>.map fun o => (Cause.storageError, spAddr x.buf (o / 8 * 8))
  match format.or bad with
  | some f => some f
  | none => if verdict then some (.verdictOperand, 0) else dest

/-- A member's entry starts, with the fault it will end with. -/
def startMember (s : State) (m : Member) (c : Command) (gid n : Nat) (f : Option (Cause × Nat)) : State :=
  let k := getCore s m.die m.core
  let fault : Option CmdFault := f.map fun x => ⟨x.1, BitVec.ofNat 64 x.2, 0⟩
  putCore s (startCommand k 3 { c with gid := gid, progress := n, fault := fault })

/-- Every member's source has been read: its words lose their single-bit errors (R143). -/
def collRead (s : State) (ms : List Member) (cs : List Command) : State :=
  (ms.zip cs).foldl (fun t (m, c) => correctSoft t m.die m.core c.reads) s

/-- The members' sources are read: entries that disagree, and a footprint in banks of different formats, stop the command before. -/
def collReads (f : Option (Cause × Nat)) : Bool :=
  !f.any fun x => x.1 == .collectiveState || x.1 == .bankFormat

/-- All members start together, with the whole effect. -/
def collStarted (s : State) (ms : List Member) (cs : List Command) : State :=
  let N := ms.length
  let srcs := (ms.zip cs).zipIdx.map fun ((m, c), r) =>
    let x := srcRange c.body r N
    spRead (getCore s m.die m.core) x.buf x.lo (x.hi - x.lo)
  let agree := match cs with
    | [] => true
    | c :: r => r.all (collAgree c)
  let f := if agree then collFault s cs ms srcs else some (.collectiveState, 0)
  let s1 := (ms.zip cs).zipIdx.foldl (fun t ((m, c), r) =>
    let bytes := if f.isSome then [] else collBytes c.body srcs r
    let x := dstRange c.body r N
    let t1 := if bytes = [] then t else putCore t (spWrite (getCore t m.die m.core) x.buf x.lo bytes)
    startMember t1 m c s.order bytes.length f) (if collReads f then collRead s ms cs else s)
  { s1 with order := s1.order + 1 }

/-- COLLECTIVE_START (R390): the entry at the head of this core's queue, with its partners'; alone, and faulted, when a partner's was
removed. It also ends an entry of a changed image that fails its checks (R106). -/
def execCollectiveStart (s : State) : Out :=
  endsBad 3 (fun _ _ => 0) s (match queueOf s.core 3 with
  | [] => .next s
  | c :: _ =>
    let me := asMember s s.core.die s.core.num
    let comm := collComm c.body
    if (collReady s comm c.part me).isNone then .next s
    else if s.collGone.contains (comm, c.part) then
      .next (startMember { s with order := s.order + 1 } me c s.order 0 (some (.collectiveState, 0)))
    else match commMembers s (commEntry s s.core.die comm) with
      | none => .next s
      | some ms =>
        match collMatch s comm c.part ms with
        | some cs => .next (collStarted s ms cs)
        | none => .next s)

/-- One member's command ends: record, arrival, markers. -/
def collMemberEnd (gid : Nat) (s : State) (p : Nat × Nat) : State :=
  match (vget (getCore s p.1 p.2).run 3 []).find? fun c => c.gid = gid with
  | none => s
  | some c =>
    let s1 := putCore s (endCommand (getCore s p.1 p.2) 3 c)
    let s2 := match c.fault with
      | some f => writeRecord s1 c.aspace (commandRecord 3 p.2 c f)
      | none => s1
    let s3 := match bodyBar c.body with
      | some (l, n) =>
        commandSignal s2 (signalOf s c l p.2 n none c.fault.isSome false)
      | none => s2
    settleMarkers s3 p.1 p.2

/-- COLLECTIVE_END (R390): one of this core's started collectives ends on every member. -/
def execCollectiveEnd (s : State) : Out :=
  let l := vget s.core.run 3 []
  let n := if l.length ≤ 1 then 0 else Config.freeMerge s.fresh 8 % l.length
  match l[n]? with
  | none => .next s
  | some c => .next (((allCores s).map fun k => (k.die, k.num)).foldl (collMemberEnd c.gid) s)

end Sys2Proof.Machine
end

