-- ==== Sys2Proof/Machine/Control.lean ====
section
/-! DEFINITION. Meanings of control transfer, the hardware loops, the system registers, traps, breaks and DONE (R96, R98, R101,
R124 to R131). -/

namespace Sys2Proof.Machine

/-- The target of a transfer by a word offset from the instruction (R124, R125). -/
def relTarget (s : State) {n : Nat} (o : BitVec n) : Word := s.core.ctx.pc + (o.signExtend 64 <<< 2)

/-- A transfer that leaves the loops it jumps out of (R98). -/
def jumpOut (s : State) (target : Word) : State := retireJump (modCtx s fun c => leaveLoops c target) target

/-- BR (R124). -/
def execBr (n : BitVec 1) (p : BitVec 3) (o : BitVec 22) (s : State) : Out :=
  if preg s p != (n == 1) then .next (jumpOut s (relTarget s o)) else .next (retire s)

/-- J (R125). -/
def execJ (o : BitVec 25) (s : State) : Out := .next (jumpOut s (relTarget s o))

/-- CALL (R125): loops stay active. -/
def execCall (o : BitVec 25) (s : State) : Out :=
  .next (retireJump (setS s 31 (s.core.ctx.pc + 4)) (relTarget s o))

/-- A jump to a register needs a multiple of 4 (R53, R126). -/
def regTarget (s : State) (t : Word) (e : State) : Out :=
  if t.extractLsb' 0 2 = 0 then .next e else finish s (.trap (Trap.of .misalignedTarget))

/-- JR (R126). -/
def execJr (a : BitVec 5) (s : State) : Out := regTarget s (sreg s a) (jumpOut s (sreg s a))

/-- CALLR (R126): s31 is written after the target is read. -/
def execCallr (a : BitVec 5) (s : State) : Out :=
  regTarget s (sreg s a) (retireJump (setS s 31 (s.core.ctx.pc + 4)) (sreg s a))

/-- RET (R126). -/
def execRet (s : State) : Out := regTarget s (sreg s 31) (retireJump s (sreg s 31))

/-- The number of active levels other than `n`. -/
def otherActive (c : Context) (n : Nat) : Nat :=
  ((List.range 3).filter fun m => decide (m ≠ n) && (loopAt c m).active).length

/-- A loop started at level `n` over `len + 1` words with a count (R128). With a count it goes on to the next word, so it takes the
loop-end step where it stands last in an outer body (R98); a count of 0 transfers control past the body (log entry 73). -/
def startLoop (s : State) (l : BitVec 2) (len : BitVec 8) (cnt : Nat) : Out :=
  let c := s.core.ctx
  let n := l.toNat
  if c.inTrap || l = 3 then finish s (.trap (Trap.of .illegalInstruction))
  else if cnt = 0 then
    .next (retireJump (modCtx s fun c => endLevel c n) (c.pc + 4 + BitVec.ofNat 64 (4 * (len.toNat + 1))))
  else
    let pos := if (loopAt c n).active then (loopAt c n).pos else otherActive c n
    .next (retire (modCtx s fun c =>
      { c with lc := vset c.lc n (BitVec.ofNat 32 cnt), loops := vset c.loops n ⟨true, pos, len, c.pc + 4⟩ }))

/-- LOOP with an immediate count (R128). -/
def execLoop (l : BitVec 2) (n : BitVec 8) (c : BitVec 15) (s : State) : Out := startLoop s l n c.toNat

/-- LOOP with a count from a register (R128). -/
def execLoopReg (l : BitVec 2) (n : BitVec 8) (a : BitVec 5) (s : State) : Out :=
  startLoop s l n (min (snat s a) 0xFFFFFFFF)

/-! System registers (R129, R130). -/

/-- A vector instruction of the context has not completed (R41). -/
def vectorPending (c : Context) : Bool :=
  c.vq.any fun e =>
    match e with
    | .instr .. => true
    | .marker => false

/-- The commands a context issued that have not ended (R48, R96). -/
def ownCommands (k : Core) (ctxId : Word) : List Command :=
  ((unended k).map fun e => e.2.2).filter fun c => c.ctxId == ctxId

/-- The value of a system register (R64). -/
def sysRead (s : State) (r : Nat) : Word :=
  let c := s.core.ctx
  match r with
  | 0x00 => cstatOf c
  | 0x01 => cprioOf s c
  | 0x02 => c.tcause
  | 0x03 => c.tpc
  | 0x04 => c.tword
  | 0x05 => c.taddr
  | 0x06 => c.vmode
  | 0x07 => c.repro
  | 0x08 => s.caps
  | 0x09 => BitVec.ofNat 64 s.core.num
  | 0x0A => BitVec.ofNat 64 (s.core.num / 4)
  | 0x0B => BitVec.ofNat 64 s.core.die
  | 0x0C => s.pkgId.zeroExtend 64
  | 0x0D => (ownNames c).2.2
  | 0x0E => (ownNames c).2.1
  | 0x0F => (ownNames c).1
  | 0x10 => lcntOf c
  | n => vget c.perf (n - 0x18) 0

/-- GETSR (R129). -/
def execGetsr (a : BitVec 5) (r : BitVec 10) (s : State) : Out :=
  if sysregOk r = false then finish s (.trap (Trap.of .illegalInstruction))
  else if r = 6 ∧ vectorPending s.core.ctx = true then finish s .stall
  else inLine s (.ok (setS s a (sysRead s r.toNat)))

/-- SETSR (R129): written field by field; a register of RO fields keeps its value. -/
def execSetsr (a : BitVec 5) (r : BitVec 10) (s : State) : Out :=
  let v := sreg s a
  let upd (f : Context → Context) : Out := inLine s (.ok (modCtx s f))
  if sysregOk r = false then finish s (.trap (Trap.of .illegalInstruction))
  else match r.toNat with
    | 0x01 => upd fun c => { c with prio := clampPrio c v }
    | 0x02 => upd fun c => { c with tcause := v &&& tcauseMask }
    | 0x03 => upd fun c => { c with tpc := v &&& ~~~3 }
    | 0x04 => upd fun c => { c with tword := v &&& 0xFFFFFFFF }
    | 0x05 => upd fun c => { c with taddr := v }
    | 0x06 => if vectorPending s.core.ctx then finish s .stall else upd fun c => { c with vmode := writeVmode c.vmode v }
    | 0x07 =>
      if s.core.ctx.vq ≠ [] ∨ ownCommands s.core s.core.ctx.ctxId ≠ [] then finish s .stall
      else upd fun c => { c with repro := v &&& 1 }
    | n =>
      if 0x18 ≤ n then .next (modCtx (retire s) fun c => { c with perf := vset c.perf (n - 0x18) v })
      else .next (retire s)

/-! Traps, breaks and retirement (R131). -/

/-- NOP. -/
def execNop (s : State) : Out := .next (retire s)

/-- TRAP. -/
def execTrap (i : BitVec 10) (s : State) : Out := finish s (.trap ⟨.trapInstruction, i, 0⟩)

/-- ERET (R101). -/
def execEret (s : State) : Out := finish s (returnFromTrap s)

/-- BKPT. -/
def execBkpt (s : State) : Out := finish s (.trap (Trap.of .breakpoint))

/-- HALT: to trapped without a handler (R100). -/
def execHalt (s : State) : Out := finish s (.trap (Trap.of .halt))

/-- Work of the started context that DONE and retirement wait for (R96, R342): its engine commands, its accesses, its vector
instructions, the translation of its REDs, and a close that it has started. A NOTIFY does not hold it. -/
def workLeft (s : State) : Bool :=
  let c := s.core.ctx
  (ownCommands s.core c.ctxId).any (fun x => x.kind != .marker) || decide (c.accessQ ≠ []) || vectorPending c ||
    (s.reds.any fun r => r.ctxId == c.ctxId && r.pa.isNone && !r.waits) ||
    s.windows.any fun w => w.closer.any fun x => x.ctxId == c.ctxId

/-- DONE (R95, R96): retired when nothing is outstanding, else waiting with WAIT 5. -/
def execDone (s : State) : Out :=
  .next (tick (modCtx s fun c =>
    let c1 := addPerf c 1 1
    if workLeft s then { c1 with state := .waiting, wait := .done, park := some .retire }
    else { c1 with state := .retired }))

end Sys2Proof.Machine
end

