-- ==== Sys2Proof/Machine/Drove.lean ====
section
/-! DEFINITION. The search commands of the Quesar die from issue to end: the index table, distances, the drove, the append log, the
merge and passage KV (R344 to R361). -/

namespace Sys2Proof.Machine

/-! Flash pages and the index table (R344, R345, R346). -/

/-- Physical address of a flash page. -/
def flashAddr (fp : Nat) : Nat := 0x100000000000 + fp * 0x4000

/-- FP of a node reference. -/
def refFp (r : Word) : Nat := (r.extractLsb' 0 32).toNat

/-- Slot of a node reference. -/
def refSlot (r : Word) : Nat := (r.extractLsb' 32 8).toNat

/-- The empty reference. -/
def emptyRef : Word := BitVec.allOnes 64

/-- A node reference of a page and a slot. -/
def mkRef (fp slot : Nat) : Word := BitVec.ofNat 64 (slot * 2 ^ 32 + fp)

/-- An index descriptor's fields. -/
structure IndexD where
  addr : Nat
  num : Nat
  vfmt : Nat
  dim : Nat
  deg : Nat
  entry : Word
  pdir : Nat
  npass : Nat
  blkb : Nat
  logBase : Nat
  logCap : Nat
  head : Nat
  tail : Nat
  kvpool : Nat
  freepg : Nat
deriving DecidableEq, Repr

/-- NC. -/
def IndexD.nc (x : IndexD) : Nat := (x.dim + 15) / 16

/-- Bytes of a body of `nc` chunks in a format. -/
def bodyBytes (vfmt nc : Nat) : Nat := 16 * nc * codeWidth vfmt / 8 + (if vfmt = 13 then 2 * ((16 * nc + 31) / 32) else 0)

/-- Bytes of the headers, padded. -/
def IndexD.hdrBytes (x : IndexD) : Nat := roundUp (4 * (x.nc - 1)) 16

/-- Offset of a node's neighbours. -/
def IndexD.nbrAt (x : IndexD) : Nat := 16 + x.hdrBytes + bodyBytes x.vfmt x.nc

/-- NSZ. -/
def IndexD.nsz (x : IndexD) : Nat := roundUp (x.nbrAt + 8 * x.deg) 64

/-- LSZ. -/
def IndexD.lsz (x : IndexD) : Nat := roundUp x.nbrAt 64

/-- Slots of a page. -/
def IndexD.slots (x : IndexD) : Nat := 16384 / x.nsz

/-- A reference names a slot of a flash page. -/
def IndexD.refOk (x : IndexD) (r : Word) : Bool :=
  r.extractLsb' 40 24 == 0 && decide (refFp r < 2 ^ 30) && decide (refSlot r < x.slots)

/-- The physical address of the first byte of an interval that lies in a failing line. What the Quesar die reads by physical address has no
virtual one for its record's ADDR to hold (R416; log entry 94). -/
def badAt (s : State) (pa n : Nat) : Option Nat := (badByte s pa n).map fun i => pa + i

/-- An index's descriptor, read with an address space's right (R345), or the fault that ends the command. -/
def readIndex (s : State) (aspace : BitVec 12) (n : Nat) : Except (Cause × Nat) IndexD :=
  let a := s.quesarBase.toNat + 128 * n
  let f (o len : Nat) : Nat := rdHomeNat s (a + o) len
  let ctl := f 0 8
  let x : IndexD :=
    { addr := a, num := n, vfmt := natBits ctl 18 14, dim := natBits ctl 30 19 + 1, deg := natBits ctl 37 31
      entry := BitVec.ofNat 64 (f 8 8), pdir := f 0x10 8, npass := f 0x18 4, blkb := f 0x1C 2, logBase := f 0x20 8, logCap := f 0x28 4
      head := f 0x30 8, tail := f 0x38 8, kvpool := f 0x40 8, freepg := f 0x48 8 }
  if let some i := badAt s a 128 then .error (.storageError, i)
  else if BitVec.ofNat 12 ctl ≠ aspace then .error (.permission, 0)
  else if !ctl.testBit 12 || !([1, 3, 5, 13].contains x.vfmt) || x.deg = 0 || 64 < x.deg || ctl / 2 ^ 38 ≠ 0 || 2 ^ 30 ≤ x.pdir ||
      x.blkb = 0 || 4095 < x.blkb || f 0x1E 2 ≠ 0 || !isNear s x.logBase || x.logBase % 4096 ≠ 0 || f 0x2C 4 ≠ 0 ||
      !((List.range 21).any fun i => x.logCap = 2 ^ (i + 4)) || 2 ^ 32 ≤ x.head || 2 ^ 32 ≤ x.tail ||
      x.logCap < (x.tail + 2 ^ 32 - x.head) % 2 ^ 32 || (x.kvpool ≠ 0 && !isNear s x.kvpool) || 2 ^ 30 ≤ x.freepg || f 0x50 48 ≠ 0 ||
        16384 < x.nsz ||
      !(x.entry = emptyRef || x.refOk x.entry) then .error (.indexState, 0)
  else .ok x

/-- Bytes that the Quesar die writes into the module's memory, performed at their home; no die's copy of their lines stays, so that every
observer reads them from then on (R352). -/
def quesarPut (s : State) (pa : Nat) (bytes : List Byte) : State :=
  wrHomeBytes (dropLines (flushHeld (flushHeld s 0 pa bytes.length) 1 pa bytes.length) pa bytes.length) pa bytes

/-- The same by physical address, as the slices see it (R373). -/
def quesarWrite (s : State) (pa : Nat) (bytes : List Byte) : State := seenLines (quesarPut s pa bytes) pa bytes.length

/-- The reads of an index's descriptor (R345) and of log entries (R357), as the slices see them (R373). -/
def indexSeen (s : State) (n : Nat) : State := seenLines s (s.quesarBase.toNat + 128 * n) 128

/-- A field of a descriptor that the device writes. -/
def putIndex (s : State) (x : IndexD) (off n v : Nat) : State := quesarWrite s (x.addr + off) (leBytes n v)

/-- MERGING. -/
def putMerging (s : State) (x : IndexD) (on : Bool) : State :=
  let ctl := rdHomeNat s x.addr 8
  putIndex s x 0 8 (if ctl.testBit 13 then (if on then ctl else ctl - 2 ^ 13) else if on then ctl + 2 ^ 13 else ctl)

/-- The exact decoded values of a body (R34, R346); none is a format conflict (R33). -/
def decodeBody (vfmt nc : Nat) (b : List Byte) : Option (List Val) :=
  let n := 16 * nc
  match numFmt vfmt with
  | some (.flt f) => some ((List.range n).map fun i => f.val (recNat b (i * (f.width / 8)) (f.width / 8)))
  | some (.int w sg) => some ((List.range n).map fun i => Val.ofInt (ofIntFmt w sg (recNat b (i * (w / 8)) (w / 8))))
  | some .q4e =>
    let groups := (List.range (n / 4)).map fun g => q4Decode (recNat b (2 * g) 2)
    if groups.any Option.isNone then none
    else
      let vs := groups.flatMap fun g => g.getD []
      some (vs.zipIdx.map fun (v, i) => (mulV v (FFmt.bf16.val (recNat b (n / 2 + 2 * (i / 32)) 2))).1)
  | none => none

/-- A stored vector: what a node or a log entry holds (R346, R357). -/
structure VecRec where
  vid : BitVec 48
  del : Bool
  aop : Nat
  norm : Nat
  hdrs : List Nat
  x : List Val
  nbrs : List Word
deriving DecidableEq, Repr

/-- A node or a log entry read from its bytes: only a node has neighbours, and a delete's entry is its first eight bytes (R346, R357). -/
def readVec (ix : IndexD) (node : Bool) (b : List Byte) : Except Cause VecRec :=
  let w := recNat b 0 8
  let deg := if node then recNat b 12 1 else 0
  let nbrs := (List.range deg).map fun i => BitVec.ofNat 64 (recNat b (ix.nbrAt + 8 * i) 8)
  let used := nbrs.filter fun r => r != emptyRef
  if !node && natBits w 49 48 == 1 then .ok ⟨BitVec.ofNat 48 w, false, 1, 0, [], [], []⟩
  else if ix.deg < deg || !used.all ix.refOk then .error .indexState
  else match decodeBody ix.vfmt ix.nc (b.drop (16 + ix.hdrBytes)) with
    | none => .error .formatConflict
    | some x =>
      .ok { vid := BitVec.ofNat 48 w, del := w.testBit 63, aop := natBits w 49 48, norm := recNat b 8 4
            hdrs := (List.range (ix.nc - 1)).map fun j => recNat b (16 + 4 * j) 4, x := x, nbrs := used }

/-- The node at a reference. -/
def nodeAt (s : State) (ix : IndexD) (r : Word) : Except Cause VecRec :=
  readVec ix true (rdHome s (flashAddr (refFp r) + refSlot r * ix.nsz) ix.nsz)

/-- Address of a log entry (R357). -/
def logAddr (ix : IndexD) (i : Nat) : Nat := ix.logBase + i % ix.logCap * ix.lsz

/-- `n` log entries from an index up read, as the slices see them (R373). -/
def logSeen (s : State) (ix : IndexD) (head n : Nat) : State :=
  (List.range n).foldl (fun t i => seenLines t (logAddr ix (head + i)) ix.lsz) s

/-- The first failing byte of `n` log entries from an index up, as they are read: of a delete, its first eight bytes (R357, R416). -/
def logBad (s : State) (ix : IndexD) (head n : Nat) : Option Nat :=
  (List.range n).findSome? fun i =>
    let a := logAddr ix (head + i)
    badAt s a (if natBits (rdHomeNat s a 8) 49 48 = 1 then 8 else ix.lsz)

/-! Distances (R319, R331, R347). -/

/-- A value's .f32 pattern, rounded once. -/
def bits32 (mode : RMode) (v : Val) : Nat := (roundTo .f32 ⟨mode, false, false⟩ v).1

/-- +∞ as .f32. -/
def posInf : Nat := 0x7F800000

/-- The term of a dimension. -/
def distTerm (dist : Nat) (q x : Val) : Nat :=
  if dist = 0 then bits32 .rne (mulV (subV q x) (subV q x)).1 else bits32 .rne (negV (mulV q x).1)

/-- A value divided by NORM, rounded once; +∞ unless NORM is positive and finite. -/
def overNorm (mode : RMode) (v : Val) (norm : Nat) : Nat :=
  match FFmt.f32.val norm, v with
  | .fin false (n + 1) e, .fin neg m ev =>
    if m = 0 then withSign .f32 neg 0 else (roundRat .f32 ⟨mode, false, false⟩ neg m (n + 1) (ev - e)).1
  | .fin false (_ + 1) _, v => bits32 mode v
  | _, _ => posInf

/-- The final distance of a canonical sum. -/
def finalDist (dist acc norm : Nat) : Nat := if dist = 2 then overNorm .rne (FFmt.f32.val acc) norm else acc

/-- The sum of a chunk's terms. -/
def chunkSum (dist : Nat) (q x : List Val) (j : Nat) : Nat :=
  let t (r : Nat) : Nat := distTerm dist (q.getD (16 * j + r) .nan) (x.getD (16 * j + r) .nan)
  (List.range 15).foldl (fun m r => (fAdd .f32 .rne m (t (r + 1))).1) (t 0)

/-- Scoring from chunk j on: the distance, or none when the candidate is abandoned, and the chunks accumulated. -/
def scoreFrom (dist nc : Nat) (q : List Val) (Q : Val) (v : VecRec) (thr : Nat) : Nat → Nat → Option Nat × Nat
  | 0, acc => (some (finalDist dist acc v.norm), nc)
  | left + 1, acc =>
    let j := nc - (left + 1)
    let acc' := (fAdd .f32 .rne acc (chunkSum dist q v.x j)).1
    let dn := (vdBounds (FFmt.f32.val acc') (FFmt.f32.val (v.hdrs.getD j 0)) Q left (dist == 0)).1
    let test := if dist = 2 then FFmt.f32.val (overNorm .rdn dn v.norm) else dn
    if ltV (FFmt.f32.val thr) test then (none, j + 1) else scoreFrom dist nc q Q v thr left acc'

/-- A candidate scored against a threshold. -/
def scoreVec (dist nc : Nat) (q : List Val) (Q : Val) (v : VecRec) (thr : Nat) : Option Nat × Nat := scoreFrom dist nc q Q v thr nc 0

/-- |v|. -/
def absV : Val → Val
  | .fin _ m e => .fin false m e
  | .inf _ => .inf false
  | .nan => .nan

/-- Q of a query. -/
def queryBound (q : List Val) : Val :=
  let m := q.foldl (fun m v => if ltV m (absV v) then absV v else m) (.fin false 0 0)
  roundV .rup (mulV m (.fin false (2 ^ 22 + 1) (-22))).1

/-- Node a ranks before node b (R325, R347). -/
def DNode.before (a b : DNode) : Bool :=
  let (x, y) := (FFmt.f32.val a.dist.toNat, FFmt.f32.val b.dist.toNat)
  ltV x y || (decide (cmpV x y = 0) && decide (a.vid.toNat < b.vid.toNat))

/-- A node put in its place. -/
def insertNode (n : DNode) : List DNode → List DNode
  | [] => [n]
  | m :: r => if n.before m then n :: m :: r else m :: insertNode n r

/-- A survivor put in its place among those of a visit: of equal distance and VID the one of lower node reference first, which R349's reproduction
wants fixed and no rule gives (log entry 120, DESIGN CHOICE). -/
def insertKept (n : DNode) : List DNode → List DNode
  | [] => [n]
  | m :: r => if n.before m || (!m.before n && decide (n.ref.toNat < m.ref.toNat)) then n :: m :: r else m :: insertKept n r

/-- The threshold that a result list gives. -/
def listThr (k : Nat) (r : List DNode) : BitVec 32 :=
  match r[k - 1]? with
  | some e => e.dist
  | none => BitVec.ofNat 32 posInf

/-- offer(n) of R348, over R and F. -/
def offerNode (k cand : Nat) (rf : List DNode × List DNode) (n : DNode) : List DNode × List DNode :=
  let near := match rf.1[k - 1]? with
    | some e => n.before e
    | none => true
  if near then (if n.live then (insertNode n rf.1).take k else rf.1, (insertNode n rf.2).take (cand + 1)) else rf

/-! Issue (R353). -/

/-- DIST. -/
def seekDist (b : BitVec 512) : Nat := bodyNat b 168 3
/-- k. -/
def seekK (b : BitVec 512) : Nat := bodyNat b 144 6 + 1
/-- CAND. -/
def seekCand (b : BitVec 512) : Nat := bodyNat b 152 8
/-- HOPS. -/
def seekHops (b : BitVec 512) : Nat := bodyNat b 160 8
/-- QFMT. -/
def seekFmt (b : BitVec 512) : Nat := bodyNat b 171 5
/-- DIM. -/
def seekDim (b : BitVec 512) : Nat := bodyNat b 176 12 + 1
/-- QOFF, and VOFF of a SAPPEND. -/
def seekQoff (b : BitVec 512) : Nat := bodyNat b 32 48
/-- ROFF. -/
def seekRoff (b : BitVec 512) : Nat := bodyNat b 80 48
/-- Bytes of a SEEK's result. -/
def seekBytes (b : BitVec 512) : Nat := 16 * seekK b + 32
/-- INDEX; PASS.H of a KFETCH. -/
def searchIndex (b : BitVec 512) : Nat := if bodyKind b = 2 then bodyNat b 64 16 else bodyNat b 128 16

/-- A SEEK's checks, and the command. -/
def seekCheck (s : State) (t : BitVec 6) (b : BitVec 512) : Except Trap Command :=
  let Q := gHandle s b
  let R := hreg s (BitVec.ofNat 4 (bodyNat b 24 4))
  let lo : Int := seekQoff b
  let ro : Int := seekRoff b
  match firstTrap
    [if 3 ≤ seekDist b ∨ ([1, 3, 5, 13].contains (seekFmt b)) = false then some (Trap.of .templateKind) else none, barCheck s b,
      limitIf (decide (seekCand b < seekK b - 1)), limitIf (decide (seekHops b = 0)),
      handleSide Q lo (lo + bodyBytes (seekFmt b) ((seekDim b + 15) / 16)) false,
      if seekRoff b % 16 ≠ 0 then some (Trap.at .misalignedAccess ((if R.valid then R.vbase else 0) + seekRoff b)) else none,
      handleSide R ro (ro + seekBytes b) true] with
  | some e => .error e
  | none => .ok { baseCommand s t b with src := Q, dst := R }

/-- A KFETCH's or SMERGE's checks: its barrier alone. -/
def plainCheck (s : State) (t : BitVec 6) (b : BitVec 512) : Except Trap Command :=
  match barCheck s b with
  | some e => .error e
  | none => .ok (baseCommand s t b)

/-- AOP. -/
def sappendOp (b : BitVec 512) : Nat := bodyNat b 144 2

/-- A SAPPEND's checks; the size of its body is known only at its start. -/
def sappendCheck (s : State) (t : BitVec 6) (b : BitVec 512) : Except Trap Command :=
  let H := gHandle s b
  let lo : Int := seekQoff b
  match firstTrap
    [if sappendOp b = 3 ∨ (sappendOp b = 1 ∧ (bodyNat b 16 4 ≠ 0 ∨ seekQoff b ≠ 0)) then some (Trap.of .templateKind) else none,
      barCheck s b, if sappendOp b = 1 then none else handleSide H lo lo false] with
  | some e => .error e
  | none => .ok { baseCommand s t b with src := if sappendOp b = 1 then Handle.invalid else H }

/-- SEEK (R353, R354). -/
def execSeek (t : BitVec 6) (f : BitVec 4) (v : BitVec 16) (s : State) : Out := issueWord 4 1 t f v seekCheck (enterPlain 4) s

/-- KFETCH (R353, R354). -/
def execKfetch (t : BitVec 6) (f : BitVec 4) (v : BitVec 16) (s : State) : Out := issueWord 4 2 t f v plainCheck (enterPlain 4) s

/-- SAPPEND (R353, R354). -/
def execSappend (t : BitVec 6) (f : BitVec 4) (v : BitVec 16) (s : State) : Out := issueWord 4 3 t f v sappendCheck (enterPlain 4) s

/-- SMERGE (R353, R354). -/
def execSmerge (t : BitVec 6) (f : BitVec 4) (v : BitVec 16) (s : State) : Out := issueWord 4 4 t f v plainCheck (enterPlain 4) s

/-- SEARCH_HOLD (R67, R354). -/
def execSearchHold (t : BitVec 6) (f : BitVec 4) (v : BitVec 16) (s : State) : Out := holdWord 4 t f v s

/-! Start and end (R351, R352, R355, R356). -/

/-- The head of a core's search queue that may start: behind its issuer's stores and with room in the die's table (R237, R351). On a
core that is being stopped it starts only while its group stalls at a window instruction (R407). -/
def searchHead (s : State) (kind : Nat) : Option Command :=
  match queueOf s.core 4 with
  | c :: _ =>
    if c.kind = .tmpl kind ∧ stopHolds s s.core 4 = false ∧ issuerClear s c = true ∧ s.droves.length < 4096 then some c else none
  | [] => none

/-- A command as the Quesar die tracks it, with nothing done yet. -/
def Drove.begin (s : State) (c : Command) : Drove where
  cmd := c
  index := searchIndex c.body
  began := s.order
  entry := emptyRef
  head := 0
  tail := 0
  log := []
  query := []
  r := []
  f := []
  visited := []
  hop := 0
  awaited := []
  wanted := []
  kept := []
  thrs := []
  pages := 0
  requeue := 0
  nodes := 0
  abandoned := 0
  chunks := 0
  logScored := 0
  next := 0
  waits := false

/-- A search command leaves its core's queue for the die; the issuer's die's bytes are written home first (R237). -/
def searchStarted (s : State) (c : Command) : State :=
  let t := flushDie s c.die
  let t1 := modCore t fun k => startCommand k 4 c
  { t1 with droves := t1.droves ++ [Drove.begin t1 c], order := t1.order + 1 }

/-- The same command. -/
def Drove.same (a b : Drove) : Bool := decide (a.cmd.gid = b.cmd.gid)

/-- A started command's record replaced. -/
def putDrove (s : State) (d : Drove) : State := { s with droves := s.droves.map fun x => if x.same d then d else x }

/-- The arrival of a search command at its barrier: at a core barrier's, wherever its group runs or rests (R352). -/
def searchSignal (s : State) (c : Command) (fault : Bool) : State :=
  match bodyBar c.body with
  | none => s
  | some (l, n) => commandSignal s { signalOf s c l c.core n none fault false with home := decide (l = 0) }

/-- A free flash page goes to the head of an index's list (log entry 17). -/
def pushFlash (s : State) (x : IndexD) (fp : Nat) : State :=
  let head := rdHomeNat s (x.addr + 0x48) 8
  putIndex (quesarWrite s (flashAddr fp) (leBytes 8 head)) x 0x48 8 fp

/-- Replaced pages return once every drove that snapshotted them has ended (R358). -/
def returnPages (s : State) : State :=
  s.swapped.foldl (fun t p =>
    if t.droves.any fun d => decide (d.index = p.1) && decide (d.began < p.2.2) && decide (bodyKind d.cmd.body = 1) then t
    else
      let t1 := { t with swapped := t.swapped.filter fun q => !decide (q = p) }
      pushFlash t1 ⟨s.quesarBase.toNat + 128 * p.1, p.1, 0, 0, 0, 0, 0, 0, 0, 0, 0, 0, 0, 0, 0⟩ p.2.1) s

/-- PROGRESS of a search command's record: the hops of a drove (R399); for the other kinds the manual states none (log entry 18). -/
def searchProgress (s : State) (d : Drove) : Nat :=
  if bodyKind d.cmd.body = 1 then d.hop else Config.freeMerge s.fresh 2 % 2 ^ 32

/-- A search command ends: record, arrival, markers (R352, R399). A marker that only waits for it in a saved group's image goes when the
image is restored (R199). -/
def searchEnded (s : State) (d : Drove) (fault : Option (Cause × Nat)) : State :=
  let c := d.cmd
  let drop (k : Core) : Core := endCommand k 4 c
  let s1 := match fault with
    | some (cause, addr) => writeRecord s c.aspace (commandRecord 4 c.core c ⟨cause, BitVec.ofNat 64 addr, searchProgress s d⟩)
    | none => s
  let s2 := searchSignal s1 c fault.isSome
  let s3 := { s2 with
    droves := s2.droves.filter fun x => !x.same d, kernels := s2.kernels.map fun k => { k with images := k.images.map drop } }
  returnPages (mapCores s3 fun k => popMarkers (drop k))

/-! The drove (R348, R349, R350, R355). -/

/-- The bytes of a result (R355). -/
def seekResult (d : Drove) (fault : Option (Cause × Nat)) : List Byte :=
  let entries := (List.range (seekK d.cmd.body)).flatMap fun e =>
    match (if fault.isSome then none else d.r[e]?) with
    | some n => leBytes 4 n.dist.toNat ++ leBytes 4 0 ++ leBytes 8 n.vid.toNat
    | none => leBytes 4 posInf ++ leBytes 4 0 ++ leBytes 8 0xFFFFFFFFFFFF
  let status := match fault with
    | some (c, _) => 2 + c.code * 256
    | none => 1
  entries ++ ([status, d.hop, d.pages, d.requeue, d.nodes, d.abandoned, d.chunks, d.logScored].flatMap fun n =>
    leBytes 4 (min n 0xFFFFFFFF))

/-- Address of a SEEK's result. -/
def resultVa (c : Command) : Nat := (if c.dst.valid then c.dst.vbase else 0) + seekRoff c.body

/-- Physical address of a SEEK's result. -/
def resultPa (c : Command) : Nat := c.dst.base + seekRoff c.body

/-- A drove ends: its result is written in one pass (R355). -/
def seekEnded (s : State) (d : Drove) (fault : Option (Cause × Nat)) : State :=
  let c := d.cmd
  let s1 := touchLines (quesarPut s (resultPa c) (seekResult d fault)) c.aspace c.die (resultVa c) (resultPa c) (seekBytes c.body)
  searchEnded (setDirty s1 c.aspace (resultVa c)) d fault

/-- A RED that waits at its home holds a SEEK's result bytes (R236). -/
def resultHeld (s : State) (c : Command) : Bool := redHolds s (resultPa c) (seekBytes c.body)

/-- A SEEK's result goes to another module, to which its die has no path: its end waits for one (R385, R386). -/
def resultAway (s : State) (c : Command) : Bool := !pathFrom s c.die (resultPa c)

/-- The pages of a visit requested (R348): each once. -/
def startVisit (d : Drove) (set : List Word) : Drove :=
  let pages := (set.map refFp).eraseDups
  { d with
    visited := d.visited ++ set, wanted := set, awaited := pages.map fun p => (p, 0), pages := d.pages + pages.length
    kept := [], thrs := [listThr (seekK d.cmd.body) d.r] }

/-- The next node to expand, and the frontier with it marked. -/
def expandNext : List DNode → Option (DNode × List DNode)
  | [] => none
  | n :: r => if n.expanded then (expandNext r).map fun p => (p.1, n :: p.2) else some (n, { n with expanded := true } :: r)

/-- The drove goes on until it awaits pages again or its hops are done (R348): true when it is done. -/
def hopOn (s : State) (ix : IndexD) : Nat → Drove → Except Cause (Drove × Bool)
  | 0, d => .ok (d, true)
  | fuel + 1, d =>
    if seekHops d.cmd.body ≤ d.hop then .ok (d, true)
    else match expandNext d.f with
      | none => .ok (d, true)
      | some (u, f) =>
        let d1 := { d with f := f, hop := d.hop + 1, thrs := [listThr (seekK d.cmd.body) d.r] }
        match nodeAt s ix u.ref with
        | .error e => .error e
        | .ok v =>
          let set := (v.nbrs.filter fun r => !d.visited.contains r).eraseDups
          if set = [] then hopOn s ix fuel d1 else .ok (startVisit d1 set, false)

/-- The query of a SEEK, decoded. -/
def seekQuery (d : Drove) (ix : IndexD) : Option (List Val) := decodeBody ix.vfmt ix.nc d.query

/-- Bytes of a SEEK's query. -/
def queryBytes (b : BitVec 512) : Nat := bodyBytes (seekFmt b) ((seekDim b + 15) / 16)

/-- The entries of the snapshot that read back. -/
def logRecs (ix : IndexD) (d : Drove) : List VecRec :=
  d.log.filterMap fun b =>
    match readVec ix false b with
    | .ok v => some v
    | .error _ => none

/-- The snapshot holds an entry for a VID. -/
def inLog (ix : IndexD) (d : Drove) (vid : BitVec 48) : Bool := (logRecs ix d).any fun v => v.vid == vid

/-- The live inserts of the snapshot, in log order. -/
def liveInserts (ix : IndexD) (d : Drove) : List VecRec :=
  let recs := logRecs ix d
  (recs.zipIdx.filter fun (v, i) => v.aop != 1 && !(recs.drop (i + 1)).any fun w => w.vid == v.vid).map Prod.fst

/-- The threshold that a log insert is scored against: the list's own, or, with REPRO.ON = 1, the one that the drove read at the start of its last
hop, since it reads none after (R331; log entry 129, DEDUCED). -/
def logThr (d : Drove) : BitVec 32 :=
  if d.cmd.repro then d.thrs.getLast?.getD (BitVec.ofNat 32 posInf) else listThr (seekK d.cmd.body) d.r

/-- The log scan (R348). -/
def scanLog (ix : IndexD) (q : List Val) (d : Drove) : Drove :=
  let b := d.cmd.body
  (liveInserts ix d).foldl (fun d v =>
    let (res, n) := scoreVec (seekDist b) ix.nc q (queryBound q) v (logThr d).toNat
    let d1 := { d with logScored := d.logScored + 1, chunks := d.chunks + n }
    match res with
    | none => { d1 with abandoned := d1.abandoned + 1 }
    | some x =>
      if (FFmt.f32.val x).isNan then d1
      else
        let (r, f) := offerNode (seekK b) (seekCand b) (d1.r, d1.f) ⟨BitVec.ofNat 32 x, v.vid, emptyRef, true, true⟩
        { d1 with r := r, f := f }) d

/-- A drove that awaits no page goes on, and ends when its hops and its log scan are done. -/
def seekOn (s : State) (ix : IndexD) (q : List Val) (d : Drove) : State :=
  match hopOn s ix (seekHops d.cmd.body + 1) d with
  | .error e => seekEnded s d (some (e, 0))
  | .ok (d1, false) => putDrove s d1
  | .ok (d1, true) =>
    match logBad s ix d.head ((d.tail + 2 ^ 32 - d.head) % 2 ^ 32) with
    | some a => seekEnded s d1 (some (.storageError, a))
    | none =>
      if d.log.any fun b => match readVec ix false b with
          | .ok _ => false
          | .error _ => true then seekEnded s d1 (some (.formatConflict, 0))
      else seekEnded s (scanLog ix q d1) none

/-- Why a SEEK's query cannot be used at its start: a cause and an address. -/
def queryBad (s : State) (d : Drove) (ix : IndexD) : Option (Cause × Nat) :=
  let c := d.cmd
  let b := c.body
  if seekFmt b ≠ ix.vfmt ∨ seekDim b ≠ ix.dim then some (.indexState, 0)
  else match lineFault s c.src (seekQoff b) (bodyBytes ix.vfmt ix.nc) with
    | some f => some (.storageError, f.2)
    | none => if (seekQuery d ix).isNone then some (.formatConflict, c.src.vbase + seekQoff b) else none

/-- A SEEK from its start (R348, R355, R356). -/
def seekStarted (s : State) (c : Command) : State :=
  let s1 := searchStarted s c
  let d := { Drove.begin s c with query := rdHome s1 (c.src.base + seekQoff c.body) (queryBytes c.body) }
  let s2 := touchLines (indexSeen s1 d.index) c.aspace c.die (c.src.vbase + seekQoff c.body) (c.src.base + seekQoff c.body)
    (queryBytes c.body)
  if notThere s1 c.dst then searchEnded s1 d (some (.notResident, resultVa c))
  else match recordByte s1 (resultPa c) (seekBytes c.body) with
    | some i => searchEnded s1 d (some (.permission, resultVa c + i))
    | none =>
      if notThere s1 c.src then seekEnded s1 d (some (.notResident, (if c.src.valid then c.src.vbase else 0) + seekQoff c.body))
      else match readIndex s2 c.aspace d.index with
        | .error e => seekEnded s2 d (some e)
        | .ok ix =>
          match queryBad s2 d ix with
          | some f => seekEnded s2 d (some f)
          | none =>
            let n := (ix.tail + 2 ^ 32 - ix.head) % 2 ^ 32
            let d1 := { d with
              entry := ix.entry, head := ix.head, tail := ix.tail
              log := (List.range n).map fun i => rdHome s2 (logAddr ix (ix.head + i)) ix.lsz }
            let s3 := logSeen s2 ix ix.head n
            if ix.entry = emptyRef then seekOn s3 ix ((seekQuery d ix).getD []) d1
            else putDrove s3 (startVisit d1 [ix.entry])

/-- SEEK_START (R348, R351): its handles are as the start finds them (R204), and it waits for a RED that holds its query or its result
(R236). It also ends a search entry of a changed image that fails its checks (R106). -/
def execSeekStart (s : State) : Out :=
  match searchHead s 1 with
  | none => endsBad 4 (fun _ _ => 0) s (.next s)
  | some x =>
    let c := settleCaps s x
    if redHolds s (c.src.base + seekQoff c.body) (queryBytes c.body) || resultHeld s c then .next s else .next (seekStarted s c)

/-- One node of an arrived page scored (R348): against a threshold read at its start, any that the drove has held since then, or the
hop's own where REPRO.ON is 1 (log entry 13). -/
def scoreWanted (s : State) (ix : IndexD) (q : List Val) (fp : Nat) (d : Drove) (r : Word) : Except Cause (Drove × Option DNode) :=
  match nodeAt s ix r with
  | .error e => .error e
  | .ok v =>
    let b := d.cmd.body
    let pick := if d.cmd.repro then d.thrs.length - 1 else Config.freeThreshold s.fresh (256 * fp + refSlot r) % d.thrs.length
    let (res, n) := scoreVec (seekDist b) ix.nc q (queryBound q) v (d.thrs.getD pick (BitVec.ofNat 32 posInf)).toNat
    let d1 := { d with nodes := d.nodes + 1, chunks := d.chunks + n }
    match res with
    | none => .ok ({ d1 with abandoned := d1.abandoned + 1 }, none)
    | some x =>
      if (FFmt.f32.val x).isNan then .ok (d1, none)
      else .ok (d1, some ⟨BitVec.ofNat 32 x, v.vid, r, !v.del && !inLog ix d v.vid, false⟩)

/-- The wanted nodes of a page scored: the drove with its counts, and the survivors. -/
def scorePage (s : State) (ix : IndexD) (q : List Val) (fp : Nat) : List Word → Drove → Except Cause (Drove × List DNode)
  | [], d => .ok (d, [])
  | r :: rs, d =>
    match scoreWanted s ix q fp d r with
    | .error e => .error e
    | .ok (d1, n) =>
      match scorePage s ix q fp rs d1 with
      | .error e => .error e
      | .ok (d2, ns) => .ok (d2, n.toList ++ ns)

/-- A list in an order that a free choice gives. -/
def freeOrder {α : Type} (pick : Nat → Nat) : Nat → List α → List α
  | 0, l => l
  | fuel + 1, l =>
    match l[pick fuel % l.length]? with
    | none => l
    | some x => x :: freeOrder pick fuel (l.eraseIdx (pick fuel % l.length))

/-- Survivors offered in turn; the thresholds that this makes are remembered. -/
def offerAll (d : Drove) (ns : List DNode) : Drove :=
  let b := d.cmd.body
  ns.foldl (fun d n =>
    let (r, f) := offerNode (seekK b) (seekCand b) (d.r, d.f) n
    { d with r := r, f := f, thrs := listThr (seekK b) r :: d.thrs }) d

/-- A page of a visit has arrived (R348). -/
def pageArrived (s : State) (d : Drove) (fp : Nat) : State :=
  match readIndex s d.cmd.aspace d.index with
  | .error e => seekEnded s d (some e)
  | .ok ix =>
    let q := (seekQuery d ix).getD []
    match scorePage s ix q fp (d.wanted.filter fun r => refFp r = fp) d with
    | .error e => seekEnded s d (some (e, 0))
    | .ok (d1, ns) =>
      let d2 := { d1 with awaited := d1.awaited.filter fun p => !decide (p.1 = fp) }
      let d3 :=
        if d.cmd.repro then { d2 with kept := d2.kept ++ ns } else offerAll d2 (freeOrder (Config.freeMerge s.fresh) ns.length ns)
      if d3.awaited ≠ [] then putDrove s d3
      else
        let d4 := if d.cmd.repro then offerAll d3 (d3.kept.foldl (fun l n => insertKept n l) []) else d3
        seekOn s ix q d4

/-- DROVE_PAGE_ARRIVAL (R348). -/
def execDrovePageArrival (k fp : Nat) (s : State) : Out :=
  match s.droves[k]? with
  | none => .next s
  | some d =>
    if bodyKind d.cmd.body = 1 ∧ (d.awaited.any fun p => p.1 = fp) = true ∧ (resultHeld s d.cmd || resultAway s d.cmd) = false then
      .next (pageArrived s d fp)
    else .next s

/-! Passage KV (R359, R360). -/

/-- The passage that a KFETCH names. -/
def kfetchPass (b : BitVec 512) : Nat := bodyNat b 32 32
/-- SEQ. -/
def kfetchSeq (b : BitVec 512) : Nat := bodyNat b 80 32
/-- LBLK. -/
def kfetchLblk (b : BitVec 512) : Nat := bodyNat b 128 16
/-- NBLK. -/
def kfetchNblk (b : BitVec 512) : Nat := bodyNat b 144 16
/-- FIRST of a passage. -/
def passFirst (s : State) (ix : IndexD) (p : Nat) : Nat := rdHomeNat s (flashAddr ix.pdir + 16 * p) 8
/-- Flash pages of a block. -/
def blockPages (ix : IndexD) : Nat := (256 * ix.blkb + 16383) / 16384
/-- The first flash page of a passage's block. -/
def blockPage (s : State) (ix : IndexD) (p b : Nat) : Nat := passFirst s ix p + b * blockPages ix

/-- The line of a tag's directory entry fails (R416). -/
def dirBad (s : State) (tag : Nat) : Option (Cause × Nat) := (badAt s (dirAddr s tag) 16).map fun a => (.storageError, a)

/-- The checks of a KFETCH before any change. Blocks that would lie past the last flash page are index state: the manual gives them no cause (log
entry 121, DESIGN CHOICE). -/
def kfetchBad (s : State) (c : Command) (ix : IndexD) : Option (Cause × Nat) :=
  let b := c.body
  let p := kfetchPass b
  let nblks := rdHomeNat s (flashAddr ix.pdir + 16 * p + 8) 4
  if ix.npass ≤ p then some (.indexState, 0)
  else match dirValid s c.aspace (kfetchSeq b) with
    | .error .sequenceRange => some (.sequenceRange, 0)
    | .error e => (dirBad s (kfetchSeq b)).or (some (e, 0))
    | .ok e =>
      if let some f := dirBad s (kfetchSeq b) then some f
      else if eBlkb e ≠ ix.blkb then some (.sequenceState, 0)
      else if nblks ≤ kfetchNblk b then some (.commandLimit, 0)
      else if 2 ^ 30 < passFirst s ix p + (kfetchNblk b + 1) * blockPages ix then some (.indexState, 0)
      else none

/-- KFETCH_START (R360). -/
def execKfetchStart (s : State) : Out :=
  match searchHead s 2 with
  | none => .next s
  | some c =>
    let d := Drove.begin s c
    let s1 := indexSeen (searchStarted s c) d.index
    match readIndex s1 c.aspace d.index with
    | .error e => .next (searchEnded s1 d (some e))
    | .ok ix =>
      match kfetchBad s1 c ix with
      | some e => .next (searchEnded s1 d (some e))
      | none => .next s1

/-- Why a block cannot be linked, once it has been read (R360). -/
def linkBad (s : State) (c : Command) (e : BitVec 128) (l : Nat) : Option Cause :=
  let t := tableEntry s (eRoot e) l
  if inSpan e l 1 then some .windowState
  else if t.testBit 63 then some .sequenceState
  else if !poolRoom s (changeNeeds s (eRoot e) l true) then some .tablePoolEmpty
  else if !eValid e || eAspace e != c.aspace then some .sequenceState
  else none

/-- One block taken from the pool, read and linked (R360). -/
def linkBlock (s : State) (d : Drove) (ix : IndexD) : State :=
  let c := d.cmd
  let b := c.body
  let fp := blockPage s ix (kfetchPass b) d.next
  let B := ix.kvpool
  let failed := d.awaited.any fun p => decide (fp ≤ p.1) && decide (p.1 < fp + blockPages ix) && decide (8 < p.2)
  if B = 0 then searchEnded s d (some (.poolEmpty, 0))
  else if failed then searchEnded s d (some (.storageError, 0))
  else if let some a := badAt s B 8 then searchEnded s d (some (.storageError, a))
  else
    let e := rdDir s (kfetchSeq b)
    let l := kfetchLblk b + d.next
    match linkBad s c e l with
    | some f => searchEnded s d (some (f, 0))
    | none =>
      let s1 := putIndex s ix 0x40 8 (rdHomeNat s B 8)
      let s2 := seenLines (copyHome s1 (flashAddr fp) B (256 * ix.blkb)) B (256 * ix.blkb)
      let s3 := changeEntry s2 (eRoot e) l (tableEntryOf false B)
      let d1 := { d with next := d.next + 1 }
      if kfetchNblk b < d1.next then searchEnded s3 d1 none else putDrove s3 d1

/-- KFETCH_BLOCK_ARRIVAL (R360). -/
def execKfetchBlockArrival (k : Nat) (s : State) : Out :=
  match s.droves[k]? with
  | none => .next s
  | some d =>
    if bodyKind d.cmd.body ≠ 2 then .next s
    else match readIndex s d.cmd.aspace d.index with
      | .error e => .next (searchEnded s d (some e))
      | .ok ix => if redHolds s ix.kvpool (256 * ix.blkb) then .next s else .next (linkBlock s d ix)

/-- A flash page of a KFETCH's blocks that are still to be linked. -/
def kfetchPage (s : State) (d : Drove) (fp : Nat) : Bool :=
  match readIndex s d.cmd.aspace d.index with
  | .error _ => false
  | .ok ix =>
    let p := kfetchPass d.cmd.body
    decide (blockPage s ix p d.next ≤ fp) && decide (fp < blockPage s ix p (kfetchNblk d.cmd.body + 1))

/-- PAGE_READ_REQUEUE (R350): a decode of an awaited page failed. After the eighth retry the drove ends faulted. -/
def execPageReadRequeue (k fp : Nat) (s : State) : Out :=
  match s.droves[k]? with
  | none => .next s
  | some d =>
    let n := (assocGet d.awaited fp).getD 0
    let again : Drove := { d with awaited := assocSet d.awaited fp (n + 1), requeue := d.requeue + 1 }
    if bodyKind d.cmd.body = 1 then
      if (assocGet d.awaited fp).isNone || (decide (8 ≤ n) && (resultHeld s d.cmd || resultAway s d.cmd)) then .next s
      else if 8 ≤ n then .next (seekEnded s d (some (.storageError, 0)))
      else .next (putDrove s again)
    else if bodyKind d.cmd.body = 2 ∧ kfetchPage s d fp = true ∧ n ≤ 8 then .next (putDrove s again)
    else .next s

/-! The append log (R357). -/

/-- The exact sum of a list. -/
def sumV (l : List Val) : Val := l.foldl plusV (.fin false 0 0)

/-- rne(sqrt v, f32) of a sum of squares. -/
def sqrtBits (v : Val) : Nat :=
  match v with
  | .fin _ m e =>
    if m = 0 then 0
    else
      let (m', e') := if e % 2 = 0 then (m, e) else (2 * m, e - 1)
      let y := m' * 2 ^ 64
      let r := isqrt y
      (roundRat .f32 .rne false (2 * r + (if r * r = y then 0 else 1)) 2 (e' / 2 - 32)).1
  | v => bits32 .rne v

/-- NORM of a vector. -/
def normOf (x : List Val) : Nat := sqrtBits (sumV (x.map fun v => (mulV v v).1))

/-- The headers of a vector (R346). -/
def headersOf (nc : Nat) (x : List Val) : List Nat :=
  (List.range (nc - 1)).map fun j => bits32 .rup (sumV ((x.drop (16 * (j + 1))).map absV))

/-- The bytes of an entry: those of a delete end after its first eight (R357). -/
def entryBytes (ix : IndexD) (b : BitVec 512) (body : List Byte) (x : List Val) : List Byte :=
  let hdrs := headersOf ix.nc x
  let first := leBytes 8 (bodyNat b 80 48 + sappendOp b * 2 ^ 48)
  if sappendOp b = 1 then first
  else first ++ leBytes 4 (normOf x) ++ leBytes 4 0 ++ (hdrs.flatMap fun h => leBytes 4 h) ++
    List.replicate (ix.hdrBytes - 4 * hdrs.length) 0 ++ body

/-- Why a SAPPEND's body cannot be used. -/
def sappendBad (s : State) (c : Command) (ix : IndexD) : Option (Cause × Nat) :=
  let off := seekQoff c.body
  let n := bodyBytes ix.vfmt ix.nc
  let va := (if c.src.valid then c.src.vbase else 0) + off
  if sappendOp c.body = 1 then none
  else if notThere s c.src then some (.notResident, va)
  else if c.src.pageSize < off + n then some (.handleRange, c.src.vbase + max off c.src.pageSize)
  else match lineFault s c.src off n with
    | some f => some (.storageError, f.2)
    | none => if (decodeBody ix.vfmt ix.nc (rdHome s (c.src.base + off) n)).isNone then some (.formatConflict, va) else none

/-- A SAPPEND's body reads its page's lines (R257, R373). -/
def bodyTouched (s : State) (c : Command) (ix : IndexD) : State :=
  if sappendOp c.body = 1 then s
  else
    let off := seekQoff c.body
    touchLines s c.aspace c.die (c.src.vbase + off) (c.src.base + off) (bodyBytes ix.vfmt ix.nc)

/-- A SAPPEND's whole effect: the machine, and its fault. -/
def sappendDo (s0 : State) (c : Command) : State × Option (Cause × Nat) :=
  let s := indexSeen s0 (searchIndex c.body)
  match readIndex s c.aspace (searchIndex c.body) with
  | .error e => (s, some e)
  | .ok ix =>
    if (ix.tail + 2 ^ 32 - ix.head) % 2 ^ 32 = ix.logCap then (s, some (.logFull, 0))
    else match sappendBad s c ix with
      | some f => (s, some f)
      | none =>
        let body := if sappendOp c.body = 1 then [] else rdHome s (c.src.base + seekQoff c.body) (bodyBytes ix.vfmt ix.nc)
        let x := if sappendOp c.body = 1 then [] else (decodeBody ix.vfmt ix.nc body).getD []
        let s1 := quesarWrite (bodyTouched s c ix) (logAddr ix ix.tail) (entryBytes ix c.body body x)
        (putIndex s1 ix 0x38 8 ((ix.tail + 1) % 2 ^ 32), none)

/-- A RED holds the bytes that a SAPPEND reads (R236). -/
def bodyHeld (s : State) (c : Command) : Bool :=
  match readIndex s c.aspace (searchIndex c.body) with
  | .ok ix => sappendOp c.body != 1 && redHolds s (c.src.base + seekQoff c.body) (bodyBytes ix.vfmt ix.nc)
  | .error _ => false

/-- SAPPEND_START (R357): the entry and the new LOGTAIL are one step at the home, and the command ends. -/
def execSappendStart (s : State) : Out :=
  match searchHead s 3 with
  | none => .next s
  | some x =>
    let c := settleCaps s x
    if bodyHeld s c then .next s
    else
      let (t, f) := sappendDo (searchStarted s c) c
      .next (searchEnded t (Drove.begin s c) f)

/-! The merge (R358). -/

/-- A node of the graph being built: its place in the old pages' numbering, where the pages that a merge adds are numbered from 2^30,
its stored form, and whether it has changed. -/
structure MNode where
  ref : Word
  v : VecRec
  body : List Byte
  changed : Bool
deriving DecidableEq, Repr

/-- The nodes that the entry node reaches. -/
def loadGraph (s : State) (ix : IndexD) : Nat → List Word → List MNode → Except Cause (List MNode)
  | 0, _, g => .ok g
  | _, [], g => .ok g
  | fuel + 1, r :: todo, g =>
    if g.any fun n => n.ref = r then loadGraph s ix fuel todo g
    else match nodeAt s ix r with
      | .error e => .error e
      | .ok v =>
        let body := rdHome s (flashAddr (refFp r) + refSlot r * ix.nsz + 16) (ix.nbrAt - 16)
        loadGraph s ix fuel (v.nbrs ++ todo) (g ++ [⟨r, v, body, false⟩])

/-- The whole distance of two stored vectors. -/
def fullDist (ix : IndexD) (dist : Nat) (q : List Val) (v : VecRec) : BitVec 32 :=
  let acc := (List.range ix.nc).foldl (fun m j => (fAdd .f32 .rne m (chunkSum dist q v.x j)).1) 0
  BitVec.ofNat 32 (finalDist dist acc v.norm)

/-- Nodes in the order in which a visit offers them (R348, R406): ascending under REPRO.ON = 1, and otherwise page by page as the pages
complete, in an order that is free (log entry 6). -/
def visitOrder (order : Option (Nat → Nat)) (ns : List DNode) : List DNode :=
  match order with
  | none => ns.foldl (fun l n => insertKept n l) []
  | some pick =>
    let pages := (ns.map fun n => refFp n.ref).eraseDups
    (freeOrder pick pages.length pages).flatMap fun p =>
      let own := ns.filter fun n => refFp n.ref = p
      freeOrder (fun i => pick (1024 + i)) own.length own

/-- The nodes of a visit over a graph, scored and offered. -/
def visitGraph (ix : IndexD) (dist : Nat) (order : Option (Nat → Nat)) (q : List Val) (g : List MNode) (rf : List DNode × List DNode)
    (set : List Word) : List DNode × List DNode :=
  let ns := (g.filter fun n => set.contains n.ref).map fun n =>
    (⟨fullDist ix dist q n.v, n.v.vid, n.ref, !n.v.del, false⟩ : DNode)
  let ok := ns.filter fun n => !(FFmt.f32.val n.dist.toNat).isNan
  (visitOrder order ok).foldl (offerNode ix.deg 255) rf

/-- The hops of a drove over a graph. -/
def hopsGraph (ix : IndexD) (dist : Nat) (order : Nat → Option (Nat → Nat)) (q : List Val) (g : List MNode) :
    Nat → List DNode × List DNode → List Word → List DNode
  | 0, rf, _ => rf.1
  | fuel + 1, rf, seen =>
    match expandNext rf.2 with
    | none => rf.1
    | some (u, f) =>
      let nbrs := match g.find? fun n => n.ref = u.ref with
        | some n => n.v.nbrs.filter fun r => !seen.contains r
        | none => []
      hopsGraph ix dist order q g fuel (visitGraph ix dist (order fuel) q g (rf.1, f) nbrs) (seen ++ nbrs)

/-- R of a drove with CAND 255, HOPS 255 and k = DEGMAX over the graph as built so far. -/
def searchGraph (ix : IndexD) (dist : Nat) (order : Nat → Option (Nat → Nat)) (q : List Val) (g : List MNode) (entry : Word) :
    List DNode :=
  hopsGraph ix dist order q g 255 (visitGraph ix dist (order 255) q g ([], []) [entry]) [entry]

/-- A free slot for a new node: which one is a free choice (log entry 6). -/
def freeSlotOf (s : State) (ix : IndexD) (g : List MNode) (step : Nat) : Word :=
  let pages := (g.map fun n => refFp n.ref).eraseDups
  let new := 2 ^ 30 + (pages.filter fun p => decide (2 ^ 30 ≤ p)).length
  let open_ := (pages ++ [new]).flatMap fun p =>
    ((List.range ix.slots).map fun i => mkRef p i).filter fun r => !g.any fun n => n.ref == r
  open_.getD (Config.freeMerge s.fresh (4 + 2 * step) % open_.length) emptyRef

/-- A link back from a node to a new one; a full node gives up its farthest neighbour. -/
def linkBack (ix : IndexD) (dist : Nat) (g : List MNode) (new : Word) (m : MNode) : MNode :=
  let far := m.v.nbrs.filterMap fun r => (g.find? fun n => n.ref = r).map fun n =>
    (⟨fullDist ix dist m.v.x n.v, n.v.vid, r, true, false⟩ : DNode)
  let nbrs :=
    if m.v.nbrs.length < ix.deg then m.v.nbrs ++ [new]
    else match (far.foldl (fun l n => insertNode n l) []).getLast? with
      | some f => m.v.nbrs.map fun r => if r = f.ref then new else r
      | none => m.v.nbrs
  { m with v := { m.v with nbrs := nbrs }, changed := true }

/-- DEL set in the node of a VID. -/
def mergeDelete (g : List MNode) (vid : BitVec 48) : List MNode :=
  g.map fun n => if n.v.vid = vid ∧ n.v.del = false then { n with v := { n.v with del := true }, changed := true } else n

/-- A new node placed and linked. -/
def mergeInsert (s : State) (ix : IndexD) (repro : Bool) (dist step : Nat) (g : List MNode) (entry : Word) (v : VecRec)
    (body : List Byte) : List MNode :=
  let ref := freeSlotOf s ix g step
  let order (hop : Nat) : Option (Nat → Nat) :=
    if repro then none else some fun i => Config.freeMerge s.fresh (2 ^ 20 * (256 * step + hop + 1) + i)
  let near := if g = [] then [] else (searchGraph ix dist order v.x g entry).map fun n => n.ref
  let back := g.map fun m => if near.contains m.ref then linkBack ix dist g ref m else m
  back ++ [⟨ref, { v with del := false, aop := 0, nbrs := near }, body, true⟩]

/-- The entry node: the graph's own, or the first that an empty graph received. -/
def mergeEntry (entry : Word) (g : List MNode) : Word :=
  if entry = emptyRef then (g.head?.map fun n => n.ref).getD emptyRef else entry

/-- The entries of the log folded in, in order. Which of the three distances a merge uses the manual does not say: a free choice (log
entry 6). -/
def mergeLog (s : State) (ix : IndexD) (repro : Bool) (entry : Word) (g : List MNode) (log : List (VecRec × List Byte)) :
    List MNode :=
  let dist := Config.freeMerge s.fresh 3 % 3
  log.zipIdx.foldl (fun g ((v, body), i) =>
    let g1 := if v.aop = 0 then g else mergeDelete g v.vid
    if v.aop = 1 then g1 else mergeInsert s ix repro dist i g1 (mergeEntry entry g1) v body) g

/-- The pages that change: those of changed nodes, and those that refer to a page that moves. -/
def changedPages (g : List MNode) : Nat → List Nat → List Nat
  | 0, ps => ps
  | fuel + 1, ps =>
    let more := (g.filter fun n => !ps.contains (refFp n.ref) && n.v.nbrs.any fun r => ps.contains (refFp r)).map fun n => refFp n.ref
    if more = [] then ps else changedPages g fuel (ps ++ more.eraseDups)

/-- Up to `n` pages from the index's free list: the pages, and the list's new head (log entry 17). -/
def takeFlash (s : State) : Nat → Nat → List Nat × Nat
  | 0, head => ([], head)
  | n + 1, head =>
    if head = 0 ∨ 2 ^ 30 ≤ head then ([], head)
    else
      let p := takeFlash s n (rdHomeNat s (flashAddr head) 8)
      (head :: p.1, p.2)

/-- A reference in the new pages' numbering. -/
def moveRef (places : List (Nat × Nat)) (r : Word) : Word :=
  match assocGet places (refFp r) with
  | some q => mkRef q (refSlot r)
  | none => r

/-- The bytes of a node in the new graph (R346). -/
def mnodeBytes (ix : IndexD) (places : List (Nat × Nat)) (n : MNode) : List Byte :=
  leBytes 8 (n.v.vid.toNat + (if n.v.del then 2 ^ 63 else 0)) ++ leBytes 4 n.v.norm ++ leBytes 1 n.v.nbrs.length ++ leBytes 3 0 ++
    n.body ++ (n.v.nbrs.flatMap fun r => leBytes 8 (moveRef places r).toNat) ++ List.replicate (8 * (ix.deg - n.v.nbrs.length)) 255 ++
    List.replicate (ix.nsz - ix.nbrAt - 8 * ix.deg) 0

/-- A changed page written to its new place. -/
def writePage (ix : IndexD) (places : List (Nat × Nat)) (g : List MNode) (s : State) (p : Nat × Nat) : State :=
  let s1 := if p.1 < 2 ^ 30 then copyHome s (flashAddr p.1) (flashAddr p.2) 0x4000 else zeroHome s (flashAddr p.2) 0x4000
  (g.filter fun n => refFp n.ref = p.1).foldl (fun t n =>
    quesarWrite t (flashAddr p.2 + refSlot n.ref * ix.nsz) (mnodeBytes ix places n)) s1

/-- A merge that ends faulted swaps nothing, and the pages it has written return to the index's list (R358). -/
def mergeUndone (s : State) (ix : IndexD) (taken : List Nat) (head : Nat) : State :=
  taken.reverse.foldl (fun t fp => pushFlash t ix fp) (putIndex s ix 0x48 8 head)

/-- The changed pages of a merge written to pages of the free list, and the swap (R358). How many page writes succeed before one is
uncorrectable is a free choice (log entry 95). -/
def mergeWrite (s : State) (d : Drove) (ix : IndexD) (g : List MNode) (pages : List Nat) : State × Option (Cause × Nat) :=
  let (taken, head) := takeFlash s pages.length ix.freepg
  let good := Config.freeMerge s.fresh 5
  let places := pages.zip taken
  if good < taken.length then
    let (t, h) := takeFlash s good ix.freepg
    (mergeUndone ((places.take good).foldl (writePage ix places g) s) ix t h, some (.storageError, 0))
  else
    let s1 := places.foldl (writePage ix places g) s
    if taken.length < pages.length then (mergeUndone s1 ix taken head, some (.indexState, 0))
    else
      let s2 := putIndex (putIndex (putIndex s1 ix 0x48 8 head) ix 8 8 (moveRef places (mergeEntry ix.entry g)).toNat) ix 0x30 8 d.tail
      let old := (pages.filter fun p => decide (p < 2 ^ 30)).map fun p => (ix.num, p, s2.order)
      ({ s2 with swapped := s2.swapped ++ old, order := s2.order + 1 }, none)

/-- The merge up to its swap (R358): the machine, and its fault. -/
def mergeDo (s0 : State) (d : Drove) (ix : IndexD) : State × Option (Cause × Nat) :=
  let n := (d.tail + 2 ^ 32 - d.head) % 2 ^ 32
  let s := logSeen s0 ix d.head n
  let addrs := (List.range n).map fun i => logAddr ix (d.head + i)
  if let some a := logBad s ix d.head n then (s, some (.storageError, a))
  else match addrs.mapM fun a => (readVec ix false (rdHome s a ix.lsz)).map fun v => (v, rdHome s (a + 16) (ix.nbrAt - 16)) with
    | .error e => (s, some (e, 0))
    | .ok log =>
      match loadGraph s ix (64 * s.mem.length + 2) (if ix.entry = emptyRef then [] else [ix.entry]) [] with
      | .error e => (s, some (e, 0))
      | .ok g0 =>
        let g := mergeLog s ix d.cmd.repro ix.entry g0 log
        mergeWrite s d ix g (changedPages g g.length ((g.filter fun n => n.changed).map fun n => refFp n.ref).eraseDups)

/-- Another merge of the index is under way. -/
def mergeRuns (s : State) (d : Drove) : Bool :=
  s.droves.any fun x => decide (bodyKind x.cmd.body = 4) && decide (x.index = d.index) && !x.waits && !x.same d

/-- A merge begins, or waits for another (R358). -/
def mergeBegin (s0 : State) (d : Drove) : State :=
  let s := indexSeen s0 d.index
  match readIndex s d.cmd.aspace d.index with
  | .error e => searchEnded s d (some e)
  | .ok ix =>
    if mergeRuns s d then putDrove s { d with waits := true }
    else putMerging (putDrove s { d with waits := false, head := ix.head, tail := ix.tail }) ix true

/-- SMERGE_START (R358). -/
def execSmergeStart (s : State) : Out :=
  match searchHead s 4 with
  | none => .next s
  | some c => .next (mergeBegin (searchStarted s c) (Drove.begin s c))

/-- A merge of an index, waiting for its turn or under way. -/
def Drove.merges (d : Drove) (index : Nat) (waits : Bool) : Bool :=
  decide (bodyKind d.cmd.body = 4) && decide (d.index = index) && d.waits == waits

/-- The merge that waited longest for an index begins; where it ends at once, the next. -/
def wakeMerges (index : Nat) : Nat → State → State
  | 0, s => s
  | fuel + 1, s =>
    match s.droves.find? fun x => x.merges index true with
    | none => s
    | some d =>
      let t := mergeBegin s d
      if t.droves.any fun x => x.merges index false then t else wakeMerges index fuel t

/-- The same with fuel for every search command. -/
def wakeMerge (s : State) (index : Nat) : State := wakeMerges index (s.droves.length + 1) s

/-- SMERGE_SWAP (R358): every changed page written, and the swap in one step. -/
def execSmergeSwap (k : Nat) (s : State) : Out :=
  match s.droves[k]? with
  | none => .next s
  | some d =>
    if bodyKind d.cmd.body ≠ 4 ∨ d.waits = true then .next s
    else match readIndex s d.cmd.aspace d.index with
      | .error e => .next (wakeMerge (searchEnded s d (some e)) d.index)
      | .ok ix =>
        let (t, f) := mergeDo s d ix
        .next (wakeMerge (searchEnded (putMerging t ix false) d f) d.index)

end Sys2Proof.Machine
end

