-- ==== Sys2Proof/Machine/Image.lean ====
section
/-! DEFINITION. The save image: the bytes that R102 and R103 lay out, written to a frame and read back (R102 to R106, R200, R267,
R278). What the layout does not hold (the owner and the footprint of a queued command, the hidden parts of a feed) is kept with
the group's Steward entry. -/

namespace Sys2Proof.Machine

/-- Bytes of an image. -/
def imageSize : Nat := 0xE8000

/-! Records. -/

/-- A handle's 128 bits (R247). -/
def Handle.image (h : Handle) : BitVec 128 :=
  h.vpage ++ h.size ++ h.tier ++ (0 : BitVec 1) ++ BitVec.ofBool h.w ++ BitVec.ofBool h.r ++ BitVec.ofBool h.res ++ (0 : BitVec 1) ++
    BitVec.ofBool h.valid ++ (0 : BitVec 12) ++ h.frame ++ (0 : BitVec 12)

/-- A handle read back from its bits: never valid (R105). -/
def Handle.ofImage (x : BitVec 128) : Handle :=
  { vpage := x.extractLsb' 76 52, size := x.extractLsb' 72 4, tier := x.extractLsb' 70 2, w := x.getLsbD 68, r := x.getLsbD 67
    res := x.getLsbD 66, valid := false, frame := x.extractLsb' 12 40 }

/-- The monitor's first 24 bytes (R316). -/
def Monitor.image (m : Monitor) : List Byte :=
  let flags : BitVec 32 := (0 : BitVec 11) ++ m.km1 ++ m.list ++ m.d ++ BitVec.ofBool m.lock ++ BitVec.ofBool m.nonneg ++ m.kind ++
    BitVec.ofBool m.isOpen
  leBytes 4 flags.toNat ++ leBytes 4 m.q.toNat ++ leBytes 4 m.t.toNat ++ leBytes 4 m.tidx.toNat ++ leBytes 4 m.nc ++ leBytes 4 m.j

/-- A barrier's record in the layout of its kind (R267). -/
def Barrier.image (b : Barrier) : BitVec 128 :=
  let low (arr : Nat) : BitVec 32 :=
    BitVec.ofNat 8 arr ++ BitVec.ofNat 8 b.sigcnt ++ BitVec.ofNat 8 b.wcnt ++ (0 : BitVec 6) ++ BitVec.ofNat 2 b.kind.code
  match b.kind with
  | .future => b.value ++ (0 : BitVec 31) ++ BitVec.ofBool b.full ++ low 0
  | .lock => b.holder ++ b.hgroup ++ b.lent ++ (0 : BitVec 22) ++ BitVec.ofBool b.held ++ BitVec.ofBool b.abandoned ++ low 0
  | _ => BitVec.ofNat 40 b.pending ++ b.lstatus ++ b.status ++ (0 : BitVec 16) ++ b.phase ++ low b.arrived

/-- A barrier read back from its record. -/
def Barrier.ofImage (x : BitVec 128) : Barrier :=
  let kind := barKindOf (x.extractLsb' 0 2)
  let b := { Barrier.freeAt 0 with
    kind := kind, sigcnt := (x.extractLsb' 16 8).toNat, wcnt := (x.extractLsb' 8 8).toNat }
  match kind with
  | .future => { b with value := x.extractLsb' 64 64, full := x.getLsbD 32 }
  | .lock =>
    { b with
      holder := x.extractLsb' 80 48, hgroup := x.extractLsb' 64 16, lent := x.extractLsb' 56 8, held := x.getLsbD 33
      abandoned := x.getLsbD 32 }
  | _ =>
    { b with
      phase := x.extractLsb' 32 32, arrived := (x.extractLsb' 24 8).toNat, pending := (x.extractLsb' 88 40).toNat
      lstatus := x.extractLsb' 84 4, status := x.extractLsb' 80 4 }

/-- A ring's 128 bits (R171). -/
def Ring.image (r : Ring) : BitVec 128 :=
  r.tail ++ r.ihead ++ r.head ++ r.size ++ r.base ++ r.buf ++ (0 : BitVec 27) ++ BitVec.ofBool r.valid

/-- A ring read back. -/
def Ring.ofImage (x : BitVec 128) : Ring :=
  ⟨x.extractLsb' 104 24, x.extractLsb' 80 24, x.extractLsb' 56 24, x.extractLsb' 43 13, x.extractLsb' 30 13, x.extractLsb' 28 2,
    x.getLsbD 0⟩

/-- A write pointer's 64 bits (R141). -/
def WritePtr.image (w : WritePtr) : Word :=
  w.buf ++ (0 : BitVec 40) ++ BitVec.ofBool w.fault ++ BitVec.ofBool w.done ++ (0 : BitVec 1) ++ BitVec.ofNat 19 w.ptr

/-- A write pointer read back. -/
def WritePtr.ofImage (x : Word) : WritePtr := ⟨x.extractLsb' 62 2, x.getLsbD 21, x.getLsbD 20, (x.extractLsb' 0 19).toNat⟩

/-! Writing an image (R102, R103). -/

/-- A bit for each place of a list where a test holds. -/
def bitsWhere (n : Nat) (p : Nat → Bool) : Nat := ((List.range n).map fun i => if p i then 2 ^ i else 0).sum

/-- NOTIFIED of a context's outstanding NOTIFY (R103, R199). -/
def notifiedOf (k : Core) (c : Context) : Nat := (k.notifies.find? fun n => n.ctxId == c.ctxId).elim 0 fun n => n.notified.toNat

/-- The 256-byte header of a slot (R103); `k` gives the core's fields. -/
def headerBytes (s : State) (k : Core) (c : Context) : List Byte :=
  let w (x : Word) : List Byte := leBytes 8 x.toNat
  let stage (n : Nat) : Option (BitVec 6 × BitVec 512) := stagingOf c n
  leBytes 4 0x60001 ++ leBytes 4 0 ++ w (ownNames c).1 ++ w (cstatOf c) ++ w c.pc ++ w c.tcause ++ w c.tpc ++ w c.tword ++ w c.taddr ++
    w c.vmode ++ w c.repro ++ w (cprioOf s c) ++ w (lcntOf c) ++
    ((List.range 3).flatMap fun n => w (if (loopAt c n).active then (loopAt c n).start else 0)) ++
    ((List.range 3).flatMap fun n => leBytes 4 (vget c.lc n 0).toNat) ++ [c.p] ++
    leBytes 1 (bitsWhere 5 fun n => (stage n).isNone) ++ leBytes 2 k.tpred.toNat ++
    ((List.range 5).flatMap fun n => leBytes 1 ((stage n).elim 0 fun x => x.1.toNat)) ++
    ((List.range 5).flatMap fun n => leBytes 1 (queueOf k n).length) ++ leBytes 1 k.scaleQ.length ++
    leBytes 1 (notifiedOf k c) ++ leBytes 4 0 ++ w c.handler ++ w (ownNames c).2.1 ++ w (ownNames c).2.2 ++ leBytes 80 0

/-- s0 to s31 of a slot. -/
def scalarBytes (c : Context) : List Byte := (List.range 32).flatMap fun n => leBytes 8 (vget c.s n 0).toNat

/-- The record of a shadow slot: offsets 0 to 0x1FF of its image, with the fields of the core, TPRED, QCOUNT, SQCOUNT and NOTIFIED, zero
(log entry 84); a slot that is empty has none but zeros. -/
def shadowBytes (s : State) (k : Core) (slot : Nat) : List Byte :=
  match k.shadows.find? fun c => c.slot = slot with
  | some c => headerBytes s { k with tpred := 0, q := Vector.replicate 5 [], scaleQ := [], notifies := [] } c ++ scalarBytes c
  | none => leBytes 512 0

/-- The slots that are shadows, lower number first. -/
def shadowSlots (k : Core) : List Nat := (List.range 3).filter fun n => decide (n ≠ k.ctx.slot)

/-- An unstarted entry's 64 bytes: its body, which for a marker is the entry of R200. An SQLD has no body, and its bytes are zero (log
entry 83). -/
def entryBody (c : Command) : List Byte := leBytes 64 c.body.toNat

/-- The pieces of an image below the vector registers: offset and bytes. -/
def imagePieces (s : State) (k : Core) : List (Nat × List Byte) :=
  let c := k.ctx
  [(0, headerBytes s k c), (0x100, scalarBytes c),
    (0x200, (List.range 16).flatMap fun n => leBytes 16 (vget c.h n Handle.invalid).image.toNat),
    (0x300, c.monitor.image),
    (0x400, (List.range 8).flatMap fun n => leBytes 128 (vget c.m n 0).toNat),
    (0x800, (List.range 5).flatMap fun n => leBytes 64 ((stagingOf c n).elim 0 fun x => x.2.toNat)),
    (0xA00, (List.range 8).flatMap fun n => leBytes 64 (vget k.feeds n Feed.reset).image.toNat),
    (0xC00, (List.range 8).flatMap fun n => leBytes 16 (vget k.rings n Ring.reset).image.toNat),
    (0xC80, (List.range 16).flatMap fun n => leBytes 8 (vget k.wps n WritePtr.reset).image.toNat),
    (0xD00, (List.range 24).flatMap fun n => leBytes 4 (vget k.bfmt n 0).toNat),
    (0xD60, k.scaleQ.flatMap fun x => leBytes 2 x.toNat),
    (0xE00, (List.range 32).flatMap fun n => leBytes 16 (vget k.bars n (Barrier.freeAt 0)).image.toNat)] ++
    ((List.range 5).map fun n => (0x1000 + 512 * n, (queueOf k n).flatMap entryBody)) ++
    ((shadowSlots k).zipIdx.map fun (slot, i) => (0x1C00 + 512 * i, shadowBytes s k slot)) ++
    [(0x2000, (List.range 64).flatMap fun n => leBytes 32 (vget (vget k.tmpl 0 (Vector.replicate 64 0)) n 0).toNat),
      (0x2800, [1, 2, 3, 4].flatMap fun cls => (List.range 64).flatMap fun n =>
        leBytes 64 (vget (vget k.tmpl cls (Vector.replicate 64 0)) n 0).toNat),
      (0x8000, (List.range 32).flatMap fun n => (vget c.v n (Vector.replicate 1024 0)).toList.flatMap fun x => leBytes 4 x.toNat)]

/-- The bases of the buffers in an image. -/
def bufImage (b : BitVec 2) : Nat := if b = 0 then 0x28000 else if b = 1 then 0x88000 else 0xC8000

/-- Every byte of an image that is not zero. R144 gives the words of a failed bank that nothing rebuilds no value: the image holds what they
held before the failure (log entry 115, DESIGN CHOICE), and they stay uncorrectable over the save (log entry 89). -/
def imageCells (s : State) (k : Core) : List Host.Cell :=
  ((imagePieces s k).flatMap fun (o, bytes) => (bytes.zipIdx.filter fun x => x.1 != 0).map fun (v, i) => (o + i, v)) ++
    ([0, 1, 2] : List (BitVec 2)).flatMap fun b => (bufMem k b).map fun c => (bufImage b + c.1, c.2)

/-- An image written to its frame, whole (R102). -/
def writeImage (s : State) (frame : Nat) (k : Core) : State :=
  wrHome (zeroHome s frame imageSize) ((imageCells s k).map fun c => (frame + c.1, c.2))

/-! Reading an image back (R105, R106). -/

/-- A natural of `n` bytes of the image at a frame. -/
def imgNat (s : State) (frame o n : Nat) : Nat := rdHomeNat s (frame + o) n

/-- A word of the image. -/
def imgWord (s : State) (frame o : Nat) : Word := BitVec.ofNat 64 (imgNat s frame o 8)

/-- Whether a region of the image is zero. -/
def imgZero (s : State) (frame o n : Nat) : Bool := imgNat s frame o n == 0

/-- Codes of R91. -/
def stateOf (n : Nat) : Option SlotState :=
  [SlotState.empty, .loading, .runnable, .running, .waiting, .trapped, .saved, .retired][n]?

/-- Codes of R91. -/
def waitOf (n : Nat) : Option Wait := [Wait.none, .barrier, .future, .lock, .shwait, .done][n]?

/-- The bits of a word that a layout reserves: lowest bit and length of each run. -/
def reservedBits (runs : List (Nat × Nat)) : Nat := runs.foldl (fun m r => m + (2 ^ r.2 - 1) * 2 ^ r.1) 0

/-- A field of `n` bytes at an offset keeps its reserved bits zero. -/
def keepsZero (s : State) (frame o n : Nat) (runs : List (Nat × Nat)) : Bool := Nat.land (imgNat s frame o n) (reservedBits runs) == 0

/-- The registers of a header keep their reserved bits zero (R41, R46, R91 to R94, R285, R301 to R303). -/
def headerZeros (s : State) (frame o : Nat) : Bool :=
  [(0x08, [(48, 16), (2, 5)]), (0x10, [(24, 8), (12, 4), (4, 4)]), (0x20, [(26, 38), (8, 8)]), (0x28, [(0, 2)]), (0x30, [(32, 32)]),
    (0x40, [(12, 20), (4, 2)]), (0x48, [(1, 63)]), (0x50, [(24, 40)]), (0x58, [(33, 31)]), (0xA0, [(49, 15)]),
    (0xA8, [(17, 47)])].all (fun (x : Nat × List (Nat × Nat)) => keepsZero s frame (o + x.1) 8 x.2) &&
  keepsZero s frame (o + 0x85) 1 [(5, 3)] && keepsZero s frame (o + 0x93) 1 [(6, 2)] &&
    (List.range 5).all fun n => keepsZero s frame (o + 0x88 + n) 1 [(6, 2)]

/-- STATE and WAIT of a header: a STATE that a slot can have as it is saved, up to `top`, and a WAIT that goes with it (R91, R103; log
entry 82). -/
def headerState (s : State) (frame o top : Nat) : Bool :=
  let st := imgNat s frame (o + 0x10) 8
  decide (natBits st 3 0 ≤ top) &&
    (if natBits st 3 0 = 4 then decide (1 ≤ natBits st 11 8) && decide (natBits st 11 8 ≤ 5) else natBits st 11 8 == 0)

/-- A header at an offset passes the checks of R106. -/
def headerOk (s : State) (frame o top : Nat) : Bool :=
  imgNat s frame o 4 == 0x60001 && imgZero s frame (o + 4) 4 && imgZero s frame (o + 0x94) 4 && imgZero s frame (o + 0xB0) 80 &&
    ((List.range 5).all fun n => decide (imgNat s frame (o + 0x8D + n) 1 ≤ 8)) && decide (imgNat s frame (o + 0x92) 1 ≤ 64) &&
    headerZeros s frame o && headerState s frame o top

/-- A shadow record is empty, or its header passes: a shadow is loading or runnable. -/
def shadowOk (s : State) (frame o : Nat) : Bool := imgZero s frame o 512 || headerOk s frame o 2

/-- The monitor of an image keeps its layout (R316). -/
def monitorOk (s : State) (frame : Nat) : Bool :=
  let f := imgNat s frame 0x300 4
  let nc := imgNat s frame 0x310 4
  natBits f 31 21 == 0 && imgZero s frame 0x318 232 && (natBits f 2 1 != 0 || imgZero s frame 0x308 4) &&
    (natBits f 2 1 == 3 || imgZero s frame 0x30C 4) &&
    (!f.testBit 0 || (decide (1 ≤ nc) && decide (nc ≤ 65536) && decide (imgNat s frame 0x314 4 ≤ nc)))

/-- A core barrier's record keeps its reserved bits zero (R267). -/
def barZeros (s : State) (frame o : Nat) : Bool :=
  keepsZero s frame o 16
    (match natBits (imgNat s frame o 1) 1 0 with
    | 2 => [(33, 31), (24, 8), (2, 6)]
    | 3 => [(34, 22), (24, 8), (2, 6)]
    | _ => [(64, 16), (2, 6)])

/-- The core's records keep their reserved bits zero: handles, feeds, rings, write pointers, bank formats and barriers (R135, R141, R171,
R212, R247, R267). -/
def recordZeros (s : State) (frame : Nat) : Bool :=
  ((List.range 16).all fun n => keepsZero s frame (0x200 + 16 * n) 16 [(69, 1), (65, 1), (52, 12), (0, 12)]) &&
    ((List.range 8).all fun n => keepsZero s frame (0xA00 + 64 * n) 64 [(424, 88), (336, 16), (20, 12)]) &&
    ((List.range 8).all fun n => keepsZero s frame (0xC00 + 16 * n) 16 [(1, 27)]) &&
    ((List.range 16).all fun n => keepsZero s frame (0xC80 + 8 * n) 8 [(22, 40), (19, 1)]) &&
    ((List.range 24).all fun n => keepsZero s frame (0xD00 + 4 * n) 4 [(29, 3), (6, 10)]) &&
    (List.range 32).all fun n => barZeros s frame (0xE00 + 16 * n)

/-- An entry with KIND 0xFF keeps the layout of a marker (R200). CLASSES of 0, or without the bit of the class it stands in, is within the
layout: R200 gives the field no limit (log entry 127, DESIGN CHOICE). -/
def markerOk (x : Nat) : Bool :=
  x % 256 != 255 || (x / 2 ^ 64 == 0 && natBits x 31 19 == 0 && natBits x 15 14 == 0 && decide (natBits x 18 16 ≤ 5))

/-- The image passes every check (R106, R200, R316). -/
def imageOk (s : State) (frame : Nat) : Bool :=
  headerOk s frame 0 5 && recordZeros s frame && shadowOk s frame 0x1C00 && shadowOk s frame 0x1E00 && imgZero s frame 0x940 192 &&
    imgZero s frame 0xDE0 32 && imgZero s frame 0x1A00 512 && imgZero s frame 0x6800 0x1800 && monitorOk s frame &&
    (List.range 5).all fun n => (List.range (min 8 (imgNat s frame (0x8D + n) 1))).all fun i =>
      markerOk (imgNat s frame (0x1000 + 512 * n + 64 * i) 64)

/-- The loop levels of an image. -/
def loopsOf (s : State) (frame o : Nat) : Vector LoopLevel 3 :=
  Vector.ofFn fun i =>
    let x := imgNat s frame (o + 0x58) 8 / 2 ^ (11 * i.val)
    if x.testBit 10 then
      ⟨true, natBits x 9 8, BitVec.ofNat 8 x, imgWord s frame (o + 0x60 + 8 * i.val)⟩
    else LoopLevel.off

/-- A context read back from the header and scalar registers at an offset; the rest is as the entry kept it. Its name, its kernel and its
group stay the ones that the device knows it by, whatever the image says: others that the image gives are what their registers read, and give
it no right and no place of another's (R6, R106; log entry 82). -/
def readSlot (s : State) (frame o : Nat) (c : Context) : Context :=
  let st := imgNat s frame (o + 0x10) 8
  let w (a : Nat) : Word := imgWord s frame (o + a)
  { c with
    state := (stateOf (natBits st 3 0)).getD .empty
    wait := (waitOf (natBits st 11 8)).getD .none
    seqTag := BitVec.ofNat 32 (st / 2 ^ 32), depth := BitVec.ofNat 3 (natBits st 23 21), restart := st.testBit 20
    task := st.testBit 19, inTrap := st.testBit 18, pc := w 0x18,
    tcause := w 0x20, tpc := w 0x28, tword := w 0x30
    shown := if w 8 = c.ctxId ∧ w 0xA0 = c.kernelId ∧ w 0xA8 = c.groupId then none else some (w 8, w 0xA0, w 0xA8)
    taddr := w 0x38, vmode := w 0x40, repro := w 0x48
    ceil := BitVec.ofNat 8 (natBits (imgNat s frame (o + 0x50) 8) 15 8), prio := BitVec.ofNat 8 (imgNat s frame (o + 0x50) 1)
    loops := loopsOf s frame o
    lc := Vector.ofFn fun i => BitVec.ofNat 32 (imgNat s frame (o + 0x78 + 4 * i.val) 4)
    p := BitVec.ofNat 8 (imgNat s frame (o + 0x84) 1)
    staging := Vector.ofFn fun i =>
      if (imgNat s frame (o + 0x85) 1).testBit i.val then none
      else some (BitVec.ofNat 6 (imgNat s frame (o + 0x88 + i.val) 1), (vget c.staging i none).elim 0 Prod.snd)
    handler := w 0x98
    s := Vector.ofFn fun i => if i.val = 0 then 0 else w (0x100 + 8 * i.val)
    h := Vector.replicate 16 Handle.invalid, perf := Vector.replicate 8 0, drainTo := none }

/-- The monitor read back. -/
def readMonitor (s : State) (frame : Nat) : Monitor :=
  let f := BitVec.ofNat 32 (imgNat s frame 0x300 4)
  { isOpen := f.getLsbD 0, kind := f.extractLsb' 1 2, nonneg := f.getLsbD 3, lock := f.getLsbD 4, d := f.extractLsb' 5 5
    list := f.extractLsb' 10 5, km1 := f.extractLsb' 15 6, q := BitVec.ofNat 32 (imgNat s frame 0x304 4)
    t := BitVec.ofNat 32 (imgNat s frame 0x308 4), tidx := BitVec.ofNat 32 (imgNat s frame 0x30C 4), nc := imgNat s frame 0x310 4
    j := imgNat s frame 0x314 4 }

/-- The context of the running slot read back, handles invalid. -/
def readRunning (s : State) (frame : Nat) (c : Context) : Context :=
  let c1 := readSlot s frame 0 c
  { c1 with
    h := Vector.ofFn fun i => Handle.ofImage (BitVec.ofNat 128 (imgNat s frame (0x200 + 16 * i.val) 16))
    monitor := readMonitor s frame
    m := Vector.ofFn fun i => BitVec.ofNat 1024 (imgNat s frame (0x400 + 128 * i.val) 128)
    staging := Vector.ofFn fun i =>
      (vget c1.staging i none).map fun x => (x.1, BitVec.ofNat 512 (imgNat s frame (0x800 + 64 * i.val) 64))
    v := Vector.ofFn fun r => Vector.ofFn fun i => BitVec.ofNat 32 (imgNat s frame (0x8000 + 4096 * r.val + 4 * i.val) 4) }

/-- A feed read back: an active one resumes at POS with its handle's translation captured afresh (R216). -/
def readFeed (c : Context) (image : BitVec 512) (f : Feed) : Feed :=
  let g : Feed := { f with image := image, ahead := [], out := [], done := bodyNat image 352 32 }
  { g with cap := if feedKind g = 0 then vget c.h (bodyNat image 14 4) Handle.invalid else Handle.invalid }

/-- The bytes of a buffer in an image. -/
def readBuf (s : State) (frame : Nat) (b : BitVec 2) : Memory :=
  let lo := frame + bufImage b
  (s.mem.filter fun c => decide (lo ≤ c.1) && decide (c.1 < lo + bufBytes b)).map fun c => (c.1 - lo, c.2)

/-- The slot of the running record: SLOT, or, where that names no slot of the three, the one that was saved (log entry 82). -/
def imageSlot (s : State) (frame : Nat) (k : Core) : Nat :=
  let n := natBits (imgNat s frame 0x10 8) 17 16
  if n ≤ 2 then n else k.ctx.slot

/-- The shadows of an image, by their records (R102): those whose STATE is not 0. `kept` gives what the layout does not hold. -/
def readShadows (s : State) (frame running : Nat) (kept : Nat → Context) : List Context :=
  let slots := (List.range 3).filter fun n => n != running
  slots.zipIdx.filterMap fun (slot, i) =>
    let o := 0x1C00 + 512 * i
    if natBits (imgNat s frame (o + 0x10) 8) 3 0 = 0 then none else some { readSlot s frame o (kept slot) with slot := slot }

/-- The bodies of a class's unstarted commands, QCOUNT of them. -/
def imageBodies (s : State) (frame n : Nat) : List (BitVec 512) :=
  (List.range (min 8 (imgNat s frame (0x8D + n) 1))).map fun i => BitVec.ofNat 512 (imgNat s frame (0x1000 + 512 * n + 64 * i) 64)

/-- What the entry kept of a context, or, for a slot that was saved empty, as much as every context of the group has in common, with a name
of its own among those of the core that restores it (R6, R92; log entry 82). -/
def keptCtx (k : Core) (names : Nat → Word) (slot : Nat) : Context :=
  ((k.ctx :: k.shadows).find? fun c => c.slot = slot ∧ c.state ≠ .empty).getD
    { Context.blank slot with
      aspace := k.ctx.aspace, kernelId := k.ctx.kernelId, groupId := k.ctx.groupId, ctxId := names slot }

/-- The core read back from the image at a frame, its engine queues apart; `k` is what its group's entry kept of it, and `names` gives the
names of slots that were saved empty. -/
def readImage (s : State) (frame : Nat) (k : Core) (names : Nat → Word) : Core :=
  let slot := imageSlot s frame k
  let c := { readRunning s frame (keptCtx k names slot) with slot := slot }
  let img := imgNat s frame
  { k with
    ctx := c
    shadows := readShadows s frame slot (keptCtx k names)
    notifies := k.notifies.map fun n =>
      if n.ctxId = c.ctxId then { n with notified := BitVec.ofNat 6 (imgNat s frame 0x93 1) } else n
    tpred := BitVec.ofNat 16 (img 0x86 2)
    feeds := Vector.ofFn fun i => readFeed c (BitVec.ofNat 512 (img (0xA00 + 64 * i.val) 64)) (vget k.feeds i Feed.reset)
    rings := Vector.ofFn fun i => Ring.ofImage (BitVec.ofNat 128 (img (0xC00 + 16 * i.val) 16))
    wps := Vector.ofFn fun i => WritePtr.ofImage (imgWord s frame (0xC80 + 8 * i.val))
    bfmt := Vector.ofFn fun i => BitVec.ofNat 32 (img (0xD00 + 4 * i.val) 4)
    scaleQ := (List.range (img 0x92 1)).map fun i => BitVec.ofNat 16 (img (0xD60 + 2 * i) 2)
    bars := Vector.ofFn fun i => Barrier.ofImage (BitVec.ofNat 128 (img (0xE00 + 16 * i.val) 16))
    tmpl := Vector.ofFn fun cls => Vector.ofFn fun n =>
      if cls.val = 0 then BitVec.ofNat 512 (img (0x2000 + 32 * n.val) 32)
      else BitVec.ofNat 512 (img (0x2800 + 4096 * (cls.val - 1) + 64 * n.val) 64)
    w := readBuf s frame 0, a := readBuf s frame 1, c := readBuf s frame 2 }

end Sys2Proof.Machine
end

