-- ==== Sys2Proof/Machine/Group.lean ====
section
/-! DEFINITION. The group and the scheduler: the Shepherd's walk, context start and retirement, allocation, dispatch, pre-emption,
save and restore, and the end of a kernel (R95, R96, R291 to R313). -/

namespace Sys2Proof.Machine

/-! The walk (R286, R292, R293). -/

/-- The indices i(0) to i(5) of iteration t (R292). -/
def iterIndices (r : LaunchRec) (t : Nat) : List Nat :=
  let step (x : List Nat × Nat) (k : Nat) : List Nat × Nat :=
    let n := r.levelAt k
    (x.1.set n (x.2 % r.extent n), x.2 / r.extent n)
  ((List.range r.nest).foldl step ([0, 0, 0, 0, 0, 0], t)).1

/-- The CTX_ID of the next context to start on a core, in a slot (R92). -/
def nextCtxId (k : Core) (slot : Nat) : Word :=
  (0 : BitVec 16) ++ k.serial ++ BitVec.ofNat 1 k.die ++ BitVec.ofNat 8 k.num ++ (0 : BitVec 5) ++ BitVec.ofNat 2 slot

/-- The declared inputs of a record that are used. -/
def usedPrefs (r : LaunchRec) : List Nat := (List.range r.prefs.length).filter fun n => (r.prefs[n]?.elim 0 fun p => p.len) != 0

/-- A context as a launch gives it to a slot, loading (R89, R90, R286). -/
def launched (k : Core) (e : KEntry) (slot t : Nat) : Context :=
  let r := e.launch
  let idx := iterIndices r t
  { Context.blank slot with
    state := .loading, pc := r.entry, handler := r.handler
    s := Vector.ofFn fun i =>
      if 1 ≤ i.val ∧ i.val ≤ 8 then r.args.getD (i.val - 1) 0
      else if 24 ≤ i.val ∧ i.val ≤ 29 then BitVec.ofNat 64 (idx.getD (i.val - 24) 0)
      else 0
    repro := if r.repro then 1 else 0, seqTag := r.seqTag, depth := e.depth, restart := r.restart, task := r.task
    ceil := r.prio, prio := r.prio, ctxId := nextCtxId k slot, aspace := e.aspace, kernelId := e.id
    groupId := BitVec.ofNat 64 (e.die * 65536 + e.entry), iter := t, inputs := usedPrefs r }

/-- Slots of a core that hold a context. -/
def occupied (k : Core) : List Nat := (if k.ctx.state = .empty then [] else [k.ctx.slot]) ++ k.shadows.map fun c => c.slot

/-- The core with the fewest occupied slots, the lowest numbered among equals, and its lowest empty slot (R292). -/
def emptySlot (s : State) (die : Nat) (cores : List Nat) : Option (Nat × Nat) :=
  let best := cores.foldl (fun (m : Option (Nat × Nat)) n =>
    let o := (occupied (getCore s die n)).length
    if 3 ≤ o then m else match m with
      | some (q, p) => if o < q ∨ (o = q ∧ n < p) then some (o, n) else m
      | none => some (o, n)) none
  best.bind fun (_, n) => ((List.range 3).find? fun q => !(occupied (getCore s die n)).contains q).map fun q => (n, q)

/-- The next iteration that the Shepherd hands out: returned ones first (R307). -/
def nextIter (e : KEntry) : Option Nat :=
  match e.redo with
  | t :: _ => some t
  | [] => if e.nextT < e.launch.count then some e.nextT else none

/-- ITERATION_HANDOUT (R292). -/
def execIterationHandout (die e : Nat) (s : State) : Out :=
  match (kernelAt s die e).filter fun k => k.state = .running with
  | none => .next s
  | some k =>
    match nextIter k, emptySlot s die k.cores with
    | some t, some (n, q) =>
      let c := getCore s die n
      let s1 := putCore s { c with shadows := c.shadows ++ [launched c k q t] }
      .next (modKernel s1 k.id fun x =>
        if x.redo = [] then { x with nextT := x.nextT + 1 } else { x with redo := x.redo.tail })
    | _, _ => .next s

/-- Source and destination of a declared input in a slot (R283). -/
def inputPlace (p : Pref) (c : Context) : Nat × Nat :=
  let src := (List.range 6).foldl (fun (x : Word) n =>
    x + vget c.s (24 + n) 0 * (p.step.getD n 0).signExtend 64) p.src
  (src.toNat, p.dst + c.slot * p.dslot)

/-- The copy of an input stands in its core's copy queue or has started. -/
def inputPlaced (k : Core) (n slot : Nat) : Bool :=
  (queueOf k 1 ++ vget k.run 1 []).any fun c => c.kind == .input n slot

/-- The copy of a declared input, as an entry of the copy queue (R293). -/
def inputCommand (s : State) (k : Core) (c : Context) (p : Pref) (n : Nat) : Command :=
  let (src, dst) := inputPlace p c
  { kind := .input n c.slot, tmpl := 0, body := 0, ctxId := c.ctxId, kernelId := c.kernelId, aspace := c.aspace, seqTag := c.seqTag
    die := k.die, core := k.num, repro := false, noEffect := false, src := Handle.invalid, dst := Handle.invalid, reads := []
    writes := [Range.of p.buf dst p.len], seq := k.seq, gid := s.order, aStart := src, bStart := p.len, aUnits := 0, bUnits := 0
    gang := [k.num], part := 0, chan := 0, progress := 0, under := 0, scales := [], need := 0, indices := [], told := false, fault := none }

/-- One declared input brought forward: its copy enters the core's copy queue (R293). -/
def bringInput (s : State) (c : Context) (p : Pref) (n : Nat) : State :=
  if queueFree s.core 1 then enterPlain 1 s (inputCommand s s.core c p n) else s

/-- A slot becomes runnable (R95). -/
def makeRunnable (s : State) (slot : Nat) : State :=
  let f (c : Context) : Context := if c.slot = slot then { c with state := .runnable, ready := s.order } else c
  { modCore s fun k => { k with shadows := k.shadows.map f } with order := s.order + 1 }

/-- DECLARED_INPUTS_ARRIVED (R293): the slot's next input is brought forward; once all have arrived the slot is runnable. -/
def execDeclaredInputsArrived (slot : Nat) (s : State) : Out :=
  match s.core.shadows.find? fun c => c.slot = slot ∧ c.state = .loading with
  | none => .next s
  | some c =>
    if s.core.stopping ∨ s.core.draining then .next s
    else if c.inputs = [] then .next (makeRunnable s slot)
    else match c.inputs.find? fun n => !inputPlaced s.core n slot with
      | none => .next s
      | some n =>
        match (kernelById s c.kernelId).bind fun e => e.launch.prefs[n]? with
        | some p => .next (bringInput s c p n)
        | none => .next s

/-! Start and retirement (R95, R96). -/

/-- The shadow that became runnable earliest, the lower slot number among equals (R95, R97). -/
def earliestReady (l : List Context) : Option Context :=
  l.foldl (fun m c => if c.state ≠ .runnable then m else match m with
    | some x => if c.ready < x.ready ∨ (c.ready = x.ready ∧ c.slot < x.slot) then some c else m
    | none => some c) none

/-- A core may start a context: its kernel runs and nothing stops it (R307). -/
def mayStart (s : State) (k : Core) (c : Context) : Bool :=
  k.ctx.state == .empty && !k.stopping && !k.draining && !k.scrubbing && (kernelById s c.kernelId).any fun e => e.state == .running

/-- CONTEXT_START (R92, R95). Its first instruction sees everything that happens before the launch (R229). -/
def execContextStart (s : State) : Out :=
  match earliestReady s.core.shadows with
  | none => .next s
  | some c =>
    if mayStart s s.core c then
      .next (modCore (dropCopies s s.core.die) fun k => { k with
        ctx := { c with
          state := .running, ctxId := nextCtxId k c.slot, shown := c.shown.map fun x => (nextCtxId k c.slot, x.2) }, serial := k.serial + 1
        shadows := k.shadows.filter fun x => !decide (x.slot = c.slot) })
    else .next s

/-- A retired iteration counted; the last one ends the walk (R296, R306). -/
def countRetired (e : KEntry) (cyc : Nat) : KEntry :=
  let e1 := { e with retired := e.retired + 1, cycles := e.cycles + cyc }
  if e1.retired = e1.launch.count ∧ (e1.state = .running ∨ e1.state = .draining) then { e1 with state := .ending, victim := none } else e1

/-- The started context retires: a vector marker that is left in its queue is reached, and its slot becomes empty (R96, R199). -/
def retireCtx (s : State) : State :=
  let s1 := if s.core.ctx.vq = [] then s else vecMarked s
  sweepRetired (modCtx s1 fun c => { c with state := .retired }) s.core.die s.core.num countRetired

/-- CONTEXT_RETIRE (R96): the context's work is complete and its slot becomes empty. -/
def execContextRetire (s : State) : Out :=
  let c := s.core.ctx
  if c.state = .retired ∨ (s.core.stopping = false ∧ c.state = .waiting ∧ c.park = some .retire ∧ workLeft s = false) then
    .next (retireCtx s)
  else .next s

/-! Allocation (R299, R308). -/

/-- Cores of a die (R11). -/
def coreCount (s : State) (die : Nat) : Nat := if die < capsDies s then 4 * (s.caps.extractLsb' 12 8).toNat else 0

/-- A core passes guard-mode start-up: no buffer has a second failed bank, which its guard bank could not rebuild (R144, R299; log entry
89). -/
def guardFit (k : Core) : Bool :=
  ([0, 1, 2] : List (BitVec 2)).all fun b =>
    decide ((k.failedBanks.filter fun n => decide (bufBank0 b ≤ n) && decide (n < bufBank0 b + bufBanks b)).length ≤ 1)

/-- RECOVERY of a die's scheduler block (R313). -/
def recoveryOn (s : State) (die : Nat) : Bool := (vget s.sched die ⟨0, 0, false, 0, 0, 0, 0⟩).recovery

/-- Cores that can be allocated, in ascending order (R299). -/
def openCores (s : State) (die : Nat) : List Nat :=
  (List.range (coreCount s die)).filter fun n =>
    let k := getCore s die n
    k.group.isNone && !k.withheld && (!recoveryOn s die || guardFit k)

/-- Gangs of w cores from the lowest positions of one quad. -/
def quadGangs (w : Nat) : Nat → List Nat → List (List Nat)
  | 0, _ => []
  | fuel + 1, free => if w ≤ free.length then free.take w :: quadGangs w fuel (free.drop w) else []

/-- Cores of a new kernel from a pool: single cores, or gangs quad by quad (R299). -/
def newShape (pool : List Nat) (r : LaunchRec) : Option (List (List Nat)) :=
  let w := r.gang + 1
  let need := r.cores / w
  let all := if w = 1 then pool.map fun n => [n]
    else (List.range 48).flatMap fun q => quadGangs w 4 (pool.filter fun n => n / 4 = q)
  if need ≤ all.length then some (all.take need) else none

/-- Cores for saved positions: each gang takes the lowest quad whose positions are free that leaves every later gang a quad (R308). -/
def oldShape (pool : List Nat) : List (List Nat) → Option (List (List Nat))
  | [] => some []
  | g :: r =>
    (List.range 48).findSome? fun q =>
      let cores := g.map fun p => 4 * q + p
      if cores.all fun n => pool.contains n then
        (oldShape (pool.filter fun n => !cores.contains n) r).map fun rest => cores :: rest
      else none

/-- A list cut into pieces of w. -/
def pieces {α : Type} (w : Nat) : Nat → List α → List (List α)
  | 0, _ => []
  | fuel + 1, l => if l = [] then [] else l.take w :: pieces w fuel (l.drop w)

/-- Cores for an entry from a pool, by gangs. -/
def shapeFrom (pool : List Nat) (k : KEntry) : Option (List (List Nat)) :=
  if k.frames = [] then newShape pool k.launch
  else if k.launch.gang = 0 then
    (if k.frames.length ≤ pool.length then some ((pool.take k.frames.length).map fun n => [n]) else none)
  else oldShape pool (pieces (k.launch.gang + 1) k.frames.length (k.frames.map fun f => f.2.1))

/-! Effective priorities (R303). -/

/-- The started contexts of an entry. -/
def startedCtxs (s : State) (k : KEntry) : List Context :=
  ((if k.state = .saved then k.images else k.cores.map fun n => getCore s k.die n).map fun c => c.ctx).filter fun c =>
    c.state = .running ∨ c.state = .waiting ∨ c.state = .trapped

/-- The effective priority of an entry. -/
def entryEff (s : State) (k : KEntry) : Nat :=
  let base := max k.launch.prio.toNat (lentToKernel s (s.kernels.length + 1) k.id)
  match startedCtxs s k with
  | [] => base
  | cs => cs.foldl (fun m c => max m (effPrio s c)) 0

/-- The entry waits for cores: eligible, or saved. -/
def KEntry.waiting (k : KEntry) : Bool := k.state == .eligible || k.state == .saved

/-- One entry is served before another: higher effective priority, then earlier arrival (R26). -/
def servedFirst (s : State) (a b : KEntry) : Bool :=
  decide (entryEff s b < entryEff s a) || (decide (entryEff s a = entryEff s b) && decide (a.arrival < b.arrival))

/-- An entry put among others in the order in which they are served. -/
def insertServed (s : State) (k : KEntry) : List KEntry → List KEntry
  | [] => [k]
  | x :: r => if servedFirst s k x then k :: x :: r else x :: insertServed s k r

/-- The entries of a die that wait for cores, in the order in which they are served. -/
def waitingEntries (s : State) (die : Nat) : List KEntry :=
  (s.kernels.filter fun k => decide (k.die = die) && k.waiting).foldl (fun l k => insertServed s k l) []

/-- The entry that dispatch considers. -/
def chosen (s : State) (die : Nat) : Option KEntry := (waitingEntries s die).head?

/-! Dispatch (R219, R299, R300, R308). -/

/-- A core given to a group: scrubbed unless the same address space held it last; a restored core is not. A core that another space held counts
as held by none until its scrub, or the write-back of its image, is over: a group that ends before leaves it to be scrubbed. In guard mode its guard banks hold the XOR of the others (R144, R300). -/
def takeCore (s : State) (k : KEntry) (guard : Bool) (gang : List Nat) (n : Nat) : State :=
  let c := getCore s k.die n
  let c1 := { c with
    group := some k.entry, gang := if k.launch.gang = 0 then [] else gang, stopping := decide (k.state = .saved)
    scrubbing := decide (k.state ≠ .saved ∧ c.lastAspace ≠ some k.aspace), guardMode := false
    lastAspace := c.lastAspace.filter fun a => a == k.aspace }
  putCore s (if guard then enterGuard c1 else c1)

/-- An entry placed on its cores. Guard mode is the group's own from its allocation to its end, saved or not (R300). -/
def placeGroup (s : State) (k : KEntry) (gangs : List (List Nat)) : State :=
  let guard := if k.state = .saved then k.guard else recoveryOn s k.die
  let s1 := gangs.foldl (fun t g => g.foldl (fun u n => takeCore u k guard g n) t) s
  { modKernel s1 k.id fun e =>
      { e with
        cores := gangs.flatten, dispatched := s.order, guard := guard
        state := if k.state = .saved then .restoring else .allocating } with
    order := s.order + 1 }

/-- A group may be chosen as a victim: it runs and stands under no request (R305). -/
def victimFit (k : KEntry) : Bool := k.state == .running && k.victim.isNone

/-- One victim is taken before another: lower priority, then more recently dispatched. -/
def victimFirst (s : State) (a b : KEntry) : Bool :=
  decide (entryEff s a < entryEff s b) || (decide (entryEff s a = entryEff s b) && decide (b.dispatched < a.dispatched))

/-- Victims put in the order in which they are taken. -/
def insertVictim (s : State) (k : KEntry) : List KEntry → List KEntry
  | [] => [k]
  | x :: r => if victimFirst s k x then k :: x :: r else x :: insertVictim s k r

/-- Victims taken until an entry's need is met by the pool and their cores; none if it cannot be. -/
def takeVictims (k : KEntry) (pool : List Nat) : List KEntry → Option (List KEntry)
  | [] => if (shapeFrom pool k).isSome then some [] else none
  | v :: r =>
    if (shapeFrom pool k).isSome then some []
    else (takeVictims k (sortNat (pool ++ v.cores)) r).map fun l => v :: l
where
  /-- Insertion of a number in its place. -/
  insertNat (n : Nat) : List Nat → List Nat
    | [] => [n]
    | m :: r => if n ≤ m then n :: m :: r else m :: insertNat n r
  /-- A list of numbers in ascending order. -/
  sortNat (l : List Nat) : List Nat := l.foldl (fun m n => insertNat n m) []

/-- The deadline of a Steward request for an entry of priority p (R305, R313). -/
def stewardDeadline (s : State) (die p : Nat) : Nat :=
  let c := vget s.sched die ⟨0, 0, false, 0, 0, 0, 0⟩
  if c.dlprio.toNat ≤ p ∧ c.dline ≠ 0 then s.clock + c.dline.toNat else 0

/-- PREEMPTION_REQUEST (R305): the Steward asks for cores for an entry that cannot be placed. -/
def requestCores (s : State) (k : KEntry) : State :=
  let p := entryEff s k
  let groups := s.kernels.filter fun v => decide (v.die = k.die)
  let coming := (groups.filter fun v => v.state.onCores && v.victim.any fun x => x.entry == some k.id).flatMap fun v => v.cores
  let order := (groups.filter fun v => victimFit v && decide (entryEff s v < p)).foldl (fun l v => insertVictim s v l) []
  match takeVictims k (takeVictims.sortNat (openCores s k.die ++ coming)) order with
  | none => s
  | some vs => vs.foldl (fun t v => modKernel t v.id fun e =>
      { e with victim := some ⟨stewardDeadline s k.die p, none, some k.id⟩ }) s

/-- Every waiting entry that cannot be placed for lack of cores makes its request, the first served first (R305, R312). -/
def requestAll (s : State) (die : Nat) : State :=
  (waitingEntries s die).foldl (fun t k => if (shapeFrom (openCores t die) k).isSome then t else requestCores t k) s

/-- STEWARD_DISPATCH (R219, R299, R305): the best entry is placed, or cores are asked for; it blocks every entry below it. -/
def execStewardDispatch (die : Nat) (s : State) : Out :=
  match chosen s die with
  | none => .next s
  | some k =>
    match shapeFrom (openCores s die) k with
    | some gangs => .next (placeGroup s k gangs)
    | none => .next (requestAll s die)

/-- A core after its scrub for an address space (R300). The events of NOTIFYs that have reached their queues still come (R199). -/
def scrubbed (aspace : BitVec 12) (k : Core) : Core :=
  if k.scrubbing then
    { Core.reset k.die k.num with
      serial := k.serial, group := k.group, gang := k.gang, lastAspace := some aspace, guardMode := k.guardMode
      failedBanks := k.failedBanks, withheld := k.withheld, tlbDirty := k.tlbDirty, tlbStores := k.tlbStores, notifies := k.notifies }
  else k

/-- SCRUB_COMPLETE (R300, R311). -/
def execScrubComplete (die e : Nat) (s : State) : Out :=
  match (kernelAt s die e).filter fun k => k.state = .allocating with
  | none => .next s
  | some k =>
    let t := k.cores.foldl (fun t n => putCore t (scrubbed k.aspace (getCore t die n))) s
    .next (modKernel t k.id fun x => { x with state := .running })

/-! YIELD (R304). -/

/-- The entry that a YIELD of a group gives way to. -/
def yieldTo (s : State) (g : KEntry) : Option KEntry :=
  let free := openCores s g.die
  s.kernels.find? fun k =>
    decide (k.die = g.die) && k.waiting && decide (entryEff s g ≤ entryEff s k) && (shapeFrom free k).isNone &&
      decide (k.launch.cores ≤ free.length + g.cores.length)

/-- YIELD (R304): a pre-emption request against its own group, or NOP. The context issues nothing until the request is decided. -/
def execYield (s : State) : Out :=
  let t := retire s
  match (kernelById s s.core.ctx.kernelId).filter victimFit with
  | none => .next t
  | some g =>
    match yieldTo s g with
    | none => .next t
    | some k => .next (modKernel t g.id fun e => { e with victim := some ⟨0, some s.core.ctx.ctxId, some k.id⟩ })

/-! The estimator (R306, R307). -/

/-- The three ways of pre-emption. -/
inductive Option3 where
  | drain | save | discard
deriving DecidableEq, Repr

/-- Bytes in so many units of 64, rounded up. -/
def lines64 (n : Nat) : Nat := (n + 63) / 64

/-- The cycles of work of a tile command by the progress that R306 counts: its K-groups times its passes (R183, R184), the K-groups being those
of its issuer's tiles (R187); the cycles of an MZERO and of an MSTORE (R190, R191); none under a false predicate (R178). -/
def tileWork (s : State) (c : Command) : Nat × Nat :=
  let rows := (tileM c.body * tileRA c.body + 511) / 512
  if c.noEffect then (0, 0)
  else if tileMul c.body then (tileK c.body * tileD c.body / 4 / commandGroup (getCore s c.die c.core) c, tilePasses c.body)
  else if bodyKind c.body = 4 then (4 + rows, 1)
  else (8 + 2 * rows, 1)

/-- Cycles that a started tile command has left. How many of its K-groups are done is a matter of its timing, and a free value (log entry 118);
the cores of a gang have done the same. -/
def tileLeft (s : State) (c : Command) : Nat :=
  let (n, passes) := tileWork s c
  passes * (n - Config.freeMerge s.fresh (1024 + 192 * c.die + c.core) % (n + 1))

/-- D(c) (R306): the cycles until the started engine commands of a core end. An engine works on one command after the other, and each
copy channel likewise (log entry 14). -/
def estimateLeft (s : State) (k : Core) : Nat :=
  let runs (cls : Nat) (f : Command → Nat) : Nat := ((vget k.run cls []).map f).sum
  let copies := (List.range 16).foldl (fun m ch => max m (lines64 (backlog k ch))) 0
  max (max (runs 0 (tileLeft s)) copies)
    (max (runs 2 fun c => lines64 (destBytes k 2 c - c.progress)) (runs 3 fun c => lines64 (c.writes.map fun r => r.hi - r.lo).sum))

/-- E(c) (R306): a trapped context is started too, and holds the cycles for which it ran or waited. -/
def estimateRun (k : Core) : Nat :=
  if k.ctx.state = .running ∨ k.ctx.state = .waiting ∨ k.ctx.state = .trapped then k.ctx.cyc else 0

/-- C (R306). -/
def meanCycles (k : KEntry) : Nat := if k.retired = 0 then 2 ^ 20 else k.cycles / k.retired

/-- A core's context waits with WAIT 1 to 4. -/
def parkedCore (k : Core) : Bool := k.ctx.state == .waiting && k.ctx.wait != .done

/-- The options that are allowed, each with T and O (R306), in the order in which ties are decided. -/
def optionsOf (s : State) (k : KEntry) (byYield : Bool) : List (Option3 × Nat × Nat) :=
  let cs := k.cores.map fun n => getCore s k.die n
  let top (f : Core → Nat) : Nat := cs.foldl (fun m c => max m (f c)) 0
  let d := top (estimateLeft s)
  (if !cs.any parkedCore && !byYield then
    [(.drain, top fun c => max (meanCycles k - estimateRun c) (estimateLeft s c), 0)] else []) ++
  (if cs.length ≤ (vget s.sched k.die ⟨0, 0, false, 0, 0, 0, 0⟩).savecnt.toNat then [(.save, d + 900, 1800 * cs.length)] else []) ++
  (if k.launch.restart then [(.discard, d, (cs.map estimateRun).sum)] else [])

/-- The first of the options with the least of a measure. -/
def leastOption (f : Option3 × Nat × Nat → Nat) : List (Option3 × Nat × Nat) → Option (Option3 × Nat × Nat)
  | [] => none
  | o :: r =>
    match leastOption f r with
    | some x => if f x < f o then some x else some o
    | none => some o

/-- The option chosen (R306). -/
def chooseOption (s : State) (v : Victim) (l : List (Option3 × Nat × Nat)) : Option Option3 :=
  let fits := l.filter fun o => decide (v.deadline = 0 ∨ s.clock + o.2.1 ≤ v.deadline)
  ((if fits = [] then leastOption (fun o => o.2.1) l else leastOption (fun o => o.2.2) fits)).map Prod.fst

/-- Iterations put back in ascending order. -/
def addRedo (e : KEntry) (ts : List Nat) : KEntry := { e with redo := takeVictims.sortNat (e.redo ++ ts) }

/-- Drain (R307). -/
def drainGroup (s : State) (k : KEntry) : State :=
  let ts := k.cores.flatMap fun n => (getCore s k.die n).shadows.map fun c => c.iter
  let s1 := k.cores.foldl (fun t n =>
    let c := getCore t k.die n
    let q := vset c.q 1 ((queueOf c 1).filter fun x => match x.kind with
      | .input .. => false
      | _ => true)
    putCore t (popMarkers { c with draining := true, shadows := [], q := q })) s
  modKernel s1 k.id fun e => { addRedo e ts with state := .draining }

/-- Discard (R25, R307). -/
def discardGroup (s : State) (k : KEntry) : State :=
  let ts := k.cores.flatMap fun n =>
    let c := getCore s k.die n
    (if c.ctx.state = .empty then [] else [c.ctx.iter]) ++ c.shadows.map fun x => x.iter
  let s1 := leaveLocks (stopGroup s k.die k.cores) k.die k.entry
  modKernel s1 k.id fun e => { addRedo e ts with state := .discarding }

/-- A frame taken from a die's save pool (R308). -/
def takeFrame (s : State) (die : Nat) : State × Nat :=
  let c := vget s.sched die ⟨0, 0, false, 0, 0, 0, 0⟩
  let f := c.savefree.toNat
  let next := BitVec.ofNat 64 (rdHomeNat s f 8) &&& 0xFFFFFFFFF0000
  ({ s with sched := vset s.sched die { c with savefree := next, savecnt := c.savecnt - 1 } }, f)

/-- Save (R307): each core stops and takes a frame. -/
def saveGroup (s : State) (k : KEntry) : State :=
  let (s1, frames) := k.cores.foldl (fun (t, l) n =>
    let (t1, f) := takeFrame t k.die
    (putCore t1 { getCore t1 k.die n with stopping := true }, l ++ [(n, n % 4, f)])) (s, [])
  modKernel s1 k.id fun e => { e with state := .saving, frames := frames }

/-- The contexts of a group that have retired leave their slots: the last retirement wins over a decision (R25, R95, R312). -/
def sweepGroup (s : State) (die e : Nat) : State :=
  match kernelAt s die e with
  | some k => k.cores.foldl (fun t n => sweepRetired t die n countRetired) s
  | none => s

/-- A context whose DONE and a save request coincide waits with WAIT 5 as it is saved, and retires after its restore (R97). -/
def heldDone (s : State) (k : KEntry) : State :=
  k.cores.foldl (fun t n =>
    let c := getCore t k.die n
    if c.ctx.state = .retired then putCore t { c with ctx := { c.ctx with state := .waiting, wait := .done, park := some .retire } }
    else t) s

/-- The cause that a context was trapped with (R93). -/
def causeOf (c : Context) : Cause :=
  let code := (c.tcause.extractLsb' 0 8).toNat
  (trapCauses.find? fun x => x.code = code).getD .none
where
  /-- The causes of R397 that a trap can have. -/
  trapCauses : List Cause :=
    [.illegalInstruction, .unitAbsent, .misalignedTarget, .misalignedAccess, .fetchPermission, .permission, .noMapping, .badDescriptor,
      .handleRange, .notResident, .scratchpadRange, .bufferAccess, .bankFormat, .storageError, .verdictOperand, .formatConflict,
      .verdictState, .patchSequence, .templateKind, .commandLimit, .ringState, .queueImbalance, .sparseMetadata, .gangMembership,
      .writePointerState, .writePointerFault, .feedState, .indexRange, .barrierState, .nestingDepth, .badRecord, .selfWait,
      .sequenceRange, .blockRange, .sequenceState, .tablePoolEmpty, .windowState, .hearthState, .indexState, .logFull, .poolEmpty,
      .collectiveState, .trapInstruction, .breakpoint, .halt]

/-- A trapped context of a group, that of the lowest core (R402). -/
def trappedCtx (s : State) (k : KEntry) : Option Context :=
  ((takeVictims.sortNat k.cores).map fun n => (getCore s k.die n).ctx).find? fun c => c.state = .trapped

/-- A group that was saved with a trapped context is aborted once it is restored, and one that a trap and a decision other than a save meet
at once (R97, R401; log entries 90 and 104). -/
def abortTrapped (s : State) (k : KEntry) : State :=
  match trappedCtx s k with
  | some c => abortGroup s k.id (causeOf c)
  | none => s

/-- A decision on a group that runs and stands under a request (R306, R307). -/
def decideOn (s : State) (k : KEntry) (v : Victim) : State :=
  match chooseOption s v (optionsOf s k v.yielder.isSome) with
  | some .drain => drainGroup s k
  | some .discard => discardGroup s k
  | some .save => saveGroup s k
  | none => if v.yielder.isSome then modKernel s k.id fun e => { e with victim := none } else s

/-- ESTIMATOR_DECISION (R306, R307). A trap that coincides with it stands in the image of a save and aborts the group otherwise; a DONE that
coincides with a save is saved as waiting, which is a free choice (R97; log entry 104). -/
def execEstimatorDecision (die e : Nat) (s : State) : Out :=
  let t := sweepGroup s die e
  match (kernelAt t die e).filter fun k => k.state = .running with
  | none => .next t
  | some k =>
    match k.victim with
    | none => .next t
    | some v =>
      let saves := chooseOption t v (optionsOf t k v.yielder.isSome) == some .save
      if (trappedCtx t k).isSome ∧ saves = false then .next (abortTrapped t k)
      else if saves = true ∧ Config.freeMiss s.fresh 8 = true then .next (saveGroup (heldDone s k) k)
      else .next (decideOn t k v)

/-! The end of pre-emption, saving and restoring (R102, R105, R278, R307, R308, R311). -/

/-- No started command of the first `n` classes, vector instruction, queued access or begun window instruction is left on a core (R102,
R110, R307, R407). A save does not wait for search commands (R352). -/
def coreQuiet (n : Nat) (k : Core) : Bool :=
  ((List.range n).all fun n => vget k.run n [] == []) && k.ctx.vq == [] && k.ctx.accessQ == [] && !k.ctx.inWindow

/-- Every core of a kernel is quiet. -/
def groupQuiet (s : State) (k : KEntry) : Bool :=
  k.cores.all fun n => coreQuiet (if k.state = .saving then 4 else 5) (getCore s k.die n)

/-- Output feeds have written every pushed element (R216). -/
def feedsQuiet (k : Core) : Bool := k.feeds.toList.all fun f => feedState f != 1 || f.out == []

/-- Input feeds discard what they have buffered, and resume at POS (R216, R400). -/
def dropAhead (k : Core) : Core :=
  { k with feeds := k.feeds.map fun f => if feedState f = 1 ∧ feedOut f = false then { f with ahead := [], done := feedPos f } else f }

/-- A context whose wake-up has come and which has not yet gone on (R95, R97). -/
def woken (c : Context) : Bool := c.state == .waiting && c.park.isNone && c.wait != .done

/-- A context as it is saved (R97, R278, R293): a wake-up that has come is applied, a slot whose last input has arrived is runnable from
`now` on, and declared inputs start over. -/
def savedCtx (e : KEntry) (now : Nat) (c : Context) : Context :=
  match c.state with
  | .waiting => if woken c then addPerf (pastInstr { c with state := .running, wait := .none }) 1 1 else c
  | .loading => if c.inputs = [] then { c with state := .runnable, ready := now } else { c with inputs := usedPrefs e.launch }
  | _ => c

/-- An empty slot of a group's core: its identity is the group's, so that an image which gives it a STATE runs within the group's rights
(R6, R106). -/
def emptyOf (e : KEntry) (c : Context) : Context :=
  if c.state = .empty then
    { c with aspace := e.aspace, kernelId := e.id, groupId := BitVec.ofNat 64 (e.die * 65536 + e.entry), seqTag := e.launch.seqTag }
  else c

/-- A core as its image holds it: with no started context, a loaded one stands in the running slot's place. -/
def savedCore (e : KEntry) (now : Nat) (k : Core) : Core :=
  let k1 := popMarkers { k with
    ctx := emptyOf e (savedCtx e now k.ctx), shadows := k.shadows.map (savedCtx e now)
    q := vset k.q 1 ((queueOf k 1).filter fun x => match x.kind with
      | .input .. => false
      | _ => true) }
  if k1.ctx.state = .empty then
    match k1.shadows with
    | c :: r => { k1 with ctx := c, shadows := r }
    | [] => k1
  else k1

/-- The parked contexts of a group leave the waiters of their barriers, and their lending ends (R278). -/
def leaveWaiters (s : State) (k : KEntry) : State :=
  relend (k.cores.foldl (fun t n =>
    let c := getCore t k.die n
    putCore t { c with ctx := { c.ctx with park := none } }) s)

/-- The words of a core's scratchpad that have an uncorrectable error, those of a failed bank that nothing rebuilds among them: they keep it
over a save, since the image cannot hold what they held (R143, R144; log entry 89). -/
def lostWords (k : Core) : List (BitVec 2 × Nat) :=
  let words (bank : Nat) : List (BitVec 2 × Nat) :=
    (List.range 0x1000).map fun i => (bankBuf bank, (bank - bufBank0 (bankBuf bank)) * 0x1000 + i)
  (k.bad ++ k.failedBanks.flatMap words).eraseDups.filter fun w => badWord k w.1 w.2

/-- Wake-ups that a save applies are acquires like any other: the die's copies go (R97, R229, R241). -/
def saveWakes (s : State) (k : KEntry) : State :=
  if k.cores.any fun n => woken (getCore s k.die n).ctx then dropCopies s k.die else s

/-- Every core's image written and the cores freed, once its parked contexts have left the waiters (R102, R278, R307). NOTIFYs that have
reached their queues stay behind: their events still come. The image reads every word, so single-bit errors are corrected (R143). -/
def saveDone (s : State) (k : KEntry) : State :=
  let left := k.cores.foldl (fun t n => correctWords t k.die n fun _ => true) (leaveWaiters (saveWakes s k) k)
  let kept := k.frames.map fun f =>
    let c := getCore left k.die f.1
    { savedCore k s.order (getCore s k.die f.1) with bars := c.bars, soft := c.soft, bad := lostWords c }
  let s1 := (k.frames.zip kept).foldl (fun t (f, c) => writeImage t f.2.2 c) (k.cores.foldl (fun t n => flushTlb t k.die n) left)
  let open_ (c : Core) : Core := { c with notifies := c.notifies.filter fun n => !decide (n.notified = n.classes) }
  { modKernel (freeCores s1 k.die k.cores) k.id fun e =>
      { e with state := .saved, images := kept.map open_, cores := [], victim := none } with order := s.order + 1 }

/-- PREEMPTION_COMPLETE (R307, R311, R312). -/
def execPreemptionComplete (die e : Nat) (s : State) : Out :=
  match kernelAt s die e with
  | none => .next s
  | some k =>
    let back (t : State) : State :=
      let u := k.cores.foldl (fun t n => putCore t (dropAhead (getCore t die n))) (freeCores (kernelRelease t k) die k.cores)
      modKernel u k.id fun e => { e with state := .eligible, cores := [], victim := none }
    if !groupQuiet s k || !k.cores.all fun n => feedsQuiet (getCore s die n) then .next s
    else match k.state with
      | .draining =>
        if k.cores.all fun n => (getCore s die n).ctx.state == .empty then .next (back s) else .next s
      | .discarding => .next (back s)
      | .saving =>
        let t := saveDone s k
        .next (if k.endCode = 3 then
          (match kernelById t k.id with
          | some k' => savedEnds t k' 3
          | none => t)
        else t)
      | _ => .next s

/-- A barrier's name on the core that restores a context: core and quad barriers are the new core's (R265, R278). -/
def moveKey (die num : Nat) (key : BarKey) : BarKey :=
  match key.level with
  | 0 => coreBar die num key.num
  | 1 => ⟨1, die * 48 + num / 4, key.num⟩
  | _ => key

/-- What a restored context does first. -/
inductive Resumed where
  | as (c : Context)
  /-- the wait of its instruction traps with barrier state -/
  | trap (c : Context)
deriving DecidableEq, Repr

/-- A restored context takes up its wait again (R97, R278): BWAIT for the token in its register, BARW for the one that it wrote into bits
[63:32] of its own; FGET, LWAIT and SHWAIT run again. -/
def resumeWait (s : State) (die num : Nat) (c : Context) : Resumed :=
  let again := { c with state := .running, wait := .none, park := none }
  let reg (r : BitVec 5) : Word := if r = 0 then 0 else vget c.s r.toNat 0
  if c.state ≠ .waiting then .as { c with park := none }
  else match c.park with
    | some (.phase key _ src dst w) =>
      let key' := moveKey die num key
      let b := getBar s key'
      let t := if w then (reg src).extractLsb' 32 32 else (reg src).extractLsb' 0 32
      if b.kind ≠ .phaser then .trap again
      else if phaseDone b.phase t then .as (giveWake c dst (statusWord b t))
      else .as { c with park := some (.phase key' t src dst w) }
    | some .retire => .as c
    | _ => .as (if c.wait = .done then { c with park := some .retire } else again)

/-- A restored command's cores. -/
def moveCommand (die : Nat) (pairs : List (Nat × Nat)) (c : Command) : Command :=
  let place (n : Nat) : Nat := (assocGet pairs n).getD n
  { c with die := die, core := place c.core, gang := c.gang.map place }

/-- The checks of a class on a body (R67, R69). -/
def bodyCheck (s : State) (cls : Nat) (b : BitVec 512) : Except Trap Command :=
  let kind := bodyKind b
  if !kindOk cls kind || reservedSet cls kind b then .error (Trap.of .templateKind)
  else match cls, kind with
    | 0, _ => tileCheck s 0 b
    | 1, _ => copyCheck s 0 b
    | 2, 3 => scoreCheck s 0 b
    | 2, kind => gatherCheck (kind == 2) s 0 b
    | 3, _ => collCheck s 0 b
    | _, 1 => seekCheck s 0 b
    | _, 3 => sappendCheck s 0 b
    | _, _ => plainCheck s 0 b

/-- The NOTIFY of a marker that software has changed in the image (R106, R200): what its entry says. The class in whose queue it stands is
one of its classes even where CLASSES leaves its bit out (log entry 127, DESIGN CHOICE). -/
def changedNotify (s : State) (cls : Nat) (b : BitVec 512) : Except Trap State :=
  let l := bodyNat b 16 3
  let bar := bodyNat b 32 32
  if l ≠ 5 ∧ barCount l ≤ bar then .error (Trap.of .commandLimit)
  else
    let c := s.core.ctx
    let old := s.core.notifies.find? fun n => n.ctxId == c.ctxId
    let n : Notify := ⟨c.ctxId, c.kernelId, c.aspace, s.core.seq, BitVec.ofNat 3 l, BitVec.ofNat 32 bar,
      BitVec.ofNat 6 (bodyNat b 8 6 ||| 2 ^ cls), old.elim 0 fun n => n.notified⟩
    .ok (modCore s fun k => { k with notifies := (k.notifies.filter fun x => !(x.ctxId == c.ctxId)) ++ [n] })

/-- A collective entry of a changed image takes the place of the one that was saved, where that names the same communicator, and else the next
place of its own; the place of one that is gone counts as that of an entry removed unstarted (R390). -/
def changedColl (s : State) (was c : Option Command) : State × Option Command :=
  let old := was.filter fun x => x.kind == .tmpl 1
  let gone (t : State) : State := { t with collGone := t.collGone ++ (old.map collOf).toList }
  match c.filter fun x => x.kind == .tmpl 1, old with
  | some x, some y =>
    if (collOf y).1 = collComm x.body then (s, some { x with part := y.part })
    else (collCounted (gone s) (collComm x.body) s.core.die s.core.num, some x)
  | some x, none => (collCounted s (collComm x.body) s.core.die s.core.num, some x)
  | none, _ => (gone s, c)

/-- An entry whose body in the image is not the one that was saved is restored as it stands (R106): it passes its class's issue checks again,
and where it fails them it stays in its queue and ends there, in its turn, with a record of their cause (log entry 82). `was` is the entry
that was saved in its place. -/
def changedEntry (s : State) (cls : Nat) (was : Option Command) (b : BitVec 512) : State × Option Command :=
  let base := baseCommand s 0 b
  let bad (t : Trap) : Command := { base with kind := .bad (bodyKind b) t.cause t.addr }
  let (s1, c) := if bodyKind b = 255 then
      match changedNotify s cls b with
      | .ok t => (t, { base with kind := .marker })
      | .error t => (s, bad t)
    else match bodyCheck s cls b with
      | .ok c => (s, c)
      | .error t => (s, bad t)
  let s2 := { s1 with order := s1.order + 1 }
  if cls = 3 then changedColl s2 was (some c) else (s2, some c)

/-- The unstarted commands of a class re-enter their queue in their saved order, their captured handles invalid as every handle is
(R105). -/
def restoreQueue (s : State) (frame : Nat) (pairs : List (Nat × Nat)) (kept : Core) (cls : Nat) : State :=
  (imageBodies s frame cls).zipIdx.foldl (fun t (b, i) =>
    let (t1, found) := match (vget kept.q cls [])[i]? with
      | some x => if x.body = b then (t, some (moveCommand s.core.die pairs x)) else changedEntry t cls (some x) b
      | none => changedEntry t cls none b
    match found with
    | some c =>
      modCore t1 fun k => { k with q := vset k.q cls (queueOf k cls ++
        [{ c with src := { c.src with valid := false }, dst := { c.dst with valid := false } }]) }
    | none => t1) s

/-- Signals that core barriers of a saved group were owed, delivered on the cores of its restore (R253, R352). -/
def payOwed (s : State) (k : KEntry) (pairs : List (Nat × Nat)) : State :=
  let q (n : Nat) : Charge := ⟨k.aspace, k.id, 0, k.die, n⟩
  let s1 := k.owed.foldl (fun t (old, n, fault) =>
    let num := (assocGet pairs old).getD old
    signal t (q num) (coreBar k.die num n) fault false) s
  modKernel s1 k.id fun e => { e with owed := [] }

/-- What outlives a save follows its group to its new cores: page requests and started search commands (R253, R352). -/
def followCores (s : State) (k : KEntry) (pairs : List (Nat × Nat)) : State :=
  let place (n : Nat) : Nat := (assocGet pairs n).getD n
  { s with
    promos := s.promos.map fun p => { p with reqs := p.reqs.map fun r => if r.kernelId = k.id then { r with core := place r.core } else r }
    droves := s.droves.map fun d => if d.cmd.kernelId = k.id then { d with cmd := moveCommand k.die pairs d.cmd } else d }

/-- A restored context with what it issues only after: declared inputs start over, and a close that it started is awaited (R95, R342). -/
def resumedCtx (s : State) (k : KEntry) (c : Context) : Context :=
  { c with
    accessQ := [], vq := [], inWindow := false, perf := Vector.replicate 8 0
    inputs := if c.state = .loading then usedPrefs k.launch else []
    awaitClose := s.windows.any fun w => w.closer.any fun x => x.ctxId == c.ctxId }

/-- An image gives a context to a slot that was saved empty. -/
def fillsSlot (kept c : Core) : Bool :=
  (c.ctx :: c.shadows).any fun x => x.state != .empty &&
    !(kept.ctx :: kept.shadows).any fun y => decide (y.slot = x.slot) && y.state != .empty

/-- The names of slots that were saved empty, on the core of the restore: one SERIAL for each of the three, which count as started there where
the image fills any (R92; log entry 82). -/
def emptyName (here : Core) (slot : Nat) : Word := nextCtxId { here with serial := here.serial + BitVec.ofNat 32 slot } slot

/-- A core put back from its image (R105, R308). In guard mode its guard banks are the XOR of the others, whatever the image holds for them
(R144). -/
def restoreCore (s : State) (k : KEntry) (pairs : List (Nat × Nat)) (num frame : Nat) (kept : Core) : State :=
  let here := getCore s k.die num
  let c := readImage s frame kept (emptyName here)
  let c0 : Core := { c with
    num := num, die := k.die, serial := here.serial + (if fillsSlot kept c then 3 else 0), group := here.group, gang := here.gang, lastAspace := some k.aspace
    scrubbing := false, stopping := false, draining := false, soft := [], guardMode := k.guard
    failedBanks := here.failedBanks, withheld := here.withheld, tlbDirty := here.tlbDirty, tlbStores := here.tlbStores
    q := Vector.replicate 5 [], early := [], notifies := here.notifies ++ c.notifies
    ctx := resumedCtx s k c.ctx, shadows := c.shadows.map (resumedCtx s k) }
  let c1 := if k.guard then enterGuard c0 else c0
  let t := focus (putCore s c1) k.die num
  let t1 := modCore ((List.range 5).foldl (fun u cls => restoreQueue u frame pairs kept cls) t) popMarkers
  let c2 := t1.core
  if c2.ctx.state = .empty then modCtx t1 fun x => Context.blank x.slot
  else if c2.ctx.state = .loading ∨ c2.ctx.state = .runnable then
    modCore t1 fun x => { x with shadows := x.ctx :: x.shadows, ctx := Context.blank x.ctx.slot }
  else match resumeWait t1 k.die num c2.ctx with
    | .as x => modCtx t1 fun _ => x
    | .trap x => takeTrap (modCtx t1 fun _ => x) (Trap.of .barrierState)

/-- Every image of a group restored: its frames go back, its contexts run on, and what has become of it meanwhile is applied. -/
def groupRestored (s : State) (k : KEntry) : State :=
  let pairs := (k.frames.map fun f => f.1).zip k.cores
  let parts := k.cores.zip (k.frames.zip k.images)
  let s1 := parts.foldl (fun t (n, f, c) => restoreCore t k pairs n f.2.2 c) (followCores s k pairs)
  let s2 := modKernel (returnFrames s1 k) k.id fun e => { e with state := .running, endCode := if e.endCode = 3 then 0 else e.endCode }
  let s3 := payOwed s2 k pairs
  if k.endCode = 3 then
    (match kernelById s3 k.id with
    | some k' => cancelKernel s3 k'
    | none => s3)
  else abortTrapped s3 k

/-- RESTORE_COMPLETE (R106, R308, R311). -/
def execRestoreComplete (die e : Nat) (s : State) : Out :=
  match (kernelAt s die e).filter fun k => k.state = .restoring with
  | none => .next s
  | some k =>
    if k.frames.all fun f => imageOk s f.2.2 then .next (groupRestored s k)
    else
      let s1 := writeRecord s k.aspace { cause := .badImage, src := 8, kernelId := k.id, die := die }
      .next (abortGroup s1 k.id .badImage)

/-! The end (R296, R297, R311). -/

/-- KERNEL_END (R297): once the group's work has ended its cores are free; once its REDs are over the kernel ends. -/
def execKernelEnd (die e : Nat) (s : State) : Out :=
  match kernelAt s die e with
  | none => .next s
  | some k =>
    if (k.state = .ending ∨ k.state = .stopping) ∧ groupQuiet s k = true then
      if redsDone s k.id then .next (endNow s k.id)
      else .next (modKernel (relend (freeCores (kernelRelease s k) die k.cores)) k.id fun x => { x with cores := [] })
    else .next s

/-- The earlier of two deadlines; 0 is none. -/
def sooner (a b : Nat) : Nat := if a = 0 then b else if b = 0 then a else min a b

/-- A host pre-emption request (R305, R313): a kernel that is not running ignores it. On a group that stands under a request already it
joins that one, with the earlier deadline, and a YIELD's becomes the host's (log entry 80). -/
def hostPreempt (s : State) (die entry dead : Nat) : State :=
  match (kernelAt s die entry).filter fun k => k.state = .running with
  | none => s
  | some k =>
    let due := if dead = 0 then 0 else s.clock + dead
    modKernel s k.id fun e =>
      { e with victim := some (match e.victim with
          | some v => { v with deadline := sooner v.deadline due, yielder := none }
          | none => ⟨due, none, none⟩) }

end Sys2Proof.Machine
end

