-- ==== Sys2Proof/Machine/Link.lean ====
section
/-! DEFINITION. The links: their states (R381, R382), the loss of a path (R386), the requests of other modules (R385), of the host
(R242) and of the network (R394, R395), and the ownership that register writes need (R410). -/

namespace Sys2Proof.Machine

/-! Ownership of the register space (R383, R410). -/

/-- An ignored write from a non-owner counted (R408). -/
def addNown (s : State) : State :=
  { s with mgmt := { s.mgmt with nown := if s.mgmt.nown = 0xFF then 0xFF else s.mgmt.nown + 1 } }

/-- A write that only the owner may make (R410). While the ROM's recovery code runs, no register answers (R412). -/
def ownedDo (s : State) (m : Nat) (f : State → State) : Out :=
  .next (if s.recovery then s else if m ≠ 0 ∧ s.mgmt.owner.toNat = m then f s else addNown s)

/-! Link states (R381). -/

/-- A link by number. -/
def getLink (s : State) (n : Nat) : Link := vget s.links n Link.reset

/-- A link replaced; a change of STATE in a status register raises vector 8 (R393). -/
def putLink (s : State) (n : Nat) (l : Link) : State :=
  let s1 := { s with links := vset s.links n l }
  if l.state = (getLink s n).state ∨ 20 < n then s1 else raiseMsix s1 0 8

/-- A link is up or degraded. -/
def Link.live (l : Link) : Bool := l.state == 2 || l.state == 3

/-- A 16-bit count raised, saturating. -/
def satAdd16 (x : BitVec 16) (n : Nat) : BitVec 16 := BitVec.ofNat 16 (min (x.toNat + n) 0xFFFF)

/-- A link whose EN a write may change (R381, R383): a Kolnel port of KOLMAP, an Ethernet port that has not failed its self-test, and the
die boundary of a module with two dies. -/
def enWrites (s : State) (n : Nat) : Bool :=
  let l := getLink s n
  if n < 18 then (vget s.linkCtl 0 ⟨0, 0, 0, 0, 0⟩).kolmap.getLsbD n
  else if n < 20 then !l.tested || l.passed
  else decide (n = 20) && decide (capsDies s ≠ 1)

/-- EN written 1: a link that passed bring-up and is down, failed or disabled trains; other states are left (R381). -/
def linkOn (s : State) (n : Nat) : State :=
  let l := getLink s n
  if !enWrites s n then s
  else if l.passed && (l.state == 4 || l.state == 5 || l.state == 0) then putLink s n { l with en := true, state := 1, width := 0 }
  else putLink s n { l with en := true }

/-- EN cleared: the link is disabled (R381). -/
def linkOff (s : State) (n : Nat) : State :=
  if enWrites s n then putLink s n { getLink s n with en := false, state := 5, width := 0 } else s

/-- LINK_ENABLE (R381). -/
def execLinkEnable (m link : Nat) (s : State) : Out := ownedDo s m fun t => linkOn t link

/-- LINK_DISABLE (R381). -/
def execLinkDisable (m link : Nat) (s : State) : Out := ownedDo s m fun t => linkOff t link

/-- FLIT_RETRY (R381). -/
def execFlitRetry (link : Nat) (s : State) : Out :=
  let l := getLink s link
  if l.live then .next (putLink s link { l with retry := satAdd16 l.retry 1 }) else .next s

/-- LANE_LOST (R381). -/
def execLaneLost (link : Nat) (s : State) : Out :=
  let l := getLink s link
  if l.live then .next (putLink s link { l with state := 1, width := 0, downs := l.downs + 1 }) else .next s

/-! Lost paths (R386). -/

/-- A byte's home is the given module of the pod. -/
def homedAt (s : State) (pkg pa : Nat) : Bool := isPod (canonPa s pa) && decide (podPkg (canonPa s pa) = pkg)

/-- A queued load or store goes to the given module. -/
def storeTo (s : State) (pkg : Nat) (a : Access) : Bool :=
  match a.kind with
  | .load _ _ pa _ => homedAt s pkg pa
  | .write cells _ => cells.any fun c => homedAt s pkg c.1
  | _ => false

/-- A RED has been sent to the given module. -/
def redTo (s : State) (pkg : Nat) (r : Red) : Bool := r.pa.any (homedAt s pkg)

/-- The contexts of the module. -/
def allCtxs (s : State) : List Context := (allCores s).flatMap fun k => k.ctx :: k.shadows

/-- A started command of a core accesses the given module: its next request there cannot be answered. -/
def commandTo (s : State) (pkg : Nat) (c : Command) : Bool :=
  (c.src.valid && homedAt s pkg c.src.base) || (c.dst.valid && homedAt s pkg c.dst.base)

/-- A context waits at a barrier that is homed at the given module (R265). -/
def parkedAt (s : State) (pkg : Nat) (c : Context) : Bool :=
  decide (pkg = 0) && s.pkgId != 0 &&
    (match c.park with
    | some (.phase key ..) => key.level == 4
    | some (.future key _) => key.level == 4
    | some (.lock key ..) => key.level == 4
    | _ => false)

/-- A saved group aborted (R401): it holds no cores, so its kernel ends at once with END 4, once its REDs have been translated (R236). -/
def abortSaved (s : State) (k : KEntry) (c : Cause) : State := savedEnds (chargeCause s k.id c) k 4

/-- A request that is abandoned: the kernel and the context that issued it, and its core. -/
structure Abandoned where
  kernelId : Word
  ctxId : Word
  die : Nat
  core : Nat
deriving DecidableEq, Repr

/-- A group aborted with a record of SRC 8 and cause "link error", which names the abandoned request's context (R386, R399, R401). -/
def linkAbort (s : State) (x : Abandoned) : State :=
  match kernelById s x.kernelId with
  | none => s
  | some k =>
    let s1 := writeRecord s k.aspace
      { cause := .linkError, src := 8, kernelId := x.kernelId, ctxId := x.ctxId, die := x.die, core := x.core }
    if k.state = .saved then abortSaved s1 k .linkError else abortGroup s1 x.kernelId .linkError

/-- Every group of the module is aborted, a saved one too, and Olulas reports the module failed (R386). -/
def moduleFails (s : State) : State :=
  let ids := (s.kernels.filter fun k => k.state.onCores || k.state == .saved).map fun k => (⟨k.id, 0, k.die, 0⟩ : Abandoned)
  { ids.foldl linkAbort s with reportedFailed := true }

/-- A link's new state; a die boundary or a Quesar path that has failed takes the module with it (R386). -/
def linkMoved (s : State) (n : Nat) (l : Link) : State :=
  let s1 := putLink s n l
  if (n = 20 ∨ n = 21) ∧ l.state = 4 then moduleFails s1 else s1

/-- LINK_TRAINING_DONE (R381): `lanes` of 8, or of the host link's 16, have passed. PEER is the module that a Kolnel port finds at its far
end (R382). -/
def execLinkTrainingDone (link lanes : Nat) (peer : BitVec 10) (s : State) : Out :=
  let l := getLink s link
  let full := if link = 22 then 16 else 8
  if l.state ≠ 1 then .next s
  else
    let p := if link < 18 then peer else 0
    .next (linkMoved s link
      (if full ≤ lanes then { l with state := 2, width := BitVec.ofNat 5 full, peer := p }
      else if full ≤ 2 * lanes then { l with state := 3, width := BitVec.ofNat 5 lanes, peer := p }
      else { l with state := 4, width := 0, downs := l.downs + 1 }))

/-- DROP of each port of a route raised. -/
def dropAt (s : State) (ports : List Nat) (n : Nat) : State :=
  ports.foldl (fun t p => putLink t p { getLink t p with drop := satAdd16 (getLink t p).drop n }) s

/-- The requests of a core that go to a module: of its contexts' queues, of its started commands, and of contexts that wait at barriers
homed there. -/
def requestsTo (s : State) (pkg : Nat) (k : Core) : List Abandoned :=
  (k.ctx :: k.shadows).flatMap (fun c =>
      (c.accessQ.filter (storeTo s pkg)).map (fun _ => ⟨c.kernelId, c.ctxId, k.die, k.num⟩) ++
        if parkedAt s pkg c then [⟨c.kernelId, c.ctxId, k.die, k.num⟩] else []) ++
    ([1, 2].flatMap fun cls => (vget k.run cls []).filter (commandTo s pkg)).map fun c => ⟨c.kernelId, c.ctxId, k.die, k.num⟩

/-- The contexts of a core that fetch from a module (R127, R385). -/
def fetchesFrom (s : State) (pkg : Nat) (k : Core) : List Abandoned :=
  if k.ctx.state != .running then []
  else match walk s k.ctx.aspace k.ctx.pc.toNat with
    | .ok l => if homedAt s pkg (leafPa l k.ctx.pc.toNat) then [⟨k.ctx.kernelId, k.ctx.ctxId, k.die, k.num⟩] else []
    | .error _ => []

/-- Bytes that a die of a lost path holds of a module's lines: their write-back is abandoned too (R386). -/
def heldFor (s : State) (pkg : Nat) (lost : Nat → Bool) (h : HeldByte) : Bool := lost h.die && homedAt s pkg h.addr

/-- The lines among them, each by its die. -/
def heldLines (s : State) (pkg : Nat) (lost : Nat → Bool) : List (Nat × Nat) :=
  ((s.heldBytes.filter (heldFor s pkg lost)).map fun h => (h.die, h.addr / 64)).eraseDups

/-- A core whose requests to a module are abandoned: queued accesses go, and started commands end faulted. -/
def abandonOn (s : State) (pkg : Nat) (k : Core) : Core :=
  let cut (c : Context) : Context := { c with accessQ := c.accessQ.filter fun e => !storeTo s pkg e }
  let stop (c : Command) : Command :=
    if commandTo s pkg c && c.fault.isNone then { c with fault := some ⟨.linkError, 0, c.progress⟩ } else c
  let runs (cls : Nat) (v : Vector (List Command) 5) : Vector (List Command) 5 := vset v cls ((vget v cls []).map stop)
  { k with ctx := cut k.ctx, shadows := k.shadows.map cut, run := runs 2 (runs 1 k.run) }

/-- A started SEEK whose result goes to a module over a lost path. -/
def seekTo (s : State) (pkg : Nat) (lost : Nat → Bool) (d : Drove) : Bool :=
  decide (bodyKind d.cmd.body = 1) && lost d.cmd.die && homedAt s pkg (resultPa d.cmd)

/-- PATH_LOSS_TIMEOUT (R386): of the dies whose route to the module has no port up. Queued accesses, started engine and search commands, REDs,
fetches and waits at the module's barriers are abandoned with their issuers' groups; what a die holds of the module's lines goes too, and has
no issuer any more (log entry 122). -/
def execPathLossTimeout (pkg : Nat) (s : State) : Out :=
  let lost (die : Nat) : Bool := decide (pkg ≠ s.pkgId.toNat) && (portFor s die pkg 0).isNone
  let held := ((allCores s).filter fun k => lost k.die).flatMap fun k => requestsTo s pkg k ++ fetchesFrom s pkg k
  let reds := s.reds.filter fun r => lost r.die && redTo s pkg r
  let seeks := s.droves.filter (seekTo s pkg lost)
  let all := held ++ (reds.map fun r => ⟨r.kernelId, r.ctxId, r.die, r.core⟩) ++
    seeks.map fun d => ⟨d.cmd.kernelId, d.cmd.ctxId, d.cmd.die, d.cmd.core⟩
  let s1 := mapCores
    { s with
      reds := s.reds.filter fun r => !(lost r.die && redTo s pkg r)
      heldBytes := s.heldBytes.filter fun h => !heldFor s pkg lost h } fun k => if lost k.die then abandonOn s pkg k else k
  let s2 := [0, 1].foldl (fun t die => dropAt t (routePorts s die pkg)
    ((all.filter fun x => x.die = die).length + ((heldLines s pkg lost).filter fun x => x.1 = die).length)) s1
  .next (all.eraseDups.foldl linkAbort (seeks.foldl (fun t d => searchEnded t d (some (.linkError, 0))) s2))

/-- The link that fails: the die boundary or the path to the Quesar die, of those that exist; a free choice between the two (log entry 55). -/
def failingLink (s : State) : Option Nat :=
  if capsDies s = 1 then (if capsQuesar s then some 21 else none)
  else if capsQuesar s && Config.freeMiss s.fresh 11 then some 21
  else some 20

/-- DIE_BOUNDARY_FAILURE (R386): of the die boundary, or of the Quesar path. -/
def execDieBoundaryFailure (s : State) : Out :=
  match failingLink s with
  | none => .next s
  | some n =>
    let l := getLink s n
    .next (bumpFresh (linkMoved s n { l with state := 4, width := 0, downs := l.downs + 1 }))

/-! Requests that arrive from outside (R242, R385, R394, R395). -/

/-- An access from outside to bytes of the near or far tier: it waits while a RED holds them (R236). -/
def outsideDo (s : State) (pa n : Nat) (f : State → State) : Out := if redHolds s pa n then .next s else .next (f s)

/-- Every line of an access is free of uncorrectable errors (R416). -/
def cleanAt (s : State) (pa n : Nat) : Bool := (badByte s pa n).isNone

/-- The answer to a request from outside. -/
def answered (s : State) (bytes : List Byte) : State := { s with answer := bytes }

/-- Memory that the host reaches: the module's near and far tiers through CXL.mem, and its own, coherent with the module's device cache
(R242, R392). It reaches them all the same where CAPS.CXL reads 0: the manual names no effect of that (log entry 98). -/
def hostReaches (s : State) (pa : Nat) : Bool := isNear s pa || isFar s pa || isHostPa pa

/-- HOST_MEMORY_ACCESS (R242, R392): a line read, or bytes of one line written, in the module's memory or in the host's own. Any other
address completes with Unsupported Request. -/
def execHostMemoryAccess (pa : Nat) (wr : Option (List (BitVec 8))) (s : State) : Out :=
  if !hostReaches s pa then .next (answered s [])
  else
    let line := pa / 64 * 64
    match wr with
    | none =>
      outsideDo s line 64 fun t =>
        answered (seenAt t line) (if cleanAt t line 64 then rdHome t line 64 else Config.freeBytes t.fresh)
    | some bytes =>
      let bs := bytes.take (line + 64 - pa)
      outsideDo s pa bs.length fun t => seenAt (answered (wrHomeBytes t pa bs) []) pa

/-- The result of a compare and swap. -/
def casNew (old e v : Nat) : Nat := if old = e then v else old

/-- An atomic from outside at its home: the old value is the answer (R234, R242, R385). -/
def outsideAtomic (s : State) (pa n : Nat) (f : Nat → Nat) : Out :=
  if pa % n ≠ 0 ∨ cleanAt s pa n = false then .next (answered s [])
  else outsideDo s pa n fun t =>
    let old := rdHomeNat t pa n
    seenAt (answered (wrHomeNat t pa n (f old)) (leBytes n old)) pa

/-- HOST_ATOMIC (R242): FetchAdd 0, Swap 1, CAS 2; of 32 or 64 bits. -/
def execHostAtomic (op : BitVec 2) (sz : BitVec 1) (pa : Nat) (v e : BitVec 64) (s : State) : Out :=
  let n := if sz = 0 then 4 else 8
  if op = 3 ∨ hostReaches s pa = false then .next (answered s [])
  else
    outsideAtomic s pa n fun old =>
      match op.toNat with
      | 0 => (old + v.toNat) % 2 ^ (8 * n)
      | 1 => v.toNat % 2 ^ (8 * n)
      | _ => casNew old (e.toNat % 2 ^ (8 * n)) (v.toNat % 2 ^ (8 * n))

/-- The answer to a barrier operation. -/
def barAnswer (s : State) (c : Cause) (v : Word) : State := answered s (barReply c v)

/-- A waiter of another module recorded on a pod lock, in the order of arrival; it lends its priority (R277). -/
def podWaiting (s : State) (key : BarKey) (holder : BitVec 48) (group : BitVec 16) (prio : BitVec 8) : State :=
  let w : PodWait := ⟨key.num, s.order, holder, group, prio⟩
  lendOn { s with podWaits := s.podWaits ++ [w], order := s.order + 1 } prio ((allCores s).length + s.podWaits.length + 2) key

/-- A waiter of another module leaves a pod lock, and its lending ends (R278). -/
def podLeaves (s : State) (key : BarKey) (holder : BitVec 48) : State :=
  relend { s with podWaits := s.podWaits.filter fun w => !decide (podKey w.num = key ∧ w.holder = holder) }

/-- A request of another module answered, and behind it the waits that it ends. -/
def answeredFirst (s : State) (reply : List Byte) (f : State → State) : State :=
  let t := f (answered s [])
  answered t (reply ++ t.answer)

/-- A wait of another module recorded: it is answered when it is over. -/
def podParked (s : State) (w : PodPark) : State := answered { s with podParks := s.podParks ++ [w] } []

/-- A barrier operation of another module, at the pod barrier's home (R265, R270 to R277, R417). BWAIT, FGET and LWAIT that have to wait are
answered when the phase completes, the future is filled or the lock is handed over. -/
def podBarrier (s0 : State) (key : BarKey) (op : PodBarOp) : State :=
  let s := match op with
    | .join .. => testBar s0 key
    | .wait _ => testBar s0 key
    | .test => testBar s0 key
    | _ => s0
  let b := getBar s key
  let unfit : State := barAnswer s .barrierState 0
  let done (f : State → State) (v : Word) : State := answeredFirst s (barReply .none v) f
  match op with
  | .join kind mode =>
    match joined 4 b (barKindOf kind) mode with
    | .error c => barAnswer s c 0
    | .ok b' => barAnswer (putBar s key b') .none (b'.phase.zeroExtend 64)
  | .drop mode => if dropOk s key b mode then done (fun t => dropMember t key b mode) 0 else unfit
  | .arrive fault ginc =>
    if b.kind ≠ .phaser then unfit else done (fun t => arrive t key fault ginc) (b.phase.zeroExtend 64)
  | .bytes n fault => if b.kind ≠ .phaser then unfit else done (fun t => takeBytes t key n fault) 0
  | .expect n =>
    if b.kind ≠ .phaser ∨ 2 ^ 40 ≤ n.toNat ∨ 2 ^ 40 ≤ b.pending + n.toNat then unfit
    else barAnswer (putBar s key { b with pending := b.pending + n.toNat }) .none 0
  | .wait token =>
    if b.kind ≠ .phaser then unfit
    else if phaseDone b.phase token then barAnswer s .none (statusWord b token)
    else podParked s ⟨key.num, some token⟩
  | .fill v =>
    if b.kind ≠ .future ∨ b.full = true then unfit
    else done (fun t => wakeFuture (putBar t key { b with value := v, full := true }) key v) 0
  | .get =>
    if b.kind ≠ .future then unfit else if b.full then barAnswer s .none b.value else podParked s ⟨key.num, none⟩
  | .test => if b.kind = .free then unfit else barAnswer s .none (testWord b)
  | .lockWait holder group prio =>
    let me := holder.extractLsb' 0 48
    if b.kind ≠ .lock ∨ (b.held = true ∧ b.holder = me) then unfit
    else if b.held then answered (podWaiting s key me group prio) []
    else
      barAnswer (putBar s key { b with held := true, holder := me, hgroup := group, abandoned := false }) .none
        (if b.abandoned then 1 else 0)
  | .release holder =>
    if b.kind ≠ .lock ∨ b.held = false ∨ b.holder ≠ holder.extractLsb' 0 48 then unfit
    else done (fun t => lockRelease t key false) 0
  | .abandon holder =>
    if b.kind ≠ .lock ∨ b.held = false ∨ b.holder ≠ holder.extractLsb' 0 48 then unfit
    else done (fun t => lockRelease t key true) 0
  | .leave token => barAnswer { s with podParks := s.podParks.erase ⟨key.num, token⟩ } .none 0
  | .lockLeave holder => barAnswer (podLeaves s key (holder.extractLsb' 0 48)) .none 0

/-- POD_REQUEST (R244, R265, R385): offsets lie in this module's near tier. The pod barriers are homed at the module whose PKG is 0. Where
this module is another, State holds them all the same, and an operation that a further module performs at their home arrives here too
(log entry 96). -/
def execPodRequest (req : PodReq) (s : State) : Out :=
  let mask (sz : BitVec 1) (v : BitVec 64) : Nat := if sz = 0 then v.toNat % 2 ^ 32 else v.toNat
  let size (sz : BitVec 1) : Nat := if sz = 0 then 4 else 8
  match req with
  | .load off n =>
    if isNear s off && isNear s (off + n - 1) && cleanAt s off n then
      outsideDo s off n fun t => answered (seenAt t off) (rdHome t off n)
    else .next (answered s [])
  | .store off bytes =>
    if isNear s off && isNear s (off + bytes.length - 1) then
      outsideDo s off bytes.length fun t => seenAt (answered (wrHomeBytes t off bytes) []) off
    else .next (answered s [])
  | .atom op sz off v =>
    if isNear s off then outsideAtomic s off (size sz) fun old => atomNew op (size sz) old (mask sz v) else .next (answered s [])
  | .cas sz off e v =>
    if isNear s off then outsideAtomic s off (size sz) fun old => casNew old (mask sz e) (mask sz v) else .next (answered s [])
  | .red op sz off v =>
    if isNear s off then outsideAtomic s off (size sz) fun old => atomNew op (size sz) old (mask sz v) else .next (answered s [])
  | .barrier n op => if n < barCount 4 then .next (podBarrier s (podKey n) op) else .next (answered s [])

/-! The network (R394, R395). -/

/-- An Ethernet port runs. -/
def ethUp (s : State) (port : Nat) : Bool := decide (port < 2) && (getLink s (18 + port)).live

/-- The physical address of a byte that the network accesses, where its page is resident with the right. -/
def netByte (s : State) (aspace : BitVec 12) (write : Bool) (va : Nat) : Option Nat :=
  match walk s aspace va with
  | .error _ => none
  | .ok l =>
    let pa := leafPa l va
    if dState l.desc = 1 && (if write then dW l.desc else dR l.desc) && (windowAt s pa).isNone then some pa else none

/-- The physical addresses of bytes that the network accesses, if it may access them all. -/
def netBytes (s : State) (aspace : BitVec 12) (write : Bool) (va n : Nat) : Option (List Nat) :=
  (List.range n).mapM fun i => netByte s aspace write (va + i)

/-- Bytes that land from the network, performed at .pkg with their pages marked dirty (R256, R395). -/
def netLand (s : State) (aspace : BitVec 12) (va : Nat) (pas : List Nat) (bytes : List Byte) : State :=
  (List.range bytes.length).foldl (fun t i => if i % 4096 = 0 ∨ (va + i) % 4096 = 0 then setDirty t aspace (va + i) else t)
    (wrHome s (pas.zip bytes))

/-- A RED that waits at its home holds bytes that the network accesses (R236). -/
def netHeld (s : State) (pas : List Nat) : Bool := decide (s.reds ≠ []) && pas.any fun pa => redHolds s pa 1

/-- ROCEV2_MESSAGE (R394): the bytes of a SEND or RDMA WRITE land, an RDMA READ answers, and a SEND that finds no posted buffer does
nothing. -/
def execRocev2Message (qp : Nat) (msg : RoceMsg) (s : State) : Out :=
  if 16384 ≤ qp ∨ capsEth s = false ∨ (ethUp s 0 || ethUp s 1) = false then .next s
  else
    let land (aspace : BitVec 12) (va : Nat) (bytes : List Byte) : Out :=
      match netBytes s aspace true va bytes.length with
      | none => .next s
      | some pas => if netHeld s pas then .next s else .next (netLand s aspace va pas bytes)
    match msg with
    | .send aspace va bytes => land aspace va.toNat bytes
    | .write aspace va bytes => land aspace va.toNat bytes
    | .read aspace va n =>
      match netBytes s aspace false va.toNat n with
      | none => .next s
      | some pas => if netHeld s pas then .next s else .next (answered s (pas.map fun pa => memRead s.mem (canonPa s pa)))
    | .noBuffer => .next s

/-- A tagged message that launches nothing (R395). -/
def tagDropped (s : State) (port : Nat) : State :=
  let l := getLink s (18 + port)
  putLink s (18 + port) { l with drop := satAdd16 l.drop 1 }

/-- The record of an armed launch with its payload and slot addresses (R290). -/
def armedRec (r : LaunchRec) (va slot : Word) : LaunchRec :=
  let put (args : List Word) (n : Nat) (v : Word) : List Word := if n = 0 then args else args.set (n - 1) v
  { r with args := put (put r.args r.parg va) r.harg slot }

/-- An armed launch (R290, R366): none where no Steward entry is free. -/
def armedLaunch (s : State) (x : Arm) (stream : BitVec 32) (va : Word) : Option State :=
  let (s1, slot) := if stream = 0 then (s, 0) else bindLaunch s x.die x.aspace stream
  match accept s1 x.die x.aspace 0 (armedRec x.launch va slot) with
  | none => none
  | some (s2, _) => some (if x.once then { s2 with arms := s2.arms.filter fun y => !decide (y.tag = x.tag) } else s2)

/-- TAGGED_LAUNCH_MESSAGE (R290, R395): the payload, header first, lands at `va`; then the launch, unless its CBAR is not allotted
(R284). A launch for a stream is serialised with the operations on its entry: it waits for those that arrived earlier (R363). -/
def execTaggedLaunchMessage (port : Nat) (aspace : BitVec 12) (tag : BitVec 32) (hdr : BitVec 128) (va : BitVec 64)
    (pay : List (BitVec 8)) (s : State) : Out :=
  let bytes := leBytes 16 hdr.toNat ++ pay
  if capsEth s = false ∨ ethUp s port = false then .next s
  else match netBytes s aspace true va.toNat bytes.length with
    | none => .next s
    | some pas =>
      let landed := netLand s aspace va.toNat pas bytes
      if netHeld s pas then .next s
      else match s.arms.find? fun x => x.tag == tag && x.aspace == aspace with
      | none => .next (tagDropped landed port)
      | some x =>
        if hdr.extractLsb' 32 96 ≠ 0 ∨ cbarAllotted s x.die x.aspace x.launch = false then .next (tagDropped landed port)
        else if streamBusy s x.die x.aspace (hdr.extractLsb' 0 32) then .next s
        else .next ((armedLaunch landed x (hdr.extractLsb' 0 32) va).getD s)

end Sys2Proof.Machine
end

