-- ==== Sys2Proof/Machine/Mgmt.lean ====
section
/-! DEFINITION. The register space (R4, R383), the management block and ownership (R408 to R411), bring-up, firmware, attestation and
power (R412 to R414), and errors and failed banks of the scratchpad (R143, R144). -/

namespace Sys2Proof.Machine

/-! Writes of part of a block (R4, R383). -/

/-- A block's bits with the written bytes in place. -/
def merge (old rel size v : Nat) : Nat :=
  old % 2 ^ (8 * rel) + v % 2 ^ (8 * size) * 2 ^ (8 * rel) + old / 2 ^ (8 * (rel + size)) * 2 ^ (8 * (rel + size))

/-- A write covers a bit of its block. -/
def covers (rel size bit : Nat) : Bool := decide (8 * rel ≤ bit) && decide (bit < 8 * (rel + size))

/-- A field of a block. -/
def regField (x hi lo : Nat) : BitVec (hi + 1 - lo) := BitVec.ofNat _ (natBits x hi lo)

/-! The page control block (R258). -/

/-- The writable bits of the page control block. -/
def pageImage (p : PageCtl) : Nat :=
  p.shoot.toNat + p.dirbase.toNat * 2 ^ 64 + p.tpbase.toNat * 2 ^ 128 + p.tpref.toNat * 2 ^ 192 + p.tpfree.toNat * 2 ^ 256 +
    p.nqbase.toNat * 2 ^ 320 + p.dirlog.toNat * 2 ^ 408 + p.nqlog.toNat * 2 ^ 412 + p.nqhead.toNat * 2 ^ 416 +
    p.nqtail.toNat * 2 ^ 432 + p.plate.toNat * 2 ^ 448 + p.nqdrop.toNat * 2 ^ 480

/-- SHOOT written: ignored while BUSY; bit 0 starts a shoot-down on both dies (R251, R258). `starts`: the write covers bit 0. -/
def shootWrite (s : State) (v : Word) (starts : Bool) : State :=
  if s.pageCtl.shoot.getLsbD 0 then s
  else
    let x := v &&& 0xFFFFFFFFFFFFF0F1
    let s1 := { s with pageCtl := { s.pageCtl with shoot := x } }
    if starts && v.getLsbD 0 then shootPage s1 (x.extractLsb' 52 12) ((x.extractLsb' 12 40).zeroExtend 52) (x.extractLsb' 4 4) true
    else s1

/-- A write to the page control block, from either die's block (R258). -/
def pageWrite (s : State) (rel size v : Nat) : State :=
  let x := merge (pageImage s.pageCtl) rel size v
  let p := s.pageCtl
  let s1 := { s with pageCtl := { p with
    nqdrop := regField x 511 480, plate := regField x 479 448, nqhead := regField x 431 416, nqlog := regField x 415 412
    dirlog := regField x 411 408, nqbase := regField x 383 320, tpfree := regField x 319 256, tpref := regField x 255 192
    tpbase := regField x 191 128, dirbase := regField x 127 64 } }
  if rel < 8 then shootWrite s1 (regField x 63 0) (covers rel size 0) else s1

/-- SHOOT (R258). -/
def execShoot (m : Nat) (v : BitVec 64) (s : State) : Out := ownedDo s m fun t => shootWrite t v true

/-! LAUNCH (R289). -/

/-- A launch request taken and answered; "full" before BDONE (R289, R409). The vector follows the write of the status word (R393). -/
def launchWrite (s : State) (die : Nat) (v : Word) : State :=
  let req := natBits v.toNat 51 5 * 32
  let (s1, st) := if s.mgmt.bdone then hostLaunch s die req else (s, BitVec.allOnes 64)
  let status := rdHomeNat s (req + 16) 8
  if backed s1 status then raiseMsix (wrHomeNat s1 status 8 st.toNat) 0 (2 * die + 1) else s1

/-- LAUNCH (R289). -/
def execLaunch (m die : Nat) (v : BitVec 64) (s : State) : Out :=
  ownedDo s m fun t => if die < capsDies t then launchWrite { t with launchReg := vset t.launchReg die v } die v else t

/-! The scheduler block (R313). -/

/-- A die's scheduler block. -/
def getSched (s : State) (die : Nat) : SchedCtl := vget s.sched die ⟨0, 0, false, 0, 0, 0, 0⟩

/-- The bits of a scheduler block, with PENTRY and PDEAD as last written. -/
def schedImage (c : SchedCtl) : Nat :=
  c.savefree.toNat + c.savecnt.toNat * 2 ^ 64 + (if c.recovery then 2 ^ 96 else 0) + c.dline.toNat * 2 ^ 128 +
    c.dlprio.toNat * 2 ^ 144 + c.pentry.toNat * 2 ^ 192 + c.pdead.toNat * 2 ^ 208

/-- A write to a scheduler block; GO makes a host pre-emption request (R305, R313). -/
def schedWrite (s : State) (die rel size v : Nat) : State :=
  let x := merge (schedImage (getSched s die)) rel size v
  let c : SchedCtl :=
    { dlprio := regField x 151 144, dline := regField x 143 128, recovery := x.testBit 96, savecnt := regField x 95 64
      savefree := BitVec.ofNat 64 (natBits x 51 16 * 2 ^ 16), pentry := regField x 207 192, pdead := regField x 239 208 }
  let s1 := { s with sched := vset s.sched die c }
  if covers rel size 240 && x.testBit 240 then hostPreempt s1 die c.pentry.toNat c.pdead.toNat else s1

/-- HOST_PREEMPTION_REQUEST (R313). -/
def execHostPreemptionRequest (m die : Nat) (entry : BitVec 16) (dead : BitVec 32) (s : State) : Out :=
  ownedDo s m fun t =>
    if die < capsDies t then
      hostPreempt { t with sched := vset t.sched die { getSched t die with pentry := entry, pdead := dead } } die entry.toNat dead.toNat
    else t

/-! The other blocks of R383. -/

/-- The bits of a Hearth control block (R362). -/
def hearthImage (h : HearthCtl) : Nat := h.region.toNat + h.nopin.toNat * 2 ^ 16 + h.silence.toNat * 2 ^ 32

/-- A write to a Hearth control block (R362): REGION is held while an entry of the die is pinned or evicting. -/
def hearthWrite (s : State) (die rel size v : Nat) : State :=
  let h := vget s.hearth die ⟨0, 0, 0⟩
  let x := merge (hearthImage h) rel size v
  let busy := s.streams.any fun e => e.die == die && e.held
  let h' : HearthCtl := ⟨regField x 47 32, regField x 31 16, if busy then h.region else regField x 5 0⟩
  { s with hearth := vset s.hearth die h' }

/-- A die's link control block. -/
def getLinkCtl (s : State) (die : Nat) : LinkCtl := vget s.linkCtl die ⟨0, 0, 0, 0, 0⟩

/-- A write to a link control block (R384): KOLMAP and REEVEMAP are read-only. -/
def linkCtlWrite (s : State) (die rel size v : Nat) : State :=
  let c := getLinkCtl s die
  let x := merge (c.routebase.toNat + c.commbase.toNat * 2 ^ 64 + c.qpbase.toNat * 2 ^ 128) rel size v
  { s with linkCtl := vset s.linkCtl die { c with
    qpbase := regField x 191 128, commbase := regField x 127 64, routebase := regField x 63 0 } }

/-- A write to the Quesar control block (R383). -/
def quesarBaseWrite (s : State) (rel size v : Nat) : State :=
  if capsQuesar s then
    { s with quesarBase := BitVec.ofNat 64 (natBits (merge s.quesarBase.toNat rel size v) 51 7 * 2 ^ 7) }
  else s

/-- A write to a link's status register (R381 to R383): on a part with one die the die boundary's ignores it, and EN as `enWrites` says. -/
def linkWrite (s : State) (n rel size v : Nat) : State :=
  let l := getLink s n
  if n = 20 ∧ capsDies s = 1 then s
  else
    let x := merge (l.retry.toNat * 2 ^ 48 + l.drop.toNat * 2 ^ 32 + (if l.en then 2 ^ 11 else 0)) rel size v
    let s1 := putLink s n { l with retry := regField x 63 48, drop := regField x 47 32 }
    if rel = 0 then (if x.testBit 11 then linkOn s1 n else linkOff s1 n) else s1

/-- A block of the register space of PCIe function 0 (R383). -/
inductive Block where
  | page | launch (die : Nat) | sched (die : Nat) | hearth (die : Nat) | linkCtl (die : Nat) | quesar | link (n : Nat)
deriving DecidableEq, Repr

/-- The block in which an access wholly lies, and its offset there (R383). -/
def blockAt (s : State) (off size : Nat) : Option (Block × Nat) :=
  let die := off / 0x100000
  let o := off % 0x100000
  if die < 2 then
    if capsDies s ≤ die then none
    else if o + size ≤ 0x40 then some (.page, o)
    else if 0x40 ≤ o ∧ o + size ≤ 0x48 then some (.launch die, o - 0x40)
    else if 0x80 ≤ o ∧ o + size ≤ 0xA0 then some (.sched die, o - 0x80)
    else if 0xA0 ≤ o ∧ o + size ≤ 0xA8 then some (.hearth die, o - 0xA0)
    else if 0xC0 ≤ o ∧ o + size ≤ 0x100 then some (.linkCtl die, o - 0xC0)
    else none
  else if 0x800000 ≤ off ∧ off + size ≤ 0x800008 then some (.quesar, off - 0x800000)
  else if 0x900000 ≤ off ∧ off + size ≤ 0x900090 then some (.link ((off - 0x900000) / 8), off % 8)
  else if 0x900100 ≤ off ∧ off + size ≤ 0x900110 then some (.link (18 + (off - 0x900100) / 8), off % 8)
  else if 0x900200 ≤ off ∧ off + size ≤ 0x900208 then some (.link 20, off % 8)
  else none

/-- An owner's write to a block (R383). -/
def blockWrite (s : State) (b : Block) (rel size v : Nat) : State :=
  match b with
  | .page => pageWrite s rel size v
  | .launch die =>
    let x := BitVec.ofNat 64 (merge (vget s.launchReg die 0).toNat rel size v)
    let s1 := { s with launchReg := vset s.launchReg die x }
    if covers rel size 63 then launchWrite s1 die x else s1
  | .sched die => schedWrite s die rel size v
  | .hearth die => hearthWrite s die rel size v
  | .linkCtl die => linkCtlWrite s die rel size v
  | .quesar => quesarBaseWrite s rel size v
  | .link n => linkWrite s n rel size v

/-! The management block (R408 to R411). -/

/-- The management block replaced; a change that R393 names raises its vector. -/
def putMgmt (s : State) (g : Mgmt) : State :=
  let old := s.mgmt
  let s1 := { s with mgmt := g }
  if g.ready = old.ready ∧ g.failed = old.failed ∧ g.bdone = old.bdone ∧ g.throt = old.throt ∧ g.owner = old.owner then s1
  else raiseMsix s1 1 0

/-- OWNER and HANDTO after a write that covers them, or none where it is counted (R410). -/
def ownNext (owner handto m c h : BitVec 3) : Option (BitVec 3 × BitVec 3) :=
  if c = 0 ∧ h = 0 then (if owner = m then some (0, 0) else none)
  else if c = 0 then (if owner = m then some (owner, h) else none)
  else if c = m ∧ owner = m then some (owner, h)
  else if c ≠ m then none
  else if owner = 0 then some (m, handto)
  else if handto = m then some (m, 0)
  else none

/-- A write of bits [31:0] acts on ownership (R410). -/
def ownWrite (s : State) (m c h : BitVec 3) : State :=
  match ownNext s.mgmt.owner s.mgmt.handto m c h with
  | some (o, t) => putMgmt s { s.mgmt with owner := o, handto := t }
  | none => addNown s

/-- ALLOT written (R411). It names no quad and no die: it covers that number in every quad or die of the module. -/
def allotWrite (s : State) (v : Word) : State :=
  let level := (v.extractLsb' 60 3).toNat
  let n := (v.extractLsb' 0 11).toNat
  let used := s.netBars.any fun b => decide (b.1.level = level) && decide (b.1.num = n) && b.2.kind != .free
  if v.extractLsb' 11 37 ≠ 0 ∨ level = 0 ∨ 4 < level ∨ barCount level ≤ n ∨ used = true then s
  else
    let rest := s.allots.filter fun a => !decide (a.1 = level ∧ a.2.1 = n)
    { s with allots := if v.getLsbD 63 then rest ++ [(level, n, v.extractLsb' 48 12)] else rest }

/-- FRING written (R411). -/
def fringWrite (s : State) (v : Word) : State :=
  let aspace := v.extractLsb' 52 12
  let pa := natBits v.toNat 51 6 * 64
  if pa = 0 then { s with frings := s.frings.filter fun f => !decide (f.1 = aspace) }
  else if isNear s pa then { s with frings := assocSet s.frings aspace pa }
  else s

/-- A part of PKGSET taken by its first write; PKG_ID takes the value once both are written (R408). -/
def pkgWrite (s : State) (low high : Bool) (v : BitVec 10) : State :=
  let g := s.mgmt
  let lo := if low && !g.pkgw.getLsbD 0 then v.extractLsb' 0 4 else g.pkgset.extractLsb' 0 4
  let hi := if high && !g.pkgw.getLsbD 1 then v.extractLsb' 4 6 else g.pkgset.extractLsb' 4 6
  let w := g.pkgw ||| (if low then 1 else 0) ||| (if high then 2 else 0)
  { s with mgmt := { g with pkgset := hi ++ lo, pkgw := w }, pkgId := if w = 3 then hi ++ lo else s.pkgId }

/-- PLIMIT's limits (R414). -/
def clampLimit (part : Part) (v : BitVec 12) : BitVec 12 :=
  let top : BitVec 12 := if part = .a then 2800 else 1300
  if top.toNat < v.toNat then top else if v.toNat < 400 then 400 else v

/-- PLIMIT written (R414). -/
def limitWrite (s : State) (v : BitVec 12) : State := { s with mgmt := { s.mgmt with plimit := clampLimit s.part v } }

/-- The writable bits of the management block beside ownership. -/
def mgmtImage (s : State) : Nat :=
  let g := s.mgmt
  g.frlost.toNat * 2 ^ 45 + g.nown.toNat * 2 ^ 52 + g.pkgset.toNat * 2 ^ 60 + g.plimit.toNat * 2 ^ 72 + g.serr.toNat * 2 ^ 96 +
    s.fringReg.toNat * 2 ^ 128 + s.allotReg.toNat * 2 ^ 192

/-- The fields of a management write beside CLAIM and HANDTO (R408, R411, R414). -/
def mgmtFields (s : State) (off size v : Nat) : State :=
  let x := merge (mgmtImage s) off size v
  let s1 := { s with
    mgmt := { s.mgmt with frlost := regField x 51 45, nown := regField x 59 52, serr := regField x 127 96 }
    fringReg := regField x 191 128, allotReg := regField x 255 192 }
  let s2 := pkgWrite s1 (covers off size 60) (covers off size 64) (regField x 69 60)
  let s3 := if covers off size 72 then limitWrite s2 (regField x 83 72) else s2
  let s4 := if covers off size 191 then fringWrite s3 s3.fringReg else s3
  if covers off size 255 then allotWrite s4 s4.allotReg else s4

/-- The management block as it reads (R408). -/
def mgmtRead (s : State) : Nat :=
  let g := s.mgmt
  g.owner.toNat + g.handto.toNat * 2 ^ 8 + g.ready.toNat * 2 ^ 24 + g.failed.toNat * 2 ^ 34 + (if g.bdone then 2 ^ 44 else 0) +
    g.frlost.toNat * 2 ^ 45 + g.nown.toNat * 2 ^ 52 + g.pkgset.toNat * 2 ^ 60 + (if g.pkgw = 3 then 2 ^ 70 else 0) +
    (if g.throt then 2 ^ 71 else 0) + g.plimit.toNat * 2 ^ 72 + g.pmeas.toNat * 2 ^ 84 + g.serr.toNat * 2 ^ 96

/-- A write to the management block (R410). A non-owner's write is counted where a field of the block would have read otherwise. -/
def mgmtWrite (s : State) (m : BitVec 3) (off size v : Nat) : State :=
  if off = 0 then
    let s1 := ownWrite s m (regField v 5 3) (regField v 10 8)
    let s2 := mgmtFields s1 off size v
    if s1.mgmt.owner = m then s2
    else if mgmtRead s2 = mgmtRead s1 ∧ s2.pkgId = s1.pkgId then s1
    else addNown s1
  else if s.mgmt.owner = m then mgmtFields s off size v
  else addNown s

/-- A management write by a master (R408): codes 1 to 4. -/
def mastersWrite (s : State) (m off size v : Nat) : Out :=
  .next (if s.recovery ∨ m = 0 ∨ 4 < m then s else mgmtWrite s (BitVec.ofNat 3 m) off size v)

/-- CLAIM (R410). -/
def execClaim (m : Nat) (c h : BitVec 3) (s : State) : Out := mastersWrite s m 0 4 (c.toNat * 8 + h.toNat * 256)

/-- OWNERSHIP_RELEASE (R410). -/
def execOwnershipRelease (m : Nat) (s : State) : Out := mastersWrite s m 0 4 0

/-- HANDOVER (R410). -/
def execHandover (m : Nat) (h : BitVec 3) (s : State) : Out := mastersWrite s m 0 4 (h.toNat * 256)

/-- FUNCTION_LEVEL_RESET (R410): of an owning PCIe function, or the loss of the owning I3C controller. -/
def execFunctionLevelReset (m : Nat) (s : State) : Out :=
  .next (if (m = 1 ∨ m = 2 ∨ m = 4) ∧ s.mgmt.owner.toNat = m then putMgmt s { s.mgmt with owner := 0, handto := 0 } else s)

/-- ALLOT (R411). -/
def execAllot (m : Nat) (v : BitVec 64) (s : State) : Out := ownedDo s m fun t => allotWrite { t with allotReg := v } v

/-- FRING (R411). -/
def execFring (m : Nat) (v : BitVec 64) (s : State) : Out := ownedDo s m fun t => fringWrite { t with fringReg := v } v

/-- PKGSET (R408): `part` tells which of its two parts the write covers. -/
def execPkgset (m : Nat) (part : BitVec 2) (v : BitVec 10) (s : State) : Out :=
  ownedDo s m fun t => pkgWrite t (part.getLsbD 0) (part.getLsbD 1) v

/-- PLIMIT (R414). -/
def execPlimit (m : Nat) (v : BitVec 12) (s : State) : Out := ownedDo s m fun t => limitWrite t v

/-! The MSI-X tables (R392, R393; log entry 97). -/

/-- The vector whose control word an access to a function's MSI-X table covers: the fourth word of the vector's 16 bytes. -/
def msixVector (off size : Nat) : Option Nat :=
  if off + size ≤ 64 * 16 ∧ (off + size) % 16 = 0 then some (off / 16) else none

/-- A vector's mask bit written (R393): unmasked, it sends the one message that its Pending Bit stands for. -/
def msixWrite (s : State) (fn vec : Nat) (mask : Bool) : State :=
  let bit : BitVec 64 := BitVec.ofNat 64 (2 ^ vec)
  let old := vget s.msixMask fn 0
  let s1 := { s with msixMask := vset s.msixMask fn (if mask then old ||| bit else old &&& ~~~bit) }
  let pend := vget s.msixPend fn 0
  if !mask && pend.getLsbD vec then { s1 with msix := s1.msix ++ [(fn, vec)], msixPend := vset s1.msixPend fn (pend &&& ~~~bit) } else s1

/-- A write to a function's MSI-X table: of its words State holds the mask bits. -/
def msixTableWrite (s : State) (fn off size v : Nat) : State :=
  match msixVector off size with
  | some vec => msixWrite s fn vec (v.testBit (if size = 8 then 32 else 0))
  | none => s

/-- REGISTER_WRITE (R4, R383, R393, R408): a write of 4 or 8 aligned bytes to function 0 or 1, or, as 2 and 3, to the MSI-X table of
function 0 or 1 (log entry 97); any other completes with Unsupported Request. -/
def execRegisterWrite (m fn off size : Nat) (v : BitVec 64) (s : State) : Out :=
  if (size ≠ 4 ∧ size ≠ 8) ∨ off % size ≠ 0 then .next s
  else if fn = 1 then (if off + size ≤ 32 then mastersWrite s m off size (v.toNat % 2 ^ (8 * size)) else .next s)
  else if fn = 0 then
    match blockAt s off size with
    | none => .next s
    | some (b, rel) => ownedDo s m fun t => blockWrite t b rel size v.toNat
  else if fn = 2 ∨ fn = 3 then .next (if s.recovery then s else msixTableWrite s (fn - 2) off size v.toNat)
  else .next s

/-! What a read of the register space returns (R4, R383): a write-only field and a reserved bit read as zero. -/

/-- A link's status register as it reads (R382, R383): one that does not exist here is disabled. -/
def linkImage (s : State) (n : Nat) : Nat :=
  let l := getLink s n
  if (n < 18 && !(getLinkCtl s 0).kolmap.getLsbD n) || (n == 20 && decide (capsDies s = 1)) then 5
  else
    l.state.toNat + l.width.toNat * 2 ^ 4 + (if l.en then 2 ^ 11 else 0) + l.peer.toNat * 2 ^ 22 + l.drop.toNat * 2 ^ 32 +
      l.retry.toNat * 2 ^ 48

/-- A block as it reads (R258, R289, R313, R362, R383, R384). -/
def blockImage (s : State) (b : Block) : Nat :=
  match b with
  | .page => pageImage s.pageCtl
  | .launch _ => 0
  | .sched die => schedImage { getSched s die with pentry := 0, pdead := 0 }
  | .hearth die => hearthImage (vget s.hearth die ⟨0, 0, 0⟩)
  | .linkCtl die =>
    let c := getLinkCtl s die
    c.routebase.toNat + c.commbase.toNat * 2 ^ 64 + c.qpbase.toNat * 2 ^ 128 + c.reevemap.toNat * 2 ^ 192 + c.kolmap.toNat * 2 ^ 240
  | .quesar => if capsQuesar s then s.quesarBase.toNat else 0
  | .link n => linkImage s n

/-- What a read of 4 or 8 aligned bytes of a function's register space returns; none completes with Unsupported Request (R4, R383, R408).
While the ROM's recovery code runs, it answers on the I3C path alone (R412). -/
def registerRead (s : State) (i3c : Bool) (fn off size : Nat) : Option Nat :=
  if (s.recovery ∧ i3c = false) ∨ (size ≠ 4 ∧ size ≠ 8) ∨ off % size ≠ 0 then none
  else if fn = 1 then (if off + size ≤ 32 then some (natBits (mgmtRead s) (8 * (off + size) - 1) (8 * off)) else none)
  else if fn = 0 then (blockAt s off size).map fun (b, rel) => natBits (blockImage s b) (8 * (rel + size) - 1) (8 * rel)
  else if (fn = 2 ∨ fn = 3) ∧ size = 4 then
    (msixVector off size).map fun vec => if msixMasked s (fn - 2) vec then 1 else 0
  else none

/-! Bring-up (R12, R381, R384, R409, R412). -/

/-- The functions that a part has (R1, R409). -/
def functionPresent (part : Part) (f : Nat) : Bool := decide (f < 10) && (part == .a || (f != 2 && f != 5))

/-- How many of the low `n` bits are set. -/
def countBits (n x : Nat) : Nat := ((List.range n).filter x.testBit).length

/-- A link after its function's self-test (R381): one that failed is disabled; one that passed trains, unless EN is cleared. -/
def linkTested (s : State) (n : Nat) (ok : Bool) : State :=
  let l := getLink s n
  putLink s n { l with tested := true, passed := ok, state := if !ok then 5 else if l.en && l.state == 5 then 1 else l.state }

/-- The die boundary once a die is tested (R13, R381): it passes with both dies, and fails with either. -/
def boundaryTested (s : State) : State :=
  let ok (f : Nat) : Bool := s.mgmt.ready.getLsbD f
  if s.part = .s then s
  else if ok 1 && ok 2 then linkTested s 20 true
  else if s.mgmt.failed.getLsbD 1 || s.mgmt.failed.getLsbD 2 then linkTested s 20 false
  else s

/-- The links of a function after its self-test (R381, R384): of die 0 or 1, the Quesar die, Kolnel, Ethernet, or the host port. -/
def linksTested (s : State) (f : Nat) (pass : Bool) (found : Nat) : State :=
  let ports := if s.part = .a then 18 else 9
  match f with
  | 1 => boundaryTested s
  | 2 => boundaryTested s
  | 5 => linkTested s 21 pass
  | 8 => linkTested s 22 pass
  | 6 => (List.range 18).foldl (fun t p => linkTested t p (decide (p < ports) && found.testBit p)) s
  | 7 => (List.range 2).foldl (fun t p => linkTested t (18 + p) (found.testBit p)) s
  | _ => s

/-- The function whose self-test tells of a present die (R13, R409): a die that is left alone is die 0 (log entry 86). -/
def dieFunction (s : State) (die : Nat) : Option Nat := ([1, 2].filter fun f => s.mgmt.ready.getLsbD f)[die]?

/-- The usable reeves of a present die, as its self-test found them (R384). -/
def reevesFound (s : State) (die : Nat) : BitVec 48 :=
  match dieFunction s die with
  | some f => BitVec.ofNat 48 (vget s.found f 0)
  | none => 0

/-- What the functions that passed make of CAPS (R11, R12): REEVES counts the bits of every present die's REEVEMAP (R384). -/
def capsFrom (s : State) : Word :=
  let a := decide (s.part = .a)
  let ok (f : Nat) : Bool := s.mgmt.ready.getLsbD f
  let found (f : Nat) : Nat := if ok f then vget s.found f 0 else 0
  let dies := (if ok 1 then 1 else 0) + (if ok 2 then 1 else 0)
  let reeves := countBits 48 (reevesFound s 0).toNat + countBits 48 (reevesFound s 1).toNat
  let bit (n : Nat) (b : Bool) : Nat := if b then 2 ^ n else 0
  BitVec.ofNat 64 (reeves * 2 ^ 48 + countBits (if a then 18 else 9) (found 6) * 2 ^ 40 + min (found 3) (if a then 8 else 4) * 2 ^ 32 +
    min (found 4) (if a then 16 else 8) * 2 ^ 24 + dies * 2 ^ 20 + 48 * 2 ^ 12 + bit 4 (!a) + bit 3 (ok 8) +
    bit 2 (decide (found 7 % 4 ≠ 0)) + bit 1 (ok 9) + bit 0 (ok 5))

/-- Bring-up ends: CAPS, KOLMAP and REEVEMAP are fixed (R12, R384, R409). -/
def bringUpEnds (s : State) : State :=
  let kol : BitVec 18 := BitVec.ofNat 18 (bitsOf 18 fun p => (getLink s p).passed)
  let ctl (d : Nat) : LinkCtl := { getLinkCtl s d with kolmap := kol, reevemap := reevesFound s d }
  { s with caps := capsFrom s, linkCtl := vset (vset s.linkCtl 0 (ctl 0)) 1 (ctl 1), mgmt := { s.mgmt with bdone := true } }
where
  /-- The number whose low bits a predicate gives. -/
  bitsOf (n : Nat) (p : Nat → Bool) : Nat := ((List.range n).map fun i => if p i then 2 ^ i else 0).sum

/-- Every present function has set one of its two bits (R409). -/
def allTested (s : State) : Bool :=
  (List.range 10).all fun f => !functionPresent s.part f || s.mgmt.ready.getLsbD f || s.mgmt.failed.getLsbD f

/-- A firmware image is accepted (R412): its signature holds under the key whose digest is fused, and its version is not below the fused
one. -/
def imageAccepted (s : State) (img : FwImage) : Bool := img.signed_ && img.key == s.fuseKey && decide (s.fuseVersion ≤ img.version)

/-- The functions that run a firmware image: Olulas, the Quesar controllers, and the links' training (R412; log entry 99). -/
def hasImage (f : Nat) : Bool := f == 0 || f == 5 || f == 6

/-- FUNCTION_SELF_TEST_DONE (R409, R412). `found`: the usable reeves of a die, Kolnel ports or Ethernet ports as a mask, the HBM stacks,
or the far capacity in units of 64 GiB. A rejected image fails its function; where it is Olulas's own, the recovery code runs. Olulas,
tested anew after a recovery, leaves what bring-up fixed (R12). -/
def execFunctionSelfTestDone (f : Nat) (test : SelfTest) (found : Nat) (s : State) : Out :=
  let g := s.mgmt
  if s.recovery || !functionPresent s.part f || (g.bdone && f != 0) || g.ready.getLsbD f || g.failed.getLsbD f then .next s
  else
    let bit : BitVec 10 := BitVec.ofNat 10 (2 ^ f)
    let taken := !hasImage f || imageAccepted s test.img
    let ok := test.pass && taken
    let s1 := { s with
      mgmt := if ok then { g with ready := g.ready ||| bit } else { g with failed := g.failed ||| bit }
      found := vset s.found f (if ok then found else 0)
      recovery := decide (f = 0) && !taken }
    let s2 := linksTested s1 f ok (if ok then found else 0)
    .next (raiseMsix (if allTested s2 && !g.bdone then bringUpEnds s2 else s2) 1 0)

/-- RECOVERY_IMAGE (R412): only an image of Olulas that the ROM accepts is taken; Olulas is tested anew. -/
def execRecoveryImage (img : FwImage) (s : State) : Out :=
  .next (if s.recovery && imageAccepted s img then putMgmt { s with recovery := false } { s.mgmt with failed := s.mgmt.failed &&& ~~~1 }
    else s)

/-- The module after reset, with the contents of its memories (log entry 7) and what is fused at manufacture kept (R412). -/
def resetModule (s : State) : State :=
  { State.resetOf s.part with
    mem := s.mem, badLines := s.badLines, msix := s.msix, fuseKey := s.fuseKey, fuseVersion := s.fuseVersion, fresh := s.fresh
    clock := s.clock }

/-- MODULE_RESET (R409). -/
def execModuleReset (s : State) : Out := .next (resetModule s)

/-- TRIP_TEMPERATURE (R414). -/
def execTripTemperature (s : State) : Out := .next { resetModule s with held := true, reportedFailed := true }

/-- THROTTLE (R414): power measured above the limit. -/
def execThrottle (watts : BitVec 12) (s : State) : Out :=
  let g := { s.mgmt with pmeas := watts }
  .next (putMgmt s { g with throt := g.throt || decide (g.plimit.toNat < watts.toNat) })

/-- CLOCK_RESTORE (R414): power has stayed below the limit for 10 ms. -/
def execClockRestore (watts : BitVec 12) (s : State) : Out :=
  let g := { s.mgmt with pmeas := watts }
  .next (putMgmt s { g with throt := g.throt && !decide (watts.toNat < g.plimit.toNat) })

/-! Attestation (R413). -/

/-- An SPDM response: what the standard and the module's identity put into it is free, what the rule names is appended
(log entry 4). Which path brought the request, MCTP on I3C or the DOE mailbox, is a free choice, and the response takes that path too: one
that is ready in the mailbox raises function 1's vector 1, and one over I3C raises none (R393). -/
def spdmReply (s : State) (value : List Byte) : Out :=
  if s.recovery then .next s
  else
    let i3c := Config.freeMiss s.fresh 10
    let t := bumpFresh { s with spdm := s.spdm ++ [(i3c, Config.freeBytes s.fresh ++ value)] }
    .next (if i3c then t else raiseMsix t 1 1)

/-- GET_VERSION (R413). -/
def execGetVersion (s : State) : Out := spdmReply s []
/-- GET_CAPABILITIES (R413). -/
def execGetCapabilities (s : State) : Out := spdmReply s []
/-- NEGOTIATE_ALGORITHMS (R413). -/
def execNegotiateAlgorithms (s : State) : Out := spdmReply s []
/-- GET_DIGESTS (R413). -/
def execGetDigests (s : State) : Out := spdmReply s []
/-- GET_CERTIFICATE (R413). -/
def execGetCertificate (s : State) : Out := spdmReply s []
/-- CHALLENGE (R413). -/
def execChallenge (s : State) : Out := spdmReply s []

/-- GET_MEASUREMENTS (R413): index 4 is CAPS, index 5 OWNER and HANDTO; the digests are free. -/
def execGetMeasurements (idx : Nat) (s : State) : Out :=
  spdmReply s
    (match idx with
    | 4 => leBytes 8 s.caps.toNat
    | 5 => [s.mgmt.owner.zeroExtend 8, s.mgmt.handto.zeroExtend 8]
    | _ => [])

/-! Errors and failed banks (R143, R144, R416). -/

/-- A word of scratchpad with one more error (R143): a second bit makes it uncorrectable. -/
def wordError (k : Core) (w : BitVec 2 × Nat) (double : Bool) : Core :=
  if k.bad.contains w then k
  else if double || k.soft.contains w then { k with bad := k.bad ++ [w], soft := k.soft.filter fun x => !decide (x = w) }
  else { k with soft := k.soft ++ [w] }

/-- A queued load has been checked against a line's errors, and is to be performed (R223, R416). -/
def lineAwaited (s : State) (pa : Nat) : Bool :=
  (allCtxs s).any fun c => c.accessQ.any fun a =>
    match a.kind with
    | .load _ _ p n => overlaps (canonPa s p) n (pa / 64 * 64) 64
    | _ => false

/-- SOFT_ERROR (R143, R408, R416): of the word of a buffer at an offset, of a line of the near or far tier, or of a clean line in a cache,
of whichever tier that caches, which is refetched and counted (R385, R415). A line's error strikes no line that
a queued load is to read: the load's precise trap has passed (log entry 88). -/
def execSoftError (where_ : ErrSite) (pa : Nat) (double : Bool) (s : State) : Out :=
  match where_ with
  | .scratch die core buf =>
    if buf ≠ 3 ∧ die < capsDies s ∧ core < coreCount s die ∧ pa < bufBytes buf then
      .next (putCore s (wordError (getCore s die core) (buf, pa / 8) double))
    else .next s
  | .mem =>
    if double && (isNear s pa || isFar s pa) && !s.badLines.contains (pa / 64) && !lineAwaited s pa then
      .next { s with badLines := s.badLines ++ [pa / 64] }
    else .next s
  | .cache =>
    if backed s pa && !isStore pa then
      .next { dropLines s (pa / 64 * 64) 64 with mgmt := { s.mgmt with serr := satAdd32 s.mgmt.serr 1 } }
    else .next s

/-- BANK_FAILED (R144): Olulas marks a bank of the core failed, or clears it. A core with a failed bank is withheld. -/
def execBankFailed (bank : Nat) (failed : Bool) (s : State) : Out :=
  if 24 ≤ bank then .next s
  else
    .next (modCore s fun k =>
      let rest := k.failedBanks.filter fun n => n != bank
      let banks := if failed then rest ++ [bank] else rest
      { k with failedBanks := banks, withheld := decide (banks ≠ []) })

end Sys2Proof.Machine
end

