-- ==== Sys2Proof/Machine/Riscv.lean ====
section
/-! DEFINITION. The ordinary instructions of a reeve: RV64I, M, C, Zba, Zbb and the two counters of Zicsr, read from their words
(R368). Their encodings and results are the RISC-V standard's, which the manual names and does not repeat (log entry 15). -/

namespace Sys2Proof.Machine

/-- Operations on two operands. -/
inductive RvAlu where
  | add | sub | sll | slt | sltu | xor | srl | sra | or | and | addw | subw | sllw | srlw | sraw
  | mul | mulh | mulhsu | mulhu | div | divu | rem | remu | mulw | divw | divuw | remw | remuw
  | addUw | sh1add | sh2add | sh3add | sh1addUw | sh2addUw | sh3addUw | slliUw
  | andn | orn | xnor | max | maxu | min | minu | rol | ror | rolw | rorw
deriving DecidableEq, Repr

/-- Operations on one operand. -/
inductive RvUnary where
  | clz | ctz | cpop | clzw | ctzw | cpopw | sextB | sextH | zextH | orcB | rev8
deriving DecidableEq, Repr

/-- Branch conditions. -/
inductive RvCond where
  | eq | ne | lt | ge | ltu | geu
deriving DecidableEq, Repr

/-- An ordinary instruction. Immediates are extended to 64 bits; the size of a load or store is its count of bytes. -/
inductive RvInstr where
  | lui (rd : BitVec 5) (imm : Word)
  | auipc (rd : BitVec 5) (imm : Word)
  | jal (rd : BitVec 5) (imm : Word)
  | jalr (rd rs1 : BitVec 5) (imm : Word)
  | branch (c : RvCond) (rs1 rs2 : BitVec 5) (imm : Word)
  | load (size : Nat) (signed : Bool) (rd rs1 : BitVec 5) (imm : Word)
  | store (size : Nat) (rs1 rs2 : BitVec 5) (imm : Word)
  | opImm (op : RvAlu) (rd rs1 : BitVec 5) (imm : Word)
  | op (op : RvAlu) (rd rs1 rs2 : BitVec 5)
  | unary (op : RvUnary) (rd rs1 : BitVec 5)
  | fence
  | readCycle (rd : BitVec 5)
  | readInstret (rd : BitVec 5)
deriving DecidableEq, Repr

/-! Results. -/

/-- The low 32 bits, sign-extended. -/
def sext32 (x : Word) : Word := (x.extractLsb' 0 32).signExtend 64

/-- The low 32 bits, zero-extended. -/
def zext32 (x : Word) : Word := (x.extractLsb' 0 32).zeroExtend 64

/-- Signed division: by zero all ones; the most negative number by -1 is itself. -/
def rvDiv {n : Nat} (x y : BitVec n) : BitVec n := if y = 0 then BitVec.allOnes n else x.sdiv y

/-- Signed remainder: by zero the dividend. -/
def rvRem {n : Nat} (x y : BitVec n) : BitVec n := if y = 0 then x else x.srem y

/-- Unsigned division: by zero all ones. -/
def rvDivu {n : Nat} (x y : BitVec n) : BitVec n := if y = 0 then BitVec.allOnes n else x / y

/-- Unsigned remainder: by zero the dividend. -/
def rvRemu {n : Nat} (x y : BitVec n) : BitVec n := if y = 0 then x else x % y

/-- The upper half of a 128-bit product of integers. -/
def highHalf (p : Int) : Word := BitVec.ofInt 64 (Int.fdiv p ((2 ^ 64 : Nat) : Int))

/-- A 32-bit operation whose result is sign-extended. -/
def onLow (f : BitVec 32 → BitVec 32 → BitVec 32) (x y : Word) : Word :=
  (f (x.extractLsb' 0 32) (y.extractLsb' 0 32)).signExtend 64

/-- The result of an operation on two operands. -/
def rvAlu (op : RvAlu) (x y : Word) : Word :=
  let k := (y.extractLsb' 0 6).toNat
  let k5 := (y.extractLsb' 0 5).toNat
  match op with
  | .add => x + y
  | .sub => x - y
  | .sll => x <<< k
  | .slt => if x.toInt < y.toInt then 1 else 0
  | .sltu => if x.toNat < y.toNat then 1 else 0
  | .xor => x ^^^ y
  | .srl => x >>> k
  | .sra => x.sshiftRight k
  | .or => x ||| y
  | .and => x &&& y
  | .addw => onLow (fun a b => a + b) x y
  | .subw => onLow (fun a b => a - b) x y
  | .sllw => onLow (fun a _ => a <<< k5) x y
  | .srlw => onLow (fun a _ => a >>> k5) x y
  | .sraw => onLow (fun a _ => a.sshiftRight k5) x y
  | .mul => x * y
  | .mulh => highHalf (x.toInt * y.toInt)
  | .mulhsu => highHalf (x.toInt * (y.toNat : Int))
  | .mulhu => highHalf ((x.toNat : Int) * (y.toNat : Int))
  | .div => rvDiv x y
  | .divu => rvDivu x y
  | .rem => rvRem x y
  | .remu => rvRemu x y
  | .mulw => onLow (fun a b => a * b) x y
  | .divw => onLow rvDiv x y
  | .divuw => onLow rvDivu x y
  | .remw => onLow rvRem x y
  | .remuw => onLow rvRemu x y
  | .addUw => zext32 x + y
  | .sh1add => x <<< 1 + y
  | .sh2add => x <<< 2 + y
  | .sh3add => x <<< 3 + y
  | .sh1addUw => zext32 x <<< 1 + y
  | .sh2addUw => zext32 x <<< 2 + y
  | .sh3addUw => zext32 x <<< 3 + y
  | .slliUw => zext32 x <<< k
  | .andn => x &&& ~~~y
  | .orn => x ||| ~~~y
  | .xnor => ~~~(x ^^^ y)
  | .max => if x.toInt < y.toInt then y else x
  | .maxu => if x.toNat < y.toNat then y else x
  | .min => if x.toInt < y.toInt then x else y
  | .minu => if x.toNat < y.toNat then x else y
  | .rol => x.rotateLeft k
  | .ror => x.rotateRight k
  | .rolw => onLow (fun a _ => a.rotateLeft k5) x y
  | .rorw => onLow (fun a _ => a.rotateRight k5) x y

/-- A word built byte by byte. -/
def mapBytes (f : Nat → Byte) : Word := BitVec.ofNat 64 (leNat ((List.range 8).map f))

/-- The result of an operation on one operand. -/
def rvUnary (op : RvUnary) (x : Word) : Word :=
  let low := (x.extractLsb' 0 32).toNat
  match op with
  | .clz => BitVec.ofNat 64 (leadingZeros x.toNat 64)
  | .ctz => BitVec.ofNat 64 (trailingZerosFrom x.toNat 64 0)
  | .cpop => BitVec.ofNat 64 (popcount x.toNat 64)
  | .clzw => BitVec.ofNat 64 (leadingZeros low 32)
  | .ctzw => BitVec.ofNat 64 (trailingZerosFrom low 32 0)
  | .cpopw => BitVec.ofNat 64 (popcount low 32)
  | .sextB => (x.extractLsb' 0 8).signExtend 64
  | .sextH => (x.extractLsb' 0 16).signExtend 64
  | .zextH => (x.extractLsb' 0 16).zeroExtend 64
  | .orcB => mapBytes fun i => if x.extractLsb' (8 * i) 8 = 0 then 0 else 255
  | .rev8 => mapBytes fun i => x.extractLsb' (8 * (7 - i)) 8

/-- A branch's condition. -/
def rvCond (c : RvCond) (x y : Word) : Bool :=
  match c with
  | .eq => decide (x = y)
  | .ne => decide (x ≠ y)
  | .lt => decide (x.toInt < y.toInt)
  | .ge => decide (y.toInt ≤ x.toInt)
  | .ltu => decide (x.toNat < y.toNat)
  | .geu => decide (y.toNat ≤ x.toNat)

/-! 32-bit words. -/

/-- A 12-bit immediate, extended. -/
def iImm (w : BitVec 32) : Word := (w.extractLsb' 20 12).signExtend 64

/-- A store's immediate. -/
def sImm (w : BitVec 32) : Word := (w.extractLsb' 25 7 ++ w.extractLsb' 7 5).signExtend 64

/-- A branch's offset. -/
def bImm (w : BitVec 32) : Word :=
  (w.extractLsb' 31 1 ++ w.extractLsb' 7 1 ++ w.extractLsb' 25 6 ++ w.extractLsb' 8 4 ++ (0 : BitVec 1)).signExtend 64

/-- A jump's offset. -/
def jImm (w : BitVec 32) : Word :=
  (w.extractLsb' 31 1 ++ w.extractLsb' 12 8 ++ w.extractLsb' 20 1 ++ w.extractLsb' 21 10 ++ (0 : BitVec 1)).signExtend 64

/-- An upper immediate. -/
def uImm (w : BitVec 32) : Word := (w.extractLsb' 12 20 ++ (0 : BitVec 12)).signExtend 64

/-- Branch conditions by funct3. -/
def condOf (f3 : Nat) : Option RvCond :=
  match f3 with
  | 0 => some .eq
  | 1 => some .ne
  | 4 => some .lt
  | 5 => some .ge
  | 6 => some .ltu
  | 7 => some .geu
  | _ => none

/-- Loads by funct3: bytes, and whether sign-extended. -/
def loadOf (f3 : Nat) : Option (Nat × Bool) :=
  match f3 with
  | 0 => some (1, true)
  | 1 => some (2, true)
  | 2 => some (4, true)
  | 3 => some (8, true)
  | 4 => some (1, false)
  | 5 => some (2, false)
  | 6 => some (4, false)
  | _ => none

/-- Register operations of 64 bits by funct7 and funct3. -/
def opOf (f7 f3 : Nat) : Option RvAlu :=
  match f7, f3 with
  | 0x00, 0 => some .add
  | 0x20, 0 => some .sub
  | 0x00, 1 => some .sll
  | 0x00, 2 => some .slt
  | 0x00, 3 => some .sltu
  | 0x00, 4 => some .xor
  | 0x00, 5 => some .srl
  | 0x20, 5 => some .sra
  | 0x00, 6 => some .or
  | 0x00, 7 => some .and
  | 0x01, 0 => some .mul
  | 0x01, 1 => some .mulh
  | 0x01, 2 => some .mulhsu
  | 0x01, 3 => some .mulhu
  | 0x01, 4 => some .div
  | 0x01, 5 => some .divu
  | 0x01, 6 => some .rem
  | 0x01, 7 => some .remu
  | 0x10, 2 => some .sh1add
  | 0x10, 4 => some .sh2add
  | 0x10, 6 => some .sh3add
  | 0x20, 4 => some .xnor
  | 0x20, 6 => some .orn
  | 0x20, 7 => some .andn
  | 0x05, 4 => some .min
  | 0x05, 5 => some .minu
  | 0x05, 6 => some .max
  | 0x05, 7 => some .maxu
  | 0x30, 1 => some .rol
  | 0x30, 5 => some .ror
  | _, _ => none

/-- Register operations of 32 bits by funct7 and funct3. -/
def op32Of (f7 f3 : Nat) : Option RvAlu :=
  match f7, f3 with
  | 0x00, 0 => some .addw
  | 0x20, 0 => some .subw
  | 0x00, 1 => some .sllw
  | 0x00, 5 => some .srlw
  | 0x20, 5 => some .sraw
  | 0x01, 0 => some .mulw
  | 0x01, 4 => some .divw
  | 0x01, 5 => some .divuw
  | 0x01, 6 => some .remw
  | 0x01, 7 => some .remuw
  | 0x04, 0 => some .addUw
  | 0x10, 2 => some .sh1addUw
  | 0x10, 4 => some .sh2addUw
  | 0x10, 6 => some .sh3addUw
  | 0x30, 1 => some .rolw
  | 0x30, 5 => some .rorw
  | _, _ => none

/-- The word's rd. -/
abbrev rvRd (w : BitVec 32) : BitVec 5 := w.extractLsb' 7 5
/-- The word's rs1. -/
abbrev rvRs1 (w : BitVec 32) : BitVec 5 := w.extractLsb' 15 5
/-- The word's rs2. -/
abbrev rvRs2 (w : BitVec 32) : BitVec 5 := w.extractLsb' 20 5

/-- OP-IMM: shifts take six bits, and some codes name operations on one operand. -/
def opImmOf (w : BitVec 32) : Option RvInstr :=
  let rd := rvRd w
  let rs1 := rvRs1 w
  let sh : Word := (w.extractLsb' 20 6).zeroExtend 64
  match (w.extractLsb' 12 3).toNat with
  | 0 => some (.opImm .add rd rs1 (iImm w))
  | 2 => some (.opImm .slt rd rs1 (iImm w))
  | 3 => some (.opImm .sltu rd rs1 (iImm w))
  | 4 => some (.opImm .xor rd rs1 (iImm w))
  | 6 => some (.opImm .or rd rs1 (iImm w))
  | 7 => some (.opImm .and rd rs1 (iImm w))
  | 1 =>
    if w.extractLsb' 26 6 = 0 then some (.opImm .sll rd rs1 sh)
    else match (w.extractLsb' 20 12).toNat with
      | 0x600 => some (.unary .clz rd rs1)
      | 0x601 => some (.unary .ctz rd rs1)
      | 0x602 => some (.unary .cpop rd rs1)
      | 0x604 => some (.unary .sextB rd rs1)
      | 0x605 => some (.unary .sextH rd rs1)
      | _ => none
  | _ =>
    match (w.extractLsb' 26 6).toNat with
    | 0x00 => some (.opImm .srl rd rs1 sh)
    | 0x10 => some (.opImm .sra rd rs1 sh)
    | 0x18 => some (.opImm .ror rd rs1 sh)
    | _ =>
      match (w.extractLsb' 20 12).toNat with
      | 0x287 => some (.unary .orcB rd rs1)
      | 0x6B8 => some (.unary .rev8 rd rs1)
      | _ => none

/-- OP-IMM-32. -/
def opImm32Of (w : BitVec 32) : Option RvInstr :=
  let rd := rvRd w
  let rs1 := rvRs1 w
  let sh : Word := (w.extractLsb' 20 5).zeroExtend 64
  let sh6 : Word := (w.extractLsb' 20 6).zeroExtend 64
  match (w.extractLsb' 12 3).toNat, (w.extractLsb' 25 7).toNat with
  | 0, _ => some (.opImm .addw rd rs1 (iImm w))
  | 1, 0x00 => some (.opImm .sllw rd rs1 sh)
  | 1, 0x04 => some (.opImm .slliUw rd rs1 sh6)
  | 1, 0x05 => some (.opImm .slliUw rd rs1 sh6)
  | 1, 0x30 =>
    match (rvRs2 w).toNat with
    | 0 => some (.unary .clzw rd rs1)
    | 1 => some (.unary .ctzw rd rs1)
    | 2 => some (.unary .cpopw rd rs1)
    | _ => none
  | 5, 0x00 => some (.opImm .srlw rd rs1 sh)
  | 5, 0x20 => some (.opImm .sraw rd rs1 sh)
  | 5, 0x30 => some (.opImm .rorw rd rs1 sh)
  | _, _ => none

/-- SYSTEM: only reads of cycle and instret (R368); a form that would write one is illegal. -/
def systemOf (w : BitVec 32) : Option RvInstr :=
  let f3 := (w.extractLsb' 12 3).toNat
  if (f3 = 2 ∨ f3 = 3 ∨ f3 = 6 ∨ f3 = 7) ∧ rvRs1 w = 0 then
    match (w.extractLsb' 20 12).toNat with
    | 0xC00 => some (.readCycle (rvRd w))
    | 0xC02 => some (.readInstret (rvRd w))
    | _ => none
  else none

/-- The ordinary instruction of a 32-bit word; none is an illegal instruction. -/
def rv32 (w : BitVec 32) : Option RvInstr :=
  let f3 := (w.extractLsb' 12 3).toNat
  let f7 := (w.extractLsb' 25 7).toNat
  let rd := rvRd w
  let rs1 := rvRs1 w
  let rs2 := rvRs2 w
  match (w.extractLsb' 0 7).toNat with
  | 0x37 => some (.lui rd (uImm w))
  | 0x17 => some (.auipc rd (uImm w))
  | 0x6F => some (.jal rd (jImm w))
  | 0x67 => if f3 = 0 then some (.jalr rd rs1 (iImm w)) else none
  | 0x63 => (condOf f3).map fun c => .branch c rs1 rs2 (bImm w)
  | 0x03 => (loadOf f3).map fun l => .load l.1 l.2 rd rs1 (iImm w)
  | 0x23 => if f3 < 4 then some (.store (2 ^ f3) rs1 rs2 (sImm w)) else none
  | 0x13 => opImmOf w
  | 0x1B => opImm32Of w
  | 0x33 => (opOf f7 f3).map fun o => .op o rd rs1 rs2
  | 0x3B =>
    if f7 = 4 ∧ f3 = 4 ∧ rs2 = 0 then some (.unary .zextH rd rs1) else (op32Of f7 f3).map fun o => .op o rd rs1 rs2
  | 0x0F => if f3 = 0 then some .fence else none
  | 0x73 => systemOf w
  | _ => none

/-! 16-bit words. -/

/-- Bits of a compressed word. -/
abbrev cb (h : BitVec 16) (lo len : Nat) : BitVec len := h.extractLsb' lo len

/-- A three-bit register field: x8 to x15. -/
def cReg (h : BitVec 16) (lo : Nat) : BitVec 5 := (1 : BitVec 2) ++ cb h lo 3

/-- The six-bit signed immediate. -/
def cImm6 (h : BitVec 16) : Word := (cb h 12 1 ++ cb h 2 5).signExtend 64

/-- The six-bit shift amount. -/
def cShamt (h : BitVec 16) : Word := (cb h 12 1 ++ cb h 2 5).zeroExtend 64

/-- C.J's offset. -/
def cjImm (h : BitVec 16) : Word :=
  (cb h 12 1 ++ cb h 8 1 ++ cb h 9 2 ++ cb h 6 1 ++ cb h 7 1 ++ cb h 2 1 ++ cb h 11 1 ++ cb h 3 3 ++ (0 : BitVec 1)).signExtend 64

/-- C.BEQZ's offset. -/
def cbImm (h : BitVec 16) : Word :=
  (cb h 12 1 ++ cb h 5 2 ++ cb h 2 1 ++ cb h 10 2 ++ cb h 3 2 ++ (0 : BitVec 1)).signExtend 64

/-- The offset of C.LW and C.SW. -/
def cwImm (h : BitVec 16) : Word := (cb h 5 1 ++ cb h 10 3 ++ cb h 6 1 ++ (0 : BitVec 2)).zeroExtend 64

/-- The offset of C.LD and C.SD. -/
def cdImm (h : BitVec 16) : Word := (cb h 5 2 ++ cb h 10 3 ++ (0 : BitVec 3)).zeroExtend 64

/-- Quadrant 0. -/
def rvc0 (h : BitVec 16) : Option RvInstr :=
  let imm : Word := (cb h 7 4 ++ cb h 11 2 ++ cb h 5 1 ++ cb h 6 1 ++ (0 : BitVec 2)).zeroExtend 64
  match (cb h 13 3).toNat with
  | 0 => if imm = 0 then none else some (.opImm .add (cReg h 2) 2 imm)
  | 2 => some (.load 4 true (cReg h 2) (cReg h 7) (cwImm h))
  | 3 => some (.load 8 true (cReg h 2) (cReg h 7) (cdImm h))
  | 6 => some (.store 4 (cReg h 7) (cReg h 2) (cwImm h))
  | 7 => some (.store 8 (cReg h 7) (cReg h 2) (cdImm h))
  | _ => none

/-- The arithmetic group of quadrant 1. -/
def rvcArith (h : BitVec 16) : Option RvInstr :=
  let r := cReg h 7
  let two (o : RvAlu) : Option RvInstr := some (.op o r r (cReg h 2))
  match (cb h 10 2).toNat with
  | 0 => some (.opImm .srl r r (cShamt h))
  | 1 => some (.opImm .sra r r (cShamt h))
  | 2 => some (.opImm .and r r (cImm6 h))
  | _ =>
    match (cb h 12 1 ++ cb h 5 2).toNat with
    | 0 => two .sub
    | 1 => two .xor
    | 2 => two .or
    | 3 => two .and
    | 4 => two .subw
    | 5 => two .addw
    | _ => none

/-- Quadrant 1. -/
def rvc1 (h : BitVec 16) : Option RvInstr :=
  let rd := cb h 7 5
  let sp : Word := (cb h 12 1 ++ cb h 3 2 ++ cb h 5 1 ++ cb h 2 1 ++ cb h 6 1 ++ (0 : BitVec 4)).signExtend 64
  match (cb h 13 3).toNat with
  | 0 => some (.opImm .add rd rd (cImm6 h))
  | 1 => if rd = 0 then none else some (.opImm .addw rd rd (cImm6 h))
  | 2 => some (.opImm .add rd 0 (cImm6 h))
  | 3 =>
    if cImm6 h = 0 then none
    else if rd = 2 then some (.opImm .add 2 2 sp)
    else some (.lui rd (cImm6 h <<< 12))
  | 4 => rvcArith h
  | 5 => some (.jal 0 (cjImm h))
  | 6 => some (.branch .eq (cReg h 7) 0 (cbImm h))
  | _ => some (.branch .ne (cReg h 7) 0 (cbImm h))

/-- Quadrant 2. -/
def rvc2 (h : BitVec 16) : Option RvInstr :=
  let rd := cb h 7 5
  let rs2 := cb h 2 5
  let lw : Word := (cb h 2 2 ++ cb h 12 1 ++ cb h 4 3 ++ (0 : BitVec 2)).zeroExtend 64
  let ld : Word := (cb h 2 3 ++ cb h 12 1 ++ cb h 5 2 ++ (0 : BitVec 3)).zeroExtend 64
  let sw : Word := (cb h 7 2 ++ cb h 9 4 ++ (0 : BitVec 2)).zeroExtend 64
  let sd : Word := (cb h 7 3 ++ cb h 10 3 ++ (0 : BitVec 3)).zeroExtend 64
  match (cb h 13 3).toNat with
  | 0 => some (.opImm .sll rd rd (cShamt h))
  | 2 => if rd = 0 then none else some (.load 4 true rd 2 lw)
  | 3 => if rd = 0 then none else some (.load 8 true rd 2 ld)
  | 4 =>
    if h.getLsbD 12 then
      if rd = 0 ∧ rs2 = 0 then none
      else if rs2 = 0 then some (.jalr 1 rd 0)
      else some (.op .add rd rd rs2)
    else if rs2 = 0 then (if rd = 0 then none else some (.jalr 0 rd 0))
    else some (.op .add rd 0 rs2)
  | 6 => some (.store 4 2 rs2 sw)
  | 7 => some (.store 8 2 rs2 sd)
  | _ => none

/-- The ordinary instruction of a compressed word; none is an illegal instruction. -/
def rv16 (h : BitVec 16) : Option RvInstr :=
  match (cb h 0 2).toNat with
  | 0 => rvc0 h
  | 1 => rvc1 h
  | 2 => rvc2 h
  | _ => none

end Sys2Proof.Machine
end

