-- ==== Sys2Proof/Machine/Reeve.lean ====
section
/-! DEFINITION. The reeves: bindings and messages from the compute cores, handler entry and ending, the ordinary and the custom
instructions of a handler (R368 to R379). -/

namespace Sys2Proof.Machine

/-! Bindings (R370, R371, R372, R378). -/

/-- A window's bytes: rounded up to 1 KiB (R371). -/
def windowBytes (n : Nat) : Nat := roundUp n 1024

/-- The fields of a binding's record (R370). -/
structure BindRec where
  vbase : Nat
  vlen : Nat
  code : Nat
  codeLen : Nat
  dataLen : Nat
  entries : List (BitVec 16)
  budgets : List (BitVec 16)
  data : Nat
deriving DecidableEq, Repr

/-- The record read from its 64 bytes. -/
def readBindRec (b : List Byte) : BindRec :=
  { vbase := recNat b 0 8, vlen := recNat b 8 8, code := recNat b 0x10 8, codeLen := recNat b 0x18 4, dataLen := recNat b 0x1C 4
    entries := (List.range 4).map fun n => BitVec.ofNat 16 (recNat b (0x20 + 2 * n) 2)
    budgets := (List.range 4).map fun n => BitVec.ofNat 16 (recNat b (0x28 + 2 * n) 2), data := recNat b 0x30 8 }

/-- An entry and its budget break R370. -/
def entryBad (codeLen : Nat) (e budget : BitVec 16) : Bool :=
  if e = 0xFFFF then budget != 0
  else e.toNat % 2 != 0 || decide (codeLen ≤ e.toNat) || decide (budget.toNat < 1) || decide (4096 < budget.toNat)

/-- A binding's record is malformed (R370). -/
def bindBad (b : List Byte) : Bool :=
  let r := readBindRec b
  r.vbase % 4096 != 0 || r.vlen % 4096 != 0 || decide (r.vlen < 4096) || decide (2 ^ 40 < r.vlen) || r.code % 4 != 0 ||
    r.codeLen % 4 != 0 || decide (r.codeLen < 4) || decide (32768 < r.codeLen) || r.dataLen % 16 != 0 ||
    decide (32768 < r.dataLen) || (r.entries.zip r.budgets).any (fun e => entryBad r.codeLen e.1 e.2) || recNat b 0x38 8 != 0

/-- The first place of 1 KiB units where a window fits beside the taken ones (R371). -/
def firstFit (taken : List (Nat × Nat)) (n : Nat) : Option Nat :=
  ((List.range 33).map fun i => i * 1024).find? fun at_ =>
    decide (at_ + n ≤ 0x8000) && taken.all fun t => !overlaps at_ n t.1 t.2

/-- The code windows taken on a die. -/
def codeTaken (s : State) (die : Nat) : List (Nat × Nat) :=
  (s.bindings.filter fun b => b.die = die).map fun b => (b.codeAt, windowBytes b.code.length)

/-- The data windows taken on a die. -/
def dataTaken (s : State) (die : Nat) : List (Nat × Nat) :=
  (s.bindings.filter fun b => b.die = die).map fun b => (b.dataAt, windowBytes b.dataLen)

/-- Why an image cannot be read, with the address, page by page (R378); an image of no bytes is not read. -/
def imageBad (s : State) (va n : Nat) : Option Trap :=
  let c := s.core.ctx
  (List.range (if n = 0 then 0 else (va + n + 4095) / 4096 - va / 4096)).findSome? fun i =>
    let lo := max va ((va / 4096 + i) * 4096)
    let len := min (va + n) ((va / 4096 + i + 1) * 4096) - lo
    match walk s c.aspace lo with
    | .error e => some (Trap.at e lo)
    | .ok l =>
      if !(residentFor s l c.aspace s.core.die c.seqTag && pathUp s (leafPa l lo)) then some (Trap.at .notResident lo)
      else if !dR l.desc then some (Trap.at .permission lo)
      else (badByte s (leafPa l lo) len).map fun k => Trap.at .storageError (lo + k)

/-- The bytes of an image. -/
def imageBytes (s : State) (va n : Nat) : List Byte :=
  (List.range n).map fun i => rdByte s s.core.die (physOf s s.core.ctx.aspace (va + i))

/-- A RED that waits at its home holds bytes of an image (R236). -/
def imageHeld (s : State) (va n : Nat) : Bool :=
  decide (s.reds ≠ []) && (List.range n).any fun i => redHolds s (physOf s s.core.ctx.aspace (va + i)) 1

/-- The lines of an image read (R257, R373). -/
def imageTouched (s : State) (va n : Nat) : State :=
  let c := s.core.ctx
  (List.range (if n = 0 then 0 else (va % 64 + n + 63) / 64)).foldl (fun t i =>
    let a := va / 64 * 64 + 64 * i
    touchAt t c.aspace t.core.die a (physOf t c.aspace a)) s

/-- The filter of a range: its resident pages' frames, cut to the range (R372). A page that this module's own pod addresses map stands under
its near frame, as the slices know its lines (R244). -/
def filterOf (s : State) (aspace : BitVec 12) (lo hi : Nat) : List (Nat × Nat × Word) :=
  (leavesIn s aspace lo hi).filterMap fun (va, l) =>
    if dState l.desc = 1 then
      let a := max lo va
      some (canonPa s (dFrame l.desc + (a - va)), min hi (va + 4096 * 2 ^ dSize l.desc) - a, BitVec.ofNat 64 a)
    else none

/-- A range meets the range of another binding of the die, whichever address space that belongs to (R378). -/
def rangeTaken (s : State) (die lo n : Nat) : Bool :=
  s.bindings.any fun b => decide (b.die = die) && overlaps lo n b.vbase.toNat b.vlen

/-- The data window of a new binding loaded into every usable reeve of the die (R371). -/
def loadWindows (s : State) (die at_ : Nat) (bytes : List Byte) : State :=
  ((List.range 48).filter (reeveUsable s die)).foldl (fun t n =>
    let r := getReeve t die n
    let m := memWrites r.data at_ bytes
    if m = r.data then t else putReeve t { r with data := m }) s

/-- The status of a bind, and the machine after it (R378). -/
def bindDo (s : State) (r : BindRec) (code data : List Byte) : State × Word :=
  let die := s.core.die
  let free := (List.range 16).filter fun n => (bindingAt s die n).isNone
  if free = [] then (s, 3)
  else if rangeTaken s die r.vbase r.vlen then (s, 5)
  else match firstFit (codeTaken s die) (windowBytes r.codeLen), firstFit (dataTaken s die) (windowBytes r.dataLen) with
    | some codeAt, some dataAt =>
      let num := free.getD (Config.freeMerge s.fresh 0 % free.length) 0
      let b : Binding :=
        { die := die, num := num, aspace := s.core.ctx.aspace, vbase := BitVec.ofNat 64 r.vbase, vlen := r.vlen, code := code
          dataInit := data, dataLen := r.dataLen, codeAt := codeAt, dataAt := dataAt, entries := r.entries, budgets := r.budgets
          filter := filterOf s s.core.ctx.aspace r.vbase (r.vbase + r.vlen), drops := 0 }
      let pad := data ++ List.replicate (windowBytes r.dataLen - data.length) 0
      (loadWindows { s with bindings := s.bindings ++ [b] } die dataAt pad, BitVec.ofNat 64 (0x10000 * num))
    | _, _ => (s, 4)

/-- The checks of HDLBIND's record access: those of ENQ, over 64 bytes (R287, R378). -/
def bindAccess (s : State) (H : Handle) (off : Nat) : Option Trap :=
  let va := (if H.valid then H.vbase else 0) + off
  if off % 64 ≠ 0 then some (Trap.at .misalignedAccess va)
  else if notThere s H then some (Trap.at .notResident va)
  else if H.pageSize < off + 64 then some (Trap.at .handleRange va)
  else if !H.r then some (Trap.at .permission va)
  else (badByte s (H.base + off) 64).map fun i => Trap.at .storageError (va + i)

/-- What HDLBIND does with its record (R378): DATA 0 names no image. -/
def bindWith (s : State) (d : BitVec 5) (bytes : List Byte) (va : Nat) : Eff :=
  let r := readBindRec bytes
  let dataLen := if r.data = 0 then 0 else r.dataLen
  if bindBad bytes then .trap (Trap.at .badRecord va)
  else match (imageBad s r.code r.codeLen).or (imageBad s r.data dataLen) with
    | some t => .trap t
    | none =>
      if imageHeld s r.code r.codeLen || imageHeld s r.data dataLen then .stall
      else
        let s1 := imageTouched (imageTouched s r.code r.codeLen) r.data dataLen
        let (s2, st) := bindDo s1 r (imageBytes s r.code r.codeLen) (imageBytes s r.data dataLen)
        .ok (setS s2 d st)

/-- HDLBIND (R378). -/
def execHdlbind (a d : BitVec 5) (h : BitVec 4) (s : State) : Out :=
  let off := snat s a
  let H := hreg s h
  behindFence s
    (match bindAccess s H off with
    | some t => .trap t
    | none =>
      if !accessesDone s || redHolds s (H.base + off) 64 then .stall
      else bindWith (touchLine s H off) d (rdBytes s s.core.die (H.base + off) 64) (H.vbase + off))

/-- The queued events of a binding discarded at every reeve of its die. -/
def discardEvents (s : State) (die num : Nat) : State :=
  { s with reeves := s.reeves.map fun r => if r.die = die then { r with queue := r.queue.filter fun e => e.binding != num } else r }

/-- A handler of a binding is running. -/
def handlerRuns (s : State) (die num : Nat) : Bool :=
  s.reeves.any fun r => decide (r.die = die) && r.cur.any fun e => e.binding == num

/-- A binding of the issuing context's address space, by number. -/
def ownBinding (s : State) (num : Nat) : Option Binding :=
  (bindingAt s s.core.die num).filter fun b => b.aspace == s.core.ctx.aspace

/-- HDLUNB (R378): the binding's events go at once; while its handlers run, it waits. -/
def execHdlunb (a d : BitVec 5) (s : State) : Out :=
  let x := snat s a
  if fenceHeld s.core.ctx then finish s .stall
  else if 16 ≤ x then finish s (.trap (Trap.of .illegalInstruction))
  else match ownBinding s x with
    | none => inLine s (.ok (setS s d 2))
    | some b =>
      let s1 := discardEvents s b.die b.num
      if handlerRuns s1 b.die b.num then finish s1 .stall
      else
        let s2 := { s1 with bindings := s1.bindings.filter fun x => !decide (x.die = b.die ∧ x.num = b.num) }
        inLine s2 (.ok (setS s2 d (BitVec.ofNat 64 (2 ^ 32 * min 0xFFFFFFFF b.drops))))

/-- The status of a message to a slice, queued where there is room (R378, R379). -/
def sendMessage (s : State) (die slice : Nat) (b : Binding) (payload sender : Word) : State × Word :=
  if b.entryOf 3 = 0xFFFF || !reeveUsable s die slice then (s, 2)
  else if 64 ≤ (getReeve s die slice).queue.length then (s, 1)
  else ((queueEvent s die slice ⟨b.num, 3, false, 0, payload, sender⟩).1, 0)

/-- HDLMSG (R378). -/
def execHdlmsg (a b d : BitVec 5) (s : State) : Out :=
  let x := snat s a
  let slice := x % 64
  behindFence s
    (if Nat.land x 0xFFFFFFFFFFFFF0C0 ≠ 0 then .trap (Trap.of .illegalInstruction)
    else if 47 < slice then .trap (Trap.of .commandLimit)
    else match ownBinding s (natBits x 11 8) with
      | none => .ok (setS s d 2)
      | some bd =>
        afterRelease s 0 fun t =>
          let (t', st) := sendMessage t t.core.die slice bd (sreg s b) s.core.ctx.ctxId
          .ok (setS t' d st))

/-! The running handler (R369, R375, R376). -/

/-- The reeve that moves. -/
def reeveHere (s : State) : Reeve := getReeve s s.reeveNow.1 s.reeveNow.2

/-- The binding whose handler it runs. -/
def reeveBinding (s : State) : Option Binding :=
  match (reeveHere s).cur with
  | none => none
  | some e => bindingAt s s.reeveNow.1 e.binding

/-- A register of a reeve; x0 reads zero. -/
def xreg (r : Reeve) (n : BitVec 5) : Word := if n = 0 then 0 else vget r.x n.toNat 0

/-- A register of a reeve written; x0 discards it. -/
def setX (r : Reeve) (n : BitVec 5) (v : Word) : Reeve := if n = 0 then r else { r with x := vset r.x n.toNat v }

/-- The BUDGET of the running handler. -/
def budgetOf (b : Binding) (e : ReeveEvent) : Nat := (b.budgets.getD e.kind.toNat 0).toNat

/-- The record of a handler cut off (R376, R399). -/
def cutRecord (r : Reeve) (e : ReeveEvent) (c : Cause) : Rec :=
  { cause := c, src := 5, addr := e.line, pc := r.pc
    word := BitVec.ofNat 64 (e.binding + e.kind.toNat * 16 + r.cycle * 0x10000), die := r.die, slice := r.slice }

/-- A running handler cut off (R376). -/
def cutOff (s : State) (c : Cause) : State :=
  let r := reeveHere s
  match r.cur, reeveBinding s with
  | some e, some b => putReeve (writeRecord s b.aspace (cutRecord r e c)) { r with cur := none }
  | _, _ => s

/-- What an instruction of a handler does: the machine after it, what it writes into the reeve, its reeve cycles, whether its request
leaves the reeve, so that a cut-off does not undo it (R376), whether it waits for a RED that holds its bytes (R236), and the request that
then stands at the home. -/
structure ReeveEff where
  s : State
  upd : Reeve → Reeve
  cost : Nat
  left : Bool
  ends : Bool
  waits : Bool
  sent : Option Red

/-- A result whose request stays in the reeve's own slice path. -/
def ReeveEff.quiet (s : State) (cost : Nat) (upd : Reeve → Reeve) : ReeveEff := ⟨s, upd, cost, false, false, false, none⟩

/-- The same, held by a RED at its home. -/
def ReeveEff.behind (s : State) (pa n : Nat) (x : ReeveEff) : ReeveEff := { x with waits := redHolds s pa n }

/-- The reeve moves on in line by `n` bytes, after writing a register. -/
def stepOn (n : Nat) (rd : BitVec 5) (v : Word) (r : Reeve) : Reeve := { setX r rd v with pc := r.pc + BitVec.ofNat 64 n }

/-- A cycle of a held instruction passes. One that the budget ends leaves its request, where it has sent one, to be performed at its home
(R376). -/
def reeveWaits (s : State) (r : Reeve) (budget : Nat) (sent : Option Red) : State :=
  let n := r.cycle + 1
  let t := if budget ≤ n then { s with reds := s.reds ++ sent.toList } else s
  putReeve t { r with cycle := n }

/-- An instruction of the running handler performed (R376): none is a reeve exception. -/
def reeveDo (s : State) (f : Reeve → ReeveEvent → Binding → Option ReeveEff) : Out :=
  let r := reeveHere s
  match r.cur, reeveBinding s with
  | some e, some b =>
    if budgetOf b e ≤ r.cycle then .next s
    else match f r e b with
      | none => .next (cutOff s .reeveException)
      | some x =>
        if x.waits then .next (reeveWaits s r (budgetOf b e) x.sent)
        else if budgetOf b e < r.cycle + x.cost then
          let t := if x.left then x.s else s
          .next (putReeve t { getReeve t r.die r.slice with cycle := budgetOf b e })
        else
          let u := x.upd (getReeve x.s r.die r.slice)
          .next (putReeve x.s { u with
            cycle := u.cycle + x.cost, instret := u.instret + 1, cur := if x.ends then none else u.cur })
  | _, _ => .next s

/-! Addresses (R369). -/

/-- A byte of the code window, for a fetch at an address. -/
def codeByte (b : Binding) (a : Nat) : Option Byte :=
  if b.codeAt ≤ a ∧ a < b.codeAt + windowBytes b.code.length then some (b.code.getD (a - b.codeAt) 0) else none

/-- Bytes of the code window. -/
def codeNat (b : Binding) (a : Nat) : Nat → Option Nat
  | 0 => some 0
  | n + 1 =>
    match codeByte b a, codeNat b (a + 1) n with
    | some x, some y => some (x.toNat + 256 * y)
    | _, _ => none

/-- The instruction word at a handler's pc and its length in bytes. -/
def reeveFetch (b : Binding) (pc : Word) : Option (Nat × BitVec 32) :=
  match codeNat b pc.toNat 2 with
  | none => none
  | some h => if h % 4 ≠ 3 then some (2, BitVec.ofNat 32 h) else (codeNat b pc.toNat 4).map fun w => (4, BitVec.ofNat 32 w)

/-- An access lies in the data window: its offset in data memory. -/
def dataAddr (b : Binding) (a n : Nat) : Option Nat :=
  if 0x8000 + b.dataAt ≤ a ∧ a + n ≤ 0x8000 + b.dataAt + windowBytes b.dataLen then some (a - 0x8000) else none

/-- A global address reached by a handler: its physical address (R369, R416). -/
def globalAddr (s : State) (b : Binding) (a n : Nat) (wr rd : Bool) : Option Nat :=
  if a < 0x10000 ∨ 2 ^ 52 ≤ a then none
  else match walk s b.aspace a with
    | .error _ => none
    | .ok l =>
      let pa := canonPa s (leafPa l a)
      if dState l.desc = 1 ∧ (windowAt s (dFrame l.desc)).isNone = true ∧ (isNear s pa || isFar s pa) = true ∧
          (!rd || dR l.desc) = true ∧ (!wr || dW l.desc) = true ∧ (badByte s pa n).isNone = true then some pa
      else none

/-- The reeve cycles of a global load or SLUPD: 12 or 40 on the reeve's die. For a home on the other die the manual states none: they
are a free choice (R379; log entry 5). -/
def homeCost (s : State) (r : Reeve) (pa : Nat) : Nat :=
  if homeDie s pa = some r.die then (if homeSlice (canonPa s pa) = r.slice then 12 else 40) else Config.freeReeveCycles s.fresh

/-- A reeve's access of a line, or a line it places: it may be read into the L2, which counts towards its page and pushes out another, but
raises neither a miss nor a fill (R257, R373; log entry 10). -/
def reeveTouch (s : State) (b : Binding) (va pa : Nat) : State :=
  let s1 := fetchLine s b.die pa
  let s2 := if tierOf s1 pa = 0 then s1 else countLine s1 b.die b.aspace va
  if Config.freeMiss s2.fresh 1 then fillLine s2 ((homeDie s2 pa).getD b.die) (homeSlice (canonPa s2 pa)) else bumpFresh s2

/-- A load's value extended. -/
def extendLoad (size : Nat) (signed : Bool) (v : Nat) : Word :=
  if signed then BitVec.ofInt 64 (signedOf (8 * size) v) else BitVec.ofNat 64 v

/-- A load of a handler. -/
def reeveLoad (s : State) (r : Reeve) (b : Binding) (len size : Nat) (signed : Bool) (rd : BitVec 5) (a : Nat) : Option ReeveEff :=
  if a % size ≠ 0 then none
  else match dataAddr b a size with
    | some o => some (.quiet s 2 (stepOn len rd (extendLoad size signed (leNat (memReads r.data o size)))))
    | none =>
      (globalAddr s b a size false true).map fun pa =>
        .behind s pa size (.quiet (reeveTouch s b a pa) (homeCost s r pa)
          (stepOn len rd (extendLoad size signed (leNat (rdBytes s r.die pa size)))))

/-- A store of a handler. -/
def reeveStore (s : State) (r : Reeve) (b : Binding) (len size a v : Nat) : Option ReeveEff :=
  if a % size ≠ 0 then none
  else match dataAddr b a size with
    | some o =>
      some (.quiet s 1 fun r => { r with data := memWrites r.data o (leBytes size v), pc := r.pc + BitVec.ofNat 64 len })
    | none =>
      (globalAddr s b a size true false).map fun pa =>
        .behind s pa size (.quiet (reeveTouch (setDirty (wrDie s r.die (cellsFrom pa (leBytes size v))) b.aspace a) b a pa) 1
          (stepOn len 0 0))

/-- An ordinary instruction's effect (R368). -/
def rvEffect (s : State) (r : Reeve) (b : Binding) (len : Nat) (i : RvInstr) : Option ReeveEff :=
  let x (n : BitVec 5) : Word := xreg r n
  let next : Word := r.pc + BitVec.ofNat 64 len
  let write (rd : BitVec 5) (v : Word) : Option ReeveEff := some (.quiet s 1 (stepOn len rd v))
  let jump (rd : BitVec 5) (t : Word) : Option ReeveEff := some (.quiet s 1 fun r => { setX r rd next with pc := t })
  match i with
  | .lui rd imm => write rd imm
  | .auipc rd imm => write rd (r.pc + imm)
  | .jal rd imm => jump rd (r.pc + imm)
  | .jalr rd rs1 imm => jump rd ((x rs1 + imm) &&& ~~~1)
  | .branch c rs1 rs2 imm =>
    some (.quiet s 1 fun r => { r with pc := if rvCond c (x rs1) (x rs2) then r.pc + imm else next })
  | .load size signed rd rs1 imm => reeveLoad s r b len size signed rd (x rs1 + imm).toNat
  | .store size rs1 rs2 imm => reeveStore s r b len size (x rs1 + imm).toNat ((x rs2).toNat % 2 ^ (8 * size))
  | .opImm op rd rs1 imm => write rd (rvAlu op (x rs1) imm)
  | .op op rd rs1 rs2 => write rd (rvAlu op (x rs1) (x rs2))
  | .unary op rd rs1 => write rd (rvUnary op (x rs1))
  | .fence => write 0 0
  | .readCycle rd => write rd (BitVec.ofNat 64 r.cycle)
  | .readInstret rd => write rd (BitVec.ofNat 64 r.instret)

/-- REEVE_INSTRUCTION (R368, R369, R376): the ordinary instruction at the handler's pc. -/
def execReeveInstruction (s : State) : Out :=
  reeveDo s fun r _ b =>
    match reeveFetch b r.pc with
    | none => none
    | some (2, w) => (rv16 (w.extractLsb' 0 16)).bind (rvEffect s r b 2)
    | some (_, w) => (rv32 w).bind (rvEffect s r b 4)

/-- REEVE_HANDLER_ENTRY (R375, R377). -/
def execReeveHandlerEntry (die slice : Nat) (s : State) : Out :=
  let r := getReeve s die slice
  match r.cur, r.queue with
  | none, e :: rest =>
    if !reeveUsable s die slice then .next s
    else match bindingAt s die e.binding with
      | none => .next (putReeve s { r with queue := rest })
      | some b =>
        let win := 0x8000 + b.dataAt
        let regs : List (BitVec 5 × Word) :=
          [(2, BitVec.ofNat 64 (win + b.dataLen)), (12, BitVec.ofNat 64 win),
            (10, BitVec.ofNat 64 (e.kind.toNat + (if e.dirty then 4 else 0) + slice * 16)),
            (11, if e.kind = 3 then e.payload else e.line), (13, if e.kind = 3 then e.sender else 0)]
        let r0 := { r with
          queue := rest, cur := some e, x := Vector.replicate 32 0, cycle := 0, instret := 0
          pc := BitVec.ofNat 64 (b.codeAt + (b.entryOf e.kind.toNat).toNat) }
        .next (putReeve s (regs.foldl (fun q p => setX q p.1 p.2) r0))
  | _, _ => .next s

/-- BUDGET_OVERRUN (R376): the handler whose cycle has reached its budget. -/
def execBudgetOverrun (die slice : Nat) (s : State) : Out :=
  let t := { s with reeveNow := (die, slice) }
  let r := reeveHere t
  match r.cur, reeveBinding t with
  | some e, some b => if budgetOf b e ≤ r.cycle then .next (cutOff t .budgetOverrun) else .next s
  | _, _ => .next s

/-! The custom instructions (R379). -/

/-- The physical line that a handler can have placed in the L2: one that the reads of R369 reach. -/
def lineReached (s : State) (b : Binding) (a : Nat) : Option Nat := globalAddr s b (a / 64 * 64) 1 false true

/-- A line placed in the L2 for a handler. -/
def placeLine (s : State) (b : Binding) (a : Nat) : State :=
  match lineReached s b a with
  | some pa => reeveTouch s b (a / 64 * 64) pa
  | none => s

/-- SLPF. -/
def execSlpf (rs2 rs1 rd : BitVec 5) (s : State) : Out :=
  reeveDo s fun r _ b =>
    let base := (xreg r rs1).toNat / 64 * 64
    let lines := ((List.range (min (xreg r rs2).toNat 64)).map fun i => base + 64 * i).filter fun a => (lineReached s b a).isSome
    some (.quiet (lines.foldl (fun t a => placeLine t b a) s) 2 (stepOn 4 rd (BitVec.ofNat 64 lines.length)))

/-- The hops of a chase (R379): each places a line and goes on at the pointer that stands `off` bytes beyond the line's first byte (log
entry 93), until a zero pointer, an unreachable line or the depth. -/
def chaseOn (b : Binding) (off : Nat) : Nat → State → Nat → State
  | 0, s, _ => s
  | depth + 1, s, a =>
    match lineReached s b a, globalAddr s b (a / 64 * 64 + off) 8 false true with
    | some _, some pa =>
      let p := leNat (rdBytes s b.die pa 8)
      let s1 := placeLine s b a
      if p = 0 then s1 else chaseOn b off depth s1 p
    | some _, none => placeLine s b a
    | none, _ => s

/-- SLCHASE: how many of the accepted chases still run is a free choice (log entry 5). An operand outside its limits is an illegal
instruction. -/
def execSlchase (rs2 rs1 rd : BitVec 5) (s : State) : Out :=
  reeveDo s fun r _ b =>
    let y := (xreg r rs2).toNat
    if y % 8 ≠ 0 ∨ natBits y 15 12 ≠ 0 ∨ natBits y 19 16 = 0 ∨ y / 2 ^ 20 ≠ 0 then none
    else
      let busy := r.chases - Config.freeReeveCycles s.fresh % (r.chases + 1)
      if busy < 4 then
        some (.quiet (chaseOn b (y % 4096) (natBits y 19 16) s (xreg r rs1).toNat) 2 fun r => { stepOn 4 rd 0 r with chases := busy + 1 })
      else some (.quiet s 2 fun r => { stepOn 4 rd 1 r with chases := busy })

/-- The request of an SLUPD at its home: no kernel issued it, and its old value goes nowhere (R376). -/
def slupdRequest (r : Reeve) (b : Binding) (op : BitVec 4) (g : BitVec 1) (a v pa : Nat) : Red :=
  { va := BitVec.ofNat 64 a, aspace := b.aspace, op := op, sz := g, v := BitVec.ofNat 64 v, rel := false, scope := 0, die := r.die
    core := 0, seqTag := 0, kernelId := reeveKernel, ctxId := reeveKernel, word := 0, seq := 0, pa := some pa, waits := false }

/-- SLUPD: one atomic access at the line's home, as ATOM performs it (R232, R379). -/
def execSlupd (o : BitVec 3) (g : BitVec 1) (rs2 rs1 rd : BitVec 5) (s : State) : Out :=
  reeveDo s fun r _ b =>
    let size := if g = 0 then 4 else 8
    let a := (xreg r rs1).toNat
    if a % size ≠ 0 then none
    else (globalAddr s b a size true true).map fun pa =>
      let s1 := dropLines (flushHeld s r.die pa size) pa size
      let old := rdHomeNat s1 pa size
      let v := (xreg r rs2).toNat % 2 ^ (8 * size)
      let new := atomNew (BitVec.ofNat 4 (o.toNat + 1)) size old v
      .behind s pa size ⟨reeveTouch (setDirty (wrHomeNat s1 pa size new) b.aspace a) b a pa, stepOn 4 rd (BitVec.ofNat 64 old),
        homeCost s r pa, true, false, false, some (slupdRequest r b (BitVec.ofNat 4 (o.toNat + 1)) g a v (canonPa s pa))⟩

/-- SLFWD. -/
def execSlfwd (rs2 rs1 rd : BitVec 5) (s : State) : Out :=
  reeveDo s fun r _ b =>
    let slice := (xreg r rs1).toNat % 64
    let (t, st) := if 47 < slice then (s, 2) else sendMessage s r.die slice b (xreg r rs2) (BitVec.allOnes 64)
    some ⟨t, stepOn 4 rd st, 1, true, false, false, none⟩

/-- SLDEF: the default action stands. -/
def execSldef (s : State) : Out := reeveDo s fun _ _ _ => some ⟨s, id, 1, false, true, false, none⟩

/-- The physical address of a watched line, by the frames of the binding's filter (R372). -/
def watchedAt (b : Binding) (line : Word) : Option Nat :=
  b.filter.findSome? fun (base, size, va) =>
    if va.toNat ≤ line.toNat ∧ line.toNat < va.toNat + size then some (base + (line.toNat - va.toNat)) else none

/-- The line of a fill offered as the next that its slice replaces (R379). -/
def offerLine (s : State) (r : Reeve) (b : Binding) (line : Word) : State :=
  match watchedAt b line with
  | some pa => { s with offers := s.offers.filter (fun o => !(o.1 == r.die && o.2.1 == r.slice)) ++ [(r.die, r.slice, pa)] }
  | none => s

/-- SLDONE: disposition 1 makes a fill's line the next to be replaced. A disposition that the kind does not allow is an illegal
instruction. -/
def execSldone (rs1 : BitVec 5) (s : State) : Out :=
  reeveDo s fun r e b =>
    let v := xreg r rs1
    if v = 0 then some ⟨s, id, 1, false, true, false, none⟩
    else if v = 1 ∧ e.kind = 1 then some ⟨offerLine s r b e.line, id, 1, false, true, false, none⟩
    else none

end Sys2Proof.Machine
end

