-- ==== Sys2Proof/Machine/Scalar.lean ====
section
/-! DEFINITION. Meanings of the integer, comparison, predicate and constant instructions (R111 to R116). -/

namespace Sys2Proof.Machine

/-- A two-source member of R111 under its guard. -/
def aluInstr (op : AluOp) (d a b : BitVec 5) (w : BitVec 2) (g : BitVec 3) (s : State) : Out :=
  let W := widthOf w
  guarded s g (.ok (setS s d (BitVec.ofNat 64 (aluRes op W (srcW s a W) (srcW s b W)))))

/-- A one-source member of R111 under its guard. -/
def unInstr (op : UnOp) (d a : BitVec 5) (w : BitVec 2) (g : BitVec 3) (s : State) : Out :=
  let W := widthOf w
  guarded s g (.ok (setS s d (BitVec.ofNat 64 (unRes op W (srcW s a W)))))

/-- ADD (R111). -/
def execAdd (d a b : BitVec 5) (w : BitVec 2) (g : BitVec 3) (s : State) : Out := aluInstr .add d a b w g s

/-- SUB (R111). -/
def execSub (d a b : BitVec 5) (w : BitVec 2) (g : BitVec 3) (s : State) : Out := aluInstr .sub d a b w g s

/-- MUL (R111). -/
def execMul (d a b : BitVec 5) (w : BitVec 2) (g : BitVec 3) (s : State) : Out := aluInstr .mul d a b w g s

/-- MULH (R111). -/
def execMulh (d a b : BitVec 5) (w : BitVec 2) (g : BitVec 3) (s : State) : Out := aluInstr .mulh d a b w g s

/-- MULHN (R111). -/
def execMulhn (d a b : BitVec 5) (w : BitVec 2) (g : BitVec 3) (s : State) : Out := aluInstr .mulhn d a b w g s

/-- DIV (R111). -/
def execDiv (d a b : BitVec 5) (w : BitVec 2) (g : BitVec 3) (s : State) : Out := aluInstr .div d a b w g s

/-- DIVN (R111). -/
def execDivn (d a b : BitVec 5) (w : BitVec 2) (g : BitVec 3) (s : State) : Out := aluInstr .divn d a b w g s

/-- REM (R111). -/
def execRem (d a b : BitVec 5) (w : BitVec 2) (g : BitVec 3) (s : State) : Out := aluInstr .rem d a b w g s

/-- REMN (R111). -/
def execRemn (d a b : BitVec 5) (w : BitVec 2) (g : BitVec 3) (s : State) : Out := aluInstr .remn d a b w g s

/-- AND (R111). -/
def execAnd (d a b : BitVec 5) (w : BitVec 2) (g : BitVec 3) (s : State) : Out := aluInstr .and d a b w g s

/-- OR (R111). -/
def execOr (d a b : BitVec 5) (w : BitVec 2) (g : BitVec 3) (s : State) : Out := aluInstr .or d a b w g s

/-- XOR (R111). -/
def execXor (d a b : BitVec 5) (w : BitVec 2) (g : BitVec 3) (s : State) : Out := aluInstr .xor d a b w g s

/-- ANDN (R111). -/
def execAndn (d a b : BitVec 5) (w : BitVec 2) (g : BitVec 3) (s : State) : Out := aluInstr .andn d a b w g s

/-- SHL (R111). -/
def execShl (d a b : BitVec 5) (w : BitVec 2) (g : BitVec 3) (s : State) : Out := aluInstr .shl d a b w g s

/-- SHR (R111). -/
def execShr (d a b : BitVec 5) (w : BitVec 2) (g : BitVec 3) (s : State) : Out := aluInstr .shr d a b w g s

/-- SAR (R111). -/
def execSar (d a b : BitVec 5) (w : BitVec 2) (g : BitVec 3) (s : State) : Out := aluInstr .sar d a b w g s

/-- ROL (R111). -/
def execRol (d a b : BitVec 5) (w : BitVec 2) (g : BitVec 3) (s : State) : Out := aluInstr .rol d a b w g s

/-- MIN (R111). -/
def execMin (d a b : BitVec 5) (w : BitVec 2) (g : BitVec 3) (s : State) : Out := aluInstr .min d a b w g s

/-- MAX (R111). -/
def execMax (d a b : BitVec 5) (w : BitVec 2) (g : BitVec 3) (s : State) : Out := aluInstr .max d a b w g s

/-- MINN (R111). -/
def execMinn (d a b : BitVec 5) (w : BitVec 2) (g : BitVec 3) (s : State) : Out := aluInstr .minn d a b w g s

/-- MAXN (R111). -/
def execMaxn (d a b : BitVec 5) (w : BitVec 2) (g : BitVec 3) (s : State) : Out := aluInstr .maxn d a b w g s

/-- POPC (R111). -/
def execPopc (d a : BitVec 5) (w : BitVec 2) (g : BitVec 3) (s : State) : Out := unInstr .popc d a w g s

/-- CLZ (R111). -/
def execClz (d a : BitVec 5) (w : BitVec 2) (g : BitVec 3) (s : State) : Out := unInstr .clz d a w g s

/-- CTZ (R111). -/
def execCtz (d a : BitVec 5) (w : BitVec 2) (g : BitVec 3) (s : State) : Out := unInstr .ctz d a w g s

/-- MOV (R111). -/
def execMov (d a : BitVec 5) (w : BitVec 2) (g : BitVec 3) (s : State) : Out := unInstr .mov d a w g s

/-- BFX (R112). -/
def execBfx (d a b : BitVec 5) (w : BitVec 2) (g : BitVec 3) (s : State) : Out :=
  let W := widthOf w
  guarded s g (.ok (setS s d (BitVec.ofNat 64 (bfxRes W (srcW s a W) (sreg s b)))))

/-- BFI (R112). -/
def execBfi (d a b : BitVec 5) (w : BitVec 2) (g : BitVec 3) (s : State) : Out :=
  let W := widthOf w
  guarded s g (.ok (setS s d (BitVec.ofNat 64 (bfiRes W (srcW s d W) (srcW s a W) (sreg s b)))))

/-- SEL (R55, R111): g selects, and the instruction always executes. -/
def execSel (d a b : BitVec 5) (w : BitVec 2) (g : BitVec 3) (s : State) : Out :=
  let W := widthOf w
  inLine s (.ok (setS s d (BitVec.ofNat 64 (if preg s g then srcW s a W else srcW s b W))))

/-- CMP (R113). A condition code above 9 is an illegal instruction. -/
def execCmp (p : BitVec 3) (a b : BitVec 5) (c : BitVec 6) (w : BitVec 2) (g : BitVec 3) (s : State) : Out :=
  let W := widthOf w
  if c.toNat > 9 then finish s (.trap (Trap.of .illegalInstruction))
  else guarded s g (.ok (setP s p (cmpHolds c.toNat W (srcW s a W) (srcW s b W))))

/-- PAND (R114). -/
def execPand (d a b g : BitVec 3) (s : State) : Out := guarded s g (.ok (setP s d (preg s a && preg s b)))

/-- POR (R114). -/
def execPor (d a b g : BitVec 3) (s : State) : Out := guarded s g (.ok (setP s d (preg s a || preg s b)))

/-- PXOR (R114). -/
def execPxor (d a b g : BitVec 3) (s : State) : Out := guarded s g (.ok (setP s d (preg s a != preg s b)))

/-- PNOT (R114). -/
def execPnot (d a g : BitVec 3) (s : State) : Out := guarded s g (.ok (setP s d (!preg s a)))

/-- PMOV (R114). -/
def execPmov (d a g : BitVec 3) (s : State) : Out := guarded s g (.ok (setP s d (preg s a)))

/-- ADDI (R115). -/
def execAddi (d a : BitVec 5) (i : BitVec 16) (s : State) : Out := inLine s (.ok (setS s d (sreg s a + i.signExtend 64)))

/-- ANDI (R115). -/
def execAndi (d a : BitVec 5) (i : BitVec 16) (s : State) : Out := inLine s (.ok (setS s d (sreg s a &&& i.zeroExtend 64)))

/-- ORI (R115). -/
def execOri (d a : BitVec 5) (i : BitVec 16) (s : State) : Out := inLine s (.ok (setS s d (sreg s a ||| i.zeroExtend 64)))

/-- XORI (R115). -/
def execXori (d a : BitVec 5) (i : BitVec 16) (s : State) : Out := inLine s (.ok (setS s d (sreg s a ^^^ i.zeroExtend 64)))

/-- SHLI (R115). -/
def execShli (d a : BitVec 5) (n : BitVec 6) (s : State) : Out := inLine s (.ok (setS s d (sreg s a <<< n.toNat)))

/-- SHRI (R115). -/
def execShri (d a : BitVec 5) (n : BitVec 6) (s : State) : Out := inLine s (.ok (setS s d (sreg s a >>> n.toNat)))

/-- SARI (R115). -/
def execSari (d a : BitVec 5) (n : BitVec 6) (s : State) : Out := inLine s (.ok (setS s d ((sreg s a).sshiftRight n.toNat)))

/-- MOVI (R116). -/
def execMovi (d : BitVec 5) (h : BitVec 2) (i : BitVec 16) (s : State) : Out :=
  inLine s (.ok (setS s d (i.zeroExtend 64 <<< (16 * h.toNat))))

/-- MOVK (R116). -/
def execMovk (d : BitVec 5) (h : BitVec 2) (i : BitVec 16) (s : State) : Out :=
  let keep : Word := ~~~((0xFFFF : Word) <<< (16 * h.toNat))
  inLine s (.ok (setS s d ((sreg s d &&& keep) ||| (i.zeroExtend 64 <<< (16 * h.toNat)))))

end Sys2Proof.Machine
end

