-- ==== Sys2Proof/Machine/ScalarFloat.lean ====
section
/-! DEFINITION. Meanings of the scalar float instructions (R117 to R120). -/

namespace Sys2Proof.Machine

/-- A source of a scalar float instruction that is a verdict word (R118). -/
def verdictSrc (f : FFmt) (s : State) (r : BitVec 5) : Bool := f = .f32 && isVerdict ((sreg s r).extractLsb' 0 32)

/-- A float result written with its flags (R109, R117). -/
def putFloat (s : State) (d : BitVec 5) (r : Nat × Fl) : Eff := .ok (raiseFlags (setS s d (BitVec.ofNat 64 r.1)) r.2)

/-- A scalar float instruction of the given format under its guard: w = 0b00 is reserved, and a verdict word among its sources
traps. -/
def floatInstr (s : State) (w : BitVec 2) (g : BitVec 3) (srcs : List (BitVec 5)) (e : FFmt → Eff) : Out :=
  match scalarFmt w with
  | none => finish s (.trap (Trap.of .illegalInstruction))
  | some f => guarded s g (if srcs.any (verdictSrc f s) then .trap (Trap.of .verdictOperand) else e f)

/-- A source read at a format's width. -/
def fsrc (f : FFmt) (s : State) (r : BitVec 5) : Nat := snat s r % 2 ^ f.width

/-- FADD (R117). -/
def execFadd (d a b : BitVec 5) (w : BitVec 2) (g : BitVec 3) (s : State) : Out :=
  floatInstr s w g [a, b] fun f => putFloat s d (fAdd f .rne (fsrc f s a) (fsrc f s b))

/-- FSUB (R117). -/
def execFsub (d a b : BitVec 5) (w : BitVec 2) (g : BitVec 3) (s : State) : Out :=
  floatInstr s w g [a, b] fun f => putFloat s d (fSub f .rne (fsrc f s a) (fsrc f s b))

/-- FMUL (R117). -/
def execFmul (d a b : BitVec 5) (w : BitVec 2) (g : BitVec 3) (s : State) : Out :=
  floatInstr s w g [a, b] fun f => putFloat s d (fMul f .rne (fsrc f s a) (fsrc f s b))

/-- FMIN (R119). -/
def execFmin (d a b : BitVec 5) (w : BitVec 2) (g : BitVec 3) (s : State) : Out :=
  floatInstr s w g [a, b] fun f => putFloat s d (fMinMax f false false (fsrc f s a) (fsrc f s b))

/-- FMAX (R119). -/
def execFmax (d a b : BitVec 5) (w : BitVec 2) (g : BitVec 3) (s : State) : Out :=
  floatInstr s w g [a, b] fun f => putFloat s d (fMinMax f true false (fsrc f s a) (fsrc f s b))

/-- FFMA (R117): the addend is the destination, with one rounding. -/
def execFfma (d a b : BitVec 5) (w : BitVec 2) (g : BitVec 3) (s : State) : Out :=
  floatInstr s w g [a, b, d] fun f => putFloat s d (fMulAdd f .rne false (fsrc f s a) (fsrc f s b) (fsrc f s d))

/-- FCMP (R119). -/
def execFcmp (c : BitVec 2) (p : BitVec 3) (a b : BitVec 5) (w : BitVec 2) (g : BitVec 3) (s : State) : Out :=
  floatInstr s w g [a, b] fun f =>
    let r := fCompare f c.toNat (fsrc f s a) (fsrc f s b)
    .ok (raiseFlags (setP s p r.1) r.2)

/-- FCVT (R120): source code s, target code t. -/
def execFcvt (d a : BitVec 5) (s : BitVec 5) (t : BitVec 4) (g : BitVec 3) (st : State) : Out :=
  match numFmt s.toNat, numFmt t.toNat with
  | some .q4e, _ => finish st (.trap (Trap.of .illegalInstruction))
  | _, some .q4e => finish st (.trap (Trap.of .illegalInstruction))
  | some src, some dst =>
    guarded st g
      (if decide (s = 0) && isVerdict ((sreg st a).extractLsb' 0 32) then .trap (Trap.of .verdictOperand)
       else putFloat st d (convert src dst ⟨.rne, vmodeSAT st.core.ctx.vmode, false⟩ (snat st a % 2 ^ src.width)))
  | _, _ => finish st (.trap (Trap.of .illegalInstruction))

end Sys2Proof.Machine
end

