-- ==== Sys2Proof/Machine/Work.lean ====
section
/-! DEFINITION. The work and the end of started copy, gather and scoring commands (R196, R203, R206, R209, R210, R272, R330): a command is
performed piece by piece, and pieces of different channels and engines interleave. -/

namespace Sys2Proof.Machine

/-- The next piece of a started command's work. -/
def commandPiece (s : State) (cls : Nat) (c : Command) : Piece :=
  match c.kind with
  | .input n _ => inputPiece s c n
  | .sqld .. => .wait s
  | _ =>
    if cls = 1 then copyPiece s c
    else match bodyKind c.body with
      | 1 => gatherPiece s c
      | 2 => scatterPiece s c
      | _ => scorePiece s c

/-- The offset of the byte that a command writes next, for its write pointer (R142). -/
def nextByte (k : Core) (cls : Nat) (c : Command) (done : Nat) : Nat :=
  if cls = 1 then copyNext k c done
  else if gRows c.body * gRowB c.body ≤ done then (pointerRange c).hi
  else (gatherAt c done).2.1

/-- One piece performed: whether the command got on. -/
def workOnce (s : State) (cls : Nat) (c : Command) : State × Bool :=
  match commandPiece s cls c with
  | .wait t => (t, false)
  | .did t n under fault => (advanced t cls c n under (nextByte t.core cls c (c.progress + n)) fault, true)

/-- A started command of the core, by the number of its entry. -/
def runOf (k : Core) (cls gid : Nat) : Option Command := (vget k.run cls []).find? fun c => c.gid = gid

/-- The rest of a command's work, until it is over or has to wait: at most `fuel` pieces. -/
def workAll : Nat → State → Nat → Nat → State
  | 0, s, _, _ => s
  | fuel + 1, s, cls, gid =>
    match runOf s.core cls gid with
    | none => s
    | some c =>
      if workOver s.core cls c then s
      else match workOnce s cls c with
        | (t, true) => workAll fuel t cls gid
        | (t, false) => t

/-- The next piece of the n-th started command of a class, when it is the command's turn (R203). -/
def commandWork (s : State) (cls n : Nat) : State :=
  match (vget s.core.run cls [])[n]? with
  | some c => if channelTurn s.core cls c && !workOver s.core cls c then (workOnce s cls c).1 else s
  | none => s

/-- A started copy, gather or scoring command whose work is over ends: pointer, count, pending bytes, record (R142, R196, R210, R272). -/
def commandEnded (s : State) (cls : Nat) (c : Command) : State :=
  match c.kind with
  | .input i slot => settleMarkers (inputEnded (modCore s fun k => endCommand k cls c) c i slot) c.die c.core
  | _ =>
    let left := destBytes s.core cls c - c.progress
    let s1 := creditUnder (modCore s fun k => donePointer (endCommand k cls c) c) c
    let s2 := bytesAt s1 c left c.fault.isSome
    let s3 := match c.fault with
      | some f => writeRecord s2 c.aspace (commandRecord cls c.core c f)
      | none => s2
    settleMarkers s3 c.die c.core

/-- The n-th started command of a class performs what is left of its work, in its turn, and ends unless it has to wait. -/
def commandEnd (s : State) (cls n : Nat) : State :=
  match (vget s.core.run cls [])[n]? with
  | none => s
  | some c =>
    if channelTurn s.core cls c then
      let t := workAll (destBytes s.core cls c + 1) s cls c.gid
      match runOf t.core cls c.gid with
      | some c' => if workOver t.core cls c' then commandEnded t cls c' else t
      | none => t
    else s

/-- COMMAND_END (R196): the k-th started command of the copy and gather engines. -/
def execCommandEnd (k : Nat) (s : State) : Out :=
  let copies := (vget s.core.run 1 []).length
  .next (if k < copies then commandEnd s 1 k else commandEnd s 2 (k - copies))

end Sys2Proof.Machine
end

