-- ==== Sys2Proof/Machine/Dispatch.lean ====
section
/-! DEFINITION. One arm per instruction: the meaning it calls. -/

namespace Sys2Proof.Machine

/-- The meaning of an instruction. -/
def exec (i : Instr) (s : State) : Host.Outcome State Fault Refusal :=
  match i with
  | .add d a b w g => Sys2Proof.Machine.execAdd d a b w g s
  | .sub d a b w g => Sys2Proof.Machine.execSub d a b w g s
  | .mul d a b w g => Sys2Proof.Machine.execMul d a b w g s
  | .mulh d a b w g => Sys2Proof.Machine.execMulh d a b w g s
  | .mulhn d a b w g => Sys2Proof.Machine.execMulhn d a b w g s
  | .div d a b w g => Sys2Proof.Machine.execDiv d a b w g s
  | .divn d a b w g => Sys2Proof.Machine.execDivn d a b w g s
  | .rem d a b w g => Sys2Proof.Machine.execRem d a b w g s
  | .remn d a b w g => Sys2Proof.Machine.execRemn d a b w g s
  | .and d a b w g => Sys2Proof.Machine.execAnd d a b w g s
  | .or d a b w g => Sys2Proof.Machine.execOr d a b w g s
  | .xor d a b w g => Sys2Proof.Machine.execXor d a b w g s
  | .andn d a b w g => Sys2Proof.Machine.execAndn d a b w g s
  | .shl d a b w g => Sys2Proof.Machine.execShl d a b w g s
  | .shr d a b w g => Sys2Proof.Machine.execShr d a b w g s
  | .sar d a b w g => Sys2Proof.Machine.execSar d a b w g s
  | .rol d a b w g => Sys2Proof.Machine.execRol d a b w g s
  | .min d a b w g => Sys2Proof.Machine.execMin d a b w g s
  | .max d a b w g => Sys2Proof.Machine.execMax d a b w g s
  | .minn d a b w g => Sys2Proof.Machine.execMinn d a b w g s
  | .maxn d a b w g => Sys2Proof.Machine.execMaxn d a b w g s
  | .popc d a w g => Sys2Proof.Machine.execPopc d a w g s
  | .clz d a w g => Sys2Proof.Machine.execClz d a w g s
  | .ctz d a w g => Sys2Proof.Machine.execCtz d a w g s
  | .bfx d a b w g => Sys2Proof.Machine.execBfx d a b w g s
  | .bfi d a b w g => Sys2Proof.Machine.execBfi d a b w g s
  | .sel d a b w g => Sys2Proof.Machine.execSel d a b w g s
  | .mov d a w g => Sys2Proof.Machine.execMov d a w g s
  | .cmp p a b c w g => Sys2Proof.Machine.execCmp p a b c w g s
  | .fadd d a b w g => Sys2Proof.Machine.execFadd d a b w g s
  | .fsub d a b w g => Sys2Proof.Machine.execFsub d a b w g s
  | .fmul d a b w g => Sys2Proof.Machine.execFmul d a b w g s
  | .ffma d a b w g => Sys2Proof.Machine.execFfma d a b w g s
  | .fmin d a b w g => Sys2Proof.Machine.execFmin d a b w g s
  | .fmax d a b w g => Sys2Proof.Machine.execFmax d a b w g s
  | .fcmp c p a b w g => Sys2Proof.Machine.execFcmp c p a b w g s
  | .fcvt d a sv t g => Sys2Proof.Machine.execFcvt d a sv t g s
  | .addi d a imm => Sys2Proof.Machine.execAddi d a imm s
  | .andi d a imm => Sys2Proof.Machine.execAndi d a imm s
  | .ori d a imm => Sys2Proof.Machine.execOri d a imm s
  | .xori d a imm => Sys2Proof.Machine.execXori d a imm s
  | .shli d a n => Sys2Proof.Machine.execShli d a n s
  | .shri d a n => Sys2Proof.Machine.execShri d a n s
  | .sari d a n => Sys2Proof.Machine.execSari d a n s
  | .movi d h imm => Sys2Proof.Machine.execMovi d h imm s
  | .movk d h imm => Sys2Proof.Machine.execMovk d h imm s
  | .lds d a b o => Sys2Proof.Machine.execLds d a b o s
  | .sts d a b o => Sys2Proof.Machine.execSts d a b o s
  | .ldg d h z n o => Sys2Proof.Machine.execLdg d h z n o s
  | .stg d h z n o => Sys2Proof.Machine.execStg d h z n o s
  | .atom d h x o z r sv => Sys2Proof.Machine.execAtom d h x o z r sv s
  | .red b h x o z r sv => Sys2Proof.Machine.execRed b h x o z r sv s
  | .cas d h x b z r sv => Sys2Proof.Machine.execCas d h x b z r sv s
  | .xlate a h => Sys2Proof.Machine.execXlate a h s
  | .hdrop h => Sys2Proof.Machine.execHdrop h s
  | .hstat a h => Sys2Proof.Machine.execHstat a h s
  | .fenceAcq sv => Sys2Proof.Machine.execFenceAcq sv s
  | .fenceRel sv => Sys2Proof.Machine.execFenceRel sv s
  | .fenceFull sv => Sys2Proof.Machine.execFenceFull sv s
  | .lsmark sv => Sys2Proof.Machine.execLsmark sv s
  | .br n p o => Sys2Proof.Machine.execBr n p o s
  | .j o => Sys2Proof.Machine.execJ o s
  | .call o => Sys2Proof.Machine.execCall o s
  | .jr a => Sys2Proof.Machine.execJr a s
  | .callr a => Sys2Proof.Machine.execCallr a s
  | .ret => Sys2Proof.Machine.execRet s
  | .loop l n c => Sys2Proof.Machine.execLoop l n c s
  | .loopReg l n a => Sys2Proof.Machine.execLoopReg l n a s
  | .pand d a b g => Sys2Proof.Machine.execPand d a b g s
  | .por d a b g => Sys2Proof.Machine.execPor d a b g s
  | .pxor d a b g => Sys2Proof.Machine.execPxor d a b g s
  | .pnot d a g => Sys2Proof.Machine.execPnot d a g s
  | .pmov d a g => Sys2Proof.Machine.execPmov d a g s
  | .getsr a r => Sys2Proof.Machine.execGetsr a r s
  | .setsr a r => Sys2Proof.Machine.execSetsr a r s
  | .nop => Sys2Proof.Machine.execNop s
  | .trap imm => Sys2Proof.Machine.execTrap imm s
  | .eret => Sys2Proof.Machine.execEret s
  | .bkpt => Sys2Proof.Machine.execBkpt s
  | .halt => Sys2Proof.Machine.execHalt s
  | .done => Sys2Proof.Machine.execDone s
  | .yield => Sys2Proof.Machine.execYield s
  | .vadd d a b m z => Sys2Proof.Machine.execVadd d a b m z s
  | .vsub d a b m z => Sys2Proof.Machine.execVsub d a b m z s
  | .vmul d a b m z => Sys2Proof.Machine.execVmul d a b m z s
  | .vfma d a b m z => Sys2Proof.Machine.execVfma d a b m z s
  | .vfms d a b m z => Sys2Proof.Machine.execVfms d a b m z s
  | .vmin d a b m z => Sys2Proof.Machine.execVmin d a b m z s
  | .vmax d a b m z => Sys2Proof.Machine.execVmax d a b m z s
  | .vabs d a m z => Sys2Proof.Machine.execVabs d a m z s
  | .vneg d a m z => Sys2Proof.Machine.execVneg d a m z s
  | .vcpys d a b m z => Sys2Proof.Machine.execVcpys d a b m z s
  | .viadd d a b m z => Sys2Proof.Machine.execViadd d a b m z s
  | .visub d a b m z => Sys2Proof.Machine.execVisub d a b m z s
  | .vimul d a b m z => Sys2Proof.Machine.execVimul d a b m z s
  | .vand d a b m z => Sys2Proof.Machine.execVand d a b m z s
  | .vor d a b m z => Sys2Proof.Machine.execVor d a b m z s
  | .vxor d a b m z => Sys2Proof.Machine.execVxor d a b m z s
  | .vshl d a b m z => Sys2Proof.Machine.execVshl d a b m z s
  | .vshr d a b m z => Sys2Proof.Machine.execVshr d a b m z s
  | .vsar d a b m z => Sys2Proof.Machine.execVsar d a b m z s
  | .vimin d a b m z => Sys2Proof.Machine.execVimin d a b m z s
  | .vimax d a b m z => Sys2Proof.Machine.execVimax d a b m z s
  | .viminN32 d a b m z => Sys2Proof.Machine.execViminN32 d a b m z s
  | .vimaxN32 d a b m z => Sys2Proof.Machine.execVimaxN32 d a b m z s
  | .vcmp d a b c t m z => Sys2Proof.Machine.execVcmp d a b c t m z s
  | .vcvt d a sv t m z => Sys2Proof.Machine.execVcvt d a sv t m z s
  | .vsplit d a m z => Sys2Proof.Machine.execVsplit d a m z s
  | .vpack d a f m z => Sys2Proof.Machine.execVpack d a f m z s
  | .vunpk d a f m z => Sys2Proof.Machine.execVunpk d a f m z s
  | .vsfu d a f m z => Sys2Proof.Machine.execVsfu d a f m z s
  | .vrotr d a b m z => Sys2Proof.Machine.execVrotr d a b m z s
  | .vbcr d a b m z => Sys2Proof.Machine.execVbcr d a b m z s
  | .vredr d a t o m z => Sys2Proof.Machine.execVredr d a t o m z s
  | .vredrC d a m z => Sys2Proof.Machine.execVredrC d a m z s
  | .vscanr d a t o m z => Sys2Proof.Machine.execVscanr d a t o m z s
  | .vrotc d a b m z => Sys2Proof.Machine.execVrotc d a b m z s
  | .vbcc d a b m z => Sys2Proof.Machine.execVbcc d a b m z s
  | .vredc d a t o m z => Sys2Proof.Machine.execVredc d a t o m z s
  | .vredcC d a m z => Sys2Proof.Machine.execVredcC d a m z s
  | .vscanc d a t o m z => Sys2Proof.Machine.execVscanc d a t o m z s
  | .vperm d a b m z => Sys2Proof.Machine.execVperm d a b m z s
  | .vsel d a b m => Sys2Proof.Machine.execVsel d a b m s
  | .vmov d a m z => Sys2Proof.Machine.execVmov d a m z s
  | .viota d a m z => Sys2Proof.Machine.execViota d a m z s
  | .vins d a b => Sys2Proof.Machine.execVins d a b s
  | .vext d a b => Sys2Proof.Machine.execVext d a b s
  | .vld v u sv o => Sys2Proof.Machine.execVld v u sv o s
  | .vst v u sv o => Sys2Proof.Machine.execVst v u sv o s
  | .vldg v h imm m r z => Sys2Proof.Machine.execVldg v h imm m r z s
  | .vstg v h imm m r z => Sys2Proof.Machine.execVstg v h imm m r z s
  | .vpop d f m z => Sys2Proof.Machine.execVpop d f m z s
  | .vpush a f m => Sys2Proof.Machine.execVpush a f m s
  | .mand d a b => Sys2Proof.Machine.execMand d a b s
  | .mor d a b => Sys2Proof.Machine.execMor d a b s
  | .mxor d a b => Sys2Proof.Machine.execMxor d a b s
  | .mnot d a => Sys2Proof.Machine.execMnot d a s
  | .mpopc d a => Sys2Proof.Machine.execMpopc d a s
  | .mtest d a b => Sys2Proof.Machine.execMtest d a b s
  | .vdopen d a b => Sys2Proof.Machine.execVdopen d a b s
  | .vdacc d a b => Sys2Proof.Machine.execVdacc d a b s
  | .vdthr a => Sys2Proof.Machine.execVdthr a s
  | .vdclose d => Sys2Proof.Machine.execVdclose d s
  | .vdtest d a m z => Sys2Proof.Machine.execVdtest d a m z s
  | .vdtestAny d a m z => Sys2Proof.Machine.execVdtestAny d a m z s
  | .topki d a b m => Sys2Proof.Machine.execTopki d a b m s
  | .bscore d a b => Sys2Proof.Machine.execBscore d a b s
  | .mma t f v => Sys2Proof.Machine.execMma t f v s
  | .mmas t f v => Sys2Proof.Machine.execMmas t f v s
  | .mmag t f v => Sys2Proof.Machine.execMmag t f v s
  | .mzero t f v => Sys2Proof.Machine.execMzero t f v s
  | .mstore t f v => Sys2Proof.Machine.execMstore t f v s
  | .matrixHold t f v => Sys2Proof.Machine.execMatrixHold t f v s
  | .tcopy t f v => Sys2Proof.Machine.execTcopy t f v s
  | .tfill t f v => Sys2Proof.Machine.execTfill t f v s
  | .bcopy t f v => Sys2Proof.Machine.execBcopy t f v s
  | .copyHold t f v => Sys2Proof.Machine.execCopyHold t f v s
  | .tgather t f v => Sys2Proof.Machine.execTgather t f v s
  | .tscatter t f v => Sys2Proof.Machine.execTscatter t f v s
  | .tscore t => Sys2Proof.Machine.execTscore t s
  | .gatherHold t f v => Sys2Proof.Machine.execGatherHold t f v s
  | .tcoll t f v => Sys2Proof.Machine.execTcoll t f v s
  | .collectiveHold t f v => Sys2Proof.Machine.execCollectiveHold t f v s
  | .seek t f v => Sys2Proof.Machine.execSeek t f v s
  | .kfetch t f v => Sys2Proof.Machine.execKfetch t f v s
  | .sappend t f v => Sys2Proof.Machine.execSappend t f v s
  | .smerge t f v => Sys2Proof.Machine.execSmerge t f v s
  | .searchHold t f v => Sys2Proof.Machine.execSearchHold t f v s
  | .tmpl a b c t => Sys2Proof.Machine.execTmpl a b c t s
  | .tmplBfmt a n => Sys2Proof.Machine.execTmplBfmt a n s
  | .notify a l c => Sys2Proof.Machine.execNotify a l c s
  | .qdrain c => Sys2Proof.Machine.execQdrain c s
  | .ringsetCfg a g => Sys2Proof.Machine.execRingsetCfg a g s
  | .ringsetAdv a g => Sys2Proof.Machine.execRingsetAdv a g s
  | .feedbind a u f => Sys2Proof.Machine.execFeedbind a u f s
  | .feedstop f => Sys2Proof.Machine.execFeedstop f s
  | .sqld a b u => Sys2Proof.Machine.execSqld a b u s
  | .ztest a b u t => Sys2Proof.Machine.execZtest a b u t s
  | .wpwait a p => Sys2Proof.Machine.execWpwait a p s
  | .bjoin k b l m n => Sys2Proof.Machine.execBjoin k b l m n s
  | .bdrop l m n => Sys2Proof.Machine.execBdrop l m n s
  | .barr b l n => Sys2Proof.Machine.execBarr b l n s
  | .bwait a b l n => Sys2Proof.Machine.execBwait a b l n s
  | .barw b l n => Sys2Proof.Machine.execBarw b l n s
  | .bexp a l n => Sys2Proof.Machine.execBexp a l n s
  | .btest b l n => Sys2Proof.Machine.execBtest b l n s
  | .fset a l n => Sys2Proof.Machine.execFset a l n s
  | .fget b l n => Sys2Proof.Machine.execFget b l n s
  | .lwait b l n => Sys2Proof.Machine.execLwait b l n s
  | .lrel l n => Sys2Proof.Machine.execLrel l n s
  | .barrierWake => Sys2Proof.Machine.execBarrierWake s
  | .enq a b h => Sys2Proof.Machine.execEnq a b h s
  | .spawn a b => Sys2Proof.Machine.execSpawn a b s
  | .karm a b o h => Sys2Proof.Machine.execKarm a b o h s
  | .kdisarm a => Sys2Proof.Machine.execKdisarm a s
  | .klaunch a b h => Sys2Proof.Machine.execKlaunch a b h s
  | .kcancel a b => Sys2Proof.Machine.execKcancel a b s
  | .shwait a b => Sys2Proof.Machine.execShwait a b s
  | .preq a b e n => Sys2Proof.Machine.execPreq a b e n s
  | .pcancel a b l => Sys2Proof.Machine.execPcancel a b l s
  | .pharv a b => Sys2Proof.Machine.execPharv a b s
  | .btfork a b => Sys2Proof.Machine.execBtfork a b s
  | .btmap a b h => Sys2Proof.Machine.execBtmap a b h s
  | .btunmap a b c => Sys2Proof.Machine.execBtunmap a b c s
  | .wopen a b d h => Sys2Proof.Machine.execWopen a b d h s
  | .wcommit a b d => Sys2Proof.Machine.execWcommit a b d s
  | .wabort a d => Sys2Proof.Machine.execWabort a d s
  | .wstat a d => Sys2Proof.Machine.execWstat a d s
  | .hpin a b d => Sys2Proof.Machine.execHpin a b d s
  | .hunpin a d => Sys2Proof.Machine.execHunpin a d s
  | .hsave a d => Sys2Proof.Machine.execHsave a d s
  | .hevict a d => Sys2Proof.Machine.execHevict a d s
  | .hdlbind a d h => Sys2Proof.Machine.execHdlbind a d h s
  | .hdlunb a d => Sys2Proof.Machine.execHdlunb a d s
  | .hdlmsg a b d => Sys2Proof.Machine.execHdlmsg a b d s
  | .slpf sv r d => Sys2Proof.Machine.execSlpf sv r d s
  | .slchase sv r d => Sys2Proof.Machine.execSlchase sv r d s
  | .slupd o g sv r d => Sys2Proof.Machine.execSlupd o g sv r d s
  | .slfwd sv r d => Sys2Proof.Machine.execSlfwd sv r d s
  | .sldef => Sys2Proof.Machine.execSldef s
  | .sldone r => Sys2Proof.Machine.execSldone r s
  | .mmaStart => Sys2Proof.Machine.execMmaStart s
  | .mmasStart => Sys2Proof.Machine.execMmasStart s
  | .mmagStart => Sys2Proof.Machine.execMmagStart s
  | .mzeroStart => Sys2Proof.Machine.execMzeroStart s
  | .mstoreStart => Sys2Proof.Machine.execMstoreStart s
  | .tileCommandEnd => Sys2Proof.Machine.execTileCommandEnd s
  | .tcopyStart => Sys2Proof.Machine.execTcopyStart s
  | .tfillStart => Sys2Proof.Machine.execTfillStart s
  | .bcopyStart => Sys2Proof.Machine.execBcopyStart s
  | .sqldAppend => Sys2Proof.Machine.execSqldAppend s
  | .tgatherStart => Sys2Proof.Machine.execTgatherStart s
  | .tscatterStart => Sys2Proof.Machine.execTscatterStart s
  | .tscoreStart => Sys2Proof.Machine.execTscoreStart s
  | .commandEnd k => Sys2Proof.Machine.execCommandEnd k s
  | .notifyEvent => Sys2Proof.Machine.execNotifyEvent s
  | .feedTransfer f => Sys2Proof.Machine.execFeedTransfer f s
  | .collectiveStart => Sys2Proof.Machine.execCollectiveStart s
  | .seekStart => Sys2Proof.Machine.execSeekStart s
  | .drovePageArrival k fp => Sys2Proof.Machine.execDrovePageArrival k fp s
  | .pageReadRequeue k fp => Sys2Proof.Machine.execPageReadRequeue k fp s
  | .kfetchStart => Sys2Proof.Machine.execKfetchStart s
  | .sappendStart => Sys2Proof.Machine.execSappendStart s
  | .smergeStart => Sys2Proof.Machine.execSmergeStart s
  | .smergeSwap k => Sys2Proof.Machine.execSmergeSwap k s
  | .redTranslation k => Sys2Proof.Machine.execRedTranslation k s
  | .redPerformed k => Sys2Proof.Machine.execRedPerformed k s
  | .iterationHandout die e => Sys2Proof.Machine.execIterationHandout die e s
  | .declaredInputsArrived slot => Sys2Proof.Machine.execDeclaredInputsArrived slot s
  | .contextStart => Sys2Proof.Machine.execContextStart s
  | .contextRetire => Sys2Proof.Machine.execContextRetire s
  | .stewardDispatch die => Sys2Proof.Machine.execStewardDispatch die s
  | .estimatorDecision die e => Sys2Proof.Machine.execEstimatorDecision die e s
  | .scrubComplete die e => Sys2Proof.Machine.execScrubComplete die e s
  | .preemptionComplete die e => Sys2Proof.Machine.execPreemptionComplete die e s
  | .restoreComplete die e => Sys2Proof.Machine.execRestoreComplete die e s
  | .kernelEnd die e => Sys2Proof.Machine.execKernelEnd die e s
  | .promotionComplete k => Sys2Proof.Machine.execPromotionComplete k s
  | .promotionFailed k => Sys2Proof.Machine.execPromotionFailed k s
  | .shoot m v => Sys2Proof.Machine.execShoot m v s
  | .shootDownComplete k => Sys2Proof.Machine.execShootDownComplete k s
  | .poolClearComplete k => Sys2Proof.Machine.execPoolClearComplete k s
  | .silenceEviction die k => Sys2Proof.Machine.execSilenceEviction die k s
  | .evictionComplete die k => Sys2Proof.Machine.execEvictionComplete die k s
  | .reeveHandlerEntry die slice => Sys2Proof.Machine.execReeveHandlerEntry die slice s
  | .budgetOverrun die slice => Sys2Proof.Machine.execBudgetOverrun die slice s
  | .launch m die v => Sys2Proof.Machine.execLaunch m die v s
  | .hostPreemptionRequest m die entry dead => Sys2Proof.Machine.execHostPreemptionRequest m die entry dead s
  | .registerWrite m fn off size v => Sys2Proof.Machine.execRegisterWrite m fn off size v s
  | .taggedLaunchMessage port aspace tag hdr va pay => Sys2Proof.Machine.execTaggedLaunchMessage port aspace tag hdr va pay s
  | .hostMemoryAccess pa wr => Sys2Proof.Machine.execHostMemoryAccess pa wr s
  | .hostAtomic op sz pa v e => Sys2Proof.Machine.execHostAtomic op sz pa v e s
  | .linkEnable m link => Sys2Proof.Machine.execLinkEnable m link s
  | .linkDisable m link => Sys2Proof.Machine.execLinkDisable m link s
  | .linkTrainingDone link lanes peer => Sys2Proof.Machine.execLinkTrainingDone link lanes peer s
  | .flitRetry link => Sys2Proof.Machine.execFlitRetry link s
  | .laneLost link => Sys2Proof.Machine.execLaneLost link s
  | .pathLossTimeout pkg => Sys2Proof.Machine.execPathLossTimeout pkg s
  | .dieBoundaryFailure => Sys2Proof.Machine.execDieBoundaryFailure s
  | .moduleReset => Sys2Proof.Machine.execModuleReset s
  | .functionSelfTestDone f test found => Sys2Proof.Machine.execFunctionSelfTestDone f test found s
  | .claim m c h => Sys2Proof.Machine.execClaim m c h s
  | .ownershipRelease m => Sys2Proof.Machine.execOwnershipRelease m s
  | .handover m h => Sys2Proof.Machine.execHandover m h s
  | .functionLevelReset m => Sys2Proof.Machine.execFunctionLevelReset m s
  | .allot m v => Sys2Proof.Machine.execAllot m v s
  | .fring m v => Sys2Proof.Machine.execFring m v s
  | .pkgset m part v => Sys2Proof.Machine.execPkgset m part v s
  | .plimit m v => Sys2Proof.Machine.execPlimit m v s
  | .throttle watts => Sys2Proof.Machine.execThrottle watts s
  | .clockRestore watts => Sys2Proof.Machine.execClockRestore watts s
  | .tripTemperature => Sys2Proof.Machine.execTripTemperature s
  | .getVersion => Sys2Proof.Machine.execGetVersion s
  | .getCapabilities => Sys2Proof.Machine.execGetCapabilities s
  | .negotiateAlgorithms => Sys2Proof.Machine.execNegotiateAlgorithms s
  | .getDigests => Sys2Proof.Machine.execGetDigests s
  | .getCertificate => Sys2Proof.Machine.execGetCertificate s
  | .challenge => Sys2Proof.Machine.execChallenge s
  | .getMeasurements idx => Sys2Proof.Machine.execGetMeasurements idx s
  | .vectorInstructionStart => Sys2Proof.Machine.execVectorInstructionStart s
  | .accessPerformed k => Sys2Proof.Machine.execAccessPerformed k s
  | .collectiveEnd => Sys2Proof.Machine.execCollectiveEnd s
  | .kfetchBlockArrival k => Sys2Proof.Machine.execKfetchBlockArrival k s
  | .reeveInstruction => Sys2Proof.Machine.execReeveInstruction s
  | .softError where_ pa double => Sys2Proof.Machine.execSoftError where_ pa double s
  | .bankFailed bank failed => Sys2Proof.Machine.execBankFailed bank failed s
  | .podRequest req => Sys2Proof.Machine.execPodRequest req s
  | .rocev2Message qp msg => Sys2Proof.Machine.execRocev2Message qp msg s
  | .recoveryImage img => Sys2Proof.Machine.execRecoveryImage img s

end Sys2Proof.Machine
end

