-- ==== Sys2Proof/Decode.lean ====
section
/-! DEFINITION. The decoder of a core's instruction words, the decoder of a reeve's own words, and after them the encoder
(R53 to R65, R71). The decoder is total: a word that is no instruction is rejected by the step of R71 that rejects it. -/

namespace Sys2Proof

/-- The units whose absence R72 reports. -/
inductive Unit' where
  | quesar | hearth | eth
deriving DecidableEq, Repr

/-- Why a word is no instruction. -/
inductive DecodeError where
  /-- R71 steps 1 and 2: the major opcode or a code beneath it is not assigned. -/
  | code
  /-- R71 steps 4 and 5: a reserved field is set or an operand limit is broken; the unit the word needs, if any, which
  step 3 checks first. -/
  | field (unit : Option Unit')
deriving DecidableEq, Repr

/-- R71 steps 4 and 5 for an assigned code: the reserved bits `mask` are zero and the operand limits hold. -/
def checked (w mask : BitVec 32) (unit : Option Unit') (i : Instr) : Except DecodeError Instr :=
  if w &&& mask = 0 ∧ i.wf = true then .ok i else .error (.field unit)

/-- Field [lo + len - 1 : lo] of a word (R3). -/
abbrev fld (w : BitVec 32) (lo len : Nat) : BitVec len := w.extractLsb' lo len

/-- Major 0x01: ADD, SUB, MUL, MULH, MULHN, DIV, DIVN, REM, REMN, AND, OR, XOR, ANDN, SHL, SHR, SAR, ROL, MIN, MAX, MINN, MAXN, POPC, CLZ, CTZ, BFX, BFI, SEL, MOV. -/
def decodeMajor01 (w : BitVec 32) : Except DecodeError Instr :=
  match (fld w 5 6).toNat with
  | 0x00 => checked w 0x00000000#32 none (.add (fld w 21 5) (fld w 16 5) (fld w 11 5) (fld w 3 2) (fld w 0 3))
  | 0x01 => checked w 0x00000000#32 none (.sub (fld w 21 5) (fld w 16 5) (fld w 11 5) (fld w 3 2) (fld w 0 3))
  | 0x02 => checked w 0x00000000#32 none (.mul (fld w 21 5) (fld w 16 5) (fld w 11 5) (fld w 3 2) (fld w 0 3))
  | 0x03 => checked w 0x00000000#32 none (.mulh (fld w 21 5) (fld w 16 5) (fld w 11 5) (fld w 3 2) (fld w 0 3))
  | 0x04 => checked w 0x00000000#32 none (.mulhn (fld w 21 5) (fld w 16 5) (fld w 11 5) (fld w 3 2) (fld w 0 3))
  | 0x05 => checked w 0x00000000#32 none (.div (fld w 21 5) (fld w 16 5) (fld w 11 5) (fld w 3 2) (fld w 0 3))
  | 0x06 => checked w 0x00000000#32 none (.divn (fld w 21 5) (fld w 16 5) (fld w 11 5) (fld w 3 2) (fld w 0 3))
  | 0x07 => checked w 0x00000000#32 none (.rem (fld w 21 5) (fld w 16 5) (fld w 11 5) (fld w 3 2) (fld w 0 3))
  | 0x08 => checked w 0x00000000#32 none (.remn (fld w 21 5) (fld w 16 5) (fld w 11 5) (fld w 3 2) (fld w 0 3))
  | 0x09 => checked w 0x00000000#32 none (.and (fld w 21 5) (fld w 16 5) (fld w 11 5) (fld w 3 2) (fld w 0 3))
  | 0x0A => checked w 0x00000000#32 none (.or (fld w 21 5) (fld w 16 5) (fld w 11 5) (fld w 3 2) (fld w 0 3))
  | 0x0B => checked w 0x00000000#32 none (.xor (fld w 21 5) (fld w 16 5) (fld w 11 5) (fld w 3 2) (fld w 0 3))
  | 0x0C => checked w 0x00000000#32 none (.andn (fld w 21 5) (fld w 16 5) (fld w 11 5) (fld w 3 2) (fld w 0 3))
  | 0x0D => checked w 0x00000000#32 none (.shl (fld w 21 5) (fld w 16 5) (fld w 11 5) (fld w 3 2) (fld w 0 3))
  | 0x0E => checked w 0x00000000#32 none (.shr (fld w 21 5) (fld w 16 5) (fld w 11 5) (fld w 3 2) (fld w 0 3))
  | 0x0F => checked w 0x00000000#32 none (.sar (fld w 21 5) (fld w 16 5) (fld w 11 5) (fld w 3 2) (fld w 0 3))
  | 0x10 => checked w 0x00000000#32 none (.rol (fld w 21 5) (fld w 16 5) (fld w 11 5) (fld w 3 2) (fld w 0 3))
  | 0x11 => checked w 0x00000000#32 none (.min (fld w 21 5) (fld w 16 5) (fld w 11 5) (fld w 3 2) (fld w 0 3))
  | 0x12 => checked w 0x00000000#32 none (.max (fld w 21 5) (fld w 16 5) (fld w 11 5) (fld w 3 2) (fld w 0 3))
  | 0x13 => checked w 0x00000000#32 none (.minn (fld w 21 5) (fld w 16 5) (fld w 11 5) (fld w 3 2) (fld w 0 3))
  | 0x14 => checked w 0x00000000#32 none (.maxn (fld w 21 5) (fld w 16 5) (fld w 11 5) (fld w 3 2) (fld w 0 3))
  | 0x15 => checked w 0x0000F800#32 none (.popc (fld w 21 5) (fld w 16 5) (fld w 3 2) (fld w 0 3))
  | 0x16 => checked w 0x0000F800#32 none (.clz (fld w 21 5) (fld w 16 5) (fld w 3 2) (fld w 0 3))
  | 0x17 => checked w 0x0000F800#32 none (.ctz (fld w 21 5) (fld w 16 5) (fld w 3 2) (fld w 0 3))
  | 0x18 => checked w 0x00000000#32 none (.bfx (fld w 21 5) (fld w 16 5) (fld w 11 5) (fld w 3 2) (fld w 0 3))
  | 0x19 => checked w 0x00000000#32 none (.bfi (fld w 21 5) (fld w 16 5) (fld w 11 5) (fld w 3 2) (fld w 0 3))
  | 0x1A => checked w 0x00000000#32 none (.sel (fld w 21 5) (fld w 16 5) (fld w 11 5) (fld w 3 2) (fld w 0 3))
  | 0x1B => checked w 0x0000F800#32 none (.mov (fld w 21 5) (fld w 16 5) (fld w 3 2) (fld w 0 3))
  | _ => .error .code

/-- Major 0x02: CMP. -/
def decodeMajor02 (w : BitVec 32) : Except DecodeError Instr :=
  checked w 0x03000000#32 none (.cmp (fld w 21 3) (fld w 16 5) (fld w 11 5) (fld w 5 6) (fld w 3 2) (fld w 0 3))

/-- Major 0x03: FADD, FSUB, FMUL, FFMA, FMIN, FMAX, FCMP, FCVT. -/
def decodeMajor03 (w : BitVec 32) : Except DecodeError Instr :=
  match (fld w 5 6).toNat with
  | 0x00 => checked w 0x00000000#32 none (.fadd (fld w 21 5) (fld w 16 5) (fld w 11 5) (fld w 3 2) (fld w 0 3))
  | 0x01 => checked w 0x00000000#32 none (.fsub (fld w 21 5) (fld w 16 5) (fld w 11 5) (fld w 3 2) (fld w 0 3))
  | 0x02 => checked w 0x00000000#32 none (.fmul (fld w 21 5) (fld w 16 5) (fld w 11 5) (fld w 3 2) (fld w 0 3))
  | 0x03 => checked w 0x00000000#32 none (.ffma (fld w 21 5) (fld w 16 5) (fld w 11 5) (fld w 3 2) (fld w 0 3))
  | 0x04 => checked w 0x00000000#32 none (.fmin (fld w 21 5) (fld w 16 5) (fld w 11 5) (fld w 3 2) (fld w 0 3))
  | 0x05 => checked w 0x00000000#32 none (.fmax (fld w 21 5) (fld w 16 5) (fld w 11 5) (fld w 3 2) (fld w 0 3))
  | 0x06 => checked w 0x00000000#32 none (.fcmp (fld w 24 2) (fld w 21 3) (fld w 16 5) (fld w 11 5) (fld w 3 2) (fld w 0 3))
  | _ => if fld w 9 2 = 1 ∧ (fld w 5 4).toNat ≤ 12 then checked w 0x00000018#32 none (.fcvt (fld w 21 5) (fld w 16 5) (fld w 11 5) (fld w 5 4) (fld w 0 3)) else .error .code

/-- Major 0x04: ADDI. -/
def decodeMajor04 (w : BitVec 32) : Except DecodeError Instr :=
  checked w 0x00000000#32 none (.addi (fld w 21 5) (fld w 16 5) (fld w 0 16))

/-- Major 0x05: ANDI. -/
def decodeMajor05 (w : BitVec 32) : Except DecodeError Instr :=
  checked w 0x00000000#32 none (.andi (fld w 21 5) (fld w 16 5) (fld w 0 16))

/-- Major 0x06: ORI. -/
def decodeMajor06 (w : BitVec 32) : Except DecodeError Instr :=
  checked w 0x00000000#32 none (.ori (fld w 21 5) (fld w 16 5) (fld w 0 16))

/-- Major 0x07: XORI. -/
def decodeMajor07 (w : BitVec 32) : Except DecodeError Instr :=
  checked w 0x00000000#32 none (.xori (fld w 21 5) (fld w 16 5) (fld w 0 16))

/-- Major 0x08: SHLI, SHRI, SARI. -/
def decodeMajor08 (w : BitVec 32) : Except DecodeError Instr :=
  match (fld w 14 2).toNat with
  | 0x00 => checked w 0x00003FC0#32 none (.shli (fld w 21 5) (fld w 16 5) (fld w 0 6))
  | 0x01 => checked w 0x00003FC0#32 none (.shri (fld w 21 5) (fld w 16 5) (fld w 0 6))
  | 0x02 => checked w 0x00003FC0#32 none (.sari (fld w 21 5) (fld w 16 5) (fld w 0 6))
  | _ => .error .code

/-- Major 0x09: MOVI. -/
def decodeMajor09 (w : BitVec 32) : Except DecodeError Instr :=
  checked w 0x001C0000#32 none (.movi (fld w 21 5) (fld w 16 2) (fld w 0 16))

/-- Major 0x0A: MOVK. -/
def decodeMajor0A (w : BitVec 32) : Except DecodeError Instr :=
  checked w 0x001C0000#32 none (.movk (fld w 21 5) (fld w 16 2) (fld w 0 16))

/-- Major 0x0B: LDS. -/
def decodeMajor0B (w : BitVec 32) : Except DecodeError Instr :=
  checked w 0x00000000#32 none (.lds (fld w 21 5) (fld w 16 5) (fld w 14 2) (fld w 0 14))

/-- Major 0x0C: STS. -/
def decodeMajor0C (w : BitVec 32) : Except DecodeError Instr :=
  checked w 0x00000000#32 none (.sts (fld w 21 5) (fld w 16 5) (fld w 14 2) (fld w 0 14))

/-- Major 0x0D: LDG. -/
def decodeMajor0D (w : BitVec 32) : Except DecodeError Instr :=
  checked w 0x00000000#32 none (.ldg (fld w 21 5) (fld w 17 4) (fld w 15 2) (fld w 12 3) (fld w 0 12))

/-- Major 0x0E: STG. -/
def decodeMajor0E (w : BitVec 32) : Except DecodeError Instr :=
  checked w 0x00000000#32 none (.stg (fld w 21 5) (fld w 17 4) (fld w 15 2) (fld w 12 3) (fld w 0 12))

/-- Major 0x0F: ATOM. -/
def decodeMajor0F (w : BitVec 32) : Except DecodeError Instr :=
  checked w 0x00000001#32 none (.atom (fld w 21 5) (fld w 17 4) (fld w 12 5) (fld w 8 4) (fld w 7 1) (fld w 5 2) (fld w 1 4))

/-- Major 0x10: RED. -/
def decodeMajor10 (w : BitVec 32) : Except DecodeError Instr :=
  checked w 0x00000003#32 none (.red (fld w 21 5) (fld w 17 4) (fld w 12 5) (fld w 8 4) (fld w 7 1) (fld w 6 1) (fld w 2 4))

/-- Major 0x11: XLATE, HDROP, HSTAT. -/
def decodeMajor11 (w : BitVec 32) : Except DecodeError Instr :=
  match (fld w 20 6).toNat with
  | 0x00 => checked w 0x00007FF0#32 none (.xlate (fld w 15 5) (fld w 0 4))
  | 0x01 => checked w 0x000FFFF0#32 none (.hdrop (fld w 0 4))
  | 0x02 => checked w 0x00007FF0#32 none (.hstat (fld w 15 5) (fld w 0 4))
  | _ => .error .code

/-- Major 0x12: FENCE_ACQ, FENCE_REL, FENCE_FULL, LSMARK. -/
def decodeMajor12 (w : BitVec 32) : Except DecodeError Instr :=
  match (fld w 20 6).toNat, (fld w 4 2).toNat with
  | 0, 0 => checked w 0x000FFFC0#32 none (.fenceAcq (fld w 0 4))
  | 0, 1 => checked w 0x000FFFC0#32 none (.fenceRel (fld w 0 4))
  | 0, 2 => checked w 0x000FFFC0#32 none (.fenceFull (fld w 0 4))
  | 1, _ => checked w 0x000FFFF0#32 none (.lsmark (fld w 0 4))
  | _, _ => .error .code

/-- Major 0x13: BR. -/
def decodeMajor13 (w : BitVec 32) : Except DecodeError Instr :=
  checked w 0x00000000#32 none (.br (fld w 25 1) (fld w 22 3) (fld w 0 22))

/-- Major 0x14: J, CALL. -/
def decodeMajor14 (w : BitVec 32) : Except DecodeError Instr :=
  if w.getLsbD 25 then checked w 0x00000000#32 none (.call (fld w 0 25)) else checked w 0x00000000#32 none (.j (fld w 0 25))

/-- Major 0x15: JR, CALLR, RET. -/
def decodeMajor15 (w : BitVec 32) : Except DecodeError Instr :=
  match (fld w 20 6).toNat with
  | 0x00 => checked w 0x00007FFF#32 none (.jr (fld w 15 5))
  | 0x01 => checked w 0x00007FFF#32 none (.callr (fld w 15 5))
  | 0x02 => checked w 0x000FFFFF#32 none (.ret)
  | _ => .error .code

/-- Major 0x16: LOOP, LOOP_REG. -/
def decodeMajor16 (w : BitVec 32) : Except DecodeError Instr :=
  if w.getLsbD 23 then checked w 0x000003FF#32 none (.loopReg (fld w 24 2) (fld w 15 8) (fld w 10 5)) else checked w 0x00000000#32 none (.loop (fld w 24 2) (fld w 15 8) (fld w 0 15))

/-- Major 0x17: PAND, POR, PXOR, PNOT, PMOV. -/
def decodeMajor17 (w : BitVec 32) : Except DecodeError Instr :=
  match (fld w 5 6).toNat with
  | 0x00 => checked w 0x0318C018#32 none (.pand (fld w 21 3) (fld w 16 3) (fld w 11 3) (fld w 0 3))
  | 0x01 => checked w 0x0318C018#32 none (.por (fld w 21 3) (fld w 16 3) (fld w 11 3) (fld w 0 3))
  | 0x02 => checked w 0x0318C018#32 none (.pxor (fld w 21 3) (fld w 16 3) (fld w 11 3) (fld w 0 3))
  | 0x03 => checked w 0x0318F818#32 none (.pnot (fld w 21 3) (fld w 16 3) (fld w 0 3))
  | 0x04 => checked w 0x0318F818#32 none (.pmov (fld w 21 3) (fld w 16 3) (fld w 0 3))
  | _ => .error .code

/-- Major 0x18: GETSR, SETSR. -/
def decodeMajor18 (w : BitVec 32) : Except DecodeError Instr :=
  match (fld w 20 6).toNat with
  | 0x00 => checked w 0x00007C00#32 none (.getsr (fld w 15 5) (fld w 0 10))
  | 0x01 => checked w 0x00007C00#32 none (.setsr (fld w 15 5) (fld w 0 10))
  | _ => .error .code

/-- Major 0x19: NOP, TRAP, ERET, BKPT, HALT, DONE, YIELD. -/
def decodeMajor19 (w : BitVec 32) : Except DecodeError Instr :=
  match (fld w 20 6).toNat with
  | 0x00 => checked w 0x000FFFFF#32 none (.nop)
  | 0x01 => checked w 0x000FFC00#32 none (.trap (fld w 0 10))
  | 0x02 => checked w 0x000FFFFF#32 none (.eret)
  | 0x03 => checked w 0x000FFFFF#32 none (.bkpt)
  | 0x04 => checked w 0x000FFFFF#32 none (.halt)
  | 0x05 => checked w 0x000FFFFF#32 none (.done)
  | 0x06 => checked w 0x000FFFFF#32 none (.yield)
  | _ => .error .code

/-- Major 0x1A: CAS. -/
def decodeMajor1A (w : BitVec 32) : Except DecodeError Instr :=
  checked w 0x00000000#32 none (.cas (fld w 21 5) (fld w 17 4) (fld w 12 5) (fld w 7 5) (fld w 6 1) (fld w 4 2) (fld w 0 4))

/-- Major 0x20: VADD, VSUB, VMUL, VFMA, VFMS, VMIN, VMAX, VABS, VNEG, VCPYS. -/
def decodeMajor20 (w : BitVec 32) : Except DecodeError Instr :=
  match (fld w 4 7).toNat with
  | 0x00 => checked w 0x00000000#32 none (.vadd (fld w 21 5) (fld w 16 5) (fld w 11 5) (fld w 1 3) (fld w 0 1))
  | 0x01 => checked w 0x00000000#32 none (.vsub (fld w 21 5) (fld w 16 5) (fld w 11 5) (fld w 1 3) (fld w 0 1))
  | 0x02 => checked w 0x00000000#32 none (.vmul (fld w 21 5) (fld w 16 5) (fld w 11 5) (fld w 1 3) (fld w 0 1))
  | 0x03 => checked w 0x00000000#32 none (.vfma (fld w 21 5) (fld w 16 5) (fld w 11 5) (fld w 1 3) (fld w 0 1))
  | 0x04 => checked w 0x00000000#32 none (.vfms (fld w 21 5) (fld w 16 5) (fld w 11 5) (fld w 1 3) (fld w 0 1))
  | 0x05 => checked w 0x00000000#32 none (.vmin (fld w 21 5) (fld w 16 5) (fld w 11 5) (fld w 1 3) (fld w 0 1))
  | 0x06 => checked w 0x00000000#32 none (.vmax (fld w 21 5) (fld w 16 5) (fld w 11 5) (fld w 1 3) (fld w 0 1))
  | 0x07 => checked w 0x0000F800#32 none (.vabs (fld w 21 5) (fld w 16 5) (fld w 1 3) (fld w 0 1))
  | 0x08 => checked w 0x0000F800#32 none (.vneg (fld w 21 5) (fld w 16 5) (fld w 1 3) (fld w 0 1))
  | 0x09 => checked w 0x00000000#32 none (.vcpys (fld w 21 5) (fld w 16 5) (fld w 11 5) (fld w 1 3) (fld w 0 1))
  | _ => .error .code

/-- Major 0x21: VIADD, VISUB, VIMUL, VAND, VOR, VXOR, VSHL, VSHR, VSAR, VIMIN, VIMAX, VIMIN_N32, VIMAX_N32. -/
def decodeMajor21 (w : BitVec 32) : Except DecodeError Instr :=
  match (fld w 4 7).toNat with
  | 0x00 => checked w 0x00000000#32 none (.viadd (fld w 21 5) (fld w 16 5) (fld w 11 5) (fld w 1 3) (fld w 0 1))
  | 0x01 => checked w 0x00000000#32 none (.visub (fld w 21 5) (fld w 16 5) (fld w 11 5) (fld w 1 3) (fld w 0 1))
  | 0x02 => checked w 0x00000000#32 none (.vimul (fld w 21 5) (fld w 16 5) (fld w 11 5) (fld w 1 3) (fld w 0 1))
  | 0x03 => checked w 0x00000000#32 none (.vand (fld w 21 5) (fld w 16 5) (fld w 11 5) (fld w 1 3) (fld w 0 1))
  | 0x04 => checked w 0x00000000#32 none (.vor (fld w 21 5) (fld w 16 5) (fld w 11 5) (fld w 1 3) (fld w 0 1))
  | 0x05 => checked w 0x00000000#32 none (.vxor (fld w 21 5) (fld w 16 5) (fld w 11 5) (fld w 1 3) (fld w 0 1))
  | 0x06 => checked w 0x00000000#32 none (.vshl (fld w 21 5) (fld w 16 5) (fld w 11 5) (fld w 1 3) (fld w 0 1))
  | 0x07 => checked w 0x00000000#32 none (.vshr (fld w 21 5) (fld w 16 5) (fld w 11 5) (fld w 1 3) (fld w 0 1))
  | 0x08 => checked w 0x00000000#32 none (.vsar (fld w 21 5) (fld w 16 5) (fld w 11 5) (fld w 1 3) (fld w 0 1))
  | 0x09 => checked w 0x00000000#32 none (.vimin (fld w 21 5) (fld w 16 5) (fld w 11 5) (fld w 1 3) (fld w 0 1))
  | 0x0A => checked w 0x00000000#32 none (.vimax (fld w 21 5) (fld w 16 5) (fld w 11 5) (fld w 1 3) (fld w 0 1))
  | 0x49 => checked w 0x00000000#32 none (.viminN32 (fld w 21 5) (fld w 16 5) (fld w 11 5) (fld w 1 3) (fld w 0 1))
  | 0x4A => checked w 0x00000000#32 none (.vimaxN32 (fld w 21 5) (fld w 16 5) (fld w 11 5) (fld w 1 3) (fld w 0 1))
  | _ => .error .code

/-- Major 0x22: VCMP. -/
def decodeMajor22 (w : BitVec 32) : Except DecodeError Instr :=
  checked w 0x03000030#32 none (.vcmp (fld w 21 3) (fld w 16 5) (fld w 11 5) (fld w 8 3) (fld w 6 2) (fld w 1 3) (fld w 0 1))

/-- Major 0x23: VCVT, VSPLIT, VPACK, VUNPK. -/
def decodeMajor23 (w : BitVec 32) : Except DecodeError Instr :=
  match (fld w 9 2).toNat with
  | 0x00 => checked w 0x00000000#32 none (.vcvt (fld w 21 5) (fld w 16 5) (fld w 11 5) (fld w 4 5) (fld w 1 3) (fld w 0 1))
  | 0x01 => checked w 0x0000F9F0#32 none (.vsplit (fld w 21 5) (fld w 16 5) (fld w 1 3) (fld w 0 1))
  | 0x02 => checked w 0x0000F800#32 none (.vpack (fld w 21 5) (fld w 16 5) (fld w 4 5) (fld w 1 3) (fld w 0 1))
  | 0x03 => checked w 0x0000F800#32 none (.vunpk (fld w 21 5) (fld w 16 5) (fld w 4 5) (fld w 1 3) (fld w 0 1))
  | _ => .error .code

/-- Major 0x24: VSFU. -/
def decodeMajor24 (w : BitVec 32) : Except DecodeError Instr :=
  checked w 0x0000F800#32 none (.vsfu (fld w 21 5) (fld w 16 5) (fld w 4 7) (fld w 1 3) (fld w 0 1))

/-- Major 0x25: VROTR, VBCR, VREDR, VREDR_C, VSCANR. -/
def decodeMajor25 (w : BitVec 32) : Except DecodeError Instr :=
  match (fld w 8 3).toNat, (fld w 4 2).toNat with
  | 0, _ => checked w 0x000000F0#32 none (.vrotr (fld w 21 5) (fld w 16 5) (fld w 11 5) (fld w 1 3) (fld w 0 1))
  | 1, _ => checked w 0x000000F0#32 none (.vbcr (fld w 21 5) (fld w 16 5) (fld w 11 5) (fld w 1 3) (fld w 0 1))
  | 2, 3 => checked w 0x0000F8C0#32 none (.vredrC (fld w 21 5) (fld w 16 5) (fld w 1 3) (fld w 0 1))
  | 2, _ => checked w 0x0000F800#32 none (.vredr (fld w 21 5) (fld w 16 5) (fld w 6 2) (fld w 4 2) (fld w 1 3) (fld w 0 1))
  | 3, _ => checked w 0x0000F800#32 none (.vscanr (fld w 21 5) (fld w 16 5) (fld w 6 2) (fld w 4 2) (fld w 1 3) (fld w 0 1))
  | _, _ => .error .code

/-- Major 0x26: VROTC, VBCC, VREDC, VREDC_C, VSCANC. -/
def decodeMajor26 (w : BitVec 32) : Except DecodeError Instr :=
  match (fld w 8 3).toNat, (fld w 4 2).toNat with
  | 0, _ => checked w 0x000000F0#32 none (.vrotc (fld w 21 5) (fld w 16 5) (fld w 11 5) (fld w 1 3) (fld w 0 1))
  | 1, _ => checked w 0x000000F0#32 none (.vbcc (fld w 21 5) (fld w 16 5) (fld w 11 5) (fld w 1 3) (fld w 0 1))
  | 2, 3 => checked w 0x0000F8C0#32 none (.vredcC (fld w 21 5) (fld w 16 5) (fld w 1 3) (fld w 0 1))
  | 2, _ => checked w 0x0000F800#32 none (.vredc (fld w 21 5) (fld w 16 5) (fld w 6 2) (fld w 4 2) (fld w 1 3) (fld w 0 1))
  | 3, _ => checked w 0x0000F800#32 none (.vscanc (fld w 21 5) (fld w 16 5) (fld w 6 2) (fld w 4 2) (fld w 1 3) (fld w 0 1))
  | _, _ => .error .code

/-- Major 0x27: VPERM, VSEL, VMOV, VIOTA, VINS, VEXT. -/
def decodeMajor27 (w : BitVec 32) : Except DecodeError Instr :=
  match (fld w 4 7).toNat with
  | 0x00 => checked w 0x00000000#32 none (.vperm (fld w 21 5) (fld w 16 5) (fld w 11 5) (fld w 1 3) (fld w 0 1))
  | 0x01 => checked w 0x00000001#32 none (.vsel (fld w 21 5) (fld w 16 5) (fld w 11 5) (fld w 1 3))
  | 0x02 => checked w 0x0000F800#32 none (.vmov (fld w 21 5) (fld w 16 5) (fld w 1 3) (fld w 0 1))
  | 0x03 => checked w 0x0000F800#32 none (.viota (fld w 21 5) (fld w 16 5) (fld w 1 3) (fld w 0 1))
  | 0x04 => checked w 0x0000000F#32 none (.vins (fld w 21 5) (fld w 16 5) (fld w 11 5))
  | 0x05 => checked w 0x0000000F#32 none (.vext (fld w 21 5) (fld w 16 5) (fld w 11 5))
  | _ => .error .code

/-- Major 0x28: VLD, VST. -/
def decodeMajor28 (w : BitVec 32) : Except DecodeError Instr :=
  if w.getLsbD 13 then checked w 0x00000000#32 none (.vst (fld w 21 5) (fld w 19 2) (fld w 14 5) (fld w 0 13)) else checked w 0x00000000#32 none (.vld (fld w 21 5) (fld w 19 2) (fld w 14 5) (fld w 0 13))

/-- Major 0x29: VLDG, VSTG. -/
def decodeMajor29 (w : BitVec 32) : Except DecodeError Instr :=
  if w.getLsbD 3 then checked w 0x00000007#32 none (.vstg (fld w 21 5) (fld w 17 4) (fld w 12 5) (fld w 9 3) (fld w 6 3) (fld w 4 2)) else checked w 0x00000007#32 none (.vldg (fld w 21 5) (fld w 17 4) (fld w 12 5) (fld w 9 3) (fld w 6 3) (fld w 4 2))

/-- Major 0x2A: VPOP, VPUSH. -/
def decodeMajor2A (w : BitVec 32) : Except DecodeError Instr :=
  match (fld w 4 7).toNat with
  | 0x00 => checked w 0x001FC000#32 none (.vpop (fld w 21 5) (fld w 11 3) (fld w 1 3) (fld w 0 1))
  | 0x01 => checked w 0x03E0C001#32 none (.vpush (fld w 16 5) (fld w 11 3) (fld w 1 3))
  | _ => .error .code

/-- Major 0x2B: MAND, MOR, MXOR, MNOT, MPOPC, MTEST. -/
def decodeMajor2B (w : BitVec 32) : Except DecodeError Instr :=
  match (fld w 4 7).toNat with
  | 0x00 => checked w 0x0318C00F#32 none (.mand (fld w 21 3) (fld w 16 3) (fld w 11 3))
  | 0x01 => checked w 0x0318C00F#32 none (.mor (fld w 21 3) (fld w 16 3) (fld w 11 3))
  | 0x02 => checked w 0x0318C00F#32 none (.mxor (fld w 21 3) (fld w 16 3) (fld w 11 3))
  | 0x03 => checked w 0x0318F80F#32 none (.mnot (fld w 21 3) (fld w 16 3))
  | 0x04 => checked w 0x0018F80F#32 none (.mpopc (fld w 21 5) (fld w 16 3))
  | 0x05 => checked w 0x0318C00F#32 none (.mtest (fld w 21 3) (fld w 16 3) (fld w 11 3))
  | _ => .error .code

/-- Major 0x2C: VDOPEN, VDACC, VDTHR, VDCLOSE, VDTEST, VDTEST_ANY, TOPKI, BSCORE. -/
def decodeMajor2C (w : BitVec 32) : Except DecodeError Instr :=
  match (fld w 4 7).toNat with
  | 0x00 => checked w 0x0000000F#32 none (.vdopen (fld w 21 5) (fld w 16 5) (fld w 11 5))
  | 0x01 => checked w 0x0000000F#32 none (.vdacc (fld w 21 5) (fld w 16 5) (fld w 11 5))
  | 0x02 => checked w 0x03E0F80F#32 none (.vdthr (fld w 16 5))
  | 0x03 => checked w 0x001FF80F#32 none (.vdclose (fld w 21 5))
  | 0x04 => if w.getLsbD 11 then checked w 0x0300F000#32 none (.vdtestAny (fld w 21 3) (fld w 16 5) (fld w 1 3) (fld w 0 1)) else checked w 0x0300F000#32 none (.vdtest (fld w 21 3) (fld w 16 5) (fld w 1 3) (fld w 0 1))
  | 0x05 => checked w 0x00000001#32 none (.topki (fld w 21 5) (fld w 16 5) (fld w 11 5) (fld w 1 3))
  | 0x06 => checked w 0x0000000F#32 none (.bscore (fld w 21 5) (fld w 16 5) (fld w 11 5))
  | _ => .error .code

/-- Major 0x30: MMA, MMAS, MMAG, MZERO, MSTORE. -/
def decodeMajor30 (w : BitVec 32) : Except DecodeError Instr :=
  checked w 0x00000000#32 none (.mma (fld w 20 6) (fld w 16 4) (fld w 0 16))

/-- Major 0x31: MATRIX_HOLD. -/
def decodeMajor31 (w : BitVec 32) : Except DecodeError Instr :=
  checked w 0x00000000#32 none (.matrixHold (fld w 20 6) (fld w 16 4) (fld w 0 16))

/-- Major 0x32: TCOPY, TFILL, BCOPY. -/
def decodeMajor32 (w : BitVec 32) : Except DecodeError Instr :=
  checked w 0x00000000#32 none (.tcopy (fld w 20 6) (fld w 16 4) (fld w 0 16))

/-- Major 0x33: COPY_HOLD. -/
def decodeMajor33 (w : BitVec 32) : Except DecodeError Instr :=
  checked w 0x00000000#32 none (.copyHold (fld w 20 6) (fld w 16 4) (fld w 0 16))

/-- Major 0x34: TGATHER, TSCATTER, TSCORE. -/
def decodeMajor34 (w : BitVec 32) : Except DecodeError Instr :=
  if fld w 0 20 = 0xF0000#20 then checked w 0x00000000#32 none (.tscore (fld w 20 6)) else checked w 0x00000000#32 none (.tgather (fld w 20 6) (fld w 16 4) (fld w 0 16))

/-- Major 0x35: GATHER_HOLD. -/
def decodeMajor35 (w : BitVec 32) : Except DecodeError Instr :=
  checked w 0x00000000#32 none (.gatherHold (fld w 20 6) (fld w 16 4) (fld w 0 16))

/-- Major 0x36: TCOLL. -/
def decodeMajor36 (w : BitVec 32) : Except DecodeError Instr :=
  checked w 0x00000000#32 none (.tcoll (fld w 20 6) (fld w 16 4) (fld w 0 16))

/-- Major 0x37: COLLECTIVE_HOLD. -/
def decodeMajor37 (w : BitVec 32) : Except DecodeError Instr :=
  checked w 0x00000000#32 none (.collectiveHold (fld w 20 6) (fld w 16 4) (fld w 0 16))

/-- Major 0x38: SEEK, KFETCH, SAPPEND, SMERGE. -/
def decodeMajor38 (w : BitVec 32) : Except DecodeError Instr :=
  checked w 0x00000000#32 none (.seek (fld w 20 6) (fld w 16 4) (fld w 0 16))

/-- Major 0x39: SEARCH_HOLD. -/
def decodeMajor39 (w : BitVec 32) : Except DecodeError Instr :=
  checked w 0x00000000#32 none (.searchHold (fld w 20 6) (fld w 16 4) (fld w 0 16))

/-- Major 0x3A: TMPL, TMPL_BFMT, NOTIFY, QDRAIN, RINGSET_CFG, RINGSET_ADV, FEEDBIND, FEEDSTOP, SQLD, ZTEST, WPWAIT. -/
def decodeMajor3A (w : BitVec 32) : Except DecodeError Instr :=
  match (fld w 20 6).toNat with
  | 0x00 => if fld w 7 3 = 5 then checked w 0x00007C60#32 none (.tmplBfmt (fld w 15 5) (fld w 0 5)) else if fld w 10 2 = 3 ∨ 5 < (fld w 7 3).toNat then .error .code else checked w 0x00007040#32 (if fld w 7 3 = 4 then some .quesar else none) (.tmpl (fld w 15 5) (fld w 10 2) (fld w 7 3) (fld w 0 6))
  | 0x01 => if 5 < (fld w 7 3).toNat then .error .code else checked w 0x00007C40#32 (if w.getLsbD 4 then some .quesar else none) (.notify (fld w 15 5) (fld w 7 3) (fld w 0 6))
  | 0x02 => checked w 0x000FFFC0#32 none (.qdrain (fld w 0 6))
  | 0x03 => if fld w 8 2 = 0 then checked w 0x00007CF8#32 none (.ringsetCfg (fld w 15 5) (fld w 0 3)) else if fld w 8 2 = 1 then checked w 0x00007CF8#32 none (.ringsetAdv (fld w 15 5) (fld w 0 3)) else .error .code
  | 0x04 => checked w 0x000073F8#32 none (.feedbind (fld w 15 5) (fld w 10 2) (fld w 0 3))
  | 0x05 => checked w 0x000FFFF8#32 none (.feedstop (fld w 0 3))
  | 0x06 => checked w 0x000000FF#32 none (.sqld (fld w 15 5) (fld w 10 5) (fld w 8 2))
  | 0x07 => checked w 0x000000F0#32 none (.ztest (fld w 15 5) (fld w 10 5) (fld w 8 2) (fld w 0 4))
  | 0x08 => checked w 0x00007FF0#32 none (.wpwait (fld w 15 5) (fld w 0 4))
  | _ => .error .code

/-- Major 0x3B: BJOIN, BDROP, BARR, BWAIT, BARW, BEXP, BTEST, FSET, FGET, LWAIT, LREL. -/
def decodeMajor3B (w : BitVec 32) : Except DecodeError Instr :=
  match (fld w 20 6).toNat with
  | 0x00 => checked w 0x000E0000#32 none (.bjoin (fld w 15 2) (fld w 10 5) (fld w 7 3) (fld w 5 2) (fld w 0 5))
  | 0x01 => checked w 0x000FFC00#32 none (.bdrop (fld w 7 3) (fld w 5 2) (fld w 0 5))
  | 0x02 => checked w 0x000F8060#32 none (.barr (fld w 10 5) (fld w 7 3) (fld w 0 5))
  | 0x03 => checked w 0x00000060#32 none (.bwait (fld w 15 5) (fld w 10 5) (fld w 7 3) (fld w 0 5))
  | 0x04 => checked w 0x000F8060#32 none (.barw (fld w 10 5) (fld w 7 3) (fld w 0 5))
  | 0x05 => checked w 0x00007C60#32 none (.bexp (fld w 15 5) (fld w 7 3) (fld w 0 5))
  | 0x06 => checked w 0x000F8060#32 none (.btest (fld w 10 5) (fld w 7 3) (fld w 0 5))
  | 0x07 => checked w 0x00007C60#32 none (.fset (fld w 15 5) (fld w 7 3) (fld w 0 5))
  | 0x08 => checked w 0x000F8060#32 none (.fget (fld w 10 5) (fld w 7 3) (fld w 0 5))
  | 0x09 => checked w 0x000F8060#32 none (.lwait (fld w 10 5) (fld w 7 3) (fld w 0 5))
  | 0x0A => checked w 0x000FFC60#32 none (.lrel (fld w 7 3) (fld w 0 5))
  | _ => .error .code

/-- Major 0x3C: ENQ, SPAWN, KARM, KDISARM, KLAUNCH, KCANCEL, SHWAIT. -/
def decodeMajor3C (w : BitVec 32) : Except DecodeError Instr :=
  match (fld w 20 6).toNat with
  | 0x00 => checked w 0x000003F0#32 none (.enq (fld w 15 5) (fld w 10 5) (fld w 0 4))
  | 0x01 => checked w 0x000003FF#32 none (.spawn (fld w 15 5) (fld w 10 5))
  | 0x02 => checked w 0x000003E0#32 (some .eth) (.karm (fld w 15 5) (fld w 10 5) (fld w 4 1) (fld w 0 4))
  | 0x03 => checked w 0x00007FFF#32 (some .eth) (.kdisarm (fld w 15 5))
  | 0x04 => checked w 0x000003F0#32 none (.klaunch (fld w 15 5) (fld w 10 5) (fld w 0 4))
  | 0x05 => checked w 0x000003FF#32 none (.kcancel (fld w 15 5) (fld w 10 5))
  | 0x06 => checked w 0x000003FF#32 none (.shwait (fld w 15 5) (fld w 10 5))
  | _ => .error .code

/-- Major 0x3D: PREQ, PCANCEL, PHARV, BTFORK, BTMAP, BTUNMAP, WOPEN, WCOMMIT, WABORT, WSTAT. -/
def decodeMajor3D (w : BitVec 32) : Except DecodeError Instr :=
  match (fld w 20 6).toNat with
  | 0x00 => checked w 0x000003C0#32 none (.preq (fld w 15 5) (fld w 10 5) (fld w 5 1) (fld w 0 5))
  | 0x01 => checked w 0x000003FE#32 none (.pcancel (fld w 15 5) (fld w 10 5) (fld w 0 1))
  | 0x02 => checked w 0x000003FF#32 none (.pharv (fld w 15 5) (fld w 10 5))
  | 0x03 => checked w 0x000003FF#32 none (.btfork (fld w 15 5) (fld w 10 5))
  | 0x04 => checked w 0x000003F0#32 none (.btmap (fld w 15 5) (fld w 10 5) (fld w 0 4))
  | 0x05 => checked w 0x00000000#32 none (.btunmap (fld w 15 5) (fld w 10 5) (fld w 0 10))
  | 0x06 => checked w 0x00000200#32 none (.wopen (fld w 15 5) (fld w 10 5) (fld w 4 5) (fld w 0 4))
  | 0x07 => checked w 0x0000020F#32 none (.wcommit (fld w 15 5) (fld w 10 5) (fld w 4 5))
  | 0x08 => checked w 0x00007E0F#32 none (.wabort (fld w 15 5) (fld w 4 5))
  | 0x09 => checked w 0x00007E0F#32 none (.wstat (fld w 15 5) (fld w 4 5))
  | _ => .error .code

/-- Major 0x3E: HPIN, HUNPIN, HSAVE, HEVICT, HDLBIND, HDLUNB, HDLMSG. -/
def decodeMajor3E (w : BitVec 32) : Except DecodeError Instr :=
  match (fld w 20 6).toNat with
  | 0x00 => checked w 0x000003E0#32 (some .hearth) (.hpin (fld w 15 5) (fld w 10 5) (fld w 0 5))
  | 0x01 => checked w 0x00007FE0#32 (some .hearth) (.hunpin (fld w 15 5) (fld w 0 5))
  | 0x02 => checked w 0x00007FE0#32 (some .hearth) (.hsave (fld w 15 5) (fld w 0 5))
  | 0x03 => checked w 0x00007FE0#32 (some .hearth) (.hevict (fld w 15 5) (fld w 0 5))
  | 0x04 => checked w 0x00007E00#32 none (.hdlbind (fld w 15 5) (fld w 4 5) (fld w 0 4))
  | 0x05 => checked w 0x00007E0F#32 none (.hdlunb (fld w 15 5) (fld w 4 5))
  | 0x06 => checked w 0x0000020F#32 none (.hdlmsg (fld w 15 5) (fld w 10 5) (fld w 4 5))
  | _ => .error .code

/-- The decoder of a core's instruction word (R57, R71). A patch word of majors 0x30, 0x32, 0x34 and 0x38 names its command
only through its template: the decoder gives the first kind of the class (TSCORE for a gather word that amends nothing), and
the machine reads the kind from the template (R67). -/
def decode (w : BitVec 32) : Except DecodeError Instr :=
  match (fld w 26 6).toNat with
  | 0x01 => decodeMajor01 w
  | 0x02 => decodeMajor02 w
  | 0x03 => decodeMajor03 w
  | 0x04 => decodeMajor04 w
  | 0x05 => decodeMajor05 w
  | 0x06 => decodeMajor06 w
  | 0x07 => decodeMajor07 w
  | 0x08 => decodeMajor08 w
  | 0x09 => decodeMajor09 w
  | 0x0A => decodeMajor0A w
  | 0x0B => decodeMajor0B w
  | 0x0C => decodeMajor0C w
  | 0x0D => decodeMajor0D w
  | 0x0E => decodeMajor0E w
  | 0x0F => decodeMajor0F w
  | 0x10 => decodeMajor10 w
  | 0x11 => decodeMajor11 w
  | 0x12 => decodeMajor12 w
  | 0x13 => decodeMajor13 w
  | 0x14 => decodeMajor14 w
  | 0x15 => decodeMajor15 w
  | 0x16 => decodeMajor16 w
  | 0x17 => decodeMajor17 w
  | 0x18 => decodeMajor18 w
  | 0x19 => decodeMajor19 w
  | 0x1A => decodeMajor1A w
  | 0x20 => decodeMajor20 w
  | 0x21 => decodeMajor21 w
  | 0x22 => decodeMajor22 w
  | 0x23 => decodeMajor23 w
  | 0x24 => decodeMajor24 w
  | 0x25 => decodeMajor25 w
  | 0x26 => decodeMajor26 w
  | 0x27 => decodeMajor27 w
  | 0x28 => decodeMajor28 w
  | 0x29 => decodeMajor29 w
  | 0x2A => decodeMajor2A w
  | 0x2B => decodeMajor2B w
  | 0x2C => decodeMajor2C w
  | 0x30 => decodeMajor30 w
  | 0x31 => decodeMajor31 w
  | 0x32 => decodeMajor32 w
  | 0x33 => decodeMajor33 w
  | 0x34 => decodeMajor34 w
  | 0x35 => decodeMajor35 w
  | 0x36 => decodeMajor36 w
  | 0x37 => decodeMajor37 w
  | 0x38 => decodeMajor38 w
  | 0x39 => decodeMajor39 w
  | 0x3A => decodeMajor3A w
  | 0x3B => decodeMajor3B w
  | 0x3C => decodeMajor3C w
  | 0x3D => decodeMajor3D w
  | 0x3E => decodeMajor3E w
  | _ => .error .code

/-- The decoder of a reeve's own words, custom-0 and custom-1 (R65, R379). `none`: any other word of those opcodes raises the
reeve's illegal-instruction exception, and any other opcode is an ordinary RISC-V instruction. -/
def decodeReeve (w : BitVec 32) : Option Instr :=
  match (fld w 0 7).toNat, (fld w 12 3).toNat with
  | 0x0B, 0 => if fld w 25 7 = 0 then some (.slpf (fld w 20 5) (fld w 15 5) (fld w 7 5)) else none
  | 0x0B, 1 => if fld w 25 7 = 0 then some (.slchase (fld w 20 5) (fld w 15 5) (fld w 7 5)) else none
  | 0x0B, 2 => if fld w 25 3 = 0 then
      some (.slupd (fld w 29 3) (fld w 28 1) (fld w 20 5) (fld w 15 5) (fld w 7 5)) else none
  | 0x0B, 3 => if fld w 25 7 = 0 then some (.slfwd (fld w 20 5) (fld w 15 5) (fld w 7 5)) else none
  | 0x2B, 0 => if fld w 7 5 = 0 ∧ fld w 15 17 = 0 then some .sldef else none
  | 0x2B, 1 => if fld w 7 5 = 0 ∧ fld w 20 12 = 0 then some (.sldone (fld w 15 5)) else none
  | _, _ => none

/-- The encoder: the word of an instruction, from the formats of R54 and the codes of R57 to R65. `none`: a step without a
word. Fields stand from bit 31 down. -/
def encode : Instr → Option (BitVec 32)
  | .add d a b w g => some (0x1#6 ++ d ++ a ++ b ++ 0x0#6 ++ w ++ g)
  | .sub d a b w g => some (0x1#6 ++ d ++ a ++ b ++ 0x1#6 ++ w ++ g)
  | .mul d a b w g => some (0x1#6 ++ d ++ a ++ b ++ 0x2#6 ++ w ++ g)
  | .mulh d a b w g => some (0x1#6 ++ d ++ a ++ b ++ 0x3#6 ++ w ++ g)
  | .mulhn d a b w g => some (0x1#6 ++ d ++ a ++ b ++ 0x4#6 ++ w ++ g)
  | .div d a b w g => some (0x1#6 ++ d ++ a ++ b ++ 0x5#6 ++ w ++ g)
  | .divn d a b w g => some (0x1#6 ++ d ++ a ++ b ++ 0x6#6 ++ w ++ g)
  | .rem d a b w g => some (0x1#6 ++ d ++ a ++ b ++ 0x7#6 ++ w ++ g)
  | .remn d a b w g => some (0x1#6 ++ d ++ a ++ b ++ 0x8#6 ++ w ++ g)
  | .and d a b w g => some (0x1#6 ++ d ++ a ++ b ++ 0x9#6 ++ w ++ g)
  | .or d a b w g => some (0x1#6 ++ d ++ a ++ b ++ 0xA#6 ++ w ++ g)
  | .xor d a b w g => some (0x1#6 ++ d ++ a ++ b ++ 0xB#6 ++ w ++ g)
  | .andn d a b w g => some (0x1#6 ++ d ++ a ++ b ++ 0xC#6 ++ w ++ g)
  | .shl d a b w g => some (0x1#6 ++ d ++ a ++ b ++ 0xD#6 ++ w ++ g)
  | .shr d a b w g => some (0x1#6 ++ d ++ a ++ b ++ 0xE#6 ++ w ++ g)
  | .sar d a b w g => some (0x1#6 ++ d ++ a ++ b ++ 0xF#6 ++ w ++ g)
  | .rol d a b w g => some (0x1#6 ++ d ++ a ++ b ++ 0x10#6 ++ w ++ g)
  | .min d a b w g => some (0x1#6 ++ d ++ a ++ b ++ 0x11#6 ++ w ++ g)
  | .max d a b w g => some (0x1#6 ++ d ++ a ++ b ++ 0x12#6 ++ w ++ g)
  | .minn d a b w g => some (0x1#6 ++ d ++ a ++ b ++ 0x13#6 ++ w ++ g)
  | .maxn d a b w g => some (0x1#6 ++ d ++ a ++ b ++ 0x14#6 ++ w ++ g)
  | .popc d a w g => some (0x1#6 ++ d ++ a ++ 0x15#11 ++ w ++ g)
  | .clz d a w g => some (0x1#6 ++ d ++ a ++ 0x16#11 ++ w ++ g)
  | .ctz d a w g => some (0x1#6 ++ d ++ a ++ 0x17#11 ++ w ++ g)
  | .bfx d a b w g => some (0x1#6 ++ d ++ a ++ b ++ 0x18#6 ++ w ++ g)
  | .bfi d a b w g => some (0x1#6 ++ d ++ a ++ b ++ 0x19#6 ++ w ++ g)
  | .sel d a b w g => some (0x1#6 ++ d ++ a ++ b ++ 0x1A#6 ++ w ++ g)
  | .mov d a w g => some (0x1#6 ++ d ++ a ++ 0x1B#11 ++ w ++ g)
  | .cmp p a b c w g => some (0x2#6 ++ 0x0#2 ++ p ++ a ++ b ++ c ++ w ++ g)
  | .fadd d a b w g => some (0x3#6 ++ d ++ a ++ b ++ 0x0#6 ++ w ++ g)
  | .fsub d a b w g => some (0x3#6 ++ d ++ a ++ b ++ 0x1#6 ++ w ++ g)
  | .fmul d a b w g => some (0x3#6 ++ d ++ a ++ b ++ 0x2#6 ++ w ++ g)
  | .ffma d a b w g => some (0x3#6 ++ d ++ a ++ b ++ 0x3#6 ++ w ++ g)
  | .fmin d a b w g => some (0x3#6 ++ d ++ a ++ b ++ 0x4#6 ++ w ++ g)
  | .fmax d a b w g => some (0x3#6 ++ d ++ a ++ b ++ 0x5#6 ++ w ++ g)
  | .fcmp c p a b w g => some (0x3#6 ++ c ++ p ++ a ++ b ++ 0x6#6 ++ w ++ g)
  | .fcvt d a s t g => some (0x3#6 ++ d ++ a ++ s ++ 0x1#2 ++ t ++ 0x0#2 ++ g)
  | .addi d a i => some (0x4#6 ++ d ++ a ++ i)
  | .andi d a i => some (0x5#6 ++ d ++ a ++ i)
  | .ori d a i => some (0x6#6 ++ d ++ a ++ i)
  | .xori d a i => some (0x7#6 ++ d ++ a ++ i)
  | .shli d a n => some (0x8#6 ++ d ++ a ++ 0x0#10 ++ n)
  | .shri d a n => some (0x8#6 ++ d ++ a ++ 0x100#10 ++ n)
  | .sari d a n => some (0x8#6 ++ d ++ a ++ 0x200#10 ++ n)
  | .movi d h i => some (0x9#6 ++ d ++ 0x0#3 ++ h ++ i)
  | .movk d h i => some (0xA#6 ++ d ++ 0x0#3 ++ h ++ i)
  | .lds d a b o => some (0xB#6 ++ d ++ a ++ b ++ o)
  | .sts d a b o => some (0xC#6 ++ d ++ a ++ b ++ o)
  | .ldg d h z n o => some (0xD#6 ++ d ++ h ++ z ++ n ++ o)
  | .stg d h z n o => some (0xE#6 ++ d ++ h ++ z ++ n ++ o)
  | .atom d h x o z r s => some (0xF#6 ++ d ++ h ++ x ++ o ++ z ++ r ++ s ++ 0x0#1)
  | .red b h x o z r s => some (0x10#6 ++ b ++ h ++ x ++ o ++ z ++ r ++ s ++ 0x0#2)
  | .cas d h x b z r s => some (0x1A#6 ++ d ++ h ++ x ++ b ++ z ++ r ++ s)
  | .xlate a h => some (0x11#6 ++ 0x0#6 ++ a ++ 0x0#11 ++ h)
  | .hdrop h => some (0x11#6 ++ 0x10000#22 ++ h)
  | .hstat a h => some (0x11#6 ++ 0x2#6 ++ a ++ 0x0#11 ++ h)
  | .fenceAcq s => some (0x12#6 ++ 0x0#22 ++ s)
  | .fenceRel s => some (0x12#6 ++ 0x1#22 ++ s)
  | .fenceFull s => some (0x12#6 ++ 0x2#22 ++ s)
  | .lsmark s => some (0x12#6 ++ 0x10000#22 ++ s)
  | .br n p o => some (0x13#6 ++ n ++ p ++ o)
  | .j o => some (0x14#6 ++ 0x0#1 ++ o)
  | .call o => some (0x14#6 ++ 0x1#1 ++ o)
  | .jr a => some (0x15#6 ++ 0x0#6 ++ a ++ 0x0#15)
  | .callr a => some (0x15#6 ++ 0x1#6 ++ a ++ 0x0#15)
  | .ret => some (0x15#6 ++ 0x200000#26)
  | .loop l n c => some (0x16#6 ++ l ++ 0x0#1 ++ n ++ c)
  | .loopReg l n a => some (0x16#6 ++ l ++ 0x1#1 ++ n ++ a ++ 0x0#10)
  | .pand d a b g => some (0x17#6 ++ 0x0#2 ++ d ++ 0x0#2 ++ a ++ 0x0#2 ++ b ++ 0x0#8 ++ g)
  | .por d a b g => some (0x17#6 ++ 0x0#2 ++ d ++ 0x0#2 ++ a ++ 0x0#2 ++ b ++ 0x4#8 ++ g)
  | .pxor d a b g => some (0x17#6 ++ 0x0#2 ++ d ++ 0x0#2 ++ a ++ 0x0#2 ++ b ++ 0x8#8 ++ g)
  | .pnot d a g => some (0x17#6 ++ 0x0#2 ++ d ++ 0x0#2 ++ a ++ 0xC#13 ++ g)
  | .pmov d a g => some (0x17#6 ++ 0x0#2 ++ d ++ 0x0#2 ++ a ++ 0x10#13 ++ g)
  | .getsr a r => some (0x18#6 ++ 0x0#6 ++ a ++ 0x0#5 ++ r)
  | .setsr a r => some (0x18#6 ++ 0x1#6 ++ a ++ 0x0#5 ++ r)
  | .nop => some (0x19#6 ++ 0x0#26)
  | .trap i => some (0x19#6 ++ 0x400#16 ++ i)
  | .eret => some (0x19#6 ++ 0x200000#26)
  | .bkpt => some (0x19#6 ++ 0x300000#26)
  | .halt => some (0x19#6 ++ 0x400000#26)
  | .done => some (0x19#6 ++ 0x500000#26)
  | .yield => some (0x19#6 ++ 0x600000#26)
  | .vadd d a b m z => some (0x20#6 ++ d ++ a ++ b ++ 0x0#7 ++ m ++ z)
  | .vsub d a b m z => some (0x20#6 ++ d ++ a ++ b ++ 0x1#7 ++ m ++ z)
  | .vmul d a b m z => some (0x20#6 ++ d ++ a ++ b ++ 0x2#7 ++ m ++ z)
  | .vfma d a b m z => some (0x20#6 ++ d ++ a ++ b ++ 0x3#7 ++ m ++ z)
  | .vfms d a b m z => some (0x20#6 ++ d ++ a ++ b ++ 0x4#7 ++ m ++ z)
  | .vmin d a b m z => some (0x20#6 ++ d ++ a ++ b ++ 0x5#7 ++ m ++ z)
  | .vmax d a b m z => some (0x20#6 ++ d ++ a ++ b ++ 0x6#7 ++ m ++ z)
  | .vabs d a m z => some (0x20#6 ++ d ++ a ++ 0x7#12 ++ m ++ z)
  | .vneg d a m z => some (0x20#6 ++ d ++ a ++ 0x8#12 ++ m ++ z)
  | .vcpys d a b m z => some (0x20#6 ++ d ++ a ++ b ++ 0x9#7 ++ m ++ z)
  | .viadd d a b m z => some (0x21#6 ++ d ++ a ++ b ++ 0x0#7 ++ m ++ z)
  | .visub d a b m z => some (0x21#6 ++ d ++ a ++ b ++ 0x1#7 ++ m ++ z)
  | .vimul d a b m z => some (0x21#6 ++ d ++ a ++ b ++ 0x2#7 ++ m ++ z)
  | .vand d a b m z => some (0x21#6 ++ d ++ a ++ b ++ 0x3#7 ++ m ++ z)
  | .vor d a b m z => some (0x21#6 ++ d ++ a ++ b ++ 0x4#7 ++ m ++ z)
  | .vxor d a b m z => some (0x21#6 ++ d ++ a ++ b ++ 0x5#7 ++ m ++ z)
  | .vshl d a b m z => some (0x21#6 ++ d ++ a ++ b ++ 0x6#7 ++ m ++ z)
  | .vshr d a b m z => some (0x21#6 ++ d ++ a ++ b ++ 0x7#7 ++ m ++ z)
  | .vsar d a b m z => some (0x21#6 ++ d ++ a ++ b ++ 0x8#7 ++ m ++ z)
  | .vimin d a b m z => some (0x21#6 ++ d ++ a ++ b ++ 0x9#7 ++ m ++ z)
  | .vimax d a b m z => some (0x21#6 ++ d ++ a ++ b ++ 0xA#7 ++ m ++ z)
  | .viminN32 d a b m z => some (0x21#6 ++ d ++ a ++ b ++ 0x49#7 ++ m ++ z)
  | .vimaxN32 d a b m z => some (0x21#6 ++ d ++ a ++ b ++ 0x4A#7 ++ m ++ z)
  | .vcmp d a b c t m z => some (0x22#6 ++ 0x0#2 ++ d ++ a ++ b ++ c ++ t ++ 0x0#2 ++ m ++ z)
  | .vcvt d a s t m z => some (0x23#6 ++ d ++ a ++ s ++ 0x0#2 ++ t ++ m ++ z)
  | .vsplit d a m z => some (0x23#6 ++ d ++ a ++ 0x20#12 ++ m ++ z)
  | .vpack d a f m z => some (0x23#6 ++ d ++ a ++ 0x2#7 ++ f ++ m ++ z)
  | .vunpk d a f m z => some (0x23#6 ++ d ++ a ++ 0x3#7 ++ f ++ m ++ z)
  | .vsfu d a f m z => some (0x24#6 ++ d ++ a ++ 0x0#5 ++ f ++ m ++ z)
  | .vrotr d a b m z => some (0x25#6 ++ d ++ a ++ b ++ 0x0#7 ++ m ++ z)
  | .vbcr d a b m z => some (0x25#6 ++ d ++ a ++ b ++ 0x10#7 ++ m ++ z)
  | .vredr d a t o m z => some (0x25#6 ++ d ++ a ++ 0x2#8 ++ t ++ o ++ m ++ z)
  | .vredrC d a m z => some (0x25#6 ++ d ++ a ++ 0x23#12 ++ m ++ z)
  | .vscanr d a t o m z => some (0x25#6 ++ d ++ a ++ 0x3#8 ++ t ++ o ++ m ++ z)
  | .vrotc d a b m z => some (0x26#6 ++ d ++ a ++ b ++ 0x0#7 ++ m ++ z)
  | .vbcc d a b m z => some (0x26#6 ++ d ++ a ++ b ++ 0x10#7 ++ m ++ z)
  | .vredc d a t o m z => some (0x26#6 ++ d ++ a ++ 0x2#8 ++ t ++ o ++ m ++ z)
  | .vredcC d a m z => some (0x26#6 ++ d ++ a ++ 0x23#12 ++ m ++ z)
  | .vscanc d a t o m z => some (0x26#6 ++ d ++ a ++ 0x3#8 ++ t ++ o ++ m ++ z)
  | .vperm d a b m z => some (0x27#6 ++ d ++ a ++ b ++ 0x0#7 ++ m ++ z)
  | .vsel d a b m => some (0x27#6 ++ d ++ a ++ b ++ 0x1#7 ++ m ++ 0x0#1)
  | .vmov d a m z => some (0x27#6 ++ d ++ a ++ 0x2#12 ++ m ++ z)
  | .viota d a m z => some (0x27#6 ++ d ++ a ++ 0x3#12 ++ m ++ z)
  | .vins d a b => some (0x27#6 ++ d ++ a ++ b ++ 0x40#11)
  | .vext d a b => some (0x27#6 ++ d ++ a ++ b ++ 0x50#11)
  | .vld v u s o => some (0x28#6 ++ v ++ u ++ s ++ 0x0#1 ++ o)
  | .vst v u s o => some (0x28#6 ++ v ++ u ++ s ++ 0x1#1 ++ o)
  | .vldg v h i m r z => some (0x29#6 ++ v ++ h ++ i ++ m ++ r ++ z ++ 0x0#4)
  | .vstg v h i m r z => some (0x29#6 ++ v ++ h ++ i ++ m ++ r ++ z ++ 0x8#4)
  | .vpop d f m z => some (0x2A#6 ++ d ++ 0x0#7 ++ f ++ 0x0#7 ++ m ++ z)
  | .vpush a f m => some (0x2A#6 ++ 0x0#5 ++ a ++ 0x0#2 ++ f ++ 0x1#7 ++ m ++ 0x0#1)
  | .mand d a b => some (0x2B#6 ++ 0x0#2 ++ d ++ 0x0#2 ++ a ++ 0x0#2 ++ b ++ 0x0#11)
  | .mor d a b => some (0x2B#6 ++ 0x0#2 ++ d ++ 0x0#2 ++ a ++ 0x0#2 ++ b ++ 0x10#11)
  | .mxor d a b => some (0x2B#6 ++ 0x0#2 ++ d ++ 0x0#2 ++ a ++ 0x0#2 ++ b ++ 0x20#11)
  | .mnot d a => some (0x2B#6 ++ 0x0#2 ++ d ++ 0x0#2 ++ a ++ 0x30#16)
  | .mpopc d a => some (0x2B#6 ++ d ++ 0x0#2 ++ a ++ 0x40#16)
  | .mtest d a b => some (0x2B#6 ++ 0x0#2 ++ d ++ 0x0#2 ++ a ++ 0x0#2 ++ b ++ 0x50#11)
  | .vdopen d a b => some (0x2C#6 ++ d ++ a ++ b ++ 0x0#11)
  | .vdacc d a b => some (0x2C#6 ++ d ++ a ++ b ++ 0x10#11)
  | .vdthr a => some (0x2C#6 ++ 0x0#5 ++ a ++ 0x20#16)
  | .vdclose d => some (0x2C#6 ++ d ++ 0x30#21)
  | .vdtest d a m z => some (0x2C#6 ++ 0x0#2 ++ d ++ a ++ 0x4#12 ++ m ++ z)
  | .vdtestAny d a m z => some (0x2C#6 ++ 0x0#2 ++ d ++ a ++ 0x84#12 ++ m ++ z)
  | .topki d a b m => some (0x2C#6 ++ d ++ a ++ b ++ 0x5#7 ++ m ++ 0x0#1)
  | .bscore d a b => some (0x2C#6 ++ d ++ a ++ b ++ 0x60#11)
  | .mma t f v => some (0x30#6 ++ t ++ f ++ v)
  | .mmas t f v => some (0x30#6 ++ t ++ f ++ v)
  | .mmag t f v => some (0x30#6 ++ t ++ f ++ v)
  | .mzero t f v => some (0x30#6 ++ t ++ f ++ v)
  | .mstore t f v => some (0x30#6 ++ t ++ f ++ v)
  | .matrixHold t f v => some (0x31#6 ++ t ++ f ++ v)
  | .tcopy t f v => some (0x32#6 ++ t ++ f ++ v)
  | .tfill t f v => some (0x32#6 ++ t ++ f ++ v)
  | .bcopy t f v => some (0x32#6 ++ t ++ f ++ v)
  | .copyHold t f v => some (0x33#6 ++ t ++ f ++ v)
  | .tgather t f v => some (0x34#6 ++ t ++ f ++ v)
  | .tscatter t f v => some (0x34#6 ++ t ++ f ++ v)
  | .tscore t => some (0x34#6 ++ t ++ 0xF0000#20)
  | .gatherHold t f v => some (0x35#6 ++ t ++ f ++ v)
  | .tcoll t f v => some (0x36#6 ++ t ++ f ++ v)
  | .collectiveHold t f v => some (0x37#6 ++ t ++ f ++ v)
  | .seek t f v => some (0x38#6 ++ t ++ f ++ v)
  | .kfetch t f v => some (0x38#6 ++ t ++ f ++ v)
  | .sappend t f v => some (0x38#6 ++ t ++ f ++ v)
  | .smerge t f v => some (0x38#6 ++ t ++ f ++ v)
  | .searchHold t f v => some (0x39#6 ++ t ++ f ++ v)
  | .tmpl a b c t => some (0x3A#6 ++ 0x0#6 ++ a ++ 0x0#3 ++ b ++ c ++ 0x0#1 ++ t)
  | .tmplBfmt a n => some (0x3A#6 ++ 0x0#6 ++ a ++ 0x14#10 ++ n)
  | .notify a l c => some (0x3A#6 ++ 0x1#6 ++ a ++ 0x0#5 ++ l ++ 0x0#1 ++ c)
  | .qdrain c => some (0x3A#6 ++ 0x8000#20 ++ c)
  | .ringsetCfg a g => some (0x3A#6 ++ 0x3#6 ++ a ++ 0x0#12 ++ g)
  | .ringsetAdv a g => some (0x3A#6 ++ 0x3#6 ++ a ++ 0x20#12 ++ g)
  | .feedbind a u f => some (0x3A#6 ++ 0x4#6 ++ a ++ 0x0#3 ++ u ++ 0x0#7 ++ f)
  | .feedstop f => some (0x3A#6 ++ 0xA0000#23 ++ f)
  | .sqld a b u => some (0x3A#6 ++ 0x6#6 ++ a ++ b ++ u ++ 0x0#8)
  | .ztest a b u t => some (0x3A#6 ++ 0x7#6 ++ a ++ b ++ u ++ 0x0#4 ++ t)
  | .wpwait a p => some (0x3A#6 ++ 0x8#6 ++ a ++ 0x0#11 ++ p)
  | .bjoin k b l m n => some (0x3B#6 ++ 0x0#9 ++ k ++ b ++ l ++ m ++ n)
  | .bdrop l m n => some (0x3B#6 ++ 0x400#16 ++ l ++ m ++ n)
  | .barr b l n => some (0x3B#6 ++ 0x40#11 ++ b ++ l ++ 0x0#2 ++ n)
  | .bwait a b l n => some (0x3B#6 ++ 0x3#6 ++ a ++ b ++ l ++ 0x0#2 ++ n)
  | .barw b l n => some (0x3B#6 ++ 0x80#11 ++ b ++ l ++ 0x0#2 ++ n)
  | .bexp a l n => some (0x3B#6 ++ 0x5#6 ++ a ++ 0x0#5 ++ l ++ 0x0#2 ++ n)
  | .btest b l n => some (0x3B#6 ++ 0xC0#11 ++ b ++ l ++ 0x0#2 ++ n)
  | .fset a l n => some (0x3B#6 ++ 0x7#6 ++ a ++ 0x0#5 ++ l ++ 0x0#2 ++ n)
  | .fget b l n => some (0x3B#6 ++ 0x100#11 ++ b ++ l ++ 0x0#2 ++ n)
  | .lwait b l n => some (0x3B#6 ++ 0x120#11 ++ b ++ l ++ 0x0#2 ++ n)
  | .lrel l n => some (0x3B#6 ++ 0x2800#16 ++ l ++ 0x0#2 ++ n)
  | .barrierWake => none
  | .enq a b h => some (0x3C#6 ++ 0x0#6 ++ a ++ b ++ 0x0#6 ++ h)
  | .spawn a b => some (0x3C#6 ++ 0x1#6 ++ a ++ b ++ 0x0#10)
  | .karm a b o h => some (0x3C#6 ++ 0x2#6 ++ a ++ b ++ 0x0#5 ++ o ++ h)
  | .kdisarm a => some (0x3C#6 ++ 0x3#6 ++ a ++ 0x0#15)
  | .klaunch a b h => some (0x3C#6 ++ 0x4#6 ++ a ++ b ++ 0x0#6 ++ h)
  | .kcancel a b => some (0x3C#6 ++ 0x5#6 ++ a ++ b ++ 0x0#10)
  | .shwait a b => some (0x3C#6 ++ 0x6#6 ++ a ++ b ++ 0x0#10)
  | .preq a b e n => some (0x3D#6 ++ 0x0#6 ++ a ++ b ++ 0x0#4 ++ e ++ n)
  | .pcancel a b l => some (0x3D#6 ++ 0x1#6 ++ a ++ b ++ 0x0#9 ++ l)
  | .pharv a b => some (0x3D#6 ++ 0x2#6 ++ a ++ b ++ 0x0#10)
  | .btfork a b => some (0x3D#6 ++ 0x3#6 ++ a ++ b ++ 0x0#10)
  | .btmap a b h => some (0x3D#6 ++ 0x4#6 ++ a ++ b ++ 0x0#6 ++ h)
  | .btunmap a b c => some (0x3D#6 ++ 0x5#6 ++ a ++ b ++ c)
  | .wopen a b d h => some (0x3D#6 ++ 0x6#6 ++ a ++ b ++ 0x0#1 ++ d ++ h)
  | .wcommit a b d => some (0x3D#6 ++ 0x7#6 ++ a ++ b ++ 0x0#1 ++ d ++ 0x0#4)
  | .wabort a d => some (0x3D#6 ++ 0x8#6 ++ a ++ 0x0#6 ++ d ++ 0x0#4)
  | .wstat a d => some (0x3D#6 ++ 0x9#6 ++ a ++ 0x0#6 ++ d ++ 0x0#4)
  | .hpin a b d => some (0x3E#6 ++ 0x0#6 ++ a ++ b ++ 0x0#5 ++ d)
  | .hunpin a d => some (0x3E#6 ++ 0x1#6 ++ a ++ 0x0#10 ++ d)
  | .hsave a d => some (0x3E#6 ++ 0x2#6 ++ a ++ 0x0#10 ++ d)
  | .hevict a d => some (0x3E#6 ++ 0x3#6 ++ a ++ 0x0#10 ++ d)
  | .hdlbind a d h => some (0x3E#6 ++ 0x4#6 ++ a ++ 0x0#6 ++ d ++ h)
  | .hdlunb a d => some (0x3E#6 ++ 0x5#6 ++ a ++ 0x0#6 ++ d ++ 0x0#4)
  | .hdlmsg a b d => some (0x3E#6 ++ 0x6#6 ++ a ++ b ++ 0x0#1 ++ d ++ 0x0#4)
  | .slpf s r d => some (0x0#6 ++ 0x0#1 ++ s ++ r ++ 0x0#3 ++ d ++ 0xB#7)
  | .slchase s r d => some (0x0#6 ++ 0x0#1 ++ s ++ r ++ 0x1#3 ++ d ++ 0xB#7)
  | .slupd o g s r d => some (o ++ g ++ 0x0#3 ++ s ++ r ++ 0x2#3 ++ d ++ 0xB#7)
  | .slfwd s r d => some (0x0#6 ++ 0x0#1 ++ s ++ r ++ 0x3#3 ++ d ++ 0xB#7)
  | .sldef => some (0x0#6 ++ 0x2B#26)
  | .sldone r => some (0x0#6 ++ 0x0#6 ++ r ++ 0x102B#15)
  | .mmaStart => none
  | .mmasStart => none
  | .mmagStart => none
  | .mzeroStart => none
  | .mstoreStart => none
  | .tileCommandEnd => none
  | .tcopyStart => none
  | .tfillStart => none
  | .bcopyStart => none
  | .sqldAppend => none
  | .tgatherStart => none
  | .tscatterStart => none
  | .tscoreStart => none
  | .commandEnd _ => none
  | .notifyEvent => none
  | .feedTransfer _ => none
  | .collectiveStart => none
  | .seekStart => none
  | .drovePageArrival _ _ => none
  | .pageReadRequeue _ _ => none
  | .kfetchStart => none
  | .sappendStart => none
  | .smergeStart => none
  | .smergeSwap _ => none
  | .redTranslation _ => none
  | .redPerformed _ => none
  | .iterationHandout _ _ => none
  | .declaredInputsArrived _ => none
  | .contextStart => none
  | .contextRetire => none
  | .stewardDispatch _ => none
  | .estimatorDecision _ _ => none
  | .scrubComplete _ _ => none
  | .preemptionComplete _ _ => none
  | .restoreComplete _ _ => none
  | .kernelEnd _ _ => none
  | .promotionComplete _ => none
  | .promotionFailed _ => none
  | .shoot _ _ => none
  | .shootDownComplete _ => none
  | .poolClearComplete _ => none
  | .silenceEviction _ _ => none
  | .evictionComplete _ _ => none
  | .reeveHandlerEntry _ _ => none
  | .budgetOverrun _ _ => none
  | .launch _ _ _ => none
  | .hostPreemptionRequest _ _ _ _ => none
  | .registerWrite _ _ _ _ _ => none
  | .taggedLaunchMessage _ _ _ _ _ _ => none
  | .hostMemoryAccess _ _ => none
  | .hostAtomic _ _ _ _ _ => none
  | .linkEnable _ _ => none
  | .linkDisable _ _ => none
  | .linkTrainingDone _ _ _ => none
  | .flitRetry _ => none
  | .laneLost _ => none
  | .pathLossTimeout _ => none
  | .dieBoundaryFailure => none
  | .moduleReset => none
  | .functionSelfTestDone _ _ _ => none
  | .claim _ _ _ => none
  | .ownershipRelease _ => none
  | .handover _ _ => none
  | .functionLevelReset _ => none
  | .allot _ _ => none
  | .fring _ _ => none
  | .pkgset _ _ _ => none
  | .plimit _ _ => none
  | .throttle _ => none
  | .clockRestore _ => none
  | .tripTemperature => none
  | .getVersion => none
  | .getCapabilities => none
  | .negotiateAlgorithms => none
  | .getDigests => none
  | .getCertificate => none
  | .challenge => none
  | .getMeasurements _ => none
  | .vectorInstructionStart => none
  | .accessPerformed _ => none
  | .collectiveEnd => none
  | .kfetchBlockArrival _ => none
  | .reeveInstruction => none
  | .softError _ _ _ => none
  | .bankFailed _ _ => none
  | .podRequest _ => none
  | .rocev2Message _ _ => none
  | .recoveryImage _ => none

/-- The instruction the decoder reads from a patch word, whatever command its template makes it (R67). -/
def Instr.canonical : Instr → Instr
  | .mmas t f v => .mma t f v
  | .mmag t f v => .mma t f v
  | .mzero t f v => .mma t f v
  | .mstore t f v => .mma t f v
  | .tfill t f v => .tcopy t f v
  | .bcopy t f v => .tcopy t f v
  | .tgather t f v => if f = 15 ∧ v = 0 then .tscore t else .tgather t f v
  | .tscatter t f v => if f = 15 ∧ v = 0 then .tscore t else .tgather t f v
  | .kfetch t f v => .seek t f v
  | .sappend t f v => .seek t f v
  | .smerge t f v => .seek t f v
  | i => i

/-- The instruction the decoders read from a word of the opcode table given as one number: the core's decoder, or, where
that refuses, the reeve's. -/
def decodeTableWord (_nbits w : Nat) : Option Instr :=
  match decode (BitVec.ofNat 32 w) with
  | .ok i => some i
  | .error _ => decodeReeve (BitVec.ofNat 32 w)

end Sys2Proof
end

