-- ==== Sys2Proof/Machine/Fetch.lean ====
section
/-! DEFINITION. The sequencer's fetch (R53, R99, R127, R293) and the instruction that a word names (R67, R71, R72). -/

namespace Sys2Proof.Machine

/-- What a fetch finds: a word with the machine after the fetch, a wait, or a trap with no word. -/
inductive Fetched where
  | word (s : State) (w : BitVec 32)
  | wait (s : State)
  | trap (s : State) (t : Trap)
deriving DecidableEq, Repr

/-- What a fetched line leaves behind, as any demand access of the context (R257, R373). -/
def fetchTouch (s : State) (pa : Nat) : State := touchAt s s.core.ctx.aspace s.core.die s.core.ctx.pc.toNat pa

/-- The fetch at the pc (R127). A line with an uncorrectable error traps (log entry 20). The word is as the core's die reads it now:
where R99 lets a fetch return the old word after a store to code, it returns the new one (log entry 74).
A resident pool page that another kernel's open window holds traps not resident, and a word of another module to which no path stands is waited for
(R385): the manual names neither case for a fetch (log entry 106). -/
def fetchWord (s : State) : Fetched :=
  let c := s.core.ctx
  let va := c.pc.toNat
  match walk s c.aspace va with
  | .error e => .trap s (Trap.at e va)
  | .ok l =>
    if !dX l.desc then .trap s (Trap.at .fetchPermission va)
    else if dState l.desc = 1 then
      let pa := leafPa l va
      if !residentFor s l c.aspace s.core.die c.seqTag then .trap s (Trap.at .notResident va)
      else if !pathUp s pa then .wait s
      else if (badByte s pa 4).isSome then .trap s (Trap.at .storageError va)
      else .word (fetchTouch s pa) (BitVec.ofNat 32 (leNat (rdBytes s s.core.die pa 4)))
    else
      let (s1, st) := awaitPage s c.aspace va l ⟨s.core.die, s.core.num, c.kernelId, .fetch c.ctxId⟩
      if 3 ≤ st then .trap s1 (Trap.at .notResident va) else .wait s1

/-- The kind that a patch word's template gives its command (R67). -/
def patchKind (s : State) (cls : Nat) (t : BitVec 6) : Nat := bodyKind (patchBase s cls t)

/-- A decoded instruction with a patch word's command named by its template's kind (R57, R67). A word of a kind that is not assigned
keeps the class's first name and traps there. -/
def resolveKind (s : State) (i : Instr) : Instr :=
  match i with
  | .mma t f v =>
    match patchKind s 0 t with
    | 2 => .mmas t f v
    | 3 => .mmag t f v
    | 4 => .mzero t f v
    | 5 => .mstore t f v
    | _ => .mma t f v
  | .tcopy t f v =>
    match patchKind s 1 t with
    | 2 => .tfill t f v
    | 3 => .bcopy t f v
    | _ => .tcopy t f v
  | .tgather t f v =>
    match patchKind s 2 t with
    | 2 => .tscatter t f v
    | _ => .tgather t f v
  | .tscore t =>
    match patchKind s 2 t with
    | 1 => .tgather t 15 0
    | 2 => .tscatter t 15 0
    | _ => .tscore t
  | .seek t f v =>
    match patchKind s 4 t with
    | 2 => .kfetch t f v
    | 3 => .sappend t f v
    | 4 => .smerge t f v
    | _ => .seek t f v
  | i => i

/-- A unit that R72 names is absent. -/
def unitAbsent (s : State) (u : Unit') : Bool :=
  match u with
  | .quesar => !capsQuesar s
  | .hearth => !capsHearth s
  | .eth => !capsEth s

/-- The trap of a word that is no instruction (R71). -/
def decodeTrap (s : State) : DecodeError → Trap
  | .code => Trap.of .illegalInstruction
  | .field u => if u.any (unitAbsent s) then Trap.of .unitAbsent else Trap.of .illegalInstruction

/-- The instruction with its word in the sequencer (R93). -/
def withWord (s : State) (w : BitVec 32) : State := modCtx s fun c => { c with ir := w }

/-- TWORD of a trap that meets no word: the manual gives none (log entry 21). -/
def noWord (s : State) : BitVec 32 := BitVec.ofNat 32 (Config.freeMerge s.fresh 9)

end Sys2Proof.Machine
end

