-- ==== Sys2Proof/Machine/Scoreboard.lean ====
section
/-! DEFINITION. What a word waits for before it issues: the registers that it names and earlier loads and vector instructions still
have to write (R107), and vector instructions that have not passed their check pass (R148, R149). -/

namespace Sys2Proof.Machine

/-! The registers that a word names (R54, R55). -/

/-- A word's field [lo + 4 : lo] as a register number. -/
abbrev regAt (w : BitVec 32) (lo : Nat) : Nat := (fld w lo 5).toNat

/-- A word's field [lo + 2 : lo] as a predicate number. -/
abbrev predAt (w : BitVec 32) (lo : Nat) : Nat := (fld w lo 3).toNat

/-- The scalar registers that a word of a format reads or writes. A field that holds no register in one of the format's instructions
counts all the same: the word then waits longer than it needs to, which only time shows. -/
def wordRegs (w : BitVec 32) : List Nat :=
  let fn7 := (fld w 4 7).toNat
  match (fld w 26 6).toNat with
  | 0x01 => [regAt w 21, regAt w 16, regAt w 11]
  | 0x02 => [regAt w 16, regAt w 11]
  | 0x03 => [regAt w 21, regAt w 16, regAt w 11]
  | 0x04 => [regAt w 21, regAt w 16]
  | 0x05 => [regAt w 21, regAt w 16]
  | 0x06 => [regAt w 21, regAt w 16]
  | 0x07 => [regAt w 21, regAt w 16]
  | 0x08 => [regAt w 21, regAt w 16]
  | 0x09 => [regAt w 21]
  | 0x0A => [regAt w 21]
  | 0x0B => [regAt w 21, regAt w 16]
  | 0x0C => [regAt w 21, regAt w 16]
  | 0x0D => if (fld w 14 1) = 1 then [regAt w 21, regAt w 0] else [regAt w 21]
  | 0x0E => if (fld w 14 1) = 1 then [regAt w 21, regAt w 0] else [regAt w 21]
  | 0x0F => [regAt w 21, regAt w 12]
  | 0x10 => [regAt w 21, regAt w 12]
  | 0x14 => [31]
  | 0x15 => [31, regAt w 15]
  | 0x16 => [regAt w 10]
  | 0x1A => [regAt w 21, regAt w 12, regAt w 7]
  | 0x25 => [regAt w 11]
  | 0x26 => [regAt w 11]
  | 0x27 => if fn7 = 5 then [regAt w 21, regAt w 11] else if fn7 = 3 ∨ fn7 = 4 then [regAt w 16, regAt w 11] else []
  | 0x28 => [regAt w 14]
  | 0x2B => if fn7 = 4 then [regAt w 21] else []
  | 0x2C => if fn7 = 6 then [regAt w 21, regAt w 16, regAt w 11] else [regAt w 16, regAt w 11]
  | m =>
    if m = 0x11 ∨ m = 0x18 ∨ 0x3A ≤ m then
      [regAt w 15, regAt w 10, regAt w 5, regAt w 0] ++ (if 0x3A ≤ m then [regAt w 4] else [])
    else []

/-- The predicates that a word of a format reads or writes. -/
def wordPreds (w : BitVec 32) : List Nat :=
  match (fld w 26 6).toNat with
  | 0x01 => [predAt w 0]
  | 0x02 => [predAt w 0, predAt w 21]
  | 0x03 => [predAt w 0, predAt w 21]
  | 0x0D => [7]
  | 0x0E => [7]
  | 0x13 => [predAt w 22]
  | 0x17 => [predAt w 0, predAt w 21, predAt w 16, predAt w 11]
  | 0x2B => [predAt w 21]
  | _ => []

/-! Values still to be written (R107). -/

/-- The scalar registers that queued loads of a context will write. -/
def loadRegs (c : Context) : List Nat :=
  c.accessQ.filterMap fun a =>
    match a.kind with
    | .load d _ _ _ => some d.toNat
    | _ => none

/-- The scalar registers that queued vector instructions of a context will write. -/
def vectorRegs (c : Context) : List Nat :=
  c.vq.filterMap fun e =>
    match e with
    | .instr (.vext d _ _) _ _ => some d.toNat
    | .instr (.mpopc d _) _ _ => some d.toNat
    | _ => none

/-- The predicates that queued vector instructions of a context will write. -/
def vectorPreds (c : Context) : List Nat :=
  c.vq.filterMap fun e =>
    match e with
    | .instr (.mtest d _ _) _ _ => some d.toNat
    | _ => none

/-- Two lists of register numbers share one that is not hard-wired. -/
def namesOne (xs ys : List Nat) : Bool := xs.any fun x => x != 0 && ys.contains x

/-- A word names a register that a queued load will write: it waits for the load's data. -/
def waitsLoad (c : Context) (w : BitVec 32) : Bool := namesOne (wordRegs w) (loadRegs c)

/-- A word names a register or predicate that a queued vector instruction will write. -/
def waitsVector (c : Context) (w : BitVec 32) : Bool :=
  namesOne (wordRegs w) (vectorRegs c) || namesOne (wordPreds w) (vectorPreds c)

/-! What is held behind a vector instruction that has not passed its check pass (R149). -/

/-- A vector access to global memory stands in the queue: it enters the load and store queues in program order (R166). -/
def accessQueued (c : Context) : Bool :=
  c.vq.any fun e =>
    match e with
    | .instr (.vldg ..) _ _ => true
    | .instr (.vstg ..) _ _ => true
    | _ => false

/-- A word whose effect lies outside its context's registers and cannot be taken back (R149): STS, ATOM, CAS, SETSR, YIELD, the
collective's issue, and the majors 0x3B to 0x3E; of major 0x3A all but NOTIFY, QDRAIN and SQLD, which leave with their entries (log
entry 79). -/
def holdsWord (w : BitVec 32) : Bool :=
  let sub := (fld w 20 6).toNat
  match (fld w 26 6).toNat with
  | 0x0C => true
  | 0x0F => true
  | 0x1A => true
  | 0x18 => decide (sub = 1)
  | 0x19 => decide (sub = 6)
  | 0x36 => true
  | 0x3A => decide (sub ≠ 1 ∧ sub ≠ 2 ∧ sub ≠ 6)
  | m => decide (0x3B ≤ m)

/-- A word that enters the load and store queues, or marks them (R223, R231). -/
def accessWord (w : BitVec 32) : Bool :=
  match (fld w 26 6).toNat with
  | 0x0D => true
  | 0x0E => true
  | 0x10 => true
  | 0x12 => true
  | _ => false

/-- A word is held behind the vector queue of its context. -/
def heldWord (c : Context) (w : BitVec 32) : Bool :=
  (vectorPending c && holdsWord w) || (accessQueued c && accessWord w)

/-- An instruction has trapped, or has returned from a trap: behind an unchecked vector instruction it is held until that one has
passed its check pass, since traps are taken in program order (R100, R149). -/
def trapMoved (old new : State) : Bool :=
  old.core.ctx.inTrap != new.core.ctx.inTrap || new.core.ctx.state == .trapped

/-- The outcome of an issue behind the vector queue. -/
def behindVectors (s : State) (o : Out) : Out :=
  match o with
  | .next t => if vectorPending s.core.ctx && trapMoved s t then .next (stallStep s) else .next t
  | o => o

end Sys2Proof.Machine
end

