-- ==== Sys2Proof/Machine/Move.lean ====
section
/-! DEFINITION. What can move next: the sequencer's issue of the word it fetches (R98, R107, R149), a reeve's instruction (R368, R375),
and the steps that the units of the module take of themselves. -/

namespace Sys2Proof.Machine

/-! The sequencer. -/

/-- A close that a restored context started before its save is not at its end (R342). -/
def closeAwaited (s : State) (c : Context) : Bool :=
  c.awaitClose && s.windows.any fun w => w.closer.any fun x => x.ctxId == c.ctxId

/-- The context has made a request by YIELD that is not decided (R304). -/
def yieldOpen (s : State) (c : Context) : Bool :=
  (kernelById s c.kernelId).any fun k => k.state == .running && k.victim.any fun v => v.yielder == some c.ctxId

/-- The started context of a core issues (R95, R304, R307, R342): on a core whose group is stopping it does so only as far as the end of a
window instruction that it has begun (R407). -/
def mayIssue (s : State) (k : Core) : Bool :=
  k.ctx.state == .running && !k.scrubbing && (!k.stopping || k.ctx.inWindow) && !closeAwaited s k.ctx && !yieldOpen s k.ctx

/-- A word issued, or held: for a value still to be written, or behind the vector queue (R107, R149). -/
def issueWordAt (s : State) (w : BitVec 32) : Out :=
  let c := s.core.ctx
  if waitsLoad c w then .next (stallData s)
  else if waitsVector c w || heldWord c w then .next (stallStep s)
  else behindVectors s
    (match decode w with
    | .error e => .next (takeTrap s (decodeTrap s e))
    | .ok i => exec (resolveKind s i) s)

/-- One instruction of the focused core's started context (R98, R107). -/
def issueStep (s : State) : Out :=
  if !mayIssue s s.core then .next s
  else match fetchWord s with
    | .wait t => .next (stallStep t)
    | .trap t x => behindVectors t (.next (takeTrapAt t x t.core.ctx.pc (noWord t)))
    | .word t w => issueWordAt (withWord t w) w

/-! Traps of one cycle (R402). -/

/-- The started context of a core enters trapped in a step. -/
def trapsIn (s t : State) : Bool := t.core.ctx.state == .trapped && s.core.ctx.state != .trapped

/-- A step's trap, of the core's started context or of a slot that is loading, stops its group: an abort, or the decision that coincides with the
trap (R95, R97, R401). -/
def groupStopped (s t : State) : Option KEntry :=
  (s.core.group.bind (kernelAt s s.core.die)).filter fun k =>
    k.state != .stopping && ((trapsIn s t && decide (s.agenda.length < t.agenda.length)) ||
      (kernelById t k.id).any fun e => e.state == .stopping && e.endCode == 4)

/-- The context of a core as the trap leaves it that it meets at its next step, where that stops it (R100). -/
def trapHere (s : State) (die n : Nat) : Option Context :=
  let u := focus s die n
  let stops (o : Out) : Option Context :=
    match o with
    | .next t => if trapsIn u t then some t.core.ctx else none
    | _ => none
  (stops (issueStep u)).orElse fun _ => if u.core.ctx.vq = [] then none else stops (execVectorInstructionStart u)

/-- The loading slots of a core whose input ends now with a fault, each with its cause and address (R95, R293). -/
def slotTraps (k : Core) : List (Context × CmdFault) :=
  (vget k.run 1 []).filterMap fun c =>
    match c.kind, c.fault with
    | .input _ slot, some f =>
      if channelTurn k 1 c then (k.shadows.find? fun x => x.slot = slot ∧ x.state = .loading).map fun x => (x, f) else none
    | _, _ => none

/-- Another core of the group whose context, or loading slots, trapped in the same cycle: each has a record of its own. -/
def joinTrap (s t : State) (die n : Nat) (aborted : Bool) : State :=
  if Config.freeMiss t.fresh (4096 + n) then
    let t1 := match trapHere s die n with
      | none => t
      | some c =>
        let k := { getCore t die n with ctx := if aborted then stopCtx c else c }
        writeRecord (putCore t k) c.aspace (trapRecord k c ⟨causeOf c, 0, c.taddr⟩)
    (if aborted then slotTraps (getCore s die n) else []).foldl (fun u x => writeRecord u x.1.aspace (slotRecord die n x.1 x.2.cause x.2.addr)) t1
  else t

/-- Contexts of one group that trap in one cycle write their records in ascending order of their cores, and the first gives the kernel's
CAUSE. Which of the higher cores' traps fall into this cycle is a free choice (R402; log entry 105). -/
def coincide (s : State) (o : Out) : Out :=
  match o with
  | .next t =>
    match groupStopped s t with
    | some k =>
      let aborted := (kernelById t k.id).any fun e => e.state == .stopping
      .next (((takeVictims.sortNat k.cores).filter fun n => decide (s.core.num < n)).foldl (fun u n => joinTrap s u s.core.die n aborted) t)
    | none => o
  | _ => o

/-! A reeve. -/

/-- One instruction of a running handler, or its end by the budget (R368, R375, R376). -/
def reeveStep (s : State) (die slice : Nat) : Out :=
  let t := { s with reeveNow := (die, slice) }
  match (reeveHere t).cur, reeveBinding t with
  | some e, some b =>
    if budgetOf b e ≤ (reeveHere t).cycle then exec (.budgetOverrun die slice) t
    else match reeveFetch b (reeveHere t).pc with
      | some (4, w) =>
        match decodeReeve w with
        | some i => exec i t
        | none => exec .reeveInstruction t
      | _ => exec .reeveInstruction t
  | _, _ => .next s

/-! Moves. -/

/-- Moves that bring a barrier a signal or bytes, and may share a cycle with others that do: the issue of a barrier instruction, bytes and ends of
engine and search commands, NOTIFY, the end of a promotion and of a kernel, and an access that a signal waits for. -/
def Move.signals : Move → Bool
  | .issue .. => true
  | .work .. => true
  | .event _ _ i =>
    match i with
    | .mmaStart | .mmasStart | .mmagStart | .tcopyStart | .tgatherStart | .tscatterStart | .tscoreStart | .collectiveStart => true
    | .seekStart | .kfetchStart | .sappendStart | .smergeStart => true
    | .tileCommandEnd | .commandEnd _ | .collectiveEnd | .notifyEvent => true
    | .drovePageArrival .. | .kfetchBlockArrival _ | .smergeSwap _ => true
    | .promotionComplete _ | .promotionFailed _ | .kernelEnd .. | .accessPerformed _ | .redPerformed _ => true
    | _ => false
  | _ => false

/-- The core whose sequencer issues in a move. -/
def Move.issuer : Move → List (Nat × Nat)
  | .issue die n _ => [(die, n)]
  | _ => []

/-- The cycle in which a move that the machine makes by itself reaches the barriers' homes: one that it shares with others, before or after
it, where that is chosen freely, and otherwise its own (R274; log entry 87). A sequencer that has issued in a cycle issues next in a later one: it
waits for the home's answer (R403, R417). -/
def cycleOf (s : State) (m : Move) : State :=
  if m.signals && Config.freeMiss s.fresh 9 then
    let t := if m.issuer.any s.cycleCores.contains then cycleOver s else s
    { t with oneCycle := true, cycleCores := (if t.oneCycle then t.cycleCores else []) ++ m.issuer }
  else cycleOver s

/-- A move carried out. A step of a unit takes a free number of cycles (log entry 2). -/
def runMove (s : State) (m : Move) : Out :=
  match m with
  | .issue die n later => let u := { focus s die n with later := later }; coincide u (issueStep u)
  | .work die n cls k => .next (commandWork (focus { s with clock := s.clock + Config.freeCycles s.fresh } die n) cls k)
  | .reeve die sl => reeveStep s die sl
  | .event die n i => let u := focus { s with clock := s.clock + Config.freeCycles s.fresh } die n; coincide u (exec i u)

/-- What every step leaves behind: the signals that nothing holds any more (R229), a new place in the free values, and the counts of
communicators that are no longer valid (R390). -/
def settled (s : State) : State := pruneColl (bumpFresh (giveHeld { s with later := false }))

/-- The outcome with `settled` applied to its next state. -/
def settleOut : Out → Out
  | .next t => .next (settled t)
  | .fault r => .fault r
  | .refused r => .refused r

/-- The start or the append that the head of a class's queue waits for (R176, R182, R196, R293). -/
def headMoves (k : Core) (cls : Nat) : List Instr :=
  match (vget k.q cls []).head? with
  | none => []
  | some c =>
    match c.kind, cls with
    | .bad .., 0 => [.mmaStart]
    | .bad .., 1 => [.tcopyStart]
    | .bad .., 2 => [.tgatherStart]
    | .bad .., 3 => [.collectiveStart]
    | .bad .., 4 => [.seekStart]
    | .tmpl 1, 0 => [.mmaStart]
    | .tmpl 2, 0 => [.mmasStart]
    | .tmpl 3, 0 => [.mmagStart]
    | .tmpl 4, 0 => [.mzeroStart]
    | .tmpl 5, 0 => [.mstoreStart]
    | .tmpl 1, 1 => [.tcopyStart]
    | .tmpl 2, 1 => [.tfillStart]
    | .tmpl 3, 1 => [.bcopyStart]
    | .sqld _ _ _, 1 => [.tcopyStart]
    | .input _ _, 1 => [.tcopyStart]
    | .tmpl 1, 2 => [.tgatherStart]
    | .tmpl 2, 2 => [.tscatterStart]
    | .tmpl 3, 2 => [.tscoreStart]
    | .tmpl 1, 3 => [.collectiveStart]
    | .tmpl 1, 4 => [.seekStart]
    | .tmpl 2, 4 => [.kfetchStart]
    | .tmpl 3, 4 => [.sappendStart]
    | .tmpl 4, 4 => [.smergeStart]
    | _, _ => []

/-- The steps open to a core's units (R95, R148, R182, R196, R199, R214, R223, R293). -/
def coreEvents (k : Core) : List Instr :=
  let c := k.ctx
  let runs (cls : Nat) : Nat := (vget k.run cls []).length
  (if c.vq = [] then [] else [.vectorInstructionStart]) ++ 
    (if (storeHead c.accessQ).isSome then [.accessPerformed 0] else []) ++
    (if (loadHead c.accessQ).isSome then [.accessPerformed 1] else []) ++
    (if c.state = .waiting ∧ c.park = none then [.barrierWake] else []) ++
    (if c.state = .retired ∨ c.park = some .retire then [.contextRetire] else []) ++
    (if k.notifies = [] then [] else [.notifyEvent]) ++
    (if k.shadows.any fun x => x.state == .runnable then [.contextStart] else []) ++
    ((k.shadows.filter fun x => x.state == .loading).map fun x => .declaredInputsArrived x.slot) ++
    ((List.range 5).flatMap (headMoves k)) ++ (if runs 0 = 0 then [] else [.tileCommandEnd]) ++
    (if (sqldNext k).isSome then [.sqldAppend] else []) ++ ((List.range (runs 1 + runs 2)).map .commandEnd) ++
    (if runs 3 = 0 then [] else [.collectiveEnd]) ++
    ((List.range 8).filter fun n => feedState (vget k.feeds n Feed.reset) = 1).map fun n => .feedTransfer (BitVec.ofNat 3 n)

/-- The moves open to a core: its issue, whose vector instruction or load may be left for later; the work of its started commands; and
its units' steps. -/
def coreMoves (s : State) (k : Core) : List Move :=
  (if mayIssue s k then [.issue k.die k.num false, .issue k.die k.num true] else []) ++
    ([1, 2].flatMap fun cls => (List.range (vget k.run cls []).length).map (.work k.die k.num cls)) ++
    (coreEvents k).map (.event k.die k.num)

/-- The steps open to the Steward and the Shepherd for a kernel (R219, R292, R296, R305 to R308, R311). -/
def kernelMoves (k : KEntry) : List Instr :=
  match k.state with
  | .eligible => [.stewardDispatch k.die]
  | .saved => [.stewardDispatch k.die]
  | .allocating => [.scrubComplete k.die k.entry]
  | .running => .iterationHandout k.die k.entry :: (if k.victim.isSome then [.estimatorDecision k.die k.entry] else [])
  | .draining => [.preemptionComplete k.die k.entry]
  | .discarding => [.preemptionComplete k.die k.entry]
  | .saving => [.preemptionComplete k.die k.entry]
  | .restoring => [.restoreComplete k.die k.entry]
  | .stopping => [.kernelEnd k.die k.entry]
  | .ending => [.kernelEnd k.die k.entry]
  | _ => []

/-- The flash pages of the block that a KFETCH links next. -/
def nextPages (s : State) (d : Drove) : List Nat :=
  match readIndex s d.cmd.aspace d.index with
  | .ok ix => (List.range (blockPages ix)).map fun i => blockPage s ix (kfetchPass d.cmd.body) d.next + i
  | .error _ => []

/-- The steps open to a started search command (R348 to R360). -/
def droveMoves (s : State) (k : Nat) (d : Drove) : List Instr :=
  match bodyKind d.cmd.body with
  | 1 => d.awaited.flatMap fun p => [.drovePageArrival k p.1, .pageReadRequeue k p.1]
  | 2 => .kfetchBlockArrival k :: (nextPages s d).map fun fp => .pageReadRequeue k fp
  | 4 => [.smergeSwap k]
  | _ => []

/-- The steps open to the module's other units: the memory side, the pages, the windows, the Hearth and the Quesar die. -/
def unitMoves (s : State) : List Instr :=
  ((List.range s.reds.length).flatMap fun n => [.redTranslation n, .redPerformed n]) ++
    ((List.range (s.heldBytes.length + s.copies.length)).map fun n => .accessPerformed (n + 2)) ++
    ((List.range s.promos.length).flatMap fun n => [.promotionComplete n, .promotionFailed n]) ++
    ((List.range s.shoots.length).map .shootDownComplete) ++
    ((s.windows.zipIdx.filter fun w => w.1.clearing || w.1.closer.isSome).map fun w => .poolClearComplete w.2) ++
    (s.streams.zipIdx.flatMap fun e => [.silenceEviction e.1.die e.2, .evictionComplete e.1.die e.2]) ++
    (s.kernels.flatMap kernelMoves) ++ (s.droves.zipIdx.flatMap fun d => droveMoves s d.2 d.1)

/-- The moves open to a reeve (R375, R377). -/
def reeveMoves (r : Reeve) : List Move :=
  match r.cur with
  | some _ => [.reeve r.die r.slice]
  | none => if r.queue = [] then [] else [.event 0 0 (.reeveHandlerEntry r.die r.slice)]

/-- Every move open to the machine by itself. What the host, other modules, the network and Olulas do arrives through the agenda. -/
def ownMoves (s : State) : List Move :=
  (allCores s).flatMap (coreMoves s) ++ s.reeves.flatMap reeveMoves ++ (unitMoves s).map (.event s.core.die s.core.num)

/-- The move taken where the manual gives no order: a free choice among those that are open (log entry 1). -/
def chooseMove (s : State) : Option Move :=
  match ownMoves s with
  | [] => none
  | [m] => some m
  | m :: r => some ((m :: r).getD (Config.freeMove s.fresh % (r.length + 1)) m)

end Sys2Proof.Machine
end

