-- ==== Sys2Proof/Machine/Place.lean ====
section
/-! DEFINITION. A word placed where the next step fetches it (log entry 22). -/

namespace Sys2Proof.Machine

/-- Where placed code lies. -/
def placeCode : Nat := 0x100000

/-- The page-table descriptors that map 1 MiB at virtual address 0 to the placed code: nodes of levels 4 to 1 at 0x1000 to 0x4000. -/
def placeTable : List (Nat × Nat) :=
  [(0x1000, 0x2000 + 5 * 2 ^ 57), (0x2000, 0x3000 + 5 * 2 ^ 57), (0x3000, 0x4000 + 5 * 2 ^ 57),
    (0x4000, placeCode + 2 ^ 53 + 2 ^ 54 + 2 ^ 55 + 2 ^ 57 + 8 * 2 ^ 60)]

/-- The placed code is read as it stands in memory. -/
def placeClear (s : State) : State :=
  { s with
    held := false
    later := false
    oneCycle := false
    copies := s.copies.filter fun c => !overlaps (64 * c.line) 64 placeCode 4
    kernels := s.kernels.map fun k => { k with victim := k.victim.map fun v => { v with yielder := none } }
    heldBytes := s.heldBytes.filter fun h => !overlaps h.addr 1 placeCode 4
    badLines := s.badLines.filter fun l => l != placeCode / 64
    windows := s.windows.filter fun w => !overlaps w.pool (4096 * 2 ^ w.poolSize.toNat) placeCode 4 }

/-- A core's word, at the pc of the running context of core 0 of die 0. -/
def placeCore (s : State) (w : Nat) : State :=
  let s1 := placeClear (focus s 0 0)
  let s2 := placeTable.foldl (fun t e => wrHomeNat t e.1 16 e.2) (wrHomeNat s1 placeCode 4 w)
  let s3 := modCore s2 fun k => { k with
    stopping := false, scrubbing := false, ctx := { k.ctx with state := .running, pc := 0, vq := [], accessQ := [], awaitClose := false } }
  { s3 with roots := assocSet s3.roots s3.core.ctx.aspace 0x1000, agenda := [.issue 0 0 false] }

/-- A reeve's word, as the code of binding 0 of die 0 that slice 0 runs. -/
def placeReeve (s : State) (w : Nat) : State :=
  let b : Binding :=
    { die := 0, num := 0, aspace := 0, vbase := 0, vlen := 4096, code := leBytes 4 w, dataInit := [], dataLen := 64, codeAt := 0
      dataAt := 0, entries := [0, 0, 0, 0], budgets := [0xFFFF, 0xFFFF, 0xFFFF, 0xFFFF], filter := [], drops := 0 }
  let r := { Reeve.blank 0 0 with cur := some ⟨0, 0, false, 0, 0, 0⟩ }
  let rest := s.bindings.filter fun x => !decide (x.die = 0 ∧ x.num = 0)
  putReeve { s with held := false, bindings := b :: rest, agenda := [.reeve 0 0] } r

/-- A word placed: a core's, or, where no core's instruction has it, a reeve's. -/
def placeWord (s : State) (_nbits w : Nat) : State :=
  match decode (BitVec.ofNat 32 w), decodeReeve (BitVec.ofNat 32 w) with
  | .error _, some _ => placeReeve s w
  | _, _ => placeCore s w

end Sys2Proof.Machine
end

