-- ==== Sys2Proof/Machine/Step.lean ====
section
/-! DEFINITION. One step of the module. -/

namespace Sys2Proof.Machine

/-- One step: what stands on the agenda first, else one of the moves open to the machine; a module that nothing moves stays as it is.
A module held in reset does nothing more (R414). -/
def step (s : State) : Host.Outcome State Fault Refusal :=
  if s.held then .fault .heldInReset
  else match s.agenda with
    | m :: r => settleOut (runMove (cycleOver { s with agenda := r }) m)
    | [] =>
      match chooseMove s with
      | some m => settleOut (runMove (cycleOf s m) m)
      | none => .next (settled s)

/-- `s` with an instruction's word placed where the next step fetches it: a core's word in the code of a running context of core 0, a
reeve's word in the code of a running handler (log entry 22). -/
def State.withFetchWord (s : State) (nbits w : Nat) : State := placeWord s nbits w

end Sys2Proof.Machine
end

