-- ==== Sys2Proof/Safety.lean ====
section
/-! DEFINITION. The terms that statements about the machine use: what it is for an instruction to complete in line, to transfer
control, to wait and to trap, and what stays as it was. -/

namespace Sys2Proof.Machine

/-- `t` is `u` with the sequencer moved on: only the pc, the hardware loops, the performance counters, the cycle counts and the
counter of free values may differ from `u`. -/
def Sequenced (u t : State) : Prop :=
  t = { u with
    core := { u.core with
      ctx := { u.core.ctx with
        pc := t.core.ctx.pc, lc := t.core.ctx.lc, loops := t.core.ctx.loops, perf := t.core.ctx.perf, cyc := t.core.ctx.cyc } }
    fresh := t.fresh
    clock := t.clock }

/-- `t` issues next what follows the instruction that `u` had at its pc (R98): the next word, or the start of a loop body. -/
def PastWord (u t : State) : Prop :=
  t.core.ctx.pc = (pastInstr u.core.ctx).pc ∧ t.core.ctx.lc = (pastInstr u.core.ctx).lc ∧
    t.core.ctx.loops = (pastInstr u.core.ctx).loops

/-- Instruction `i` completes in state `s` with the effect that `u` holds, and the sequencer moves past it. -/
def Completes (i : Instr) (s u : State) : Prop := ∃ t, exec i s = .next t ∧ Sequenced u t ∧ PastWord u t

/-- Instruction `i` completes in state `s` with the effect that `u` holds; control goes to a target, the loop counters keep their
values and the loop levels are then the given ones. -/
def CompletesTo (i : Instr) (s u : State) (target : Word) (loops : Vector LoopLevel 3) : Prop :=
  ∃ t, exec i s = .next t ∧ Sequenced u t ∧ t.core.ctx.pc = target ∧ t.core.ctx.lc = u.core.ctx.lc ∧ t.core.ctx.loops = loops

/-- Instruction `i` waits in state `s`: nothing but time passes (R107). -/
def Waits (i : Instr) (s : State) : Prop :=
  ∃ t, exec i s = .next t ∧ Sequenced s t ∧ t.core.ctx.pc = s.core.ctx.pc ∧ t.core.ctx.lc = s.core.ctx.lc ∧
    t.core.ctx.loops = s.core.ctx.loops

/-- Instruction `i` traps precisely in state `s` (R100). -/
def Traps (i : Instr) (s : State) (t : Trap) : Prop := exec i s = .next (takeTrap s t)

/-- The vector instruction `i` is issued in state `s`, counts as issued (R130), and traps precisely (R100). -/
def TrapsCounted (i : Instr) (s : State) (t : Trap) : Prop := exec i s = .next (takeTrap (modCtx s fun c => addPerf c 2 1) t)

/-- In state `s` the machine takes move `m`, from `u`: the first of the agenda, or, where that is empty, one chosen among the open moves
(log entry 1); the cycle that it belongs to has been ended, or goes on (log entry 87). -/
def Takes (s u : State) (m : Move) : Prop :=
  (∃ r, s.agenda = m :: r ∧ u = cycleOver { s with agenda := r }) ∨ (s.agenda = [] ∧ chooseMove s = some m ∧ u = cycleOf s m)

/-- Step `i` of the table happens in state `s` and leaves `t`. -/
def Happens (i : Instr) (s t : State) : Prop := exec i s = .next t

/-- The width of R111's field w. -/
def aluWidth (w : BitVec 2) : Nat := 64 / 2 ^ w.toNat

/-- A scalar register's low W bits. -/
def low (s : State) (r : BitVec 5) (W : Nat) : BitVec W := (sreg s r).setWidth W

/-- A guarded two-source member of R111 with the given result at each width: under a true guard it completes with the result
zero-extended into its destination; under a false one it completes with no effect. -/
def BinaryMember (mk : BitVec 5 → BitVec 5 → BitVec 5 → BitVec 2 → BitVec 3 → Instr)
    (f : (W : Nat) → BitVec W → BitVec W → BitVec W) : Prop :=
  ∀ (s : State) (d a b : BitVec 5) (w : BitVec 2) (g : BitVec 3),
    (preg s g = true →
      Completes (mk d a b w g) s (setS s d ((f (aluWidth w) (low s a (aluWidth w)) (low s b (aluWidth w))).setWidth 64))) ∧
    (preg s g = false → Completes (mk d a b w g) s s)

/-- Bytes of memory as every die's observers read them are the same in two states. -/
def SameMemory (s t : State) : Prop := ∀ die a, rdByte t die a = rdByte s die a

/-- Bytes of the three scratchpad buffers of the started core are the same in two states. -/
def SameBuffers (s t : State) : Prop := ∀ b o, spByte t.core b o = spByte s.core b o

/-- The registers a trap saves into, and the mark of the handler, are the same. -/
def SameTrapRegs (s t : State) : Prop :=
  t.core.ctx.tcause = s.core.ctx.tcause ∧ t.core.ctx.tpc = s.core.ctx.tpc ∧ t.core.ctx.tword = s.core.ctx.tword ∧
    t.core.ctx.taddr = s.core.ctx.taddr ∧ t.core.ctx.inTrap = s.core.ctx.inTrap

/-- Vector registers, masks and handles of the started context are the same. -/
def SameWide (s t : State) : Prop :=
  t.core.ctx.v = s.core.ctx.v ∧ t.core.ctx.m = s.core.ctx.m ∧ t.core.ctx.h = s.core.ctx.h

/-- Lane k of a vector register of the started context. -/
def lane (s : State) (r : BitVec 5) (k : Nat) : BitVec 32 := (vreg s.core.ctx r)[k]?.getD 0

/-- No active lane of a vector register is a verdict word (R150). -/
def VerdictFree (s : State) (act : BitVec 1024) (r : BitVec 5) : Prop :=
  ∀ k, k < 1024 → act.getLsbD k = true → isVerdict (lane s r k) = false

/-- The vector instruction `i` starts at once in `s`: nothing stands before it in the vector queue, it is not left for later, and it is
well formed. -/
def Starts (i : Instr) (s : State) : Prop := s.core.ctx.vq = [] ∧ s.later = false ∧ i.wf = true

/-- `i` completes with result `f k` in each active lane k of `d`; an inactive lane becomes zero under z and keeps its value
otherwise. The flags of the active lanes gather in VMODE, and nothing else changes but the sequencer (R147). -/
def LaneWise (i : Instr) (s : State) (d : BitVec 5) (act : BitVec 1024) (z : BitVec 1) (f : Nat → BitVec 32 × Fl) : Prop :=
  ∃ u, Completes i s u ∧
    (∀ k, k < 1024 → lane u d k = if act.getLsbD k then (f k).1 else if z = 1 then 0 else lane s d k) ∧
    (∀ r, r ≠ d → vreg u.core.ctx r = vreg s.core.ctx r) ∧
    u = modCtx s fun c => { c with v := u.core.ctx.v, vmode := (maskFlags act fun k => (f k).2).apply c.vmode }

/-- `s` with command `c` at the end of a class's queue of the core that moves, next in the issue order, and the class's staging
register empty (R67, R195). -/
def withCommand (s : State) (cls : Nat) (c : Command) : State :=
  { modCore s (fun k => { k with
      q := vset k.q cls (queueOf k cls ++ [{ c with seq := k.seq, part := 0 }]), seq := k.seq + 1
      ctx := { k.ctx with staging := vset k.ctx.staging cls none } }) with order := s.order + 1 }

/-- A core whose scratchpad holds no error (R143, R144). -/
abbrev SoundCore (k : Core) : Prop := k.bad = [] ∧ k.soft = [] ∧ k.failedBanks = []

/-- Memory with no failing line, no byte held by a die, no die's copy of another's line, no RED on its way, and no reeve that watches
it. -/
abbrev PlainMemory (s : State) : Prop :=
  s.badLines = [] ∧ s.heldBytes = [] ∧ s.copies = [] ∧ s.reds = [] ∧ s.bindings = []

/-- Every byte of a handle's page is its own canonical address: the page is no pod alias of this module's memory (R244). -/
def PlainPage (s : State) (H : Handle) : Prop := ∀ i, i < H.pageSize → canonPa s (H.base + i) = H.base + i

/-- Bytes of the three buffers that satisfy a predicate are the same on two cores; in guard mode, but for the guard banks, which follow
what is written elsewhere (R144). -/
def SameScratch (k k' : Core) (out : BitVec 2 → Nat → Prop) : Prop :=
  ∀ b o, out b o → (k.guardMode = true → o < 0x8000 * (bufBanks b - 1)) → spByte k' b o = spByte k b o

/-- Every communicator that has a count, or a removed entry, is valid in some die's table (R387, R390). -/
def CountsValid (s : State) : Prop :=
  (∀ x ∈ s.collCounts, commValid (commEntry s 0 x.1) = true ∨ commValid (commEntry s 1 x.1) = true) ∧
    ∀ x ∈ s.collGone, commValid (commEntry s 0 x.1) = true ∨ commValid (commEntry s 1 x.1) = true

/-- Main memory, the buffers of every listed core and the data memories of the reeves have the canonical form of byte memories: equal
memories are equal lists (log entry 8). -/
def MemoryCanonical (s : State) : Prop :=
  s.mem.wf = true ∧ (∀ k ∈ allCores s, k.w.wf = true ∧ k.a.wf = true ∧ k.c.wf = true) ∧ ∀ r ∈ s.reeves, r.data.wf = true

end Sys2Proof.Machine
end

