-- ==== Sys2Proof/Certificates/Slice0/Obligations.lean ====
section
/-! DEFINITION. The statements for the provers. `Completes i s u` reads: instruction i, in state s, answers a next state that is u
with the sequencer moved past the instruction; u names everything i changes, so each such statement is the frame of i too. -/

open Sys2Proof Sys2Proof.Machine

/-- Every two-source member of the integer ALU completes in line for every width and every operand: under a true guard its
destination takes the result that the member table of R111 gives, zero-extended to 64 bits, and nothing else changes but the
sequencer; under a false guard nothing changes but the sequencer. A write to s0 is discarded (setS). -/
def Obligations.IntegerMembersCompleteWithTheirResults : Prop :=
  BinaryMember .add (fun _ x y => x + y) ∧
  BinaryMember .sub (fun _ x y => x - y) ∧
  BinaryMember .mul (fun _ x y => x * y) ∧
  BinaryMember .mulh (fun W x y => BitVec.ofInt W ((x.toInt * y.toInt) / 2 ^ W)) ∧
  BinaryMember .mulhn (fun W x y => BitVec.ofNat W ((x.toNat * y.toNat) / 2 ^ W)) ∧
  BinaryMember .div (fun W x y => if y = 0 then BitVec.allOnes W else x.sdiv y) ∧
  BinaryMember .divn (fun W x y => if y = 0 then BitVec.allOnes W else x.udiv y) ∧
  BinaryMember .rem (fun _ x y => if y = 0 then x else x.srem y) ∧
  BinaryMember .remn (fun _ x y => if y = 0 then x else x.umod y) ∧
  BinaryMember .and (fun _ x y => x &&& y) ∧
  BinaryMember .or (fun _ x y => x ||| y) ∧
  BinaryMember .xor (fun _ x y => x ^^^ y) ∧
  BinaryMember .andn (fun _ x y => x &&& ~~~y) ∧
  BinaryMember .shl (fun W x y => x <<< (y.toNat % W)) ∧
  BinaryMember .shr (fun W x y => x >>> (y.toNat % W)) ∧
  BinaryMember .sar (fun W x y => x.sshiftRight (y.toNat % W)) ∧
  BinaryMember .rol (fun W x y => x.rotateLeft (y.toNat % W)) ∧
  BinaryMember .min (fun _ x y => if x.sle y then x else y) ∧
  BinaryMember .max (fun _ x y => if x.sle y then y else x) ∧
  BinaryMember .minn (fun _ x y => if x.ule y then x else y) ∧
  BinaryMember .maxn (fun _ x y => if x.ule y then y else x)

/-- POPC gives the number of one bits of the low W bits of its source, CLZ and CTZ the zero bits above the highest and below the
lowest one bit (W for zero), MOV the source; BFX extracts and BFI replaces the field whose position and length stand in bits
[5:0] and [14:8] of s(b), cut to the width; SEL always executes and picks by its predicate. Each completes in line, and under
a false guard (SEL apart) nothing changes but the sequencer. -/
def Obligations.CountsMovesAndFieldsComplete : Prop :=
  ∀ (s : State) (d a b : BitVec 5) (w : BitVec 2) (g : BitVec 3),
    let W := aluWidth w
    let x := low s a W
    let pos := ((sreg s b).extractLsb' 0 6).toNat
    let len := if W ≤ pos then 0 else min ((sreg s b).extractLsb' 8 7).toNat (W - pos)
    let old := low s d W
    let inField (i : Nat) : Bool := decide (pos ≤ i) && decide (i < pos + len)
    (preg s g = true →
      Completes (.popc d a w g) s (setS s d (BitVec.ofNat 64 ((List.range W).countP fun i => x.getLsbD i))) ∧
      (∃ n, n ≤ W ∧ (∀ i, W - n ≤ i → x.getLsbD i = false) ∧ (n < W → x.getLsbD (W - 1 - n) = true) ∧
        Completes (.clz d a w g) s (setS s d (BitVec.ofNat 64 n))) ∧
      (∃ n, n ≤ W ∧ (∀ i, i < n → x.getLsbD i = false) ∧ (n < W → x.getLsbD n = true) ∧
        Completes (.ctz d a w g) s (setS s d (BitVec.ofNat 64 n))) ∧
      Completes (.mov d a w g) s (setS s d (x.setWidth 64)) ∧
      (∃ r : BitVec 64, (∀ i, r.getLsbD i = (decide (i < len) && x.getLsbD (pos + i))) ∧
        Completes (.bfx d a b w g) s (setS s d r)) ∧
      (∃ r : BitVec 64, (∀ i, r.getLsbD i = if inField i then x.getLsbD (i - pos) else old.getLsbD i) ∧
        Completes (.bfi d a b w g) s (setS s d r))) ∧
    (preg s g = false →
      Completes (.popc d a w g) s s ∧ Completes (.clz d a w g) s s ∧ Completes (.ctz d a w g) s s ∧
        Completes (.mov d a w g) s s ∧ Completes (.bfx d a b w g) s s ∧ Completes (.bfi d a b w g) s s) ∧
    Completes (.sel d a b w g) s (setS s d ((if preg s g then low s a W else low s b W).setWidth 64))

/-- CMP with an assigned condition compares the low W bits of its sources, as two's complement for the conditions 0 to 5 and as
naturals for 6 to 9, and writes the result to its predicate; PAND, POR, PXOR, PNOT and PMOV write the and, exclusive or, or,
not and copy of predicates. p0 reads true and a write to it is discarded (setP). Under a false guard nothing changes but the
sequencer. A condition code above 9 traps as an illegal instruction. -/
def Obligations.ComparisonAndPredicateLogicComplete : Prop :=
  ∀ (s : State) (p : BitVec 3) (a b : BitVec 5) (c : BitVec 6) (w : BitVec 2) (x y g : BitVec 3),
    let u := low s a (aluWidth w)
    let v := low s b (aluWidth w)
    let holds : Bool :=
      match c.toNat with
      | 0 => u == v
      | 1 => u != v
      | 2 => u.slt v
      | 3 => u.sle v
      | 4 => v.slt u
      | 5 => v.sle u
      | 6 => u.ult v
      | 7 => u.ule v
      | 8 => v.ult u
      | _ => v.ule u
    (preg s g = true →
      (c.toNat ≤ 9 → Completes (.cmp p a b c w g) s (setP s p holds)) ∧
      Completes (.pand p x y g) s (setP s p (preg s x && preg s y)) ∧
      Completes (.por p x y g) s (setP s p (preg s x || preg s y)) ∧
      Completes (.pxor p x y g) s (setP s p (xor (preg s x) (preg s y))) ∧
      Completes (.pnot p x g) s (setP s p (!preg s x)) ∧
      Completes (.pmov p x g) s (setP s p (preg s x))) ∧
    (preg s g = false →
      (c.toNat ≤ 9 → Completes (.cmp p a b c w g) s s) ∧ Completes (.pand p x y g) s s ∧ Completes (.por p x y g) s s ∧
        Completes (.pxor p x y g) s s ∧ Completes (.pnot p x g) s s ∧ Completes (.pmov p x g) s s) ∧
    (9 < c.toNat → Traps (.cmp p a b c w g) s (Trap.of .illegalInstruction))

/-- ADDI adds the sign-extended immediate modulo 2^64; ANDI, ORI and XORI combine with the zero-extended one; SHLI, SHRI and SARI
shift by their six-bit amount; MOVI places the constant in halfword hw with every other bit zero; after MOVK the halfword hw
of s(d) is the constant and every other bit keeps its value. Each completes in line and nothing but its destination changes. -/
def Obligations.ImmediatesAndConstantsComplete : Prop :=
  ∀ (s : State) (d a : BitVec 5) (i : BitVec 16) (n : BitVec 6) (hw : BitVec 2),
    Completes (.addi d a i) s (setS s d (BitVec.ofInt 64 ((sreg s a).toNat + i.toInt))) ∧
    Completes (.andi d a i) s (setS s d (sreg s a &&& i.setWidth 64)) ∧
    Completes (.ori d a i) s (setS s d (sreg s a ||| i.setWidth 64)) ∧
    Completes (.xori d a i) s (setS s d (sreg s a ^^^ i.setWidth 64)) ∧
    Completes (.shli d a n) s (setS s d (sreg s a <<< n.toNat)) ∧
    Completes (.shri d a n) s (setS s d (sreg s a >>> n.toNat)) ∧
    Completes (.sari d a n) s (setS s d ((sreg s a).sshiftRight n.toNat)) ∧
    Completes (.movi d hw i) s (setS s d (BitVec.ofNat 64 (i.toNat * 2 ^ (16 * hw.toNat)))) ∧
    ∃ r : Word,
      (∀ k, r.getLsbD k = if 16 * hw.toNat ≤ k ∧ k < 16 * hw.toNat + 16 then i.getLsbD (k - 16 * hw.toNat) else (sreg s d).getLsbD k) ∧
      Completes (.movk d hw i) s (setS s d r)

/-- In the format that w names (0b01 FP32, 0b10 FP16, 0b11 BF16), with a true guard and no verdict word among the sources: FADD,
FSUB, FMUL and FFMA write one rne rounding of the exact sum, difference, product and product plus s(d); FMIN and FMAX order -0
below +0, prefer a number to a NaN and give the default NaN for two; FCMP writes its condition; FCVT converts between the
formats of codes 0 to 12 with one rounding. Each raises the flags of its result and completes in line. A verdict word among
the FP32 sources of any member (the addend s(d) of FFMA and the source of an FCVT from code 0 among them) traps with cause
verdict operand; w = 0b00 in any member but FCVT, and a code above 12 in FCVT, trap as illegal instructions; under a false
guard nothing changes but the sequencer. -/
def Obligations.ScalarFloatMembersComplete : Prop :=
  ∀ (s : State) (d a b : BitVec 5) (g p : BitVec 3) (w c : BitVec 2) (sv : BitVec 5) (t : BitVec 4) (f : FFmt),
    ((w = 1 ∧ f = .f32) ∨ (w = 2 ∧ f = .f16) ∨ (w = 3 ∧ f = .bf16)) →
    let x := (sreg s a).toNat % 2 ^ f.width
    let y := (sreg s b).toNat % 2 ^ f.width
    let z := (sreg s d).toNat % 2 ^ f.width
    let verdict (r : BitVec 5) : Prop := f = .f32 ∧ isVerdict ((sreg s r).extractLsb' 0 32) = true
    let put (r : Nat × Fl) : State := raiseFlags (setS s d (BitVec.ofNat 64 r.1)) r.2
    let sn : Bool := f.snan x || f.snan y
    let below (u v : Nat) : Bool :=
      decide (cmpV (f.val u) (f.val v) < 0) ||
        (decide (cmpV (f.val u) (f.val v) = 0) && decide (f.signBit ≤ u) && decide (v < f.signBit))
    let pick (u v n : Nat) : Nat := if (f.val x).isNan && (f.val y).isNan then f.nan else if (f.val x).isNan then y
      else if (f.val y).isNan then x else if below u v then n else x + y - n
    let un := (f.val x).isNan || (f.val y).isNan
    (preg s g = true → ¬ verdict a → ¬ verdict b →
      Completes (.fadd d a b w g) s (put (fAdd f .rne x y)) ∧
      Completes (.fsub d a b w g) s (put (fSub f .rne x y)) ∧
      Completes (.fmul d a b w g) s (put (fMul f .rne x y)) ∧
      (¬ verdict d → Completes (.ffma d a b w g) s (put (fMulAdd f .rne false x y z))) ∧
      Completes (.fmin d a b w g) s (put (pick x y x, { nv := sn })) ∧
      Completes (.fmax d a b w g) s (put (pick x y y, { nv := sn })) ∧
      (∃ r : Bool × Fl, Completes (.fcmp c p a b w g) s (raiseFlags (setP s p r.1) r.2) ∧
        (c = 0 → r = (!un && decide (cmpV (f.val x) (f.val y) = 0), { nv := sn })) ∧
        (c = 1 → r = (!un && decide (cmpV (f.val x) (f.val y) < 0), { nv := un })) ∧
        (c = 2 → r = (!un && decide (cmpV (f.val x) (f.val y) ≤ 0), { nv := un })) ∧
        (c = 3 → r = (un, { nv := sn })))) ∧
    (∀ src dst, sv.toNat ≤ 12 → t.toNat ≤ 12 → numFmt sv.toNat = some src → numFmt t.toNat = some dst → preg s g = true →
      ¬ (sv = 0 ∧ isVerdict ((sreg s a).extractLsb' 0 32) = true) →
      Completes (.fcvt d a sv t g) s
        (put (convert src dst ⟨.rne, s.core.ctx.vmode.getLsbD 3, false⟩ ((sreg s a).toNat % 2 ^ src.width)))) ∧
    (preg s g = false →
      Completes (.fadd d a b w g) s s ∧ Completes (.fsub d a b w g) s s ∧ Completes (.fmul d a b w g) s s ∧
        Completes (.ffma d a b w g) s s ∧ Completes (.fmin d a b w g) s s ∧ Completes (.fmax d a b w g) s s ∧
        Completes (.fcmp c p a b w g) s s ∧
        (sv.toNat ≤ 12 → t.toNat ≤ 12 → Completes (.fcvt d a sv t g) s s)) ∧
    (preg s g = true → (verdict a ∨ verdict b) →
      Traps (.fadd d a b w g) s (Trap.of .verdictOperand) ∧ Traps (.fsub d a b w g) s (Trap.of .verdictOperand) ∧
        Traps (.fmul d a b w g) s (Trap.of .verdictOperand) ∧ Traps (.ffma d a b w g) s (Trap.of .verdictOperand) ∧
        Traps (.fmin d a b w g) s (Trap.of .verdictOperand) ∧ Traps (.fmax d a b w g) s (Trap.of .verdictOperand) ∧
        Traps (.fcmp c p a b w g) s (Trap.of .verdictOperand)) ∧
    (preg s g = true → verdict d → Traps (.ffma d a b w g) s (Trap.of .verdictOperand)) ∧
    (preg s g = true → t.toNat ≤ 12 → isVerdict ((sreg s a).extractLsb' 0 32) = true →
      Traps (.fcvt d a 0 t g) s (Trap.of .verdictOperand)) ∧
    Traps (.fadd d a b 0 g) s (Trap.of .illegalInstruction) ∧ Traps (.fsub d a b 0 g) s (Trap.of .illegalInstruction) ∧
    Traps (.fmul d a b 0 g) s (Trap.of .illegalInstruction) ∧ Traps (.ffma d a b 0 g) s (Trap.of .illegalInstruction) ∧
    Traps (.fmin d a b 0 g) s (Trap.of .illegalInstruction) ∧ Traps (.fmax d a b 0 g) s (Trap.of .illegalInstruction) ∧
    Traps (.fcmp c p a b 0 g) s (Trap.of .illegalInstruction) ∧
    (12 < sv.toNat ∨ 12 < t.toNat → Traps (.fcvt d a sv t g) s (Trap.of .illegalInstruction))

/-- For each of the five float formats and every bit pattern of a finite value, rounding its exact value into the same format
gives the same bits and raises no flag, whatever the rounding mode, saturation and whatever its sign. -/
def Obligations.RepresentableValuesRoundToThemselves : Prop :=
  ∀ (f : FFmt) (mode : RMode) (sat : Bool) (bits : Nat),
    bits < 2 ^ f.width → bits % f.signBit ≤ f.maxMag → roundTo f ⟨mode, sat, false⟩ (f.val bits) = (bits, {})

/-- At addr = s(a) + 8 x off, a multiple of 8 whose 8 bytes lie in the buffer, with no earlier unended writer (LDS) or user (STS)
of them: LDS completes and s(d) takes the 8 stored bytes little-endian (single-bit errors of the word are corrected and
counted); STS completes, the 8 stored bytes become those of s(d), every other byte of every buffer keeps its value and nothing
else changes but the error marks of the core; in guard mode each byte of the guard bank also takes the XOR of what changed in
its column. A misaligned address and one past the buffer trap with the buffer code in bits [63:62] and the low 62 bits of the
address below it in TADDR. -/
def Obligations.ScratchpadAccessesComplete : Prop :=
  ∀ (s : State) (d a : BitVec 5) (b : BitVec 2) (o : BitVec 14),
    let addr := (sreg s a).toNat + 8 * o.toNat
    let here : List Machine.Range := [⟨b, addr, addr + 8⟩]
    (b ≠ 3 → addr % 8 = 0 → addr + 8 ≤ bufSize s.core b →
      (mustWait s.core [] here = true → Waits (.sts d a b o) s) ∧
      (mustWait s.core here [] = true → Waits (.lds d a b o) s) ∧
      (mustWait s.core here [] = false → badWord s.core b (addr / 8) = false →
        Completes (.lds d a b o) s
          (setS (correctWords s s.core.die s.core.num fun w => w.1 == b && decide (w.2 = addr / 8)) d
            (BitVec.ofNat 64 (leNat ((List.range 8).map fun i => spByte s.core b (addr + i)))))) ∧
      (mustWait s.core [] here = false →
        ∃ u, Completes (.sts d a b o) s u ∧
          (∀ i, i < 8 → spByte u.core b (addr + i) = (sreg s d).extractLsb' (8 * i) 8) ∧
          (∀ b' x, b' ≠ 3 → (b' ≠ b ∨ ((x < addr ∨ addr + 8 ≤ x) ∧ (s.core.guardMode = true → x < 0x8000 * (bufBanks b - 1)))) →
            spByte u.core b' x = spByte s.core b' x) ∧
          (s.core.guardMode = true → ∀ i, i < 8 → spByte u.core b (guardOff b (addr + i)) =
            spByte s.core b (guardOff b (addr + i)) ^^^ spByte s.core b (addr + i) ^^^ (sreg s d).extractLsb' (8 * i) 8) ∧
          u = { s with core := { s.core with
            w := u.core.w, a := u.core.a, c := u.core.c, bad := u.core.bad, soft := u.core.soft } })) ∧
    (b ≠ 3 → addr % 8 ≠ 0 →
      Traps (.lds d a b o) s (Trap.at .misalignedAccess (b.toNat * 2 ^ 62 + addr % 2 ^ 62)) ∧
        Traps (.sts d a b o) s (Trap.at .misalignedAccess (b.toNat * 2 ^ 62 + addr % 2 ^ 62))) ∧
    (b ≠ 3 → addr % 8 = 0 → bufSize s.core b < addr + 8 →
      Traps (.lds d a b o) s (Trap.at .scratchpadRange (b.toNat * 2 ^ 62 + addr % 2 ^ 62)) ∧
        Traps (.sts d a b o) s (Trap.at .scratchpadRange (b.toNat * 2 ^ 62 + addr % 2 ^ 62)))

/-- With the offset a multiple of the size and the handle valid, its page holding the range, with the right and resident: LDG
takes the bytes its die reads (or those its own queued stores hold), zero-extended, and clears p7; where its order makes it
wait, or it is left for later, it enters the load queue and clears p7; STG appends the low bytes of s(d), at the physical
addresses of the page, to the store queue and clears p7, and no byte of memory changes yet. A load of a failing line is not
queued: it waits at issue for its turn and traps (log entry 24). Through an invalid handle, to a page not resident or over a
lost path, LDG writes 0 and STG stores nothing, and p7 is set. A misaligned offset, a range past the page, a missing right and
a store to a window's record trap with the virtual address (the offset alone through an invalid handle) in TADDR. -/
def Obligations.GlobalLoadsAndStoresComplete : Prop :=
  ∀ (s : State) (d : BitVec 5) (h : BitVec 4) (z : BitVec 2) (n : BitVec 3) (o : BitVec 12),
    let H := hreg s h
    let size := 2 ^ z.toNat
    let off := if n.toNat < 4 then o.toNat * size else (sreg s (o.extractLsb' 0 5)).toNat
    let va := H.vbase + off
    let pa := H.base + off
    let enter (k : AccessKind) : State := modCore (setP s 7 false) fun c =>
      { c with seq := c.seq + 1, ctx := { c.ctx with accessQ := c.ctx.accessQ ++ [⟨c.seq, k⟩] } }
    hintOk n o = true →
    (off % size = 0 → H.valid = true → off + size ≤ H.pageSize → H.r = true → H.res = true → pathUp s pa = true →
      (∀ bytes, s.later = false → loadBytes s va pa size = .read bytes → badByte s pa size = none →
        Completes (.ldg d h z n o) s (touchLine (setP (setS s d (BitVec.ofNat 64 (leNat bytes))) 7 false) H off)) ∧
      (∀ bytes, s.later = false ∨ badByte s pa size ≠ none → loadBytes s va pa size = .forwarded bytes →
        Completes (.ldg d h z n o) s (setP (setS s d (BitVec.ofNat 64 (leNat bytes))) 7 false)) ∧
      ((∃ bytes, loadBytes s va pa size = .read bytes) → badByte s pa size ≠ none →
        Traps (.ldg d h z n o) s (Trap.at .storageError va)) ∧
      ((s.later = true ∨ loadBytes s va pa size = .wait) → badByte s pa size = none →
        Completes (.ldg d h z n o) s (enter (.load d va pa size))) ∧
      (loadBytes s va pa size = .wait → badByte s pa size ≠ none → Waits (.ldg d h z n o) s)) ∧
    (off % size = 0 → H.valid = true → off + size ≤ H.pageSize → H.w = true → H.res = true → pathUp s pa = true →
      (inWindowRecord s pa size = false →
        Completes (.stg d h z n o) s
          (enter (.write ((List.range size).map fun i =>
            (canonPa s pa + i, (sreg s d).extractLsb' (8 * i) 8)) [(va, pa)]))) ∧
      (inWindowRecord s pa size = true → Traps (.stg d h z n o) s (Trap.at .permission va))) ∧
    (off % size = 0 → H.valid = false →
      Completes (.ldg d h z n o) s (setP (setS s d 0) 7 true) ∧ Completes (.stg d h z n o) s (setP s 7 true)) ∧
    (off % size = 0 → H.valid = true → off + size ≤ H.pageSize → H.res = false ∨ pathUp s pa = false →
      (H.r = true → Completes (.ldg d h z n o) s (setP (setS s d 0) 7 true)) ∧
        (H.w = true → Completes (.stg d h z n o) s (setP s 7 true))) ∧
    (off % size = 0 → H.valid = true → H.pageSize < off + size →
      Traps (.ldg d h z n o) s (Trap.at .handleRange va) ∧ Traps (.stg d h z n o) s (Trap.at .handleRange va)) ∧
    (off % size = 0 → H.valid = true → off + size ≤ H.pageSize →
      (H.r = false → Traps (.ldg d h z n o) s (Trap.at .permission va)) ∧
        (H.w = false → Traps (.stg d h z n o) s (Trap.at .permission va))) ∧
    (off % size ≠ 0 → H.valid = true →
      Traps (.ldg d h z n o) s (Trap.at .misalignedAccess va) ∧ Traps (.stg d h z n o) s (Trap.at .misalignedAccess va)) ∧
    (off % size ≠ 0 → H.valid = false →
      Traps (.ldg d h z n o) s (Trap.at .misalignedAccess off) ∧ Traps (.stg d h z n o) s (Trap.at .misalignedAccess off)) ∧
    (s.core.ctx.accessQ = [] → s.reds = [] → loadBytes s va pa size = .read (rdBytes s s.core.die pa size))

/-- ACCESS_PERFORMED 0 acts on the first access of the queue that is neither a load nor a FENCE.acq. Where that is a store of the
low n bytes of v at address a that no earlier queued load, RED or FENCE.acq holds, to reachable memory, its pages get their
dirty marks (log entry 117), the die then reads byte i of v at a + i for every i below n and what it read before at every
other address (for lines of the near tier, whose touch counts nothing and that no reeve watches), and the store has left the
queue. A RED that no earlier load or FENCE.acq holds leaves for its home. Another mark with no earlier load leaves when no RED
of the context is outstanding, and stays till then; at .pkg and wider a FENCE.rel writes all bytes the die holds home (log
entry 25: the manual names the context's). ACCESS_PERFORMED 1 acts on the first load or FENCE.acq: a FENCE.acq leaves,
whatever stores stand before it, and at .pkg and wider drops every copy of the die (log entry 91: the manual names the issuing
core's); a load gets what its die reads, once nothing in front of it holds it and a path reaches its module; over a lost path
it waits (R385). -/
def Obligations.QueuedAccessesArePerformed : Prop :=
  ∀ (s : State) (before rest : List Access) (q : Nat), uncheckedBefore s.core.ctx q = false →
    let leave (t : State) : State := modCtx t fun c => { c with accessQ := before ++ rest }
    (∀ a n v lines,
      let cells : List Host.Cell := (List.range n).map fun i => (a + i, BitVec.ofNat 8 (v / 256 ^ i))
      storeHead s.core.ctx.accessQ = some (before, ⟨q, .write cells lines⟩, rest) → acqHeld before = false →
      loadOverlaps s before cells = false → cellsFree s cells = true →
      let m := markLines s lines
      Happens (.accessPerformed 0) s
        (leave (lines.foldl (fun t l => touchAt t t.core.ctx.aspace t.core.die l.1 l.2) (wrDie m s.core.die cells))) ∧
      ((∀ i, i < n → canonPa s (a + i) = a + i) → s.bindings = [] → (∀ l ∈ lines, tierOf s l.2 = 0) →
        ∃ t, Happens (.accessPerformed 0) s t ∧
          (∀ i, i < n → rdByte t s.core.die (a + i) = BitVec.ofNat 8 (v / 256 ^ i)) ∧
          (∀ x, (canonPa s x < a ∨ a + n ≤ canonPa s x) → rdByte t s.core.die x = rdByte m s.core.die x) ∧
          t.core = (leave m).core ∧ t.reds = s.reds)) ∧
    (∀ r, storeHead s.core.ctx.accessQ = some (before, ⟨q, .red r⟩, rest) →
      (if r.rel then before = [] else acqHeld before = false ∧ loadMeetsRed s before r = false) →
      let m := if capsDirty s then s else markDirty s s.core.ctx.aspace r.va.toNat
      Happens (.accessPerformed 0) s (leave { m with reds := m.reds ++ [r] })) ∧
    (∀ k sc, storeHead s.core.ctx.accessQ = some (before, ⟨q, .mark k sc⟩, rest) → before = [] →
      (podBlocked s s.core.die = true → Happens (.accessPerformed 0) s s) ∧
      (redsOf s s.core.ctx.ctxId = [] → podBlocked s s.core.die = false →
        (sc.toNat < 7 → Happens (.accessPerformed 0) s (leave s)) ∧
        (7 ≤ sc.toNat → ∃ t, Happens (.accessPerformed 0) s t ∧ t.core = (leave s).core ∧
          (∀ h ∈ t.heldBytes, h.die ≠ s.core.die) ∧ (k ≠ .rel → ∀ c ∈ t.copies, c.die ≠ s.core.die))) ∧
      (redsOf s s.core.ctx.ctxId ≠ [] → Happens (.accessPerformed 0) s s)) ∧
    (∀ sc, loadHead s.core.ctx.accessQ = some (before, ⟨q, .mark .acq sc⟩, rest) →
      (sc.toNat < 7 → Happens (.accessPerformed 1) s (leave s)) ∧
      (7 ≤ sc.toNat →
        Happens (.accessPerformed 1) s (leave { s with copies := s.copies.filter fun c => !decide (c.die = s.core.die) }))) ∧
    ∀ d va pa n, loadHead s.core.ctx.accessQ = some (before, ⟨q, .load d va pa n⟩, rest) → before = [] → s.reds = [] →
      s.core.ctx.vq = [] →
      (pathUp s pa = true → Happens (.accessPerformed 1) s (touchAt
        (leave (setS s d (BitVec.ofNat 64 (leNat (rdBytes s s.core.die pa n))))) s.core.ctx.aspace s.core.die va pa)) ∧
      (pathUp s pa = false → Happens (.accessPerformed 1) s s)

/-- Through a valid handle whose page holds the aligned range with both rights and is resident, with nothing of the context queued
or outstanding, no byte held by a die and no dirty mark due: ATOM writes the new value that R232's op gives to the size bytes
at the handle's physical base plus s(x), CAS writes its b operand there if the old value equals s(d), and s(d) takes the old
value; every other byte of memory and every other register keeps its value. Both wait, with everything kept, while an access
of the context is queued or a RED holds the bytes, and with release order while a RED of the context is outstanding or its die
holds bytes of a module to which no path stands (log entry 122). A misaligned offset (TADDR the offset alone through an
invalid handle: log entry 33), an invalid handle, a range past the page, a missing right, a page not resident or without a
path, and a window's record trap in that order. -/
def Obligations.AtomicsComplete : Prop :=
  ∀ (s : State) (d : BitVec 5) (h : BitVec 4) (x b : BitVec 5) (op : BitVec 4) (z : BitVec 1) (ord : BitVec 2) (sc : BitVec 4),
    let H := hreg s h
    let size := if z = 0 then 4 else 8
    let off := (sreg s x).toNat
    let pa := H.base + off
    let old := leNat ((List.range size).map fun i => memRead s.mem (canonPa s (pa + i)))
    let vo := (sreg s d).toNat % 2 ^ (8 * size)
    let fresh := if old = vo then (sreg s b).toNat % 2 ^ (8 * size) else old
    let both (P : Instr → Prop) : Prop :=
      (op.toNat ≤ 9 → ¬ (op = 9 ∧ z = 1) → P (.atom d h x op z ord sc)) ∧ P (.cas d h x b z ord sc)
    sc.toNat ≤ 11 →
    (off % size ≠ 0 → both fun i => Traps i s (Trap.at .misalignedAccess (if H.valid then H.vbase + off else off))) ∧
    (off % size = 0 → H.valid = false → both fun i => Traps i s (Trap.at .notResident off)) ∧
    (off % size = 0 → H.valid = true →
      (H.pageSize < off + size → both fun i => Traps i s (Trap.at .handleRange (H.vbase + off))) ∧
      (off + size ≤ H.pageSize →
        (H.r = false ∨ H.w = false → both fun i => Traps i s (Trap.at .permission (H.vbase + off))) ∧
        (H.r = true → H.w = true →
          (H.res = false ∨ pathUp s pa = false → both fun i => Traps i s (Trap.at .notResident (H.vbase + off))) ∧
          (H.res = true → pathUp s pa = true →
            (inWindowRecord s pa size = true → both fun i => Traps i s (Trap.at .permission (H.vbase + off))) ∧
            (inWindowRecord s pa size = false →
              s.core.ctx.accessQ ≠ [] ∨ redHolds s pa size = true ∨ 
                (ord.getLsbD 1 = true ∧ (redsOutstanding s = true ∨ podBlocked s s.core.die = true)) →
              both fun i => Waits i s))))) ∧
    (off % size = 0 → H.valid = true → off + size ≤ H.pageSize → H.r = true → H.w = true → H.res = true →
    pathUp s pa = true → inWindowRecord s pa size = false → s.badLines = [] → s.core.ctx.accessQ = [] → s.reds = [] →
    s.heldBytes = [] → s.bindings = [] → tierOf s pa = 0 → capsDirty s = false → s.core.tlbStores < 4095 →
    (∀ i j, i < 8 → j < 8 → canonPa s (pa + i) = canonPa s (pa + j) → i = j) →
    (op.toNat ≤ 9 → ¬ (op = 9 ∧ z = 1) → ∃ u, Completes (.atom d h x op z ord sc) s u ∧
      (∀ i, i < size → memRead u.mem (canonPa s (pa + i)) = BitVec.ofNat 8 (atomNew op size old vo / 256 ^ i)) ∧
      (∀ y, (∀ i, i < size → y ≠ canonPa s (pa + i)) → memRead u.mem y = memRead s.mem y) ∧
      ∀ r, sreg u r = if r = d ∧ d ≠ 0 then BitVec.ofNat 64 old else sreg s r) ∧
    ∃ u, Completes (.cas d h x b z ord sc) s u ∧
      (∀ i, i < size → memRead u.mem (canonPa s (pa + i)) = BitVec.ofNat 8 (fresh / 256 ^ i)) ∧
      (∀ y, (∀ i, i < size → y ≠ canonPa s (pa + i)) → memRead u.mem y = memRead s.mem y) ∧
      ∀ r, sreg u r = if r = d ∧ d ≠ 0 then BitVec.ofNat 64 old else sreg s r)

/-- FENCE and LSMARK with an assigned scope append their mark to the store queue and change nothing else. A RED with an assigned
op and scope and an aligned offset appends an entry with the virtual address (the offset alone when its handle is invalid),
the address space, op, size and the low bytes of s(b). An offset that is not a multiple of the size traps, a range past a
valid handle's page traps with handle range, and a valid handle without the write right traps with permission. A RED at the
memory side whose page is mapped, writable, resident for it, reachable and no window record gets its physical address. A
translated RED with no earlier one in its way, a sound line and no byte held by a die is applied: the bytes at its address
take the value of R232's op, every other byte of memory keeps its value, and the RED is gone. Its module must be reachable
from its die. -/
def Obligations.ReductionsAndMarksAreQueuedAndPerformed : Prop :=
  (∀ (s : State) (b : BitVec 5) (h : BitVec 4) (x : BitVec 5) (op : BitVec 4) (z : BitVec 1) (r : BitVec 1) (sc : BitVec 4),
    let H := hreg s h
    let c := s.core.ctx
    let size := if z = 0 then 4 else 8
    let off := (sreg s x).toNat
    let va := if H.valid then H.vbase + off else off
    let queued (k : AccessKind) : State := modCore s fun c =>
      { c with seq := c.seq + 1, ctx := { c.ctx with accessQ := c.ctx.accessQ ++ [⟨c.seq, k⟩] } }
    sc.toNat ≤ 11 →
    Completes (.fenceAcq sc) s (queued (.mark .acq sc)) ∧ Completes (.fenceRel sc) s (queued (.mark .rel sc)) ∧
    Completes (.fenceFull sc) s (queued (.mark .full sc)) ∧ Completes (.lsmark sc) s (queued (.mark .ls sc)) ∧
    (1 ≤ op.toNat → op.toNat ≤ 9 → ¬ (op = 9 ∧ z = 1) →
      (off % size = 0 → (H.valid = true → off + size ≤ H.pageSize ∧ H.w = true) →
        Completes (.red b h x op z r sc) s (queued (.red
          { va := BitVec.ofNat 64 va, aspace := c.aspace, op := op, sz := z, v := BitVec.ofNat 64 ((sreg s b).toNat % 2 ^ (8 * size))
            rel := decide (r = 1), scope := sc, die := s.core.die, core := s.core.num, seqTag := c.seqTag
            kernelId := c.kernelId, ctxId := c.ctxId, word := c.ir, seq := s.core.seq, pa := none, waits := false }))) ∧
      (off % size ≠ 0 → Traps (.red b h x op z r sc) s (Trap.at .misalignedAccess va)) ∧
      (off % size = 0 → H.valid = true → H.pageSize < off + size → Traps (.red b h x op z r sc) s (Trap.at .handleRange va)) ∧
      (off % size = 0 → H.valid = true → off + size ≤ H.pageSize → H.w = false →
        Traps (.red b h x op z r sc) s (Trap.at .permission va)))) ∧
  (∀ (s : State) (k : Nat) (r : Red), s.reds[k]? = some r →
    (∀ l, r.pa = none → walk s r.aspace r.va.toNat = .ok l → dW l.desc = true →
      residentFor s l r.aspace r.die r.seqTag = true → inWindowRecord s (leafPa l r.va.toNat) (redSize r) = false →
      pathFrom s r.die (leafPa l r.va.toNat) = true →
        Happens (.redTranslation k) s
          { s with reds := s.reds.set k { r with pa := some (canonPa s (leafPa l r.va.toNat)), waits := false } }) ∧
    ∀ pa, r.pa = some pa → redBehind s k r = false → pathFrom s r.die pa = true → s.badLines = [] → s.heldBytes = [] → capsDirty s = false →
      s.bindings = [] → tierOf s pa = 0 → (∀ i, i < 8 → canonPa s (pa + i) = pa + i) →
      let n := if r.sz = 0 then 4 else 8
      let old := leNat ((List.range n).map fun i => memRead s.mem (pa + i))
      ∃ t, Happens (.redPerformed k) s t ∧
        (∀ i, i < n → memRead t.mem (pa + i) = BitVec.ofNat 8 (atomNew r.op n old r.v.toNat / 256 ^ i)) ∧
        (∀ y, (y < pa ∨ pa + n ≤ y) → memRead t.mem y = memRead s.mem y) ∧
        t = { s with reds := s.reds.eraseIdx k, mem := t.mem, copies := t.copies })

/-- XLATE of an address whose walk finds a leaf fills the handle from the leaf; where the walk fails it traps with the walk's
cause and the address in TADDR, and the handle keeps its value. HDROP clears VALID and keeps the rest. HSTAT of a valid handle
gives VPAGE, SIZE, TIER, W, R, RES and VALID in their places, and of an invalid one VPAGE and SIZE alone. -/
def Obligations.HandlesAreFilledDroppedAndRead : Prop :=
  ∀ (s : State) (a : BitVec 5) (h : BitVec 4),
    let va := (sreg s a).toNat
    let H := hreg s h
    (∀ l, walk s s.core.ctx.aspace va = .ok l →
      Completes (.xlate a h) s (setH s h (handleOf s l va s.core.ctx.aspace s.core.die s.core.ctx.seqTag))) ∧
    (∀ c, walk s s.core.ctx.aspace va = .error c → Traps (.xlate a h) s (Trap.at c va)) ∧
    Completes (.hdrop h) s (setH s h { H with valid := false }) ∧
    ∃ v : Word, Completes (.hstat a h) s (setS s a v) ∧ v.extractLsb' 12 52 = H.vpage ∧ v.extractLsb' 8 4 = H.size ∧
      v.extractLsb' 6 2 = (if H.valid then H.tier else 0) ∧ v.extractLsb' 4 2 = 0 ∧ v.getLsbD 3 = (H.valid && H.w) ∧
      v.getLsbD 2 = (H.valid && H.r) ∧ v.getLsbD 1 = (H.valid && H.res) ∧ v.getLsbD 0 = H.valid

/-- A BR whose condition holds, and J, go to the pc plus four times their sign-extended offset and make inactive the loop levels
whose body does not hold the target with those inside them; a BR whose condition fails moves on in line. CALL and CALLR write
the address of the next word into s31 and keep every loop, as RET does. JR, CALLR and RET go to their register, which must be
a multiple of 4, or else trap with cause misaligned target. Nothing else changes but the sequencer. -/
def Obligations.TransfersReachTheirTargets : Prop :=
  ∀ (s : State) (n : BitVec 1) (p : BitVec 3) (o : BitVec 22) (q : BitVec 25) (a : BitVec 5),
    let c := s.core.ctx
    let near : Word := c.pc + 4 * o.signExtend 64
    let far : Word := c.pc + 4 * q.signExtend 64
    let linked : State := setS s 31 (c.pc + 4)
    (preg s p = (n == 0) → CompletesTo (.br n p o) s s near (leaveLoops c near).loops) ∧
    (preg s p ≠ (n == 0) → Completes (.br n p o) s s) ∧
    CompletesTo (.j q) s s far (leaveLoops c far).loops ∧
    CompletesTo (.call q) s linked far c.loops ∧
    ((sreg s a).toNat % 4 = 0 →
      CompletesTo (.jr a) s s (sreg s a) (leaveLoops c (sreg s a)).loops ∧
        CompletesTo (.callr a) s linked (sreg s a) c.loops) ∧
    ((sreg s 31).toNat % 4 = 0 → CompletesTo .ret s s (sreg s 31) c.loops) ∧
    ((sreg s a).toNat % 4 ≠ 0 →
      Traps (.jr a) s (Trap.of .misalignedTarget) ∧ Traps (.callr a) s (Trap.of .misalignedTarget)) ∧
    ((sreg s 31).toNat % 4 ≠ 0 → Traps .ret s (Trap.of .misalignedTarget))

/-- Outside the handler a LOOP with a count of at least 1 makes its level active over the given number of words from the next
address, sets its counter, places it after the other active levels or where the level stood, and goes on in line (so that a
LOOP that is last in an outer body takes that body's loop-end step); with count 0 it skips the body and makes its level
inactive. In the handler, and for level 3, it traps. When an instruction that does not transfer control lies at the last
address of the one active level, the counter above 1 is decremented and the pc goes to the body's start; otherwise the counter
is cleared, the level ends and the next word follows. That a LOOP of count 0 counts as a transfer and one of count 1 or more
takes an outer body's step is the model's choice (log entry 73). Away from every active last address, and in the handler, the
next word follows and the loops keep their values. -/
def Obligations.LoopsStartAndEnd : Prop :=
  (∀ (s : State) (l : BitVec 2) (len : BitVec 8) (n : BitVec 15) (a : BitVec 5),
    let c := s.core.ctx
    let loops (cnt : Nat) (i : Instr) : Prop :=
      (c.inTrap = false → l ≠ 3 → cnt ≠ 0 →
        let pos := if (loopAt c l.toNat).active then (loopAt c l.toNat).pos
          else ((List.range 3).filter fun m => decide (m ≠ l.toNat) && (loopAt c m).active).length
        Completes i s (modCtx s fun c =>
          { c with lc := vset c.lc l.toNat (BitVec.ofNat 32 cnt), loops := vset c.loops l.toNat ⟨true, pos, len, c.pc + 4⟩ })) ∧
      (c.inTrap = false → l ≠ 3 → cnt = 0 →
        ∃ t, exec i s = .next t ∧ Sequenced s t ∧ t.core.ctx.pc = c.pc + 4 + BitVec.ofNat 64 (4 * (len.toNat + 1)) ∧
          (loopAt t.core.ctx l.toNat).active = false ∧ t.core.ctx.lc = c.lc) ∧
      (c.inTrap = true ∨ l = 3 → Traps i s (Trap.of .illegalInstruction))
    loops n.toNat (.loop l len n) ∧ loops (min (sreg s a).toNat 0xFFFFFFFF) (.loopReg l len a)) ∧
  ∀ (c : Context) (n : Nat),
    (c.inTrap = true → pastInstr c = { c with pc := c.pc + 4 }) ∧
    ((∀ m, m < 3 → (loopAt c m).active = true → (loopAt c m).last ≠ c.pc) → pastInstr c = { c with pc := c.pc + 4 }) ∧
    (c.inTrap = false → n < 3 → (loopAt c n).active = true → (loopAt c n).pos = 0 → (loopAt c n).last = c.pc →
      (∀ m, m < 3 → m ≠ n → (loopAt c m).active = false) →
      (1 < (vget c.lc n 0).toNat →
        pastInstr c = { c with pc := (loopAt c n).start, lc := vset c.lc n (vget c.lc n 0 - 1) }) ∧
      ((vget c.lc n 0).toNat ≤ 1 →
        (pastInstr c).pc = c.pc + 4 ∧ (pastInstr c).lc = vset c.lc n 0 ∧ (loopAt (pastInstr c) n).active = false))

/-- GETSR of an assigned number writes the register's value into its destination (VMODE once no vector instruction of the context
is pending). SETSR writes priority within its ceiling, the fields of TCAUSE, TPC as a multiple of 4, TWORD's low 32 bits,
TADDR, VMODE with its flags cleared by ones, REPRO's bit 0 and the performance counters, and leaves a read-only register as it
is. An unassigned number traps as an illegal instruction. -/
def Obligations.SystemRegistersAreReadAndWritten : Prop :=
  ∀ (s : State) (a : BitVec 5) (r : BitVec 10),
    let c := s.core.ctx
    let v := sreg s a
    let reads (n : BitVec 10) (x : Word) : Prop := Completes (.getsr a n) s (setS s a x)
    let writes (n : BitVec 10) (f : Context → Context) : Prop := Completes (.setsr a n) s (modCtx s f)
    reads 0x00 (cstatOf c) ∧ reads 0x01 (cprioOf s c) ∧ reads 0x02 c.tcause ∧ reads 0x03 c.tpc ∧ reads 0x04 c.tword ∧
    reads 0x05 c.taddr ∧ (vectorPending c = false → reads 0x06 c.vmode) ∧ reads 0x07 c.repro ∧ reads 0x08 s.caps ∧
    reads 0x09 (BitVec.ofNat 64 s.core.num) ∧ reads 0x0A (BitVec.ofNat 64 (s.core.num / 4)) ∧
    reads 0x0B (BitVec.ofNat 64 s.core.die) ∧ reads 0x0C (s.pkgId.setWidth 64) ∧ reads 0x0D c.groupId ∧
    reads 0x0E c.kernelId ∧ reads 0x0F c.ctxId ∧ reads 0x10 (lcntOf c) ∧
    (∀ k : BitVec 3, reads (0x18#10 + k.setWidth 10) (vget c.perf k.toNat 0)) ∧
    writes 0x01 (fun c => { c with prio := if (v.extractLsb' 0 8).toNat ≤ c.ceil.toNat then v.extractLsb' 0 8 else c.ceil }) ∧
    writes 0x02 (fun c => { c with tcause := v &&& 0x03FF00FF }) ∧
    writes 0x03 (fun c => { c with tpc := v &&& ~~~3 }) ∧
    writes 0x04 (fun c => { c with tword := (v.extractLsb' 0 32).setWidth 64 }) ∧
    writes 0x05 (fun c => { c with taddr := v }) ∧
    (vectorPending c = false → writes 0x06 (fun c => { c with vmode := writeVmode c.vmode v })) ∧
    (c.vq = [] → ownCommands s.core c.ctxId = [] → writes 0x07 (fun c => { c with repro := v &&& 1 })) ∧
    (∀ k : BitVec 3, ∃ t, Happens (.setsr a (0x18#10 + k.setWidth 10)) s t ∧ Sequenced s t ∧ vget t.core.ctx.perf k.toNat 0 = v) ∧
    (r ∈ [0x00#10, 0x08, 0x09, 0x0A, 0x0B, 0x0C, 0x0D, 0x0E, 0x0F, 0x10] → Completes (.setsr a r) s s) ∧
    (sysregOk r = false → Traps (.getsr a r) s (Trap.of .illegalInstruction) ∧ Traps (.setsr a r) s (Trap.of .illegalInstruction))

/-- TRAP, BKPT and HALT take a precise trap of their cause. With a handler entry, outside the handler and for a cause other than
halt, TCAUSE takes cause and information, TPC the address of the instruction, TWORD its word, TADDR its address, INTRAP is set
and the pc goes to the handler entry, and nothing else of the machine changes but the model's own note of where the trap was
taken (log entries 66 and 90). Otherwise the context's state becomes trapped with the same trap registers. -/
def Obligations.TrapsEnterTheHandlerOrStop : Prop :=
  ∀ (s : State) (i : BitVec 10) (t : Trap),
    let c := s.core.ctx
    let saved (x : Trap) : Context :=
      { c with
        tcause := BitVec.ofNat 64 (x.info.toNat * 2 ^ 16 + x.cause.code), tpc := c.pc, tword := c.ir.setWidth 64
        taddr := x.addr }
    (c.inTrap = false → c.handler ≠ 0 → t.cause ≠ .halt →
      takeTrap s t = modCtx s fun _ => { saved t with inTrap := true, pc := c.handler, trapAt := c.pc }) ∧
    (c.park = none → c.inTrap = true ∨ c.handler = 0 ∨ t.cause = .halt →
      (takeTrap s t).core.ctx.state = .trapped ∧ (takeTrap s t).core.ctx.tcause = (saved t).tcause ∧
        (takeTrap s t).core.ctx.tpc = c.pc ∧ (takeTrap s t).core.ctx.tword = c.ir.setWidth 64 ∧
        (takeTrap s t).core.ctx.taddr = t.addr ∧ (takeTrap s t).core.ctx.inTrap = c.inTrap ∧
        (takeTrap s t).core.ctx.pc = c.pc ∧ (takeTrap s t).core.ctx.s = c.s) ∧
    Traps (.trap i) s ⟨.trapInstruction, i, 0⟩ ∧ Traps .bkpt s ⟨.breakpoint, 0, 0⟩ ∧ Traps .halt s ⟨.halt, 0, 0⟩

/-- In the handler, ERET goes to TPC, clears INTRAP and makes inactive the loops it leaves, unless the trap was taken on the last
word of an active loop and TPC names the next word: then that loop goes into its next pass; outside the handler it traps as an
illegal instruction. NOP completes with no effect. DONE makes the context retired when none of its work is outstanding, and
otherwise waiting with reason 5. A YIELD of a group for which no entry qualifies completes as a NOP; one for which an entry
qualifies leaves a pre-emption request against its own group and completes. -/
def Obligations.HandlerReturnsAndContextsEnd : Prop :=
  ∀ (s : State) (g k : KEntry),
    let c := s.core.ctx
    (c.inTrap = true →
      (∀ n, n < 3 → (loopAt c n).active = true → (loopAt c n).last = c.trapAt → c.tpc ≠ c.trapAt + 4) →
      CompletesTo .eret s (modCtx s fun c => { c with inTrap := false }) c.tpc
        (leaveLoops { c with inTrap := false } c.tpc).loops) ∧
    (c.inTrap = true → c.tpc = c.trapAt + 4 → ∀ n, n < 3 → (loopAt c n).active = true → (loopAt c n).pos = 0 →
      (loopAt c n).last = c.trapAt → 1 < (vget c.lc n 0).toNat → (∀ m, m < 3 → m ≠ n → (loopAt c m).active = false) →
      CompletesTo .eret s (modCtx s fun c => { c with inTrap := false, lc := vset c.lc n (vget c.lc n 0 - 1) }) (loopAt c n).start
        c.loops) ∧
    (c.inTrap = false → Traps .eret s (Trap.of .illegalInstruction)) ∧
    Completes .nop s s ∧
    (workLeft s = false → ∃ t, Happens .done s t ∧ Sequenced (modCtx s fun c => { c with state := .retired }) t) ∧
    (workLeft s = true →
      ∃ t, Happens .done s t ∧
        Sequenced (modCtx s fun c => { c with state := .waiting, wait := .done, park := some .retire }) t) ∧
    (kernelById s c.kernelId = none → Completes .yield s s) ∧
    (kernelById s c.kernelId = some g → victimFit g = true → yieldTo s g = none → Completes .yield s s) ∧
    (kernelById s c.kernelId = some g → victimFit g = true → yieldTo s g = some k →
      Completes .yield s (modKernel s g.id fun e => { e with victim := some ⟨0, some c.ctxId, some k.id⟩ }))

/-- With nothing before it in the vector queue and not left for later and no verdict word among the active lanes it reads, VADD,
VSUB, VMUL, VFMA, VFMS, VMIN, VMAX, VABS, VNEG or VCPYS completes: each active lane takes the sum, difference, product, the
old lane plus or minus the product with one rounding, minimum or maximum, or x with its sign cleared, inverted or copied (a
NaN gives the default NaN), in VMODE's rounding mode and FTZ; inactive lanes take zero or keep their value. A verdict word in
an active lane of any source that the member reads (a, b of the two-source members, the old d of VFMA and VFMS) traps with
cause verdict operand. -/
def Obligations.VectorFloatMembersComplete : Prop :=
  ∀ (s : State) (d a b : BitVec 5) (m : BitVec 3) (z : BitVec 1),
    let act := mreg s.core.ctx m
    let vm := s.core.ctx.vmode
    let nar : Narrow := ⟨RMode.ofBits (vm.extractLsb' 0 2), false, vm.getLsbD 2⟩
    let x (k : Nat) : Nat := (lane s a k).toNat
    let y (k : Nat) : Nat := (lane s b k).toNat
    let w (k : Nat) : Nat := (lane s d k).toNat
    let bits (r : Nat × Fl) : BitVec 32 × Fl := (BitVec.ofNat 32 r.1, r.2)
    let signed (n : Nat) (sign : Bool → Bool) : BitVec 32 × Fl :=
      if (FFmt.f32.val n).isNan then (0x7FC00000, { nv := FFmt.f32.snan n })
      else
        let n' := FFmt.f32.flushSrc (vm.getLsbD 2) n
        (BitVec.ofNat 32 (n' % 2 ^ 31 + if sign (decide (2 ^ 31 ≤ n')) then 2 ^ 31 else 0), {})
    s.core.ctx.vq = [] → s.later = false →
    (VerdictFree s act a →
      LaneWise (.vabs d a m z) s d act z (fun k => signed (x k) fun _ => false) ∧
      LaneWise (.vneg d a m z) s d act z (fun k => signed (x k) not) ∧
      (VerdictFree s act b →
        LaneWise (.vadd d a b m z) s d act z (fun k => bits (fAdd .f32 nar (x k) (y k))) ∧
        LaneWise (.vsub d a b m z) s d act z (fun k => bits (fSub .f32 nar (x k) (y k))) ∧
        LaneWise (.vmul d a b m z) s d act z (fun k => bits (fMul .f32 nar (x k) (y k))) ∧
        LaneWise (.vmin d a b m z) s d act z (fun k => bits (fMinMax .f32 false (vm.getLsbD 2) (x k) (y k))) ∧
        LaneWise (.vmax d a b m z) s d act z (fun k => bits (fMinMax .f32 true (vm.getLsbD 2) (x k) (y k))) ∧
        LaneWise (.vcpys d a b m z) s d act z (fun k => signed (x k) fun _ => decide (2 ^ 31 ≤ y k)) ∧
        (VerdictFree s act d →
          LaneWise (.vfma d a b m z) s d act z (fun k => bits (fMulAdd .f32 nar false (x k) (y k) (w k))) ∧
          LaneWise (.vfms d a b m z) s d act z (fun k => bits (fMulAdd .f32 nar true (x k) (y k) (w k)))))) ∧
    let trapsAll (is : List Instr) : Prop := ∀ i ∈ is, TrapsCounted i s (Trap.of .verdictOperand)
    ∀ k, k < 1024 → act.getLsbD k = true →
      (isVerdict (lane s a k) = true → trapsAll [.vabs d a m z, .vneg d a m z]) ∧
      (isVerdict (lane s a k) = true ∨ isVerdict (lane s b k) = true →
        trapsAll [.vadd d a b m z, .vsub d a b m z, .vmul d a b m z, .vfma d a b m z, .vfms d a b m z, .vmin d a b m z,
          .vmax d a b m z, .vcpys d a b m z]) ∧
      (isVerdict (lane s d k) = true → trapsAll [.vfma d a b m z, .vfms d a b m z])

/-- With nothing before it in the vector queue and not left for later, each integer member of R152 completes: an active lane takes
the 32-bit sum, difference, product, and, or, exclusive or, left, logical or arithmetic right shift by the low five bits, or
the smaller or larger as two's complement or as naturals; inactive lanes take zero or keep their value, and no flag moves. -/
def Obligations.VectorIntegerMembersComplete : Prop :=
  ∀ (s : State) (d a b : BitVec 5) (m : BitVec 3) (z : BitVec 1), s.core.ctx.vq = [] → s.later = false →
    let act := mreg s.core.ctx m
    let gives (i : Instr) (f : BitVec 32 → BitVec 32 → BitVec 32) : Prop :=
      LaneWise i s d act z fun k => (f (lane s a k) (lane s b k), {})
    gives (.viadd d a b m z) (fun x y => x + y) ∧ gives (.visub d a b m z) (fun x y => x - y) ∧
    gives (.vimul d a b m z) (fun x y => x * y) ∧ gives (.vand d a b m z) (fun x y => x &&& y) ∧
    gives (.vor d a b m z) (fun x y => x ||| y) ∧ gives (.vxor d a b m z) (fun x y => x ^^^ y) ∧
    gives (.vshl d a b m z) (fun x y => x <<< (y.toNat % 32)) ∧ gives (.vshr d a b m z) (fun x y => x >>> (y.toNat % 32)) ∧
    gives (.vsar d a b m z) (fun x y => x.sshiftRight (y.toNat % 32)) ∧
    gives (.vimin d a b m z) (fun x y => if x.sle y then x else y) ∧
    gives (.vimax d a b m z) (fun x y => if x.sle y then y else x) ∧
    gives (.viminN32 d a b m z) (fun x y => if x.ule y then x else y) ∧
    gives (.vimaxN32 d a b m z) (fun x y => if x.ule y then y else x)

/-- With nothing before it in the vector queue and not left for later and no verdict word among its active sources: VCMP writes
its condition on .f32, .i32 or .n32 lanes into its mask; VCVT between formats 0 to 10 rounds each active lane once, encodes
live groups to .q4e under the old scales of d and decodes them from it (two choices of the model: a scale in v(d) is not
tested for a verdict word, log entry 70, and a verdict operand is reported before a format conflict, log entry 107); VSPLIT
writes the three parts of R49 to d, d+1 and d+2 (its flags as log entry 69 chooses); VPACK gathers and VUNPK spreads narrow
elements within a row; VSFU gives each lane the special case of R158's table, or a result within the accuracy of its function
(the reference is the model's, and which result within the accuracy is free: log entry 3). A verdict word among the active
sources traps with cause verdict operand, and a conflicting live group without one with format conflict. -/
def Obligations.VectorComparesAndConversionsComplete : Prop :=
  ∀ (s : State) (d a b : BitVec 5) (md : BitVec 3) (c : BitVec 3) (ty : BitVec 2) (sv t : BitVec 5) (f : BitVec 7) (m : BitVec 3)
    (z : BitVec 1),
    let act := mreg s.core.ctx m
    let vm := s.core.ctx.vmode
    let ftz := vm.getLsbD 2
    let nar : Narrow := ⟨RMode.ofBits (vm.extractLsb' 0 2), false, ftz⟩
    let x (k : Nat) : Nat := (lane s a k).toNat
    let bits (r : Nat × Fl) : BitVec 32 × Fl := (BitVec.ofNat 32 r.1, r.2)
    let holds (k : Nat) : Bool × Fl := vcmpLane c.toNat ty.toNat ftz (x k) (lane s b k).toNat
    let w := codeWidth t.toNat
    let stops (i : Instr) : Prop := TrapsCounted i s (Trap.of .verdictOperand)
    let verdictAt (k : Nat) : Prop := k < 1024 ∧ isVerdict (lane s a k) = true
    let live (k : Nat) : Prop := ∃ j, j < 4 ∧ act.getLsbD (k / 4 * 4 + j) = true
    let liveFree : Prop := ∀ k, k < 1024 → live k → isVerdict (lane s a k) = false
    let scale (k : Nat) : Nat := (lane s d (k / 32 * 32)).toNat % 2 ^ 16
    let four (k : Nat) : List Nat := (List.range 4).map fun j => x (k / 4 * 4 + j)
    let group (k : Nat) : Nat := (List.range 4).foldl (fun n j => n + x (k / 4 * 4 + j) % 16 * 2 ^ (4 * j)) 0
    let writesD (u : State) (f : Nat → BitVec 32) : Prop :=
      (∀ k, k < 1024 → lane u d k = if act.getLsbD k then f k else if z = 1 then 0 else lane s d k) ∧
      (∀ r, r ≠ d → vreg u.core.ctx r = vreg s.core.ctx r) ∧
      u = modCtx s fun c => { c with v := u.core.ctx.v, vmode := u.core.ctx.vmode }
    (Starts (.vcmp md a b c ty m z) s →
      (VerdictFree s act a → VerdictFree s act b →
        ∃ u, Completes (.vcmp md a b c ty m z) s u ∧
          (md ≠ 0 → ∀ k, k < 1024 → (mreg u.core.ctx md).getLsbD k =
            if act.getLsbD k then (holds k).1 else decide (z = 0) && (mreg s.core.ctx md).getLsbD k) ∧
          u = modCtx s (fun c => { c with m := u.core.ctx.m, vmode := (maskFlags act fun k => (holds k).2).apply c.vmode }) ∧
          (∀ q, q ≠ md → mreg u.core.ctx q = mreg s.core.ctx q)) ∧
      (¬ VerdictFree s act a ∨ ¬ VerdictFree s act b → stops (.vcmp md a b c ty m z))) ∧
    (∀ src dst, sv.toNat ≤ 10 → t.toNat ≤ 10 → numFmt sv.toNat = some src → numFmt t.toNat = some dst →
      Starts (.vcvt d a sv t m z) s →
      (VerdictFree s act a → LaneWise (.vcvt d a sv t m z) s d act z fun k =>
        bits (convert src dst ⟨RMode.ofBits (vm.extractLsb' 0 2), vm.getLsbD 3, ftz⟩ (x k % 2 ^ src.width))) ∧
      (¬ VerdictFree s act a → stops (.vcvt d a sv t m z))) ∧
    (Starts (.vcvt d a 0 13 m z) s →
      (liveFree → ∃ u, Completes (.vcvt d a 0 13 m z) s u ∧
        writesD u fun k => BitVec.ofNat 32 (q4Slot
          (q4Encode ((four k).map FFmt.f32.val) ((four k).map FFmt.f32.snan) (FFmt.bf16.val (scale k))).1 (k % 4))) ∧
      (¬ liveFree → stops (.vcvt d a 0 13 m z))) ∧
    (Starts (.vcvt d a 13 0 m z) s →
      (liveFree → (∀ k, k < 1024 → live k → q4Decode (group k) ≠ none) → ∃ u, Completes (.vcvt d a 13 0 m z) s u ∧
        writesD u fun k => BitVec.ofNat 32 (roundTo .f32 nar
          (mulV (((q4Decode (group k)).getD []).getD (k % 4) .nan) (FFmt.bf16.val (FFmt.bf16.flushSrc ftz (scale k)))).1).1) ∧
      (liveFree → (∃ k, k < 1024 ∧ live k ∧ q4Decode (group k) = none) →
        TrapsCounted (.vcvt d a 13 0 m z) s (Trap.of .formatConflict)) ∧
      (¬ liveFree → stops (.vcvt d a 13 0 m z))) ∧
    (Starts (.vsplit d a m z) s →
      (VerdictFree s act a → ∃ u, Completes (.vsplit d a m z) s u ∧
        (∀ k, k < 1024 →
          let put (r : BitVec 5) (n : Nat) : Prop :=
            lane u r k = if act.getLsbD k then BitVec.ofNat 32 n else if z = 1 then 0 else lane s r k
          put d (split3 (x k)).1 ∧ put (d + 1) (split3 (x k)).2.1 ∧ put (d + 2) (split3 (x k)).2.2.1) ∧
        (∀ r, r ≠ d → r ≠ d + 1 → r ≠ d + 2 → vreg u.core.ctx r = vreg s.core.ctx r) ∧
        u = modCtx s fun c => { c with
          v := u.core.ctx.v, vmode := (maskFlags act fun k => (split3 (x k)).2.2.2).apply c.vmode }) ∧
      (¬ VerdictFree s act a → stops (.vsplit d a m z))) ∧
    (Starts (.vpack d a t m z) s →
      (VerdictFree s (BitVec.allOnes 1024) a → LaneWise (.vpack d a t m z) s d act z fun k =>
        (BitVec.ofNat 32 (if k % 64 < 64 / (32 / w) then
          ((List.range (32 / w)).map fun j => x (k / 64 * 64 + 32 / w * (k % 64) + j) % 2 ^ w * 2 ^ (w * j)).sum else 0), {})) ∧
      (∀ k j, k < 1024 → act.getLsbD k = true → k % 64 < 64 / (32 / w) → j < 32 / w →
        verdictAt (k / 64 * 64 + 32 / w * (k % 64) + j) → stops (.vpack d a t m z))) ∧
    (Starts (.vunpk d a t m z) s →
      (VerdictFree s (BitVec.allOnes 1024) a → LaneWise (.vunpk d a t m z) s d act z fun k =>
        (BitVec.ofNat 32 (x (k / 64 * 64 + k % 64 / (32 / w)) / 2 ^ (w * (k % 64 % (32 / w))) % 2 ^ w), {})) ∧
      (∀ k, k < 1024 → act.getLsbD k = true → verdictAt (k / 64 * 64 + k % 64 / (32 / w)) → stops (.vunpk d a t m z))) ∧
    (Starts (.vsfu d a f m z) s →
      (¬ VerdictFree s act a → stops (.vsfu d a f m z)) ∧
      (VerdictFree s act a →
        let inf (n : Bool) : BitVec 32 := if n then 0xFF800000 else 0x7F800000
        let zero (n : Bool) : BitVec 32 := if n then 0x80000000 else 0
        let one (n : Bool) : BitVec 32 := if n then 0xBF800000 else 0x3F800000
        let bad : BitVec 32 × Fl := (0x7FC00000, { nv := true })
        let fits (o : BitVec 32 × Fl) (r : Ref) (acc : Accuracy) : Prop :=
          if (2 ^ 128 - 2 ^ 104) * (ratScale r.n r.d r.e).2 < (ratScale r.n r.d r.e).1 then o = (inf r.neg, { ovf := true })
          else ∃ v : BitVec 32, within r acc v.toNat = true ∧
            o = if ftz && FFmt.f32.subnormal v.toNat then (BitVec.ofNat 32 (v.toNat / 2 ^ 31 * 2 ^ 31), { uf := true }) else (v, {})
        ∃ r : Nat → BitVec 32 × Fl, LaneWise (.vsfu d a f m z) s d act z r ∧ ∀ k,
          match FFmt.f32.val (FFmt.f32.flushSrc ftz (x k)) with
          | .nan => r k = (0x7FC00000, { nv := FFmt.f32.snan (x k) })
          | .inf n =>
            (f = 0 → r k = (zero n, {})) ∧ (f = 1 → r k = if n then bad else (0, {})) ∧
            (f = 2 ∨ f = 4 → r k = if n then bad else (inf false, {})) ∧
            (f = 3 → r k = if n then (0, {}) else (inf false, {})) ∧ (f = 5 ∨ f = 6 → r k = bad) ∧
            (f = 7 → r k = (one n, {})) ∧ (f = 8 → r k = if n then (0, {}) else (one false, {}))
          | .fin n mm e =>
            let log : Int := ratLog2 mm 1 + e
            let far : Nat := if log < 15 ∨ (2 ^ mm.log2 = mm ∧ log = 15) then 22 else 10
            (mm = 0 →
              (f = 0 ∨ f = 1 → r k = (inf n, { dz := true })) ∧ (f = 2 → r k = (zero n, {})) ∧
              (f = 4 → r k = (inf true, { dz := true })) ∧ (f = 3 → fits (r k) .one (.ulp 2)) ∧
              (f = 5 → fits (r k) (.zero n) (.abs far)) ∧ (f = 6 → fits (r k) .one (.abs far)) ∧
              (f = 7 → fits (r k) (.zero n) (.ulp 2)) ∧ (f = 8 → fits (r k) ⟨false, 1, 2, 0⟩ (.abs 24))) ∧
            (mm ≠ 0 →
              (f = 0 → fits (r k) ⟨n, 1, mm, -e⟩ (.ulp 1)) ∧
              (n = true → f = 1 ∨ f = 2 ∨ f = 4 → r k = bad) ∧
              (n = false → f = 1 → fits (r k) (refRsqrt mm e) (.ulp 1)) ∧
              (n = false → f = 2 → (r k).2 = {} ∧ ∃ q eq, FFmt.f32.val (r k).1.toNat = .fin false q eq ∧
                cmpV (.fin false ((2 * q - 1) ^ 2) (2 * eq - 2)) (.fin false mm e) < 0 ∧
                cmpV (.fin false mm e) (.fin false ((2 * q + 1) ^ 2) (2 * eq - 2)) < 0) ∧
              (f = 3 → if n = false ∧ 7 ≤ log then r k = (inf false, { ovf := true })
                else fits (r k) (refExp2 n mm e) (.ulp 2)) ∧
              (n = false → f = 4 → if 2 ^ mm.log2 = mm
                then (r k).2 = {} ∧ cmpV (FFmt.f32.val (r k).1.toNat) (Val.ofInt (mm.log2 + e)) = 0
                else fits (r k) (refLog2 mm e) (.ulp 2)) ∧
              (f = 5 → fits (r k) (refTrig false n mm e) (.abs far)) ∧ (f = 6 → fits (r k) (refTrig true n mm e) (.abs far)) ∧
              (f = 7 → fits (r k) (refTanh n mm e) (.ulp 2)) ∧ (f = 8 → fits (r k) (refSigm n mm e) (.abs 24)))))

/-- With nothing before it in the vector queue and not left for later: VROTR and VROTC rotate a row or a column by s(b), VBCR and
VBCC copy one element to all; VREDR, VREDC, VSCANR and VSCANC of integers give each row or column with an active lane its sum,
or each prefix's sum for a scan, modulo 2^32, and of floats (a NaN read as the default one, a subnormal as zero under FTZ) the
tree or linear order of R44; VREDR.c and VREDC.c write the pair of R45 to d and d+1. On floats and in VREDR.c and VREDC.c a
verdict word in any lane of a row or column that has an active lane traps with verdict operand. -/
def Obligations.AxisMembersComplete : Prop :=
  ∀ (s : State) (d a b : BitVec 5) (ty op : BitVec 2) (m : BitVec 3) (z : BitVec 1),
    let act := mreg s.core.ctx m
    let n := (sreg s b).toNat
    let x (k : Nat) : Nat := (lane s a k).toNat
    let moves (i : Instr) (from_ : Nat → Nat) : Prop := Starts i s → LaneWise i s d act z fun k => (lane s a (from_ k), {})
    let o : VOps := ⟨0, 0, s.core.ctx.vmode, Handle.invalid, 0⟩
    let raw (ax : Axis) (g : Nat) : List Nat := (List.range ax.len).map fun p => x (ax.lane g p)
    let src (v : Nat) : Nat := if ty ≠ 0 then v else if (FFmt.f32.val v).isNan then 0x7FC00000
      else FFmt.f32.flushSrc (s.core.ctx.vmode.getLsbD 2) v
    let vals (ax : Axis) (g : Nat) : List Nat := (raw ax g).map src
    let quiet (ax : Axis) : Prop := ∀ k j, k < 1024 → j < 1024 → act.getLsbD k = true → ax.group k = ax.group j →
      isVerdict (lane s a j) = false
    let reduces (i : Instr) (ax : Axis) (scan : Bool) : Prop :=
      Starts i s →
      (ty = 0 → ¬ quiet ax → TrapsCounted i s (Trap.of .verdictOperand)) ∧
      ((ty = 0 → quiet ax) → ∃ u, Completes i s u ∧
        (∀ k, k < 1024 → lane u d k = if act.getLsbD k then
            BitVec.ofNat 32 (if scan then (axisScan ax (axisOp o ty op) 0 (vals ax (ax.group k))).1.getD (ax.place k) 0
              else (axisReduce ax (axisOp o ty op) 0 (vals ax (ax.group k))).1)
          else if z = 1 then 0 else lane s d k) ∧
        (ty ≠ 0 → op = 0 → ∀ k, k < 1024 → act.getLsbD k = true →
          lane u d k = BitVec.ofNat 32 (if scan then ((vals ax (ax.group k)).take (ax.place k + 1)).sum
            else (vals ax (ax.group k)).sum)) ∧
        (∀ r, r ≠ d → vreg u.core.ctx r = vreg s.core.ctx r) ∧
        u = modCtx s (fun c => { c with v := u.core.ctx.v, vmode := u.core.ctx.vmode }) ∧
        (ty ≠ 0 → u.core.ctx.vmode = s.core.ctx.vmode))
    let pair (i : Instr) (ax : Axis) : Prop :=
      Starts i s →
      (¬ quiet ax → TrapsCounted i s (Trap.of .verdictOperand)) ∧
      (quiet ax → ∃ u, Completes i s u ∧
        (∀ k, k < 1024 → act.getLsbD k = true →
          let r := (axisReduce ax (pairAdd (s.core.ctx.vmode.getLsbD 2)) (0, 0)
            ((raw ax (ax.group k)).map fun v => (FFmt.f32.flushSrc (s.core.ctx.vmode.getLsbD 2) v, 0))).1
          lane u d k = BitVec.ofNat 32 r.1 ∧ lane u (d + 1) k = BitVec.ofNat 32 r.2) ∧
        (∀ r, r ≠ d → r ≠ d + 1 → vreg u.core.ctx r = vreg s.core.ctx r) ∧
        u = modCtx s fun c => { c with v := u.core.ctx.v, vmode := u.core.ctx.vmode })
    moves (.vrotr d a b m z) (fun k => k / 64 * 64 + (k % 64 + 64 - n % 64) % 64) ∧
    moves (.vbcr d a b m z) (fun k => k / 64 * 64 + n % 64) ∧
    moves (.vrotc d a b m z) (fun k => (k / 64 + 16 - n % 16) % 16 * 64 + k % 64) ∧
    moves (.vbcc d a b m z) (fun k => n % 16 * 64 + k % 64) ∧
    reduces (.vredr d a ty op m z) .row false ∧ reduces (.vscanr d a ty op m z) .row true ∧
    reduces (.vredc d a ty op m z) .col false ∧ reduces (.vscanc d a ty op m z) .col true ∧
    pair (.vredrC d a m z) .row ∧ pair (.vredcC d a m z) .col

/-- With nothing before it in the vector queue and not left for later: VPERM takes lane b(i) mod 1024 of a, VMOV the lane itself,
VIOTA s(a) + i; VSEL picks by the mask in every lane; VINS replaces one lane and VEXT reads one into a scalar register. MAND,
MOR, MXOR and MNOT write a mask bit by bit (never m0), MPOPC counts one bits, and MTEST writes whether two masks share a bit
(never p0). Nothing else changes but the sequencer. -/
def Obligations.PermutesAndMasksComplete : Prop :=
  ∀ (s : State) (d a b : BitVec 5) (m p q r : BitVec 3) (z : BitVec 1), s.core.ctx.vq = [] → s.later = false →
    let act := mreg s.core.ctx m
    let c := s.core.ctx
    let onMask (i : Instr) (f : Nat → Bool) : Prop :=
      ∃ u, Completes i s u ∧ (p ≠ 0 → ∀ k, k < 1024 → (mreg u.core.ctx p).getLsbD k = f k) ∧
        (∀ t, t ≠ p → mreg u.core.ctx t = mreg c t) ∧ u = modCtx s fun c => { c with m := u.core.ctx.m }
    LaneWise (.vperm d a b m z) s d act z (fun k => (lane s a ((lane s b k).toNat % 1024), {})) ∧
    LaneWise (.vmov d a m z) s d act z (fun k => (lane s a k, {})) ∧
    LaneWise (.viota d a m z) s d act z (fun k => (BitVec.ofNat 32 ((sreg s a).toNat + k), {})) ∧
    LaneWise (.vsel d a b m) s d (BitVec.allOnes 1024) 0 (fun k => (if act.getLsbD k then lane s a k else lane s b k, {})) ∧
    (∃ u, Completes (.vins d a b) s u ∧
      (∀ k, k < 1024 → lane u d k = if k = (sreg s b).toNat % 1024 then (sreg s a).setWidth 32 else lane s d k) ∧
      (∀ t, t ≠ d → vreg u.core.ctx t = vreg c t) ∧ u = modCtx s fun c => { c with v := u.core.ctx.v }) ∧
    Completes (.vext d a b) s (setS s d ((lane s a ((sreg s b).toNat % 1024)).setWidth 64)) ∧
    onMask (.mand p q r) (fun k => (mreg c q).getLsbD k && (mreg c r).getLsbD k) ∧
    onMask (.mor p q r) (fun k => (mreg c q).getLsbD k || (mreg c r).getLsbD k) ∧
    onMask (.mxor p q r) (fun k => xor ((mreg c q).getLsbD k) ((mreg c r).getLsbD k)) ∧
    onMask (.mnot p q) (fun k => !(mreg c q).getLsbD k) ∧
    Completes (.mpopc d q) s (setS s d (BitVec.ofNat 64 ((List.range 1024).countP fun k => (mreg c q).getLsbD k))) ∧
    Completes (.mtest p q r) s (setP s p ((List.range 1024).any fun k => (mreg c q).getLsbD k && (mreg c r).getLsbD k))

/-- With nothing before it in the vector queue and not left for later: VLD of a sound footprint at s + 64 x off widens each
element of the bank's format into its lane; VST writes each row, narrowed, into its footprint at the bytes' stored places, a
later row over an earlier one where rows overlap, and changes no other scratchpad byte (but, in guard mode, the guard bank);
VLDG through a valid handle whose page holds every active element, resident and readable, reads each active lane's element and
clears its flag mask, and waits in the vector queue as a whole where its order holds it; VSTG appends the active lanes' bytes
at their physical addresses to the store queue; through an invalid handle VLDG gives its active lanes zero, VSTG stores
nothing, and each raises the flags of its active lanes; VPOP takes the next 1,024 elements of an active input feed; VPUSH
appends its active lanes to an active output feed that has room (4,096 elements: log entry 11, the model's choice), and waits
for room. VLD and VST trap for the offset, the W buffer, the footprint and the banks' formats, VLD for a storage error, VST
into a narrow format for a verdict word; VLDG and VSTG for the first misaligned lane (TADDR its offset alone through an
invalid handle: log entry 33) and then for the first lane beyond two pages or without its right; VPOP and VPUSH for an unfit
feed, and VPUSH into a narrow format for a verdict word. -/
def Obligations.VectorMemoryMembersComplete : Prop :=
  ∀ (s : State) (v i : BitVec 5) (b : BitVec 2) (r : BitVec 5) (off : BitVec 13) (h : BitVec 4) (m rf n : BitVec 3) (z : BitVec 2)
    (y : BitVec 1),
    let k := s.core
    let c := s.core.ctx
    let act := mreg c m
    let addr := (sreg s r).toNat + 64 * off.toNat
    let f := footOf k b addr
    let H := hreg s h
    let size := 2 ^ z.toNat
    let at_ (j : Nat) : Nat := (lane s i j).toNat
    let live : List Nat := (List.range 1024).filter fun j => act.getLsbD j
    let F := feedOf k n
    let footTraps (i : Instr) (store : Bool) : Prop := Starts i s → b ≠ 3 →
      (addr % 64 ≠ 0 → TrapsCounted i s (Trap.at .misalignedAccess (spAddr b addr))) ∧
      (addr % 64 = 0 → store = true → b = 0 → TrapsCounted i s (Trap.at .bufferAccess (spAddr b addr))) ∧
      (addr % 64 = 0 → ¬ (store = true ∧ b = 0) →
        (bufSize k b < addr + f.len → TrapsCounted i s (Trap.at .scratchpadRange (spAddr b (bufSize k b)))) ∧
        ∀ o, addr + f.len ≤ bufSize k b → otherBank k b addr f.len = some o → TrapsCounted i s (Trap.at .bankFormat (spAddr b o)))
    let elementTraps (i : Instr) (store : Bool) : Prop := Starts i s → z ≠ 3 →
      let right := if store then H.w else H.r
      let record (j : Nat) : Bool := store && inWindowRecord s (H.base + at_ j) size
      (∀ j ∈ live, (∀ q ∈ live, q < j → at_ q % size = 0) → at_ j % size ≠ 0 →
        TrapsCounted i s (Trap.at .misalignedAccess (if H.valid then H.vbase + at_ j else at_ j))) ∧
      ((∀ j ∈ live, at_ j % size = 0) → H.valid = true → ∀ j ∈ live,
        (∀ q ∈ live, q < j → at_ q < H.pageSize ∧ right = true ∧ record q = false) →
        (2 * H.pageSize ≤ at_ j → TrapsCounted i s (Trap.at .handleRange (H.vbase + at_ j))) ∧
        (at_ j < H.pageSize →
          (right = false ∨ (H.res = true ∧ pathUp s (H.base + at_ j) = true ∧ record j = true)) →
          TrapsCounted i s (Trap.at .permission (H.vbase + at_ j))))
    footTraps (.vld v b r off) false ∧ footTraps (.vst v b r off) true ∧
    elementTraps (.vldg v h i m rf z) false ∧ elementTraps (.vstg v h i m rf z) true ∧
    (Starts (.vld v b r off) s → footCheck k b addr false = .ok f → mustWait k [⟨b, addr, addr + f.len⟩] [] = false →
      ∀ w, footBad k b addr f = some w → TrapsCounted (.vld v b r off) s (Trap.at .storageError (spAddr b w))) ∧
    (Starts (.vst v b r off) s → footCheck k b addr true = .ok f → mustWait k [] [⟨b, addr, addr + f.len⟩] = false →
      narrowing f.fmt = true → ¬ VerdictFree s (BitVec.allOnes 1024) v →
      TrapsCounted (.vst v b r off) s (Trap.of .verdictOperand)) ∧
    (Starts (.vpop v n m y) s → feedFit F false = false → TrapsCounted (.vpop v n m y) s (Trap.of .feedState)) ∧
    (Starts (.vpush v n m) s →
      (feedFit F true = false → TrapsCounted (.vpush v n m) s (Trap.of .feedState)) ∧
      (feedFit F true = true → feedRoom < F.out.length + 1024 ∨ feedLen F < F.done + 1024 → Waits (.vpush v n m) s) ∧
      (feedFit F true = true → F.out.length + 1024 ≤ feedRoom → F.done + 1024 ≤ feedLen F → narrowing (feedFmt F) = true →
        ¬ VerdictFree s act v → TrapsCounted (.vpush v n m) s (Trap.of .verdictOperand))) ∧
    (H.valid = false → z ≠ 3 → (∀ j ∈ live, at_ j % size = 0) →
      (Starts (.vldg v h i m rf z) s → ∃ u, Completes (.vldg v h i m rf z) s u ∧
        (∀ j, j < 1024 → lane u v j = if act.getLsbD j then 0 else lane s v j) ∧ (rf ≠ 0 → mreg u.core.ctx rf = act) ∧
        (∀ t, t ≠ v → vreg u.core.ctx t = vreg c t) ∧ (∀ q, q ≠ rf → mreg u.core.ctx q = mreg c q) ∧
        u = modCtx s fun c => { c with v := u.core.ctx.v, m := u.core.ctx.m }) ∧
      (Starts (.vstg v h i m rf z) s → ∃ u, Completes (.vstg v h i m rf z) s u ∧ (rf ≠ 0 → mreg u.core.ctx rf = act) ∧
        (∀ q, q ≠ rf → mreg u.core.ctx q = mreg c q) ∧ u = modCtx s fun c => { c with m := u.core.ctx.m })) ∧
    (Starts (.vld v b r off) s → footCheck k b addr false = .ok f → mustWait k [⟨b, addr, addr + f.len⟩] [] = false →
      k.bad = [] → k.failedBanks = [] → k.soft = [] →
      ∃ u, Completes (.vld v b r off) s u ∧
        (∀ j, j < 1024 → lane u v j =
          widenElt f.fmt (leNat (spRead k b (addr + j / 64 * f.pitch) (rowBytes f.fmt)) / 2 ^ (j % 64 * codeWidth f.fmt) %
            2 ^ codeWidth f.fmt)) ∧
        (∀ t, t ≠ v → vreg u.core.ctx t = vreg c t) ∧ u = modCtx s fun c => { c with v := u.core.ctx.v }) ∧
    (Starts (.vst v b r off) s → footCheck k b addr true = .ok f → mustWait k [] [⟨b, addr, addr + f.len⟩] = false →
      (narrowing f.fmt = true → VerdictFree s (BitVec.allOnes 1024) v) →
      ∃ u, Completes (.vst v b r off) s u ∧
        (∀ x, (∀ q j, q < 16 → j < rowBytes f.fmt → x ≠ stored k b (addr + q * f.pitch + j)) →
          (k.guardMode = true → x < 0x8000 * (bufBanks b - 1)) → spByte u.core b x = spByte k b x) ∧
        (∀ q j, q < 16 → j < rowBytes f.fmt →
          (∀ q' j', q < q' → q' < 16 → j' < rowBytes f.fmt → addr + q' * f.pitch + j' ≠ addr + q * f.pitch + j) →
          spByte u.core b (stored k b (addr + q * f.pitch + j)) =
            (narrowRow ⟨0, 0, c.vmode, Handle.invalid, 0⟩ f (vreg c v) q).getD j 0) ∧
        (∀ b' x, b' ≠ 3 → b' ≠ b → spByte u.core b' x = spByte k b' x) ∧
        u = { s with core := { k with
          w := u.core.w, a := u.core.a, c := u.core.c, bad := u.core.bad, soft := u.core.soft
          ctx := { c with vmode := u.core.ctx.vmode } } }) ∧
    (Starts (.vldg v h i m rf z) s → H.valid = true → H.r = true → H.res = true → s.bindings = [] → s.badLines = [] →
      c.accessQ = [] → s.reds = [] → z ≠ 3 →
      (∀ j ∈ live, at_ j % size = 0 ∧ at_ j < H.pageSize ∧ pathUp s (H.base + at_ j) = true ∧ tierOf s ((H.base + at_ j) / 64 * 64) = 0) →
      ∃ u, Completes (.vldg v h i m rf z) s u ∧
        (∀ j, j < 1024 → lane u v j = if act.getLsbD j then BitVec.ofNat 32 (leNat (rdBytes s k.die (H.base + at_ j) size))
          else lane s v j) ∧
        (rf ≠ 0 → mreg u.core.ctx rf = 0) ∧ (∀ t, t ≠ v → vreg u.core.ctx t = vreg c t) ∧
        u = { modCtx s (fun c => { c with v := u.core.ctx.v, m := u.core.ctx.m }) with copies := u.copies }) ∧
    (Starts (.vldg v h i m rf z) s → H.valid = true → H.r = true → H.res = true → z ≠ 3 →
      (∀ j ∈ live, at_ j % size = 0 ∧ at_ j < H.pageSize ∧ pathUp s (H.base + at_ j) = true) →
      loadFinds s c.accessQ (live.map fun j => (H.vbase + at_ j, H.base + at_ j, size)) = .wait →
      Completes (.vldg v h i m rf z) s (modCore s fun k => { k with
        seq := k.seq + 1
        ctx := { c with vq := [.instr (.vldg v h i m rf z) ⟨0, 0, c.vmode, H, k.seq⟩ (snapOf c)] } })) ∧
    (Starts (.vstg v h i m rf z) s → H.valid = true → H.w = true → H.res = true → s.windows = [] → z ≠ 3 → live ≠ [] →
      (∀ j ∈ live, at_ j % size = 0 ∧ at_ j < H.pageSize ∧ pathUp s (H.base + at_ j) = true) →
      ∃ u lines, Completes (.vstg v h i m rf z) s u ∧
        u.core.ctx.accessQ = c.accessQ ++ [⟨k.seq, .write (live.flatMap fun j => (List.range size).map fun q =>
          (canonPa s (H.base + at_ j) + q, (lane s v j).extractLsb' (8 * q) 8)) lines⟩] ∧
        (∀ l, l ∈ lines ↔ ∃ j ∈ live, l = ((H.vbase + at_ j) / 64 * 64, (H.base + at_ j) / 64 * 64)) ∧
        (rf ≠ 0 → mreg u.core.ctx rf = 0) ∧ u.core.ctx.v = c.v ∧ u.core.ctx.s = c.s) ∧
    (Starts (.vpop v n m y) s → feedFit F false = true → 1024 ≤ F.ahead.length →
      ∃ u, Completes (.vpop v n m y) s u ∧
        (∀ j, j < 1024 → lane u v j = if act.getLsbD j then widenElt (feedFmt F) (F.ahead.getD j 0).toNat
          else if y = 1 then 0 else lane s v j) ∧
        (feedOf u.core n).ahead = F.ahead.drop 1024 ∧ (∀ t, t ≠ n → feedOf u.core t = feedOf k t) ∧
        (∀ t, t ≠ v → vreg u.core.ctx t = vreg c t)) ∧
    (Starts (.vpush v n m) s → feedFit F true = true → (narrowing (feedFmt F) = true → VerdictFree s act v) → F.out.length + 1024 ≤ feedRoom →
      F.done + 1024 ≤ feedLen F →
      ∃ u, Completes (.vpush v n m) s u ∧
        (feedOf u.core n).out = F.out ++ live.map (fun j => (F.done + j,
          BitVec.ofNat 32 (narrowElt ⟨0, 0, c.vmode, Handle.invalid, 0⟩ (F.image.getLsbD 13) (feedFmt F) (lane s v j).toNat).1)) ∧
        (∀ t, t ≠ n → feedOf u.core t = feedOf k t) ∧ u.core.ctx.v = c.v)

/-- When fewer than sixteen instructions stand in the vector queue, and some entry stands there or the instruction is left for
later, VADD, VROTR, MAND, VDACC and a VPOP whose elements are there enter it at its end with the scalar operands and VMODE of
issue and what a trap returns to, and the sequencer moves on; with sixteen there they wait. VECTOR_INSTRUCTION_START runs the
head of the queue: VADD leaves the lanes it would have written at issue and leaves the queue; with a verdict word in an active
source lane it traps at its own address, and the context's scalar registers, predicates, loops and handles are those of its
issue, its vector queue is empty. -/
def Obligations.VectorQueueKeepsOrder : Prop :=
  ∀ (s : State) (d a b : BitVec 5) (m : BitVec 3) (z : BitVec 1) (n p q : BitVec 3) (rest : List VecEntry),
    let c := s.core.ctx
    let ops (x y : BitVec 5) : VOps := ⟨sreg s x, sreg s y, c.vmode, Handle.invalid, s.core.seq⟩
    let F := feedOf s.core n
    let enters (i : Instr) (o : VOps) : Prop :=
      (c.vq ≠ [] ∨ s.later = true → vecQueued c < 16 →
        Completes i s (modCore s fun k => { k with
          seq := k.seq + 1
          ctx := { c with vq := c.vq ++
            [.instr i o ⟨c.pc, c.ir, c.s, c.p, c.lc, c.loops, c.h, c.staging, c.vmode, c.perf⟩] } })) ∧
      (c.vq ≠ [] → 16 ≤ vecQueued c → Waits i s)
    enters (.vadd d a b m z) (ops 0 0) ∧ enters (.mand n p q) (ops 0 0) ∧ enters (.vdacc d a b) (ops 0 0) ∧
    enters (.vrotr d a b m z) (ops 0 b) ∧
    ((feedFit F false = true → popReady s n = true) →
      enters (.vpop d n m z) { ops 0 0 with sa := if feedFit F false then 1 else 0 }) ∧
    (feedFit F false = true → popReady s n = false → Waits (.vpop d n m z) s) ∧
    ∀ (o : VOps) (x : Snap), c.vq = .instr (.vadd d a b m z) o x :: rest →
      (VerdictFree s (mreg c m) a → VerdictFree s (mreg c m) b →
        ∃ t, Happens .vectorInstructionStart s t ∧ t.core.ctx.vq.length = rest.length ∧ t.core.ctx.pc = c.pc ∧
          t.core.ctx.s = c.s ∧ t.mem = s.mem ∧
          ∀ k, k < 1024 → lane t d k = if (mreg c m).getLsbD k then
              BitVec.ofNat 32 (fAdd .f32 ⟨RMode.ofBits (o.vmode.extractLsb' 0 2), false, o.vmode.getLsbD 2⟩
                (lane s a k).toNat (lane s b k).toNat).1
            else if z = 1 then 0 else lane s d k) ∧
      ((¬ VerdictFree s (mreg c m) a ∨ ¬ VerdictFree s (mreg c m) b) → c.inTrap = false → c.handler ≠ 0 →
        ∃ t, Happens .vectorInstructionStart s t ∧ t.core.ctx.pc = c.handler ∧ t.core.ctx.inTrap = true ∧
          t.core.ctx.tpc = x.pc ∧ t.core.ctx.tword = x.ir.setWidth 64 ∧
          t.core.ctx.tcause = BitVec.ofNat 64 Cause.verdictOperand.code ∧ t.core.ctx.s = x.s ∧ t.core.ctx.p = x.p ∧
          t.core.ctx.lc = x.lc ∧ t.core.ctx.loops = x.loops ∧ t.core.ctx.h = x.h ∧ t.core.ctx.vq = [] ∧
          t.core.ctx.v = c.v ∧ t.mem = s.mem)

/-- With nothing before it in the vector queue and not left for later. VDOPEN of kinds 0 to 2 and 3 with legal operands opens the
monitor with its fields taken from them (for kind 3, T and TIDX from entry k - 1 of the list) and clears row 0 of v(d). VDACC
on the open set with a chunk still to come and no trapping term replaces each live column by its new running sum or by its
verdict word, leaves every fixed column and the other rows, and counts the chunk; otherwise it traps, with the cause of its
first live column's term where it is a term that fails. VDTHR takes the tighter threshold, with its index for kind 3. VDCLOSE
closes the set: live columns of kinds 0 to 2 become verdict words with the predicate's value, those of kind 3 keep their sum.
VDOPEN on an open monitor or with illegal operands, VDTHR on a closed or locked monitor, of kind 0 or with a reserved bit, and
VDCLOSE of another register, on a closed monitor or with chunks to come and a live column trap with cause verdict state. -/
def Obligations.VerdictMonitorComplete : Prop :=
  ∀ (s : State) (d a b : BitVec 5), s.core.ctx.vq = [] → s.later = false →
    let c := s.core.ctx
    let M := c.monitor
    let A := sreg s a
    let B := sreg s b
    let kind := B.extractLsb' 48 2
    let q := FFmt.f32.val (B.extractLsb' 0 32).toNat
    let list := A.extractLsb' 8 5
    let km1 := (A.extractLsb' 0 6).toNat
    let t : BitVec 32 := if kind = 3 then lane s list km1 else A.extractLsb' 0 32
    let opens (mon : Monitor) : Prop :=
      mon.isOpen = true ∧ mon.kind = kind ∧ mon.nonneg = B.getLsbD 50 ∧ mon.lock = B.getLsbD 51 ∧ mon.d = d ∧
        mon.q = B.extractLsb' 0 32 ∧ mon.t = t ∧ mon.nc = (B.extractLsb' 32 16).toNat + 1 ∧ mon.j = 0 ∧
        (kind = 3 → mon.list = list ∧ mon.km1 = A.extractLsb' 0 6 ∧ mon.tidx = lane s list (64 + km1))
    let shape (u : State) : Prop :=
      (∀ r, r ≠ d → vreg u.core.ctx r = vreg c r) ∧
        u = modCtx s fun c => { c with v := u.core.ctx.v, monitor := u.core.ctx.monitor }
    let live (k : Nat) : Prop := k < 64 ∧ isVerdict (lane s d k) = false
    let legal : Prop := B.extractLsb' 52 12 = 0 ∧ q.isFin = true ∧ ltV q (.fin false 0 0) = false ∧
      (FFmt.f32.val t.toNat).isNan = false ∧ (kind = 0 → A = 0) ∧ (kind ≠ 3 → A.extractLsb' 32 32 = 0) ∧
      (kind = 3 → A &&& ~~~0x1F3F = 0 ∧ B.getLsbD 51 = false ∧ list ≠ d)
    (M.isOpen = false → legal →
      ∃ u, Completes (.vdopen d a b) s u ∧ opens u.core.ctx.monitor ∧ shape u ∧
        ∀ k, k < 1024 → lane u d k = if k < 64 then 0 else lane s d k) ∧
    (M.isOpen = true ∨ ¬ legal → TrapsCounted (.vdopen d a b) s (Trap.of .verdictState)) ∧
    (M.isOpen = true → d = M.d → M.j < M.nc → a ≠ d → b ≠ d →
      (∀ k, live k → vdTermTrap M.nonneg (vreg c a) k = none) →
      ∃ u, Completes (.vdacc d a b) s u ∧ u.core.ctx.monitor = { M with j := M.j + 1 } ∧ shape u ∧
        (∀ k, live k → lane u d k = vdStep M (vreg c d) (vreg c a) (vreg c b) k) ∧
        ∀ k, k < 1024 → ¬ live k → lane u d k = lane s d k) ∧
    (M.isOpen = false ∨ d ≠ M.d ∨ M.nc ≤ M.j ∨ a = d ∨ b = d → TrapsCounted (.vdacc d a b) s (Trap.of .verdictState)) ∧
    (∀ k e, M.isOpen = true → d = M.d → M.j < M.nc → a ≠ d → b ≠ d → live k → vdTermTrap M.nonneg (vreg c a) k = some e →
      (∀ j, j < k → live j → vdTermTrap M.nonneg (vreg c a) j = none) → TrapsCounted (.vdacc d a b) s (Trap.of e)) ∧
    (M.isOpen = true → M.kind ≠ 0 → M.lock = false → (M.kind ≠ 3 → A.extractLsb' 32 32 = 0) →
      let x := FFmt.f32.val (A.extractLsb' 0 32).toNat
      let T := FFmt.f32.val M.t.toNat
      let better : Bool := if M.kind = 1 then ltV T x else if M.kind = 2 then ltV x T
        else ltV x T || (!x.isNan && !T.isNan && decide (cmpV x T = 0) && decide ((A.extractLsb' 32 32).toNat < M.tidx.toNat))
      ∃ mon, Completes (.vdthr a) s (modCtx s fun c => { c with monitor := mon }) ∧
        (better = false → mon = M) ∧ (better = true → mon.t = A.extractLsb' 0 32 ∧
          mon.tidx = (if M.kind = 3 then A.extractLsb' 32 32 else M.tidx) ∧ { mon with t := M.t, tidx := M.tidx } = M)) ∧
    (M.isOpen = false ∨ M.kind = 0 ∨ M.lock = true ∨ (M.kind ≠ 3 ∧ A.extractLsb' 32 32 ≠ 0) →
      TrapsCounted (.vdthr a) s (Trap.of .verdictState)) ∧
    (M.isOpen = true → d = M.d → (M.nc ≤ M.j ∨ ∀ k, ¬ live k) →
      ∃ u, Completes (.vdclose d) s u ∧ u.core.ctx.monitor = Monitor.closed ∧ shape u ∧
        (∀ k, live k → M.kind ≠ 3 → lane u d k =
          mkVerdict (vdPredicate M.kind.toNat (FFmt.f32.val (lane s d k).toNat) (FFmt.f32.val M.t.toNat)) M.kind M.nc) ∧
        ∀ k, k < 1024 → (¬ live k ∨ M.kind = 3) → lane u d k = lane s d k) ∧
    (M.isOpen = false ∨ d ≠ M.d ∨ (M.j < M.nc ∧ ∃ k, live k) → TrapsCounted (.vdclose d) s (Trap.of .verdictState))

/-- With nothing before it in the vector queue and not left for later, and no active lane a verdict word of an unassigned kind,
VDTEST writes whether a lane is a verdict word whose verdict is true, and VDTEST.any whether it is one at all. TOPKI with
legal operands leaves the first k of the old entries and the candidates in order of value and index, sets T and TIDX of a
running top-k set on that list to the entry k-1, but for a threshold that is earlier already (log entry 119, DEDUCED from
R322), and changes no other lane. A verdict word of a reserved kind traps with verdict operand in either test; TOPKI traps
with verdict state for a reserved bit of s(b), for d = a, and for a k that is not its running set's, and with verdict operand
for a candidate that is a verdict word other than an abandonment by a top-k; BSCORE traps with illegal instruction for an
operand out of range, else as the scorer's checks say. BSCORE with room in the gather queue and operands that pass the
scorer's checks enters a command made of its template with FIRST, NKM1 and THR taken from its operands. -/
def Obligations.VerdictTestsAndListsComplete : Prop :=
  ∀ (s : State) (d a b : BitVec 5) (p m : BitVec 3) (z : BitVec 1),
    let c := s.core.ctx
    let act := mreg c m
    let B := sreg s b
    let k := (B.extractLsb' 32 6).toNat + 1
    let tests (i : Instr) (f : BitVec 32 → Bool) : Prop :=
      Starts i s → (∀ j, j < 1024 → act.getLsbD j = true → isVerdict (lane s a j) = true → ((lane s a j).extractLsb' 16 5).toNat ≤ 3) →
      ∃ u, Completes i s u ∧ (p ≠ 0 → ∀ j, j < 1024 → (mreg u.core.ctx p).getLsbD j =
          if act.getLsbD j then isVerdict (lane s a j) && f (lane s a j) else decide (z = 0) && (mreg c p).getLsbD j) ∧
        (∀ t, t ≠ p → mreg u.core.ctx t = mreg c t) ∧ u = modCtx s fun c => { c with m := u.core.ctx.m }
    let old := ((List.range k).map fun e => (lane s d e, lane s d (64 + e))).filter fun e => !(FFmt.f32.val e.1.toNat).isNan
    let sync : Bool := c.monitor.isOpen && c.monitor.kind == 3 && c.monitor.list == d
    let reserved (i : Instr) : Prop := Starts i s →
      ∀ j, j < 1024 → act.getLsbD j = true → isVerdict (lane s a j) = true → 3 < ((lane s a j).extractLsb' 16 5).toNat →
      TrapsCounted i s (Trap.of .verdictOperand)
    tests (.vdtest p a m z) (fun w => w.getLsbD 31) ∧ tests (.vdtestAny p a m z) (fun _ => true) ∧
    reserved (.vdtest p a m z) ∧ reserved (.vdtestAny p a m z) ∧
    (Starts (.topki d a b m) s →
      (B.extractLsb' 38 26 ≠ 0 ∨ d = a → TrapsCounted (.topki d a b m) s (Trap.of .verdictState)) ∧
      (B.extractLsb' 38 26 = 0 → d ≠ a →
        (∀ j, j < 64 → act.getLsbD j = true → isVerdict (lane s a j) = true →
          ¬ ((lane s a j).extractLsb' 16 5 = 3 ∧ (lane s a j).getLsbD 31 = false) →
          TrapsCounted (.topki d a b m) s (Trap.of .verdictOperand)) ∧
        ((∀ j, j < 64 → act.getLsbD j = true → isVerdict (lane s a j) = true →
            (lane s a j).extractLsb' 16 5 = 3 ∧ (lane s a j).getLsbD 31 = false) →
          sync = true → c.monitor.km1 ≠ B.extractLsb' 32 6 → TrapsCounted (.topki d a b m) s (Trap.of .verdictState)))) ∧
    (64 ≤ (sreg s d).toNat ∨ 2 ^ 48 ≤ (sreg s a).toNat ∨ 2 ^ 32 ≤ B.toNat →
      Traps (.bscore d a b) s (Trap.of .illegalInstruction)) ∧
    (∀ e, (sreg s d).toNat < 64 → (sreg s a).toNat < 2 ^ 48 → B.toNat < 2 ^ 32 → fenceHeld c = false →
      scoreCheck s (BitVec.ofNat 6 (sreg s d).toNat) (bscoreBody s d a b) = .error e → Traps (.bscore d a b) s e) ∧
    (∀ cs, Starts (.topki d a b m) s → B.extractLsb' 38 26 = 0 → d ≠ a →
      topkCands (vreg c a) (B.extractLsb' 0 32) ((List.range 64).filter fun j => act.getLsbD j) = .ok cs →
      (sync = true → c.monitor.km1 = B.extractLsb' 32 6) →
      let top := ((old ++ cs).foldl (fun l e => insertEntry e l) []).take k
      ∃ u, Completes (.topki d a b m) s u ∧
        (∀ e, e < k → (lane u d e, lane u d (64 + e)) = top.getD e (0x7F800000, 0xFFFFFFFF)) ∧
        (∀ j, j < 1024 → k ≤ j % 64 ∨ 128 ≤ j → lane u d j = lane s d j) ∧
        (∀ r, r ≠ d → vreg u.core.ctx r = vreg c r) ∧
        (sync = true →
          let e := top.getD (k - 1) (0x7F800000, 0xFFFFFFFF)
          let T := FFmt.f32.val c.monitor.t.toNat
          let E := FFmt.f32.val e.1.toNat
          let first : Bool := ltV T E || (cmpV T E == 0 && decide (c.monitor.tidx.toNat < e.2.toNat))
          (T.isNan = false → u.core.ctx.monitor = if first then c.monitor else { c.monitor with t := e.1, tidx := e.2 }) ∧
          (T.isNan = true → u.core.ctx.monitor = { c.monitor with t := e.1, tidx := e.2 })) ∧
        (sync = false → u.core.ctx.monitor = c.monitor)) ∧
    (∀ cmd, (sreg s d).toNat < 64 → (sreg s a).toNat < 2 ^ 48 → B.toNat < 2 ^ 32 → fenceHeld c = false →
      queueFree s.core 2 = true → scoreCheck s (BitVec.ofNat 6 (sreg s d).toNat) (bscoreBody s d a b) = .ok cmd →
      Completes (.bscore d a b) s (enterGather s cmd))

/-- For each class, a hold word on a body of an assigned kind, whose staging register is empty or names the same template, with a
field of that kind and a value that fits it (or the field select 0xF and value 0), leaves in the staging register the template
number and the body with that field replaced and every other bit as it was. A staging register of another template traps with
patch sequence, a body of no assigned kind with template kind, and a reserved field or a value too wide with illegal
instruction; without the Quesar die a search hold traps with unit absent. -/
def Obligations.PatchWordsStageTheirTemplates : Prop :=
  ∀ (s : State) (t : BitVec 6) (f : BitVec 4) (v : BitVec 16),
    let holds (i : Instr) (cls : Nat) : Prop :=
      let st := vget s.core.ctx.staging cls none
      let body : BitVec 512 := match st with
        | some (_, b) => b
        | none => vget (vget s.core.tmpl cls (Vector.replicate 64 0)) t.toNat 0
      let kind := (body.extractLsb' 0 8).toNat
      (cls ≠ 4 ∨ capsQuesar s = true) →
      ((∀ n b, st = some (n, b) → n = t) →
        (kindOk cls kind = true →
          (f = 15 → v = 0 →
            Completes i s (modCtx s fun c => { c with staging := vset c.staging cls (some (t, body)) })) ∧
          (∀ lo len, f ≠ 15 → fieldAt cls kind f.toNat = some (lo, len) → v.toNat < 2 ^ len →
            ∃ body', Completes i s (modCtx s fun c => { c with staging := vset c.staging cls (some (t, body')) }) ∧
              (body'.extractLsb' lo len).toNat = v.toNat ∧
              ∀ n, (n < lo ∨ lo + len ≤ n) → body'.getLsbD n = body.getLsbD n) ∧
          (∀ lo len, f ≠ 15 → fieldAt cls kind f.toNat = some (lo, len) → 2 ^ len ≤ v.toNat →
            Traps i s (Trap.of .illegalInstruction)) ∧
          (f ≠ 15 → fieldAt cls kind f.toNat = none → Traps i s (Trap.of .illegalInstruction))) ∧
        (kindOk cls kind = false → Traps i s (Trap.of .templateKind))) ∧
      ∀ n b, st = some (n, b) → n ≠ t → Traps i s (Trap.of .patchSequence)
    holds (.matrixHold t f v) 0 ∧ holds (.copyHold t f v) 1 ∧ holds (.gatherHold t f v) 2 ∧ holds (.collectiveHold t f v) 3 ∧
    holds (.searchHold t f v) 4 ∧ (capsQuesar s = false → Traps (.searchHold t f v) s (Trap.of .unitAbsent))

/-- TMPL of a class of the part, with an aligned offset in range, no earlier writer of the range and no error in it, makes the
template the 32 (collective: 64) bytes at that offset, byte 0 lowest, and changes nothing else of the core. TMPL.bfmt of a
legal value for a bank in range with no earlier command on it sets that bank's register to the value's low 32 bits; a value
that R137 rejects traps with bank format. A misaligned offset, a range past the buffer and an absent class trap with their
causes. -/
def Obligations.TemplatesAndBankFormatsComplete : Prop :=
  (∀ (s : State) (a : BitVec 5) (b : BitVec 2) (c : BitVec 3) (t : BitVec 6), (Instr.tmpl a b c t).wf = true →
    let n := if c = 0 then 32 else 64
    let off := (sreg s a).toNat
    let i := Instr.tmpl a b c t
    (¬ (c = 4 ∧ capsQuesar s = false) →
      (off % n = 0 → off + n ≤ bufSize s.core b → fullWait s.core [Range.of b off n] [] = false → SoundCore s.core →
        ∃ T, Completes i s (modCore s fun k => { k with tmpl := T }) ∧
          (∀ j, j < 64 → (vget (vget T c.toNat (Vector.replicate 64 0)) t.toNat 0).extractLsb' (8 * j) 8 =
            if j < n then spByte s.core b (stored s.core b (off + j)) else 0) ∧
          ∀ c' t', (c' ≠ c.toNat ∨ t' ≠ t.toNat) → c' < 5 → t' < 64 →
            vget (vget T c' (Vector.replicate 64 0)) t' 0 = vget (vget s.core.tmpl c' (Vector.replicate 64 0)) t' 0) ∧
      (off % n ≠ 0 → Traps i s (Trap.at .misalignedAccess (spAddr b off))) ∧
      (off % n = 0 → bufSize s.core b < off + n → Traps i s (Trap.at .scratchpadRange (spAddr b (max off (bufSize s.core b)))))) ∧
    (c = 4 → capsQuesar s = false → Traps i s (Trap.of .unitAbsent))) ∧
  ∀ (s : State) (a n : BitVec 5), (Instr.tmplBfmt a n).wf = true →
    let lo := 0x8000 * (n.toNat - bufBank0 (bankBuf n.toNat))
    (bfmtOk n.toNat (sreg s a) = true → lo < bufSize s.core (bankBuf n.toNat) →
      mustWait s.core [] [Range.of (bankBuf n.toNat) lo 0x8000] = false →
        Completes (.tmplBfmt a n) s (modCore s fun k => { k with bfmt := vset k.bfmt n.toNat ((sreg s a).extractLsb' 0 32) })) ∧
    (bfmtOk n.toNat (sreg s a) = false → Traps (.tmplBfmt a n) s (Trap.of .bankFormat))

/-- With no FENCE mark queued, for each matrix, copy, gather, collective and search word: where its patched body has the word's
kind, sets no reserved bit and passes its kind's checks with command c, and every queue it enters has room, the word
completes; the class queue of the core gains c as its last entry, next in the issue order, and the class's staging register is
empty. MMA, MMAS and MMAG also move IHEAD of the two rings by their claims, a copy or gather destination gets its dirty mark,
TCOLL takes its place in its communicator's count, and MMAG enters one entry of one number in every participant's queue and
touches no other core. -/
def Obligations.EngineCommandsEnterTheirQueues : Prop :=
  ∀ (s : State) (t : BitVec 6) (f : BitVec 4) (v : BitVec 16) (body : BitVec 512) (c : Command),
    fenceHeld s.core.ctx = false →
    let word (cls kind : Nat) (f : BitVec 4) (v : BitVec 16) : Prop :=
      patched s cls t f v = .ok body ∧ bodyKind body = kind ∧ reservedSet cls kind body = false ∧ queueFree s.core cls = true
    let tile (i : Instr) (kind : Nat) : Prop := word 0 kind f v → tileCheck s t body = .ok c →
      Completes i s (withCommand (modCore s fun k => claimRings k c) 0 c)
    let copy (i : Instr) (kind : Nat) : Prop := word 1 kind f v → copyCheck s t body = .ok c →
      Completes i s (withCommand (markDest s c) 1 c)
    let search (i : Instr) (kind : Nat) (check : State → BitVec 6 → BitVec 512 → Except Trap Command) : Prop :=
      capsQuesar s = true → word 4 kind f v → check s t body = .ok c → Completes i s (withCommand s 4 c)
    tile (.mma t f v) 1 ∧ tile (.mmas t f v) 2 ∧ tile (.mzero t f v) 4 ∧ tile (.mstore t f v) 5 ∧
    (word 0 3 f v → tileCheck s t body = .ok c → gangFree s 0 c = true →
      ∃ u, Completes (.mmag t f v) s u ∧ vget u.core.ctx.staging 0 none = none ∧
        (∀ n, n ∈ c.gang → ∃ x, queueOf (getCore u s.core.die n) 0 = queueOf (getCore s s.core.die n) 0 ++ [x] ∧
          x.gid = s.order ∧ x.body = body ∧ x.gang = c.gang) ∧
        (∀ d n, (d ≠ s.core.die ∨ n ∉ c.gang) → getCore u d n = getCore s d n)) ∧
    copy (.tcopy t f v) 1 ∧ copy (.tfill t f v) 2 ∧ copy (.bcopy t f v) 3 ∧
    (word 2 1 f v → gatherCheck false s t body = .ok c → Completes (.tgather t f v) s (withCommand (markDest s c) 2 c)) ∧
    (word 2 2 f v → gatherCheck true s t body = .ok c → Completes (.tscatter t f v) s (withCommand (markDest s c) 2 c)) ∧
    (word 2 3 15 0 → scoreCheck s t body = .ok c → Completes (.tscore t) s (withCommand (markDest s c) 2 c)) ∧
    (word 3 1 f v → collCheck s t body = .ok c →
      ∃ q, Completes (.tcoll t f v) s { withCommand s 3 c with
          core := { (withCommand s 3 c).core with q := q },
            collCounts := (collCounted s (collComm body) s.core.die s.core.num).collCounts } ∧
        vget q 3 [] = queueOf s.core 3 ++ [{ c with seq := s.core.seq }] ∧ ∀ n, n ≠ 3 → vget q n [] = queueOf s.core n) ∧
    search (.seek t f v) 1 seekCheck ∧ search (.kfetch t f v) 2 plainCheck ∧ search (.sappend t f v) 3 sappendCheck ∧
    search (.smerge t f v) 4 plainCheck

/-- A tile command of kind MMA, MMAS, MZERO or MSTORE at the head of its core's matrix queue, with its issuer's stores performed,
nothing running, its footprint released and its scales there or none coming, moves from the queue to the started commands,
with a note of what is wrong with its own accumulator (log entry 102), and pops as many scales as it needs and the queue
holds; nothing else changes. A ganged MMAG moves so on all its participants at once, and on no other core. -/
def Obligations.TileCommandsStart : Prop :=
  ∀ (s : State) (c : Command) (rest : List Command), queueOf s.core 0 = c :: rest → issuerClear s c = true →
    c.die = s.core.die → c.gang.all (tileReady s c) = true →
    let n := min c.need s.core.scaleQ.length
    let started : State := modCore s fun k => { k with
      q := vset k.q 0 rest
      run := vset k.run 0 [{ startedEntry s.core c with scales := c.scales ++ k.scaleQ.take n, need := c.need - n }]
      scaleQ := k.scaleQ.drop n }
    let starts (i : Instr) (kind : Nat) : Prop := c.kind = .tmpl kind → c.gang = [s.core.num] → Happens i s started
    starts .mmaStart 1 ∧ starts .mmasStart 2 ∧ starts .mzeroStart 4 ∧ starts .mstoreStart 5 ∧
    (c.kind = .tmpl 3 → c.gang.Nodup →
      ∃ t, Happens .mmagStart s t ∧
        (∀ m, m ∈ c.gang → queueOf (getCore t s.core.die m) 0 = (queueOf (getCore s s.core.die m) 0).tail ∧
          ∃ x, vget (getCore t s.core.die m).run 0 [] = [x] ∧ x.gid = c.gid) ∧
        ∀ d m, (d ≠ s.core.die ∨ m ∉ c.gang) → getCore t d m = getCore s d m)

/-- For a started tile command with all its scales on a core with no storage error and no verdict word in what it reads nor any
noted at its start: at its end each accumulator of an MMA or MMAS holds the sum through every K-group from 0 or its old value,
each of an MZERO is 0, and each element of an MSTORE holds its accumulator's bits, or their one conversion, in the destination
format, with the accumulators zeroed under CLR. Where the shared operands of an MMA or MMAS give a fault, the sums stand
through the last K-group before it and its record is written. Under a false predicate nothing is read or written. A ganged
MMAG leaves in each participant's C the sums of that participant's rows. Every other byte of the buffers keeps its value, HEAD
of each claimed ring moves by the claim, and the command has left. A core barrier that it names takes one arrival, with FAULT
where it faulted, once no load issued before it waits for its value (log entry 116); it signals no other. -/
def Obligations.TileCommandsEndWithTheirResults : Prop :=
  ∀ (s : State) (c : Command), vget s.core.run 0 [] = [c] → c.die = s.core.die → c.core = s.core.num → c.need = 0 →
    let b := c.body
    let o := tileOperands s.core c
    let inAcc (k : Core) (buf : BitVec 2) (x : Nat) : Prop :=
      buf = 2 ∧ ∃ m n i, m < tileM b ∧ n < tileN b ∧ i < 4 ∧ x = stored k 2 (accOff b m n + i)
    let key := coreBar s.core.die s.core.num (bodyNat b 88 5)
    let B := getBar s key
    let signals (t : State) (failed : Bool) : Prop :=
      (b.getLsbD 93 = false → t.netBars = s.netBars ∧ t.core.bars = s.core.bars) ∧
      (b.getLsbD 93 = true → B.kind = .phaser → s.oneCycle = false → (∀ n, loadsBefore s c.ctxId n = false) →
        let st : BitVec 4 := B.status ||| (if failed then 2 else 0)
        let A : Barrier := if B.sigcnt ≤ B.arrived then { B with status := st ||| 4 } else { B with arrived := B.arrived + 1, status := st }
        getBar t key = if 1 ≤ A.sigcnt ∧ A.sigcnt ≤ A.arrived ∧ A.pending = 0 then
          { A with phase := A.phase + 1, arrived := 0, lstatus := A.status, status := 0 } else A)
    let ended (t : State) : Prop := Happens .tileCommandEnd s t ∧ vget t.core.run 0 [] = []
    let released (t : State) (g u : Nat) : Prop :=
      g < 8 → (vget t.core.rings g Ring.reset) = { ringAt s.core g with head := (ringAt s.core g).head + BitVec.ofNat 24 u }
    let claims (t : State) : Prop := released t (bodyNat b 16 3) c.aUnits ∧ released t (bodyNat b 20 3) c.bUnits
    let sums (k k' : Core) (i groups : Nat) : Prop := ∀ m n, m < tileM b → n < tileN b →
      accRead k' b m n = if groups = 0 then accRead k b m n else
        accumulate (tileInt b) (decide (bodyKind b = 2) && !c.repro) o.i8 o.g (o.a.getD (i * tileM b + m) []) (o.b.getD n []) groups 0
          (if tileZero b then 0 else accRead k b m n) % 2 ^ 32
    (c.gang = [s.core.num] → c.noEffect = true → bodyNat b 16 3 ≠ bodyNat b 20 3 → SoundCore s.core →
      ∃ t, ended t ∧ signals t false ∧ SameBuffers s t ∧ (b.getLsbD 93 = false → t.mem = s.mem) ∧
        ((bodyKind b = 1 ∨ bodyKind b = 2) → claims t) ∧ ((bodyKind b = 4 ∨ bodyKind b = 5) → t.core.rings = s.core.rings)) ∧
    (bodyKind b = 3 → c.gang.Nodup → s.core.num ∈ c.gang → b.getLsbD 93 = false → c.noEffect = false → o.fault = none →
      bodyNat b 16 3 ≠ bodyNat b 20 3 → 1 ≤ tileK b / o.g →
      (∀ m ∈ c.gang, SoundCore (getCore s s.core.die m) ∧ accFault (getCore s s.core.die m) b = none ∧
        ∃ x, vget (getCore s s.core.die m).run 0 [] = [x] ∧ x.gid = c.gid ∧ x.fault = none) →
      ∃ t, ended t ∧ claims t ∧ t.netBars = s.netBars ∧
        (∀ i m, c.gang[i]? = some m →
          let k := getCore s s.core.die m
          let k' := getCore t s.core.die m
          vget k'.run 0 [] = [] ∧ sums k k' i (tileK b / o.g) ∧ (m ≠ s.core.num → k'.rings = k.rings) ∧ k'.bars = k.bars ∧
            SameScratch k k' fun buf x => ¬ inAcc k buf x) ∧
        ∀ d m buf x, (d ≠ s.core.die ∨ m ∉ c.gang) → spByte (getCore t d m) buf x = spByte (getCore s d m) buf x) ∧
    (c.gang = [s.core.num] → c.noEffect = false → c.fault = none → SoundCore s.core →
    ((bodyKind b = 1 ∨ bodyKind b = 2) → accFault s.core b = none → bodyNat b 16 3 ≠ bodyNat b 20 3 →
      (o.fault = none → 1 ≤ tileK b / o.g →
        ∃ t, ended t ∧ signals t false ∧ claims t ∧ sums s.core t.core 0 (tileK b / o.g) ∧
          SameScratch s.core t.core fun buf x => ¬ inAcc s.core buf x) ∧
      ∀ q cause addr, o.fault = some (q, cause, addr) →
        ∃ t, ended t ∧ signals t true ∧ claims t ∧ sums s.core t.core 0 q ∧
          (b.getLsbD 93 = false →
            t.mem = (writeRecord s c.aspace (commandRecord 0 s.core.num c ⟨cause, BitVec.ofNat 64 addr, q⟩)).mem) ∧
          SameScratch s.core t.core fun buf x => ¬ inAcc s.core buf x) ∧
    (bodyKind b = 4 → ∃ t, ended t ∧ signals t false ∧ t.core.rings = s.core.rings ∧
      (∀ m n, m < tileM b → n < tileN b → accRead t.core b m n = 0) ∧ SameScratch s.core t.core fun buf x => ¬ inAcc s.core buf x) ∧
    (∀ dst rest, bodyKind b = 5 → c.writes = dst :: rest → storeCheck s.core b = .ok dst →
      let fmt := bfmtOf s.core (bankOf dst.buf dst.lo)
      let w := codeWidth (bfmtFmt fmt) / 8
      let off (m n : Nat) : Nat := dst.lo + m * (64 * rowUnits (tileN b) (8 * w)) + w * n
      let elt (m n : Nat) := storeElt (tileInt b) (bfmtSat fmt) (bfmtFmt fmt) (accRead s.core b m n)
      (∀ m n, m < tileM b → n < tileN b → elt m n ≠ none) →
      ∃ t, ended t ∧ signals t false ∧ t.core.rings = s.core.rings ∧
        (∀ m n, m < tileM b → n < tileN b →
          leNat (spRead t.core dst.buf (off m n) w) = ((elt m n).getD (0, 0)).1 % 256 ^ w ∧
          accRead t.core b m n = if tileZero b then 0 else accRead s.core b m n) ∧
        SameScratch s.core t.core fun buf x => ¬ inAcc s.core buf x ∧
          ¬ (buf = dst.buf ∧ ∃ m n i, m < tileM b ∧ n < tileN b ∧ i < w ∧ x = stored s.core dst.buf (off m n + i))))

/-- A copy, gather or scoring command at the head of its queue that is released, and whose pointer no earlier unended command
names, moves to the started ones with nothing performed: a copy on the channel that the engine admits it to (of those that it
keeps within 128 KiB the one of least backlog, the lowest of equals; none while 256 are started), its write pointer at the
footprint's lowest offset, its handles as they now are, faulted with not resident where a page it uses is away, with bank
format or index range where its banks or indices are at fault, a gather's or scatter's index list read whole. A started
command in its turn that has met its fault or performed every byte ends: it leaves, its pointer becomes DONE with FAULT as it
faulted, and at its barrier, if any, once no load that its issuer issued before it waits for its value (log entry 116), its
bytes not yet performed come off PENDING one by one, with FAULT in STATUS as it faulted; with none left and no fault the
barrier stays as it is. -/
def Obligations.CopyAndGatherCommandsStartAndEnd : Prop :=
  (∀ (s : State) (c : Command) (i : Instr) (cls kind ch : Nat), SoundCore s.core →
    (cls = 1 ∧ (i = .tcopyStart ∧ kind = 1 ∨ i = .tfillStart ∧ kind = 2 ∨ i = .bcopyStart ∧ kind = 3) ∧
        channelFor s.core (destBytes s.core 1 c) = some ch) ∨
      (cls = 2 ∧ (i = .tgatherStart ∧ kind = 1 ∨ i = .tscatterStart ∧ kind = 2 ∨ i = .tscoreStart ∧ kind = 3) ∧
        vget s.core.run 2 [] = [] ∧ ch = c.chan) →
    startHead s cls (.tmpl kind) = some c → bodyKind c.body = kind →
    (pointerBusy s.core c = true → Happens i s s) ∧
    (pointerBusy s.core c = false →
      let S := settleHandle s c.aspace c.die c.seqTag c.src
      let D := settleHandle s c.aspace c.die c.seqTag c.dst
      let usesSrc := if cls = 1 then kind ≠ 2 ∧ copySkind c.body = 0 else kind ≠ 2
      let usesDst := if cls = 1 then copyDkind c.body = 0 else kind = 2
      let away := (usesSrc ∧ notThere s S = true) ∨ (usesDst ∧ notThere s D = true)
      ∃ c' W E, Happens i s (modCore s fun k => { k with
          q := vset k.q cls (queueOf k cls).tail, run := vset k.run cls (vget k.run cls [] ++ [c']), wps := W, early := E }) ∧
        c'.gid = c.gid ∧ c'.body = c.body ∧ c'.chan = ch ∧ c'.progress = c.progress ∧ c'.src = S ∧ c'.dst = D ∧
        (∀ n, wpOf c = some n → n < 16 →
          vget W n WritePtr.reset = ⟨(pointerRange c).buf, false, false, (pointerRange c).lo⟩) ∧
        (∀ m, wpOf c ≠ some m → vget W m WritePtr.reset = vget s.core.wps m WritePtr.reset) ∧
        (away → ∃ f, c'.fault = some f ∧ f.cause = .notResident) ∧
        (¬ away → cls = 1 → (c'.fault = none ↔ ∃ v, copyConv s.core c.body (copyShape s.core c.body) = .ok v)) ∧
        (cls = 2 → kind ≠ 3 → c'.indices = (List.range (gRows c.body)).map (gIndex s.core c.body)) ∧
        (¬ away → cls = 2 → (c'.fault = none ↔
        otherBanks s.core (gatherFeet c.body) = none ∧ (kind = 3 ∨ ∀ j, j < gRows c.body → gIndex s.core c.body j < gLimit c.body))))) ∧
  (∀ (k : Core) (n ch : Nat), channelFor k n = some ch →
    ch < 16 ∧ (vget k.run 1 []).length < 256 ∧ backlog k ch + n ≤ 128 * 1024 ∧
      ∀ m, m < 16 → backlog k m + n ≤ 128 * 1024 → backlog k ch < backlog k m ∨ (backlog k ch = backlog k m ∧ ch ≤ m)) ∧
  (∀ (k : Core) (n : Nat), channelFor k n = none →
    256 ≤ (vget k.run 1 []).length ∨ ∀ m, m < 16 → 128 * 1024 < backlog k m + n) ∧
  ∀ (s : State) (k cls kind : Nat) (c : Command), c.kind = .tmpl kind → channelTurn s.core cls c = true →
    (∀ y, y ∈ vget s.core.run cls [] → y.gid = c.gid → y = c) → (c.fault ≠ none ∨ destBytes s.core cls c ≤ c.progress) →
    let copies := vget s.core.run 1 []
    ((cls = 1 ∧ copies[k]? = some c) ∨ (cls = 2 ∧ copies.length ≤ k ∧ (vget s.core.run 2 [])[k - copies.length]? = some c)) →
    let left := destBytes s.core cls c - c.progress
    ∃ t, Happens (.commandEnd k) s t ∧
      (∀ y, y ∈ vget t.core.run cls [] ↔ y ∈ vget s.core.run cls [] ∧ y.gid ≠ c.gid) ∧
      (∀ n, wpOf c = some n → n < 16 → (vget t.core.wps n WritePtr.reset).done = true ∧
        (c.fault = none → vget t.core.wps n WritePtr.reset =
          { vget s.core.wps n WritePtr.reset with done := true, ptr := (pointerRange c).hi }) ∧
        (c.fault ≠ none → vget t.core.wps n WritePtr.reset =
          { vget s.core.wps n WritePtr.reset with done := true, fault := true })) ∧
      (wpOf c = none → t.core.wps = s.core.wps) ∧
      (bodyBar c.body = none → t.netBars = s.netBars ∧ t.core.bars = s.core.bars ∧ (c.fault = none → t.mem = s.mem)) ∧
      ∀ l n, bodyBar c.body = some (l, n) → 1 ≤ l → l ≤ 4 →
        let key := barKey l c.die c.core n
        let B := getBar s key
        let st : BitVec 4 := B.status ||| (if c.fault = none then 0 else 2)
        let under : BitVec 4 := if B.pending < left then 8 else 0
        B.kind = .phaser → allotted s key c.aspace = true → s.oneCycle = false → (∀ n, loadsBefore s c.ctxId n = false) →
          if left = 0 ∧ c.fault = none then getBar t key = B
          else if (1 ≤ B.sigcnt ∧ B.sigcnt ≤ B.arrived ∧ B.pending - left = 0) ∨
              (B.sigcnt = 0 ∧ 0 < left ∧ B.pending ≠ 0 ∧ B.pending - left = 0) then
            getBar t key = { B with phase := B.phase + 1, arrived := 0, pending := 0, lstatus := st, status := under }
          else getBar t key = { B with pending := B.pending - left, status := st ||| under }

/-- A started copy command of one run with nothing performed yet, in its turn on its channel, whose barrier, if any, is an
allotted phaser, with no storage error, no failing line, no RED on its way, its lines in near memory without a window: at its
end TFILL has written FVAL's low element bits in each element; TCOPY and BCOPY without a conversion have written each source
byte in its place, a byte of memory that the copy has itself written before as written; with a conversion between bank formats
each element is the one conversion of the source element. Every byte outside the run, in scratchpad and as the die reads
memory, keeps its value. -/
def Obligations.CopyCommandsMoveTheirBytes : Prop :=
  ∀ (s : State) (k kind : Nat) (c : Command), (vget s.core.run 1 [])[k]? = some c → c.kind = .tmpl kind → 1 ≤ kind → kind ≤ 3 →
    bodyKind c.body = kind → c.die = s.core.die → c.core = s.core.num → channelTurn s.core 1 c = true → c.fault = none → c.progress = 0 →
    (∀ y, y ∈ vget s.core.run 1 [] → y.gid = c.gid → y = c) → copyDims c.body = 0 →
    (∀ l n, bodyBar c.body = some (l, n) →
      (getBar s (barKey l c.die c.core n)).kind = .phaser ∧ allotted s (barKey l c.die c.core n) c.aspace = true) →
    SoundCore s.core → PlainMemory s → s.windows = [] →
    let b := c.body
    let x := copyShape s.core b
    let so := copySoff b
    let d := copyDoff b
    let sbuf := kindBuf (copySkind b)
    let dbuf := kindBuf (copyDkind b)
    let S := c.src.base + so
    let D := c.dst.base + d
    (capsDirty s = true ∨ s.core.tlbStores + x.drun / 64 + 2 < 4096) →
    (copySkind b = 0 → kind ≠ 2 → ∀ j, j < x.srun → canonPa s (S + j) = S + j ∧ tierOf s ((S + j) / 64 * 64) = 0) →
    (copyDkind b = 0 → ∀ j, j < x.drun → canonPa s (D + j) = D + j ∧ tierOf s ((D + j) / 64 * 64) = 0) →
    (copySkind b ≠ 0 → kind ≠ 2 → so + x.srun ≤ bufSize s.core sbuf) → (copyDkind b ≠ 0 → d + x.drun ≤ bufSize s.core dbuf) →
    (copySkind b ≠ 0 → copyDkind b ≠ 0 → kind ≠ 2 → sbuf ≠ dbuf ∨ so + x.srun ≤ d ∨ d + x.drun ≤ so) →
    let ended (t : State) : Prop := Happens (.commandEnd k) s t ∧ ∀ y, y ∈ vget t.core.run 1 [] → y.gid ≠ c.gid
    let inBuffer (t : State) (f : Nat → Byte) : Prop :=
      (∀ j, j < x.drun → spByte t.core dbuf (stored s.core dbuf (d + j)) = f j) ∧ t.mem = s.mem ∧
      SameScratch s.core t.core fun buf o => ¬ (buf = dbuf ∧ ∃ j, j < x.drun ∧ o = stored s.core dbuf (d + j))
    let inMemory (t : State) (f : Nat → Byte) : Prop :=
      (∀ j, j < x.drun → rdByte t c.die (D + j) = f j) ∧
      (∀ a, (canonPa s a < D ∨ D + x.drun ≤ canonPa s a) → rdByte t c.die a = rdByte s c.die a) ∧
      SameScratch s.core t.core fun _ _ => True
    let holds (t : State) (f : Nat → Byte) : Prop := if copyDkind b = 0 then inMemory t f else inBuffer t f
    (kind = 2 → ∃ t, ended t ∧ holds t fun j =>
      if x.ed = 4 then BitVec.ofNat 8 (17 * (bodyNat b 32 32 % 16)) else BitVec.ofNat 8 (bodyNat b 32 32 / 256 ^ (j % (x.ed / 8)))) ∧
    (kind ≠ 2 → copyConv s.core b x = .ok none → ∃ t, ended t ∧ holds t fun j =>
      if copySkind b ≠ 0 then spByte s.core sbuf (stored s.core sbuf (so + j))
      else if copyDkind b = 0 ∧ D ≤ S + j ∧ S + j < D + j then rdByte t c.die (S + j)
      else rdByte s c.die (S + j)) ∧
    ∀ fs fd sat, kind ≠ 2 → copyConv s.core b x = .ok (some (fs, fd, sat)) → d % (x.ed / 8) = 0 →
      let elt (j : Nat) : Nat := leNat (spRead s.core sbuf (so + j * (x.es / 8)) (x.es / 8))
      (fs = .flt .f32 → ∀ j, isVerdict (BitVec.ofNat 32 (elt j)) = false) →
      ∃ t, ended t ∧ t.mem = s.mem ∧ (∀ j, j < copyExt b 0 → leNat (spRead t.core dbuf (d + j * (x.ed / 8)) (x.ed / 8)) =
          (convert fs fd ⟨.rne, sat, false⟩ (elt j)).1 % 256 ^ (x.ed / 8)) ∧
        SameScratch s.core t.core fun buf o => ¬ (buf = dbuf ∧ ∃ j, j < x.drun ∧ o = stored s.core dbuf (d + j))

/-- A started gather-class command with nothing performed yet, alone in its engine, whose barrier, if any, is an allotted phaser,
with no storage error, no failing line and no RED on its way, its lines in near memory without a window, and rows that do not
share bytes with each other: at its end TGATHER has put row x(j) of the table, x being the list read at its start, into
scratchpad row j through its SWZ; TSCATTER has put scratchpad row j into row x(j); every other byte keeps its value. A scoring
command has written at its result offset the k best of all its keys that reach THR, by score down and index up, with
0x80000000 and 0xFFFFFFFF in empty entries, whatever thresholds its planes read. -/
def Obligations.GatherCommandsMoveTheirRows : Prop :=
  ∀ (s : State) (k kind : Nat) (c : Command), (vget s.core.run 1 []).length ≤ k →
    (vget s.core.run 2 [])[k - (vget s.core.run 1 []).length]? = some c → vget s.core.run 2 [] = [c] → c.kind = .tmpl kind →
    bodyKind c.body = kind → c.die = s.core.die → c.core = s.core.num → c.fault = none → c.progress = 0 →
    (∀ l n, bodyBar c.body = some (l, n) →
      (getBar s (barKey l c.die c.core n)).kind = .phaser ∧ allotted s (barKey l c.die c.core n) c.aspace = true) →
    SoundCore s.core → PlainMemory s → s.windows = [] →
    let b := c.body
    let H := if kind = 2 then c.dst else c.src
    let xs (j : Nat) : Nat := c.indices.getD j 0
    let row (j i : Nat) : Nat := H.base + (gTable b + xs j * gRowB b + i)
    let at_ (j i : Nat) : Nat := gSpOff b + j * gPitch b + i
    let cell (j i : Nat) : Nat := storedWith (gSwz b) (at_ j i)
    let inRange (j i : Nat) : Prop := j < gRows b ∧ i < gRowB b
    let ended (t : State) : Prop := Happens (.commandEnd k) s t ∧ vget t.core.run 2 [] = []
    (kind ≠ 3 → gRowB b ≤ gPitch b →
      (∀ j i, inRange j i → at_ j i < bufSize s.core (gBuf b) ∧ tierOf s (row j i / 64 * 64) = 0) →
      (kind = 1 → ∃ t, ended t ∧ t.mem = s.mem ∧ (∀ j i, inRange j i → spByte t.core (gBuf b) (cell j i) = rdByte s c.die (row j i)) ∧
          SameScratch s.core t.core fun buf o => ¬ (buf = gBuf b ∧ ∃ j i, inRange j i ∧ o = cell j i)) ∧
      (kind = 2 → (∀ j j', j < gRows b → j' < gRows b → xs j = xs j' → j = j') →
        (∀ j i, inRange j i → canonPa s (row j i) = row j i) →
        (capsDirty s = true ∨ s.core.tlbStores + gRows b * (gRowB b / 64 + 2) < 4096) →
        ∃ t, ended t ∧ (∀ j i, inRange j i → rdByte t c.die (row j i) = spByte s.core (gBuf b) (cell j i)) ∧
          (∀ a, (∀ j i, inRange j i → canonPa s a ≠ row j i) → rdByte t c.die a = rdByte s c.die a) ∧
          SameScratch s.core t.core fun _ _ => True)) ∧
    (kind = 3 → (∀ a, a < (scLast b / 64 + 1) * (64 * scD b) → tierOf s ((H.base + gTable b + a) / 64 * 64) = 0) →
      scResult b + 8 * scK b + 8 ≤ bufSize s.core 1 →
      let q := scQ s.core b
      let keys := ((List.range (scLast b + 1 - scFirst b)).map fun i => (keyScore s c q (scFirst b + i), scFirst b + i)).filter
        fun e => decide (scThr b ≤ e.1)
      let best := (keys.foldl (fun l e => insertScore e l) []).take (scK b)
      ∃ t, ended t ∧ t.mem = s.mem ∧
        (∀ e, e < scK b → spRead t.core 1 (scResult b + 8 * e) 8 =
          match best[e]? with
          | some (v, n) => leBytes 4 (BitVec.ofInt 32 v).toNat ++ leBytes 4 n
          | none => leBytes 4 0x80000000 ++ leBytes 4 0xFFFFFFFF) ∧
        SameScratch s.core t.core fun buf o =>
          ¬ (buf = 1 ∧ ∃ i, i < 8 * scK b + 8 ∧ o = stored s.core 1 (scResult b + i)))

/-- RINGSET.cfg of a legal region that no unended command uses configures the ring empty; RINGSET.adv with room adds its units to
TAIL, waits while ended commands must still free room, and traps with ring state where none ever could. SQLD with legal
operands and room in the queues enters a copy command; at the head of its queue, once its scales and those of the started ones
fit, it starts on the channel that the engine admits it to, and in its turn there appends its scales behind those held and
leaves (log entry 103). ZTEST sets the tile predicate to whether a byte of its range is not zero. WPWAIT passes where the
pointer has reached the offset, recording the early release unless the command is done, waits before, and traps for an unbound
pointer or a command that ended short. -/
def Obligations.RingsScalesAndTilePredicatesComplete : Prop :=
  ∀ (s : State) (a b : BitVec 5) (u : BitVec 2) (g : BitVec 3) (p t : BitVec 4), SoundCore s.core →
    let k := s.core
    let A := sreg s a
    let off := (sreg s a).toNat
    let n := (sreg s b).toNat
    let base := (A.extractLsb' 0 13).toNat
    let size := (A.extractLsb' 16 13).toNat
    let buf := A.extractLsb' 32 2
    let R := ringAt k g.toNat
    let units := off / 64
    let w := vget k.wps p.toNat WritePtr.reset
    (A &&& ~~~0x000000031FFF1FFF = 0 → buf.toNat < 2 → size ≠ 0 → base + size ≤ (if buf = 0 then 6144 else 4096) →
      64 * (base + size) ≤ bufSize k buf → ringNamed k g.toNat = false →
      Completes (.ringsetCfg a g) s (modCore s fun k => { k with
        rings := vset k.rings g.toNat ⟨0, 0, 0, BitVec.ofNat 13 size, BitVec.ofNat 13 base, buf, true⟩ })) ∧
    (R.valid = true → off % 64 = 0 → off ≠ 0 →
      ((R.tail - R.ihead).toNat + units ≤ R.size.toNat → (R.tail - R.head).toNat + units ≤ R.size.toNat →
        Completes (.ringsetAdv a g) s (modCore s fun k => { k with
          rings := vset k.rings g.toNat { R with tail := R.tail + BitVec.ofNat 24 units } })) ∧
      ((R.tail - R.ihead).toNat + units ≤ R.size.toNat → R.size.toNat < (R.tail - R.head).toNat + units → Waits (.ringsetAdv a g) s) ∧
      (R.size.toNat < (R.tail - R.ihead).toNat + units → Traps (.ringsetAdv a g) s (Trap.of .ringState))) ∧
    (R.valid = false → Traps (.ringsetAdv a g) s (Trap.of .ringState)) ∧
    (u ≠ 3 → fenceHeld k.ctx = false → 0 < n → n ≤ 64 → off % 2 = 0 → off + 2 * n ≤ bufSize k u →
      n + k.scaleQ.length + scalesPending k ≤ 64 + scalesOwed k → queueFree k 1 = true →
      ∃ c q, Completes (.sqld a b u) s { modCore s (fun k => { k with q := q, seq := k.seq + 1 }) with order := s.order + 1 } ∧
        vget q 1 [] = queueOf k 1 ++ [c] ∧ (∀ m, m ≠ 1 → vget q m [] = queueOf k m) ∧ c.kind = .sqld u off n ∧ c.seq = k.seq) ∧
    (∀ c rest u off n ch, queueOf k 1 = c :: rest → c.kind = .sqld u off n → n ≠ 0 → released s k 1 c = true →
      issuerClear s c = true → k.scaleQ.length + ((vget k.run 1 []).map sqldScales).sum + n ≤ 64 → channelFor k (2 * n) = some ch →
      Happens .tcopyStart s (modCore s fun k => { k with
        q := vset k.q 1 rest, run := vset k.run 1 (vget k.run 1 [] ++ [{ c with chan := ch }]) })) ∧
    (∀ c u off n, (vget k.run 1 []).find? (fun x => decide (sqldScales x ≠ 0)) = some c → c.kind = .sqld u off n →
      channelTurn k 1 c = true → vget k.run 0 [] = [] →
      ∃ t, Happens .sqldAppend s t ∧ t.core.scaleQ =
          k.scaleQ ++ (List.range n).map (fun i => BitVec.ofNat 16 (leNat (spRead k u (off + 2 * i) 2))) ∧
        (∀ x, x ∈ vget t.core.run 1 [] ↔ x ∈ vget k.run 1 [] ∧ x.gid ≠ c.gid) ∧ t.mem = s.mem) ∧
    (u ≠ 3 → off % 64 = 0 → n % 64 = 0 → n ≠ 0 → off + n ≤ bufSize k u → mustWait k [Range.of u off n] [] = false →
      ∃ T, Completes (.ztest a b u t) s (modCore s fun k => { k with tpred := T }) ∧
        T.getLsbD t.toNat = (spRead k u off n).any (· != 0) ∧ ∀ m, m ≠ t.toNat → T.getLsbD m = k.tpred.getLsbD m) ∧
    (pointerPending k p.toNat = false →
        (w.buf ≠ 3 → off ≤ w.ptr → Completes (.wpwait a p) s
          (if w.done then s else modCore s fun k => { k with early := k.early ++ [(p.toNat, off, k.seq)] })) ∧
        (w.buf ≠ 3 → w.ptr < off → w.done = false → Waits (.wpwait a p) s) ∧
        (w.buf ≠ 3 → w.ptr < off → w.done = true → Traps (.wpwait a p) s (Trap.of .writePointerFault)) ∧
        (w.buf = 3 → Traps (.wpwait a p) s (Trap.of .writePointerState)))

/-- NOTIFY with none outstanding, room in every named queue and a barrier it may use completes: the outstanding NOTIFY names the
level, barrier and classes, and each named queue that still holds or runs something gains the marker as its last entry. Its
event, once every named class is marked and the context's accesses are performed, clears the NOTIFY; at level 5 that is all,
and at another level a phaser of that name receives one arrival, at module and pod level after all bytes the die holds have
gone home (log entry 25). QDRAIN completes when no entry of the named classes issued before it is left, and waits till then. -/
def Obligations.NotifyAndDrainComplete : Prop :=
  ∀ (s : State) (a : BitVec 5) (l : BitVec 3) (c : BitVec 6),
    let x := s.core.ctx
    let bar := notifyBar s a l
    ((Instr.notify a l c).wf = true → notifyOf s.core = none → notifyRoom s.core c = true →
      ¬ (c.getLsbD 4 = true ∧ capsQuesar s = false) →
      (l ≠ 5 → bar < barCount l.toNat ∧ allotted s (barKey l.toNat s.core.die s.core.num bar) x.aspace = true) →
      ∃ u n, Completes (.notify a l c) s u ∧ n ∈ u.core.notifies ∧
        n.ctxId = x.ctxId ∧ n.level = l ∧ n.barrier.toNat = bar % 2 ^ 32 ∧ n.classes = c ∧
        (∀ q, q < 5 → c.getLsbD q = true →
          (∃ y ys, queueOf s.core q = y :: ys ∧ y.kind ≠ .marker) →
          ∃ m, queueOf u.core q = queueOf s.core q ++ [m] ∧ m.kind = .marker ∧ m.body = markerBody bar l c ∧ m.ctxId = x.ctxId) ∧
        (∀ q, q < 5 → c.getLsbD q = true → queueOf s.core q = [] → vget s.core.run q [] = [] →
          queueOf u.core q = [] ∧ n.notified.getLsbD q = true) ∧
        (c.getLsbD 5 = true → (x.vq = [] → n.notified.getLsbD 5 = true) ∧ (x.vq ≠ [] → u.core.ctx.vq = x.vq ++ [.marker])) ∧
        u.core.ctx.s = x.s ∧ u.core.ctx.p = x.p ∧ u.mem = s.mem ∧ u.netBars = s.netBars) ∧
    ((Instr.notify a l c).wf = true → notifyOf s.core ≠ none → ¬ (c.getLsbD 4 = true ∧ capsQuesar s = false) →
      Waits (.notify a l c) s) ∧
    (∀ n, s.core.notifies = [n] → n.notified = n.classes → n.ctxId = x.ctxId → x.state = .running → x.accessQ = [] → s.reds = [] →
      x.vq = [] →
      let t : State := modCore s fun k => { k with notifies := [] }
      let key := barKey n.level.toNat s.core.die s.core.num n.barrier.toNat
      (n.level = 5 → Happens .notifyEvent s t) ∧
      (n.level.toNat ≤ 4 → barReachable s key = true → (getBar s key).kind = .phaser → allotted s key n.aspace = true →
        (n.level = 0 → ∃ g, kernelById s n.kernelId = some g ∧ g.state = .running) →
        Happens .notifyEvent s (arrive (if 3 ≤ n.level.toNat then flushDie t s.core.die else t) key false false))) ∧
    (∀ n, s.core.notifies = [n] → n.notified ≠ n.classes → Happens .notifyEvent s s) ∧
    ((Instr.qdrain c).wf = true →
      (drainWaits s.core c (x.drainTo.getD s.core.seq) = false →
        Completes (.qdrain c) s (modCtx s fun x => { x with drainTo := none })) ∧
      (drainWaits s.core c (x.drainTo.getD s.core.seq) = true →
        ∃ t, Happens (.qdrain c) s t ∧ t.core.ctx.pc = x.pc ∧ t.core.ctx.s = x.s ∧ t.mem = s.mem))

/-- FEEDBIND of a legal descriptor for a feed that is not active, in range and with its rights, with no conflicting command, makes
the feed active with the descriptor's image and the handle it captures. An active input feed of one scratchpad dimension
appends the element at its next place; an active output feed writes its oldest pushed element there and nowhere else. FEEDSTOP
leaves a feed that is not active as it is, and stops an active one: an input feed's elements ahead are discarded, an output
feed waits while pushed elements are left. -/
def Obligations.FeedsBindTransferAndStop : Prop :=
  ∀ (s : State) (a : BitVec 5) (u : BitVec 2) (n : BitVec 3), SoundCore s.core →
    let k := s.core
    let off := (sreg s a).toNat
    let F := feedOf k n
    let put (f : Feed) : State := modCore s fun k => { k with feeds := vset k.feeds n.toNat f }
    (∀ f : Feed, (Instr.feedbind a u n).wf = true → off % 64 = 0 → off + 64 ≤ bufSize k u →
      fullWait k [Range.of u off 64] [] = false →
      (∀ j, j < 64 → f.image.extractLsb' (8 * j) 8 = spByte k u (stored k u (off + j))) →
      f.cap = (if feedKind f = 0 then hreg s (f.image.extractLsb' 14 4) else Handle.invalid) →
      f.aspace = k.ctx.aspace → f.ctxId = k.ctx.ctxId → f.seqTag = k.ctx.seqTag → f.seq = k.seq → f.ahead = [] → f.out = [] → f.done = 0 →
      feedState F ≠ 1 → feedBad f = false → feedSide k f = none → fullWait k (feedRanges k f).1 (feedRanges k f).2 = false →
      Completes (.feedbind a u n) s (modCore (put (f.setState 1)) fun k => { k with seq := k.seq + 1 })) ∧
    (feedState F ≠ 1 → Completes (.feedstop n) s s ∧ Happens (.feedTransfer n) s s) ∧
    (feedState F = 1 → feedOut F = false → Completes (.feedstop n) s (put ({ F with ahead := [] }.setState 2))) ∧
    (feedState F = 1 → feedOut F = true → (F.out ≠ [] → Waits (.feedstop n) s) ∧
      (F.out = [] → Completes (.feedstop n) s (put ({ F with ahead := [] }.setState 2)))) ∧
    (feedState F = 1 → feedIndirect F = false → feedDims F = 0 → feedKind F ≠ 0 →
      let at_ (e : Nat) : Nat := feedBase F + e * feedElt F
      (feedOut F = false → F.done < feedLen F → F.ahead.length < 4096 → at_ F.done + feedElt F ≤ bufSize k (feedBuf F) →
        Happens (.feedTransfer n) s (put { F with
          ahead := F.ahead ++ [BitVec.ofNat 32 (leNat (spRead k (feedBuf F) (at_ F.done) (feedElt F)))], done := F.done + 1 })) ∧
      (∀ e v rest, feedOut F = true → F.out = (e, v) :: rest → e < feedExt F 0 → at_ e + feedElt F ≤ bufSize k (feedBuf F) →
        ∃ t, Happens (.feedTransfer n) s t ∧ (feedOf t.core n).out = rest ∧ t.mem = s.mem ∧
          (∀ j, j < feedElt F → spByte t.core (feedBuf F) (stored k (feedBuf F) (at_ e + j)) = BitVec.ofNat 8 (v.toNat / 256 ^ j)) ∧
          SameScratch k t.core fun b o => ¬ (b = feedBuf F ∧ ∃ j, j < feedElt F ∧ o = stored k (feedBuf F) (at_ e + j))))

/-- At a named barrier that can be reached, with no FENCE mark queued and outside a cycle that events share (log entry 87): BJOIN
of a free barrier or one of the same kind, below the level's limit, counts the member and gives its PHASE; a mismatch traps
with barrier state and a full count with command limit. BDROP of a joined mode lowers its count, and sets EXCESS where a
signalling member of a phaser drops that has every arrival already; the last member leaves the barrier free, a phaser keeping
its PHASE; a phaser whose remaining arrivals suffice completes its phase. BEXP adds to PENDING below 2^40. BTEST gives the
test word and changes nothing. Each traps with barrier state where the rules say, and no other barrier changes. A reserved
level traps with illegal instruction, a number at or above its level's count with command limit, a barrier that is not
allotted to the address space with permission. -/
def Obligations.BarrierMembershipComplete : Prop :=
  ∀ (s : State) (k m : BitVec 2) (a b n : BitVec 5) (l : BitVec 3), fenceHeld s.core.ctx = false →
    let num := if l = 0 then n.toNat else (sreg s n).toNat
    let words (P : Instr → Prop) : Prop :=
      (k ≠ 0 → m ≠ 3 → P (.bjoin k b l m n)) ∧ (m ≠ 3 → P (.bdrop l m n)) ∧ P (.bexp a l n) ∧ P (.btest b l n)
    (4 < l.toNat → words fun i => Traps i s (Trap.of .illegalInstruction)) ∧
    (l.toNat ≤ 4 → barCount l.toNat ≤ num → words fun i => Traps i s (Trap.of .commandLimit)) ∧
    (l.toNat ≤ 4 → num < barCount l.toNat → allotted s (barKey l.toNat s.core.die s.core.num num) s.core.ctx.aspace = false →
      words fun i => Traps i s (Trap.of .permission)) ∧
    ∀ key, s.oneCycle = false → barNamed s l n = .ok key → barReachable s key = true →
    let B := getBar s key
    let kind : BarKind := if k = 1 then .phaser else if k = 2 then .future else .lock
    let count := if m = 1 then B.wcnt else B.sigcnt
    let J : Barrier := if m = 1 then { B with kind := kind, wcnt := B.wcnt + 1 } else { B with kind := kind, sigcnt := B.sigcnt + 1 }
    let phase : BitVec 32 := if B.kind = .free ∧ kind ≠ .phaser then 0 else B.phase
    let D : Barrier := if m = 1 then { B with wcnt := B.wcnt - 1 } else
      { B with sigcnt := B.sigcnt - 1, status := if B.kind = .phaser ∧ B.sigcnt ≤ B.arrived then B.status ||| 4 else B.status }
    let x := (sreg s a).toNat
    (k ≠ 0 → m ≠ 3 →
      ((B.kind = .free ∨ B.kind = kind) → (kind = .lock → m = 2) →
        (count < barLimit key.level →
          Completes (.bjoin k b l m n) s (setS (putBar s key { J with phase := phase }) b (phase.setWidth 64))) ∧
        (barLimit key.level ≤ count → Traps (.bjoin k b l m n) s (Trap.of .commandLimit))) ∧
      ((B.kind ≠ .free ∧ B.kind ≠ kind) ∨ (kind = .lock ∧ m ≠ 2) → Traps (.bjoin k b l m n) s (Trap.of .barrierState))) ∧
    (m ≠ 3 →
      (dropOk s key B m = true →
        (B.sigcnt + B.wcnt = 1 → Completes (.bdrop l m n) s (putBar s key (Barrier.freeAt (if B.kind = .phaser then B.phase else 0)))) ∧
        (B.sigcnt + B.wcnt ≠ 1 → B.kind ≠ .phaser → Completes (.bdrop l m n) s (putBar s key D)) ∧
        (B.sigcnt + B.wcnt ≠ 1 → B.kind = .phaser →
          (¬ (1 ≤ D.sigcnt ∧ D.sigcnt ≤ D.arrived ∧ D.pending = 0) → Completes (.bdrop l m n) s (putBar s key D)) ∧
          (1 ≤ D.sigcnt → D.sigcnt ≤ D.arrived → D.pending = 0 →
            let E := { D with phase := D.phase + 1, arrived := 0, lstatus := D.status, status := 0 }
            Completes (.bdrop l m n) s (wakePhase (putBar s key E) key E)))) ∧
      ((B.kind = .free ∨ count = 0 ∨ (B.kind = .lock ∧ m ≠ 2) ∨
          (B.sigcnt + B.wcnt = 1 ∧ (B.pending ≠ 0 ∨ parkedOn s key = true ∨ B.held = true))) →
        Traps (.bdrop l m n) s (Trap.of .barrierState))) ∧
    (B.kind = .phaser → x < 2 ^ 40 → B.pending + x < 2 ^ 40 →
      Completes (.bexp a l n) s (putBar s key { B with pending := B.pending + x })) ∧
    ((B.kind ≠ .phaser ∨ 2 ^ 40 ≤ x ∨ 2 ^ 40 ≤ B.pending + x) → Traps (.bexp a l n) s (Trap.of .barrierState)) ∧
    (B.kind ≠ .free → ∃ v : Word, Completes (.btest b l n) s (setS s b v) ∧
      v.extractLsb' 32 32 = (if B.kind = .phaser then B.phase else 0) ∧
      (v.extractLsb' 16 16).toNat = (if B.kind = .phaser then min B.arrived 0xFFFF else 0) ∧
      v.getLsbD 11 = (decide (B.kind = .phaser) && decide (B.pending = 0)) ∧
      v.getLsbD 10 = ((decide (B.kind = .future) && B.full) || (decide (B.kind = .lock) && B.held)) ∧
      v.extractLsb' 8 2 = (match B.kind with | .free => 0 | .phaser => 1 | .future => 2 | .lock => 3) ∧
      v.extractLsb' 4 4 = (if B.kind = .phaser then B.lstatus else 0) ∧
      v.extractLsb' 0 4 = (if B.kind = .phaser then B.status else 0)) ∧
    (B.kind = .free → Traps (.btest b l n) s (Trap.of .barrierState))

/-- One arrival at a phaser raises ARRIVED, or sets EXCESS and counts nothing where SIGCNT is already reached; then, when SIGCNT
is at least 1 and reached and PENDING is 0, PHASE rises by one, ARRIVED and STATUS become 0 and LSTATUS takes STATUS. Every
context parked for a phase that this completes receives its status word and is parked no more; no other context and no other
barrier changes. Among events of one cycle (which ones share a cycle is free: log entry 87) the arrival is counted, or sets
EXCESS, at once and the test of its barrier follows them all: at the end of the cycle a barrier that is owed one completes its
phase once if the test passes. -/
def Obligations.ArrivalsCompletePhases : Prop :=
  ∀ (s : State) (key : BarKey), (getBar s key).kind = .phaser → (key.level = 0 → key.num < 32) →
    let B := getBar s key
    let A : Barrier := if B.sigcnt ≤ B.arrived then { B with status := B.status ||| 4 } else { B with arrived := B.arrived + 1 }
    let tested (A : Barrier) : Barrier :=
      if 1 ≤ A.sigcnt ∧ A.sigcnt ≤ A.arrived ∧ A.pending = 0 then
        { A with phase := A.phase + 1, arrived := 0, lstatus := A.status, status := 0 } else A
    let C := tested A
    let t := arrive s key false false
    (s.oneCycle = true → getBar t key = A ∧ (assocGet t.dueBars key).isSome = true ∧ (∀ key', key' ≠ key → getBar t key' = getBar s key') ∧
      t.mem = s.mem ∧ ∀ d m, (getCore t d m).ctx = (getCore s d m).ctx) ∧
    (s.oneCycle = true → s.dueBars = [(key, false)] → getBar (endCycle s) key = tested B ∧ (endCycle s).oneCycle = false) ∧
    (s.oneCycle = false → getBar t key = C ∧ (∀ key', key' ≠ key → getBar t key' = getBar s key') ∧ t.mem = s.mem ∧ t.reds = s.reds ∧
      ∀ d m, (getCore t d m).ctx =
        match (getCore s d m).ctx.park with
        | some (.phase key' token _ dst _) =>
          if key' = key ∧ C.phase ≠ B.phase ∧ 1 ≤ (C.phase - token).toNat ∧ (C.phase - token).toNat < 2 ^ 31 then
            giveWake (getCore s d m).ctx dst (statusWord C token) else (getCore s d m).ctx
        | _ => (getCore s d m).ctx)

/-- At a named barrier of their kind: BARR gives the phase arrived in after one arrival behind its release, which waits until
every access of the context is performed and at module and pod level writes all bytes the die holds home (log entry 25). BWAIT
of a completed phase and BARW whose arrival completes it write the status word; otherwise the context parks with WAIT 1 and
its pc stays. FSET, behind its release, fills an empty future and wakes the contexts that wait for it; FGET of a full one
reads its value and of an empty one parks with WAIT 2. LWAIT takes a lock that nothing holds and gives ABANDONED, and parks
with WAIT 3 on one that another holds, LENT at least its effective priority; LREL, behind its release, frees a lock that no
one waits for, and HOLDER stays, or hands it to the first waiter of the highest priority, which gets ABANDONED, LENT then the
highest priority still waiting. At module and pod level a completed wait also drops every copy of the die (log entry 91).
BARRIER_WAKE, at every level, runs a context on past its instruction once it has its value and drops the die's copies. No
event shares the cycle (log entry 87). Another kind, a lock held by itself or not held, traps with barrier state; a reserved
level, a number past the level's count and a barrier that is not allotted trap as for the members' words. -/
def Obligations.WaitsCompleteOrPark : Prop :=
  ∀ (s : State) (a b n : BitVec 5) (l : BitVec 3) (key : BarKey),
    let B := getBar s key
    let c := s.core.ctx
    let me := c.ctxId.extractLsb' 0 48
    let token := (sreg s a).extractLsb' 0 32
    let parks (i : Instr) (u : State) (w : Wait) (p : Park) : Prop := ∃ t, Happens i s t ∧
      Sequenced (modCtx u fun c => { c with state := .waiting, wait := w, park := some p }) t ∧ t.core.ctx.pc = c.pc
    let word (v : Word) (p : BitVec 32) (C : Barrier) : Prop := v.extractLsb' 32 32 = p ∧
      (C.phase = p + 1 → v.extractLsb' 0 32 = C.lstatus.setWidth 32) ∧ (C.phase ≠ p + 1 → v.extractLsb' 0 32 = 16)
    let dropped (u : State) : State := { u with copies := u.copies.filter fun x => !decide (x.die = s.core.die) }
    let acq (u : State) : State := if 3 ≤ key.level then dropped u else u
    let rel : State := if 3 ≤ key.level then flushDie s s.core.die else s
    (c.state = .waiting → c.park = none → c.wait ≠ .done → s.core.stopping = false →
      Completes .barrierWake s (modCtx (dropped s) fun c => { c with state := .running, wait := .none })) ∧
    (fenceHeld c = false →
      let num := if l = 0 then n.toNat else (sreg s n).toNat
      let words (t : Trap) : Prop := Traps (.barr b l n) s t ∧ Traps (.bwait a b l n) s t ∧ Traps (.barw b l n) s t ∧
        Traps (.fset a l n) s t ∧ Traps (.fget b l n) s t ∧ Traps (.lwait b l n) s t ∧ Traps (.lrel l n) s t
      (4 < l.toNat → words (Trap.of .illegalInstruction)) ∧
      (l.toNat ≤ 4 → barCount l.toNat ≤ num → words (Trap.of .commandLimit)) ∧
      (l.toNat ≤ 4 → num < barCount l.toNat → allotted s (barKey l.toNat s.core.die s.core.num num) c.aspace = false →
        words (Trap.of .permission))) ∧
    (fenceHeld c = false → s.oneCycle = false → barNamed s l n = .ok key → barReachable s key = true →
      (B.kind = .phaser →
        (accessesDone s = true →
          Completes (.barr b l n) s (setS (arrive rel key false false) b (B.phase.setWidth 64)) ∧
          (let u := arrive rel key false false;
            ((getBar u key).phase = B.phase + 1 →
              ∃ v, Completes (.barw b l n) s (acq (setS u b v)) ∧ word v B.phase (getBar u key)) ∧
            ((getBar u key).phase = B.phase →
              ∃ w, Happens (.barw b l n) s w ∧ w.core.ctx.state = .waiting ∧ w.core.ctx.park = some (.phase key B.phase b b true) ∧
                w.core.ctx.pc = u.core.ctx.pc ∧ sreg w b = if b = 0 then 0 else B.phase ++ (0 : BitVec 32)))) ∧
        (accessesDone s = false → Waits (.barr b l n) s ∧ Waits (.barw b l n) s) ∧
        (1 ≤ (B.phase - token).toNat ∧ (B.phase - token).toNat < 2 ^ 31 →
          ∃ v, Completes (.bwait a b l n) s (acq (setS s b v)) ∧ word v token B) ∧
        (¬ (1 ≤ (B.phase - token).toNat ∧ (B.phase - token).toNat < 2 ^ 31) →
          parks (.bwait a b l n) s .barrier (.phase key token a b false))) ∧
      (B.kind ≠ .phaser → Traps (.barr b l n) s (Trap.of .barrierState) ∧ Traps (.bwait a b l n) s (Trap.of .barrierState) ∧
        Traps (.barw b l n) s (Trap.of .barrierState)) ∧
      (B.kind = .future → B.full = false →
        (accessesDone s = true →
          Completes (.fset a l n) s (wakeFuture (putBar rel key { B with value := sreg s a, full := true }) key (sreg s a))) ∧
        (accessesDone s = false → Waits (.fset a l n) s) ∧ parks (.fget b l n) s .future (.future key b)) ∧
      (B.kind = .future → B.full = true → Completes (.fget b l n) s (acq (setS s b B.value))) ∧
      ((B.kind ≠ .future ∨ B.full = true) → Traps (.fset a l n) s (Trap.of .barrierState)) ∧
      (B.kind ≠ .future → Traps (.fget b l n) s (Trap.of .barrierState)) ∧
      (B.kind = .lock → B.held = false → Completes (.lwait b l n) s (acq (setS (putBar s key { B with
          held := true, holder := me, hgroup := c.groupId.extractLsb' 0 16, abandoned := false }) b (if B.abandoned then 1 else 0)))) ∧
      (B.kind = .lock → B.held = true → B.holder ≠ me → ∃ t, Happens (.lwait b l n) s t ∧ t.core.ctx.state = .waiting ∧
        t.core.ctx.wait = .lock ∧ t.core.ctx.pc = c.pc ∧
        let p := BitVec.ofNat 8 (effPrio s c)
        t.core.ctx.park = some (.lock key b p s.order) ∧ (getBar t key).lent = if B.lent.toNat < p.toNat then p else B.lent) ∧
      (B.kind = .lock → B.held = true → B.holder = me → Traps (.lwait b l n) s (Trap.of .barrierState) ∧
        (accessesDone s = false → Waits (.lrel l n) s) ∧
        (accessesDone s = true → lockWaiters s key = [] → Completes (.lrel l n) s
          (putBar rel key { B with lent := 0, held := false, abandoned := false })) ∧
        (accessesDone s = true → ∀ w ∈ lockWaiters s key,
          (∀ x ∈ lockWaiters s key, x ≠ w → x.prio.toNat < w.prio.toNat ∨ (x.prio = w.prio ∧ w.order < x.order)) →
          ∃ u, Completes (.lrel l n) s u ∧ u.mem = rel.mem ∧
            getBar u key = { B with lent := topPrio ((lockWaiters s key).filter fun x => x.order != w.order)
                                    held := true, abandoned := false, holder := w.holder, hgroup := w.group } ∧
            (∀ key', key' ≠ key → getBar u key' = getBar s key') ∧
            ∀ d m, (getCore u d m).ctx =
              match (getCore s d m).ctx.park with
              | some (.lock key' dst _ o) => if key' = key ∧ o = w.order
                then giveWake (getCore s d m).ctx dst (if B.abandoned then 1 else 0) else (getCore s d m).ctx
              | _ => (getCore s d m).ctx)) ∧
      ((B.kind ≠ .lock ∨ B.held = false ∨ B.holder ≠ me) → Traps (.lrel l n) s (Trap.of .barrierState)) ∧
      (B.kind ≠ .lock → Traps (.lwait b l n) s (Trap.of .barrierState)))

/-- With no FENCE mark queued: PREQ of a page with a right answers 1 for a resident page, signalling the named core barrier; 0 for
a stored page, whose promotion enters the table, its copy not yet started (log entry 57), and whose leaf becomes promoting; 2
for a page under promotion, whose requests it joins; 3 when the table is full; 4 for a stored page of a part without the
Quesar; 5 for an absent page, which it notifies unless it is queued; and traps with permission or the walk's cause. PCANCEL
leaves no request of its kernel in a chosen promotion that has not started and answers how many were removed and how many
remain; of a promotion with one request, it returns the page to stored and signals the requester's barrier. PHARV writes the
dirty marks of every page that meets the range into their descriptors and answers 0 where no leaf's notification was dropped. -/
def Obligations.PageRequestsComplete : Prop :=
  ∀ (s : State) (a b n : BitVec 5) (e l : BitVec 1), fenceHeld s.core.ctx = false →
    let c := s.core.ctx
    let va := (sreg s a).toNat
    let die := s.core.die
    let bar := if e = 1 then some n.toNat else none
    let mine : Request := ⟨die, s.core.num, c.kernelId, .preq c.ctxId bar⟩
    let join (p : Promotion) : Promotion :=
      if p.covers c.aspace va then { p with reqs := p.reqs ++ [mine] } else p
    let sel (p : Promotion) : Bool := l == 1 || p.covers c.aspace va
    let inRange (lo hi : Nat) (m : BitVec 12 × BitVec 52) : Bool :=
      m.1 == c.aspace && decide (lo < m.2.toNat * 4096 + markSize s m) && decide (m.2.toNat * 4096 < hi)
    (∀ leaf, (Instr.preq a b e n).wf = true → walk s c.aspace va = .ok leaf → (dR leaf.desc || dW leaf.desc) = true →
      (dState leaf.desc = 1 → e = 0 → Completes (.preq a b e n) s (setS s b 1)) ∧
      (dState leaf.desc = 1 → e = 1 → (getBar s (coreBar die s.core.num n.toNat)).kind = .phaser →
        Completes (.preq a b e n) s (setS (arrive s (coreBar die s.core.num n.toNat) false false) b 1)) ∧
      (dState leaf.desc = 2 → capsQuesar s = true → tableUsed s die < 4096 →
        (∀ i, i < 16 → canonPa s (leaf.addr + i) = leaf.addr + i) →
        ∃ u p, Completes (.preq a b e n) s (setS u b 0) ∧ u.promos = s.promos ++ [p] ∧ p.aspace = c.aspace ∧
          p.started = false ∧ p.reqs = [mine] ∧ rdDesc u leaf.addr = dWithState leaf.desc 4 ∧
          ∀ x, (x < leaf.addr ∨ leaf.addr + 16 ≤ x) → memRead u.mem x = memRead s.mem x) ∧
      (dState leaf.desc = 4 → tableUsed s die < 4096 → Completes (.preq a b e n) s (setS { s with promos := s.promos.map join } b 2)) ∧
      ((dState leaf.desc = 4 ∨ (dState leaf.desc = 2 ∧ capsQuesar s = true)) → 4096 ≤ tableUsed s die →
        Completes (.preq a b e n) s (setS s b 3)) ∧
      (dState leaf.desc = 2 → capsQuesar s = false → Completes (.preq a b e n) s (setS s b 4)) ∧
      (dState leaf.desc = 3 → Completes (.preq a b e n) s (setS (notifyPage s die c.aspace leaf va 2) b 5) ∧
        (dQueued leaf.desc = true → Completes (.preq a b e n) s (setS s b 5)))) ∧
    (∀ leaf, (Instr.preq a b e n).wf = true → walk s c.aspace va = .ok leaf → dR leaf.desc = false → dW leaf.desc = false →
      Traps (.preq a b e n) s (Trap.at .permission va)) ∧
    (∀ x, (Instr.preq a b e n).wf = true → walk s c.aspace va = .error x → Traps (.preq a b e n) s (Trap.at x va)) ∧
    (∃ u, Completes (.pcancel a b l) s (setS u b (BitVec.ofNat 32 (countReqs s (fun p => sel p && p.started) c.kernelId) ++
        BitVec.ofNat 32 (countReqs s (fun p => sel p && !p.started) c.kernelId))) ∧
      ∀ p ∈ u.promos, sel p = true → p.started = false → ∀ r ∈ p.reqs, r.kernelId ≠ c.kernelId) ∧
    (∀ p i m leaf k, s.promos = [p] → sel p = true → p.started = false → s.reds = [] →
      p.reqs = [⟨die, s.core.num, c.kernelId, .preq i (some m)⟩] → kernelById s c.kernelId = some k → k.state = .running →
      (getBar s (coreBar die s.core.num m)).kind = .phaser →
      walk s p.aspace p.va.toNat = .ok leaf → dState leaf.desc = 4 →
      Completes (.pcancel a b l) s
        (setS (arrive { wrDesc s leaf.addr (dWithState leaf.desc 2) with promos := [] } (coreBar die s.core.num m) false false) b 1)) ∧
    let len := (sreg s b).toNat
    let lo := if len = 0 then 0 else va / 4096 * 4096
    let hi := if len = 0 then 2 ^ 52 else roundUp (va + len) 4096
    ∃ u v, Completes (.pharv a b) s (setS u b v) ∧
      (∀ k ∈ allCores u, ∀ m ∈ k.tlbDirty, inRange lo hi m = false) ∧ u.core.ctx = c ∧
      ((∀ x ∈ leavesIn (flushMarks s (inRange lo hi)) c.aspace lo hi,
          dOvf (rdDesc (flushMarks s (inRange lo hi)) x.2.addr) = false) → v = 0 ∧ u.mem = (flushMarks s (inRange lo hi)).mem)

/-- PROMOTION_COMPLETE starts a copy that has not started (its two steps are the model's, log entry 57). A started one whose walk
finds its leaf still moving leaves the table; its page is resident at TFRAME, which holds the bytes of the stored frame, and
every handle of its address space that covers the page is invalid, also those that a trap of a queued vector instruction
returns to. PROMOTION_FAILED of a started one takes it from the table and takes away the REDs that waited for its page. A
write of SHOOT by the module's owner with bit 0 set drops the handles of the page that its ASPACE, page and SIZE fields name,
and puts that shoot-down among those under way; it ends, clears its bit and raises MSI-X vector 7, or sets the Pending Bit of
a masked one, when its last use has ended (shootOver, log entry 58, DEDUCED: queued vector instructions, search commands, and
REDs but those that wait for a promotion). -/
def Obligations.PromotionsAndShootDownsEnd : Prop :=
  let gone (t : State) (aspace : BitVec 12) (vpage : BitVec 52) (size : BitVec 4) : Prop :=
    ∀ k ∈ allCores t, ∀ c ∈ k.ctx :: k.shadows, c.aspace = aspace → ∀ h, h < 16 →
      (vget c.h h Handle.invalid).names vpage size = false ∧
      ∀ i o x, VecEntry.instr i o x ∈ c.vq → (vget x.h h Handle.invalid).names vpage size = false
  (∀ (s : State) (k : Nat) (p : Promotion), s.promos[k]? = some p →
    (p.started = false → Happens (.promotionComplete k) s { s with promos := s.promos.set k { p with started := true } } ∧
      Happens (.promotionFailed k) s s) ∧
    (∀ l, p.started = true → walk s p.aspace p.va.toNat = .ok l → dState l.desc = 4 → (∀ r ∈ p.reqs, ∀ i n, r.asker ≠ .preq i (some n)) →
      Memory.wf s.mem = true →
      (∀ c ∈ allCores s, c.tlbDirty = []) → (∀ i, i < 16 → canonPa s (l.addr + i) = l.addr + i) →
      let n := 4096 * 2 ^ dSize l.desc
      ∃ t, Happens (.promotionComplete k) s t ∧ t.promos = s.promos.filter (fun q => !decide (q = p)) ∧
        (∀ i, i < n → (dTframe l.desc + i < l.addr ∨ l.addr + 16 ≤ dTframe l.desc + i) →
          memRead t.mem (dTframe l.desc + i) = memRead s.mem (dFrame l.desc + i)) ∧
        dState (rdDesc t l.addr) = 1 ∧ dFrame (rdDesc t l.addr) = dTframe l.desc ∧
        gone t p.aspace (BitVec.ofNat 52 (p.va.toNat / 4096)) p.size) ∧
    (p.started = true → ∃ t, Happens (.promotionFailed k) s t ∧ t.promos = s.promos.filter (fun q => !decide (q = p)) ∧
      t.reds = s.reds.filter fun r => !(r.waits && p.covers r.aspace r.va.toNat))) ∧
  (∀ (s : State) (m : Nat) (v : Word), s.recovery = false → s.mgmt.owner.toNat = m → m ≠ 0 → v.getLsbD 0 = true →
    s.pageCtl.shoot.getLsbD 0 = false → ∃ t, Happens (.shoot m v) s t ∧
      t.shoots = s.shoots ++ [⟨v.extractLsb' 52 12, (v.extractLsb' 12 40).zeroExtend 52, v.extractLsb' 4 4, true⟩] ∧
      t.pageCtl.shoot.getLsbD 0 = true ∧
      gone t (v.extractLsb' 52 12) ((v.extractLsb' 12 40).zeroExtend 52) (v.extractLsb' 4 4)) ∧
  ∀ (s : State) (k : Nat) (d : ShootDown), s.shoots[k]? = some d →
    (shootOver s d = false → Happens (.shootDownComplete k) s s) ∧
    (shootOver s d = true → ∃ t, Happens (.shootDownComplete k) s t ∧ t.shoots = s.shoots.eraseIdx k ∧ t.mem = s.mem ∧
      t.core = s.core ∧ (d.bySystem = true → t.pageCtl.shoot.getLsbD 0 = false ∧
        (msixMasked s 0 7 = false → t.msix = s.msix ++ [(0, 7)]) ∧
        (msixMasked s 0 7 = true → t.msix = s.msix ∧ (vget t.msixPend 0 0).getLsbD 7 = true)) ∧
      (d.bySystem = false → t.pageCtl = s.pageCtl ∧ t.msix = s.msix))

/-- With no FENCE mark queued: where its checks fail, each traps with the cause they give and changes no table. Where they pass,
it waits until every access of the context is performed and writes home all the bytes that the die holds (log entry 25); then
BTMAP into a table page of one root, and BTUNMAP of one block there, write the block's table entry, and every other byte of
memory keeps its value. Into a table page of more roots they write the entry of a copy, a page of the pool: the root entry
names the copy, whose count is 1, the old page's count drops by 1, and nothing else changes. BTMAP of a new sequence makes its
directory entry, a root page and a table page with the block's entry. BTFORK gives the destination tag a valid directory entry
of the same address space and block size with no window, a copy of the root page, which it takes from the pool, and one more
root to each table page. -/
def Obligations.BlockTablesComplete : Prop :=
  ∀ (s : State) (a b : BitVec 5) (h : BitVec 4) (n : BitVec 10), fenceHeld s.core.ctx = false →
    let t := flushDie s s.core.die
    let ok := accessesDone s = true
    let x := (sreg s a).toNat
    let y := (sreg s b).toNat
    let l := y % 2 ^ 32
    let H := hreg s h
    let e := rdDir s (x % 2 ^ 32)
    let at_ (p : Nat) : Nat := p + 8 * (l % 512)
    let written (u : State) (p v : Nat) : Prop := rdHomeNat u (at_ p) 8 = v % 2 ^ 64 ∧
      ∀ z, (z < at_ p ∨ at_ p + 8 ≤ z) → memRead u.mem z = memRead t.mem z
    let flat (p n : Nat) : Prop := ∀ i, i < n → canonPa t (p + i) = p + i
    let plain (p : Nat) : Prop := flat (at_ p) 8
    let apart (p n q m : Nat) : Prop := p + n ≤ q ∨ q + m ≤ p
    let R := eRoot e
    let rootAt := R + 8 * (l / 512)
    let whole : Prop := s.heldBytes = [] ∧ Memory.wf s.mem = true
    let shared (u : State) (p v : Nat) : Prop :=
      let q := t.pageCtl.tpfree.toNat
      let cp := countAddr t p
      let cq := countAddr t q
      whole → flat q 4096 → flat cp 4 → flat cq 4 → flat rootAt 8 → apart cp 4 q 4096 → apart cq 4 q 4096 → apart cp 4 cq 4 →
        apart rootAt 8 q 4096 → apart rootAt 8 cp 4 → apart rootAt 8 cq 4 →
      rdHomeNat u (at_ q) 8 = v % 2 ^ 64 ∧ rdHomeNat u rootAt 8 = (2 ^ 63 + q) % 2 ^ 64 ∧
        rdHomeNat u cp 4 = pageCount t p - 1 ∧ rdHomeNat u cq 4 = 1 ∧
        (∀ i, i < 4096 → (i < 8 * (l % 512) ∨ 8 * (l % 512) + 8 ≤ i) → memRead u.mem (q + i) = memRead t.mem (p + i)) ∧
        ∀ z, apart z 1 q 4096 → apart z 1 cp 4 → apart z 1 cq 4 → apart z 1 rootAt 8 → memRead u.mem z = memRead t.mem z
    (∀ f, btmapDo s x y H = .ok f → (¬ ok → Waits (.btmap a b h) s) ∧ (ok → Completes (.btmap a b h) s (f t)) ∧
      ∀ p, eValid e = true → tablePage t (eRoot e) l = some p → pageCount t p ≤ 1 → plain p →
        written (f t) p (2 ^ 63 + H.base + y / 2 ^ 32)) ∧
    (∀ f, btmapDo s x y H = .ok f → ∀ p, eValid e = true → tablePage t R l = some p → 1 < pageCount t p → flat p 4096 →
      apart p 4096 t.pageCtl.tpfree.toNat 4096 → shared (f t) p (2 ^ 63 + H.base + y / 2 ^ 32)) ∧
    (∀ f, btmapDo s x y H = .ok f → eValid e = false →
      let root := t.pageCtl.tpfree.toNat
      let q := rdHomeNat t root 8
      let D := dirAddr t (x % 2 ^ 32)
      let cq := countAddr t q
      flat root 4096 → flat q 4096 → flat cq 4 → flat D 16 → root % 4096 = 0 → root < 2 ^ 52 → apart root 4096 q 4096 →
        apart D 16 root 4096 → apart D 16 q 4096 → apart D 16 cq 4 → apart cq 4 root 4096 → apart cq 4 q 4096 →
      let g := rdDir (f t) (x % 2 ^ 32)
      eValid g = true ∧ eAspace g = s.core.ctx.aspace ∧ eRoot g = root ∧ eBlkb g = natBits x 43 32 ∧
        rdHomeNat (f t) (root + 8 * (l / 512)) 8 = (2 ^ 63 + q) % 2 ^ 64 ∧ rdHomeNat (f t) cq 4 = 1 ∧
        rdHomeNat (f t) (at_ q) 8 = (2 ^ 63 + H.base + y / 2 ^ 32) % 2 ^ 64) ∧
    (∀ q, btmapDo s x y H = .error q → Traps (.btmap a b h) s q) ∧
    (∀ f, btunmapDo s x y n.toNat = .ok f → (¬ ok → Waits (.btunmap a b n) s) ∧ (ok → Completes (.btunmap a b n) s (f t)) ∧
      ∀ p, n = 0 → y < 2 ^ 32 → (tableEntry s (eRoot e) l).testBit 63 = true → tablePage t (eRoot e) l = some p → pageCount t p ≤ 1 →
        plain p → written (f t) p 0) ∧
    (∀ f, btunmapDo s x y n.toNat = .ok f → ∀ p, n = 0 → y < 2 ^ 32 → (tableEntry s R l).testBit 63 = true → tablePage t R l = some p →
      1 < pageCount t p → flat p 4096 → apart p 4096 t.pageCtl.tpfree.toNat 4096 → shared (f t) p 0) ∧
    (∀ q, btunmapDo s x y n.toNat = .error q → Traps (.btunmap a b n) s q) ∧
    (∀ f, btforkDo s x y = .ok f → (¬ ok → Waits (.btfork a b) s) ∧ (ok → Completes (.btfork a b) s (f t)) ∧
      ((∀ i, i < 16 → canonPa t (dirAddr t y + i) = dirAddr t y + i) →
        let g := rdDir (f t) y
        eValid g = true ∧ eAspace g = eAspace (rdDir s x) ∧ eBlkb g = eBlkb (rdDir s x) ∧ eWindow g = 0 ∧
        (f t).pageCtl.tpfree = BitVec.ofNat 64 (rdHomeNat t t.pageCtl.tpfree.toNat 8)) ∧
      let old := eRoot (rdDir s x)
      let new := t.pageCtl.tpfree.toNat
      let named := tablesOf t old
      whole → flat old 4096 → flat new 4096 → flat (dirAddr t y) 16 → apart old 4096 new 4096 → apart (dirAddr t y) 16 new 4096 →
        (∀ p ∈ named, flat (countAddr t p) 4 ∧ apart (countAddr t p) 4 new 4096 ∧ apart (countAddr t p) 4 (dirAddr t y) 16) →
      (new % 4096 = 0 → new < 2 ^ 52 → eRoot (rdDir (f t) y) = new) ∧
      (∀ i, i < 4096 → memRead (f t).mem (new + i) = memRead t.mem (old + i)) ∧
      ∀ p ∈ named, (named.countP fun q => countAddr t q == countAddr t p) = 1 →
        rdHomeNat (f t) (countAddr t p) 4 = (pageCount t p + 1) % 2 ^ 32) ∧
    ∀ q, btforkDo s x y = .error q → Traps (.btfork a b) s q

/-- With no FENCE mark queued and no stall at a window instruction begun: WOPEN whose checks pass, with no use of the pool page
left, opens the window: its directory entry shows OPEN, the first block, the number of blocks and a WNUM one higher, which
s(d) takes; the page holds the record and a copy of each span block, which the span's table entries name; with a use left it
waits; a failing check traps. WCOMMIT and WABORT of a window that is not open, of another WNUM, or that another context is
closing, answer 1 and change nothing else; of an open one, keeping at most NMAX tokens, they mark it as closing and, once its
writers and the context's accesses have ended, write home all the bytes the die holds (log entry 25) and drop its copies (log
entry 91), WABORT too (log entry 60), and close it: the kept tokens' bytes stand in the committed blocks, the last checkpoint
in the slot, the span entries name the blocks again, no other byte changes, and the page is left to be cleared. WSTAT gives
the directory's WINDOW field and CLOSING. POOL_CLEAR_COMPLETE zeroes the used bytes and gives the page free. The bytes are
stated of memory in which the structures lie apart, with no table page shared. -/
def Obligations.WindowsOpenAndClose : Prop :=
  ∀ (s : State) (a b d : BitVec 5) (h : BitVec 4), fenceHeld s.core.ctx = false → s.core.ctx.inWindow = false →
    let x := (sreg s a).toNat
    let tag := x % 2 ^ 32
    let c := s.core.ctx
    let e := rdDir s tag
    let plain (tag : Nat) : Prop := ∀ i, i < 16 → canonPa s (dirAddr s tag + i) = dirAddr s tag + i
    let waits (i : Instr) (ws : List Window) : Prop := ∃ t, Happens i s t ∧
      Sequenced { modCtx s (fun c => { c with inWindow := true, awaitClose := false }) with windows := ws } t ∧ t.core.ctx.pc = c.pc
    let apart (x y : Nat × Nat) : Prop := x.1 + x.2 ≤ y.1 ∨ y.1 + y.2 ≤ x.1
    let tidy (writes reads : List (Nat × Nat)) : Prop :=
      s.heldBytes = [] ∧ Memory.wf s.mem = true ∧ (∀ k ∈ allCores s, k.tlbDirty = []) ∧
        (∀ r ∈ writes ++ reads, ∀ i, i < r.2 → canonPa s (r.1 + i) = r.1 + i) ∧ writes.Pairwise apart ∧
        ∀ x ∈ writes, ∀ y ∈ reads, apart x y
    let R := eRoot e
    let B := eBlkb e
    let tableOf (l : Nat) : Nat := (tablePage s R l).getD 0
    let entryAt (l : Nat) : Nat × Nat := (tableOf l + 8 * (l % 512), 8)
    let entries (l n : Nat) : List (Nat × Nat) := (List.range n).map fun i => entryAt (l + i)
    let tables (l n : Nat) : List (Nat × Nat) :=
      (List.range n).flatMap fun i => [(R + 8 * ((l + i) / 512), 8), (countAddr s (tableOf (l + i)), 4)]
    let sole (l n : Nat) : Prop := ∀ i, i < n → tablePage s R (l + i) = some (tableOf (l + i)) ∧ pageCount s (tableOf (l + i)) ≤ 1
    (∀ w, wopenCheck s x (sreg s b) (hreg s h) = .ok w →
      (shootFree s c.aspace w.H.vpage w.H.size = false → waits (.wopen a b d h) s.windows) ∧
      (shootFree s c.aspace w.H.vpage w.H.size = true →
        ∃ u, Completes (.wopen a b d h) s (setS u d ((eWnum e + 1).setWidth 64)) ∧ u.core.ctx.s = c.s ∧
          u.windows.length = s.windows.length + 1 ∧
          (∃ v ∈ u.windows, v.tag.toNat = tag ∧ v.pool = (hreg s h).base ∧ v.closer = none ∧ v.clearing = false) ∧
          (plain tag → let g := rdDir u tag
            eValid g = true ∧ eOpen g = true ∧ eWnum g = eWnum e + 1 ∧ eNb g = w.nb ∧ eL0 g = w.l0 ∧ eRoot g = eRoot e ∧
            eBlkb g = eBlkb e) ∧
          let pool := (hreg s h).base
          let block (i : Nat) : Nat := blockOf (tableEntry s R (w.l0 + i))
          let draft (i : Nat) : Nat := pool + 256 + i * 256 * B
          tidy ((pool, (hreg s h).pageSize) :: (dirAddr s tag, 16) :: entries w.l0 w.nb)
              (tables w.l0 w.nb ++ (List.range w.nb).map fun i => (block i, 256 * B)) → sole w.l0 w.nb →
            rdHomeNat u pool 8 = w.p0 ∧ rdHomeNat u (pool + 8) 1 = w.nmax ∧ rdHomeNat u (pool + 9) 1 = w.ck ∧
            rdHomeNat u (pool + 10) 1 = s.core.die % 256 ∧ rdHomeNat u (pool + 11) 1 = (eWnum e + 1).toNat ∧
            ∀ i, i < w.nb → rdHomeNat u (pool + 16 + 8 * i) 8 = tableEntry s R (w.l0 + i) ∧
              tableEntry u R (w.l0 + i) = (2 ^ 63 + 2 ^ 62 + draft i) % 2 ^ 64 ∧
              ∀ j, j < 256 * B → memRead u.mem (draft i + j) = memRead s.mem (block i + j))) ∧
    (∀ q, wopenCheck s x (sreg s b) (hreg s h) = .error q →
      Happens (.wopen a b d h) s (takeTrap (modCtx s fun c => { c with awaitClose := false }) q)) ∧
    (∀ (i : Instr) (kept : Nat), (i = .wcommit a b d ∧ kept = (sreg s b).toNat) ∨ (i = .wabort a d ∧ kept = 0) →
      (∀ q, dirValid s c.aspace tag = .error q → Traps i s (Trap.of q)) ∧
      (dirValid s c.aspace tag = .ok e → x < 2 ^ 40 → kept < 2 ^ 6 →
        (openWindow s c.aspace tag = none ∨ eOpen e = false ∨ (eWnum e).toNat ≠ natBits x 39 32 → Completes i s (setS s d 1)) ∧
        ∀ w, openWindow s c.aspace tag = some w → eOpen e = true → (eWnum e).toNat = natBits x 39 32 →
          (∀ y, w.closer = some y → y.ctxId ≠ c.ctxId → Completes i s (setS s d 1)) ∧
          (w.closer = none →
            let me : Closer := ⟨c.ctxId, c.kernelId, s.core.die, s.core.num, kept⟩
            (rdHomeNat s (w.pool + 8) 1 < kept → Traps i s (Trap.of .windowState)) ∧
            (kept ≤ rdHomeNat s (w.pool + 8) 1 → closeReady s w me = false →
              waits i (s.windows.map fun v => if v = w then { w with closer := some me } else v)) ∧
            (kept ≤ rdHomeNat s (w.pool + 8) 1 → closeReady s w me = true →
              ∃ u v, Completes i s (setS u d v) ∧ (v = 0 ∨ v = 2) ∧ (s.badLines = [] → v = 0) ∧
                { w with closer := some me, clearing := true } ∈ u.windows ∧ (∀ y ∈ u.windows, y ≠ w) ∧
                (∀ y ∈ u.heldBytes, y.die ≠ s.core.die) ∧
                (∀ y ∈ u.copies, y.die ≠ s.core.die) ∧
                (plain tag → eOpen (rdDir u tag) = false ∧ eWnum (rdDir u tag) = eWnum e ∧ eValid (rdDir u tag) = true) ∧
                let p0 := rdHomeNat s w.pool 8
                let ck := ckSize (rdHomeNat s (w.pool + 9) 1)
                let slot := (rdHomeNat s (w.pool + 0x28) 8, ck)
                let block (k : Nat) : Nat := w.blocks.getD k 0
                let place (i : Nat) : Nat := (p0 + i) % 16 * (16 * B)
                let nth (i : Nat) : Nat := (p0 + i) / 16 - eL0 e
                let fixed := (dirAddr s tag, 16) :: entries (eL0 e) (eNb e)
                tidy (fixed ++ slot :: (List.range (eNb e)).map fun k => (block k, 256 * B))
                    ((w.pool, ckOff (eNb e) B + kept * ck) :: tables (eL0 e) (eNb e)) → sole (eL0 e) (eNb e) →
                  (∀ i, i < kept → eL0 e ≤ (p0 + i) / 16 ∧ (p0 + i) / 16 < eL0 e + eNb e) → s.badLines = [] →
                  (∀ i, i < kept → ∀ j, j < 16 * B →
                    memRead u.mem (block (nth i) + place i + j) = memRead s.mem (w.pool + draftOff (nth i) B + place i + j)) ∧
                  (1 ≤ kept → ∀ j, j < ck → memRead u.mem (slot.1 + j) =
                    memRead s.mem (w.pool + ckOff (eNb e) B + (kept - 1) * ck + j)) ∧
                  (∀ i, i < eNb e → tableEntry u R (eL0 e + i) = (2 ^ 63 + block i) % 2 ^ 64) ∧
                  ∀ z, (∀ r ∈ fixed, apart (z, 1) r) → (1 ≤ kept → apart (z, 1) slot) →
                    (∀ i, i < kept → apart (z, 1) (block (nth i) + place i, 16 * B)) → memRead u.mem z = memRead s.mem z))) ∧
      (dirValid s c.aspace tag = .ok e → 2 ^ 40 ≤ x ∨ 2 ^ 6 ≤ kept → Traps i s (Trap.of .windowState))) ∧
    (∀ g, x < 2 ^ 32 → dirFor s c.aspace x = .ok g →
      ∃ v : Word, Completes (.wstat a d) s (setS s d v) ∧ v.extractLsb' 0 32 = (if eValid g then eWindow g else 0) ∧
        v.getLsbD 32 = (eValid g && s.windows.any fun w =>
          w.tag.toNat == x && w.aspace == c.aspace && !w.clearing && w.closer.isSome)) ∧
    (2 ^ 32 ≤ x → Traps (.wstat a d) s (Trap.of .windowState)) ∧
    ∀ (k : Nat) (w : Window), s.windows[k]? = some w →
      (w.clearing = false → w.closer = none → Happens (.poolClearComplete k) s s) ∧
      (w.clearing = true → s.heldBytes = [] → ∃ t, Happens (.poolClearComplete k) s t ∧ t.windows = s.windows.eraseIdx k ∧
        (∀ i, i < w.used → memRead t.mem (w.pool + i) = 0) ∧
        ∀ z, (z < w.pool ∨ w.pool + w.used ≤ z) → memRead t.mem z = memRead s.mem z)

/-- On a part with the Hearth and no FENCE mark queued, with no other operation waiting: HPIN whose checks pass and whose slot
overlaps no other stream's, with room in the region, gives a new stream a free slot number and an entry pinned now, pins an
evicted entry of the same slot again, answers 2 for a pinned one or one of another slot and 3 where no room can ever be made,
each with the slot number, and waits while the entry is evicting; a new stream gets 3 where the table is full or no room can
be made; an overlap with another stream's slot traps. HUNPIN removes the entry, HSAVE and HEVICT write home all the bytes that
the die holds (log entry 25) and HSAVE the slot's bytes from every die; HEVICT of an evicted entry answers 0, and of a pinned
one begins the eviction and waits. An unknown stream answers 2. An operation that finds one of another context on the same
entry waiting before it waits behind that one. SILENCE_EVICTION begins the eviction of a silent pinned entry;
EVICTION_COMPLETE ends one: the slot's bytes are home and no die keeps a copy of its lines. -/
def Obligations.HearthEntriesComplete : Prop :=
  ∀ (s : State) (a b d : BitVec 5),
    let c := s.core.ctx
    let die := s.core.die
    let va := (sreg s a).toNat
    let B := sreg s b
    let stream := B.extractLsb' 0 32
    let z := B.extractLsb' 32 3
    let size := 4096 * 2 ^ z.toNat
    let clash : Bool := s.streams.any fun e => e.die == die && e.aspace == c.aspace && e.stream != stream &&
      overlaps e.base.toNat e.size va size
    let here (n : BitVec 32) := streamOf s die c.aspace n
    let mine := (sreg s a).extractLsb' 0 32
    let home := flushDie s die
    let waits (i : Instr) (u : State) (n : BitVec 32) (begun : Bool) : Prop := ∃ t, Happens i s t ∧ t.core.ctx.pc = c.pc ∧
      t.streams = u.streams ∧ t.streamOps = s.streamOps ++ [⟨die, c.aspace, n, c.ctxId, begun⟩]
    (capsHearth s = true → fenceHeld c = false → s.streamOps = [] →
      (hpinCheck s va B.toNat = none →
        (here stream = none → clash = false → (s.streams.filter fun e => e.die == die).length < 8192 → roomFor s die size = .free →
          ∃ n, n < 8192 ∧ (∀ e ∈ s.streams, e.die = die → e.num ≠ n) ∧ Completes (.hpin a b d) s (setS { s with streams :=
            s.streams ++ [⟨die, n, c.aspace, stream, sreg s a, z, .pinned, s.clock⟩] } d (BitVec.ofNat 64 (n * 2 ^ 16)))) ∧
        (here stream = none → clash = true → Traps (.hpin a b d) s (Trap.of .hearthState)) ∧
        (here stream = none → clash = false →
          (8192 ≤ (s.streams.filter fun e => e.die == die).length ∨ roomFor s die size = .never) →
          Completes (.hpin a b d) s (setS s d 3)) ∧
        (∀ e, here stream = some e → e.base ≠ sreg s a ∨ e.z ≠ z →
          Completes (.hpin a b d) s (setS s d (BitVec.ofNat 64 (2 + e.num * 2 ^ 16)))) ∧
        (∀ e, here stream = some e → e.base = sreg s a → e.z = z →
          let answer (n : Nat) : Word := BitVec.ofNat 64 (n + e.num * 2 ^ 16)
          (e.state = .pinned → Completes (.hpin a b d) s (setS s d (answer 2))) ∧
          (e.state = .evicted → clash = false → roomFor s die size = .free → Completes (.hpin a b d) s
            (setS (putStream s { e with state := .pinned, last := s.clock }) d (answer 1))) ∧
          (e.state = .evicted → clash = true → Traps (.hpin a b d) s (Trap.of .hearthState)) ∧
          (e.state = .evicted → clash = false → roomFor s die size = .never → Completes (.hpin a b d) s (setS s d (answer 3))) ∧
          (e.state = .evicting → waits (.hpin a b d) s stream true))) ∧
      (∀ q, hpinCheck s va B.toNat = some q → Traps (.hpin a b d) s q) ∧
      (va < 2 ^ 32 → here mine = none → Completes (.hunpin a d) s (setS s d 2) ∧ Completes (.hsave a d) s (setS s d 2) ∧
        Completes (.hevict a d) s (setS s d 2)) ∧
      (∀ e, va < 2 ^ 32 → here mine = some e →
        (slotNamed s e = false →
          Completes (.hunpin a d) s (setS { s with streams := s.streams.filter fun x => !x.same e } d 0)) ∧
        (slotNamed s e = true → Traps (.hunpin a d) s (Trap.of .windowState) ∧ Traps (.hevict a d) s (Trap.of .windowState)) ∧
        (accessesDone s = false → waits (.hsave a d) s mine false ∧ (slotNamed s e = false → waits (.hevict a d) s mine false)) ∧
        (accessesDone s = true → Completes (.hsave a d) s (setS (slotHome home e) d 0) ∧
          (slotNamed s e = false →
            (e.state = .evicted → Completes (.hevict a d) s (setS home d 0)) ∧
            (e.state ≠ .evicted → waits (.hevict a d) (putStream home { e with state := .evicting }) mine true)))) ∧
      (2 ^ 32 ≤ va → Traps (.hunpin a d) s (Trap.of .hearthState))) ∧
    (∀ p : StreamOp, capsHearth s = true → fenceHeld c = false → s.streamOps = [p] → p.ctxId ≠ c.ctxId → p.die = die →
      p.aspace = c.aspace → p.live s = true →
      (p.stream = stream → hpinCheck s va B.toNat = none → waits (.hpin a b d) s stream false) ∧
      (p.stream = mine → va < 2 ^ 32 → waits (.hunpin a d) s mine false ∧ waits (.hsave a d) s mine false ∧
        waits (.hevict a d) s mine false)) ∧
    (capsHearth s = false → ∀ i ∈ [Instr.hpin a b d, .hunpin a d, .hsave a d, .hevict a d], Traps i s (Trap.of .unitAbsent)) ∧
    ∀ (k : Nat) (e : Stream), s.streams[k]? = some e →
      (evictable s e = true → hearthSilence s e.die ≠ 0 → e.last + hearthSilence s e.die ≤ s.clock →
        Happens (.silenceEviction e.die k) s (putStream s { e with state := .evicting })) ∧
      (e.state = .evicting → s.bindings = [] →
        let home := slotHome s e
        (∀ l, walk home e.aspace e.base.toNat = .ok l → Happens (.evictionComplete e.die k) s
          (putStream (dropLines home (leafPa l e.base.toNat) e.size) { e with state := .evicted })) ∧
        (∀ x, walk home e.aspace e.base.toNat = .error x →
          Happens (.evictionComplete e.die k) s (putStream home { e with state := .evicted })))

/-- A record accepted by a die's Steward becomes an entry with its launch, depth and KERNEL_ID, held exactly when a live entry of
its address space on that die conflicts, and the die's serial rises. With no FENCE mark queued: ENQ, KLAUNCH and SPAWN wait
until every earlier access is performed, and write home all the bytes that the die holds (log entry 25); ENQ and KLAUNCH also
wait while a RED at its home holds bytes of the record (log entry 56, DEDUCED); of a good record, which SPAWN makes itself,
they give s(b) the KERNEL_ID. A record of ENQ or KLAUNCH that fails its page's checks, is malformed, or names a barrier that
is not allotted, traps; ENQ and SPAWN at depth 7 trap, and SPAWN of a misaligned target; with no entry free ENQ and SPAWN wait
and KLAUNCH answers all ones. KARM arms its tag, or traps where its unit, record, tag or table forbids it; KDISARM disarms
one. KCANCEL answers 2 for no kernel of its address space, 1 for one whose end is decided (log entry 125), and else 0, and
cancels it: a running kernel stops with END 3, a waiting one ends with END 3, at once where no RED of it is outstanding;
SHWAIT gives an ended kernel's end word, dropping the die's copies (log entry 91), the GONE word, or parks with WAIT 4, and
traps on its own kernel. LAUNCH answers in the request's status. -/
def Obligations.KernelInstructionsComplete : Prop :=
  (∀ (s s' : State) (die depth : Nat) (asp : BitVec 12) (r : LaunchRec) (id : Word), accept s die asp depth r = some (s', id) → die < 2 →
    ∃ k, k ∈ s'.kernels ∧ k.id = id ∧ k.die = die ∧ k.launch = r ∧ k.aspace = asp ∧ k.depth = BitVec.ofNat 3 depth ∧
      (∀ e ∈ s.kernels, e.die = die → e.live = true → e.entry ≠ k.entry) ∧
      id.extractLsb' 0 32 = vget s.kserial die 0 ∧ vget s'.kserial die 0 = vget s.kserial die 0 + 1 ∧
      (k.state = .held ∨ k.state = .eligible) ∧ (k.state = .held ↔ ∃ e ∈ s.kernels, e.die = die ∧ e.live = true ∧ e.aspace = asp ∧
        cardsConflict e.launch r = true) ∧
      (let u := { s with kernels := s'.kernels, kserial := s'.kserial, order := s.order + 1 };
        s' = if k.state = .held then relend u else u)) ∧
  (∀ (s : State) (a b : BitVec 5) (o : BitVec 1) (h : BitVec 4), fenceHeld s.core.ctx = false →
    let c := s.core.ctx
    let off := (sreg s a).toNat
    let H := hreg s h
    let id := sreg s a
    let released := flushDie s s.core.die
    let bytes := rdBytes released s.core.die (H.base + off) 320
    let read := engineTouch released c.aspace H off 320
    let both (p : Instr → Prop) : Prop := p (.klaunch a b h) ∧ (c.depth ≠ 7 → p (.enq a b h))
    (∀ r, recAccess s H off = none → accessesDone s = true → redHolds s (H.base + off) 320 = false → parseRec bytes = some r →
      (cbarAllotted s s.core.die c.aspace r = true →
        (∀ t id, c.depth ≠ 7 → accept read s.core.die c.aspace (c.depth.toNat + 1) r = some (t, id) →
          Completes (.enq a b h) s (setS t b id)) ∧
        (c.depth ≠ 7 → accept read s.core.die c.aspace (c.depth.toNat + 1) r = none → Waits (.enq a b h) s) ∧
        (∀ t id, accept read s.core.die c.aspace 0 r = some (t, id) → Completes (.klaunch a b h) s (setS t b id)) ∧
        (accept read s.core.die c.aspace 0 r = none → Completes (.klaunch a b h) s (setS read b (BitVec.allOnes 64)))) ∧
      (cbarAllotted s s.core.die c.aspace r = false → both fun i => Traps i s (Trap.at .permission (H.vbase + off)))) ∧
    (recAccess s H off = none → accessesDone s = true → redHolds s (H.base + off) 320 = false → parseRec bytes = none →
      both fun i => Traps i s (Trap.at .badRecord (H.vbase + off))) ∧
    (recAccess s H off = none → (accessesDone s = false ∨ redHolds s (H.base + off) 320 = true) → both fun i => Waits i s) ∧
    (∀ q, recAccess s H off = some q → both fun i => Traps i s q) ∧
    (c.depth = 7 → Traps (.enq a b h) s (Trap.of .nestingDepth) ∧ Traps (.spawn a b) s (Trap.of .nestingDepth)) ∧
    (∀ t id, c.depth ≠ 7 → off % 4 = 0 → accessesDone s = true →
      accept released s.core.die c.aspace (c.depth.toNat + 1) (spawnRec s (sreg s a)) = some (t, id) →
      Completes (.spawn a b) s (setS t b id)) ∧
    (c.depth ≠ 7 → off % 4 ≠ 0 → Traps (.spawn a b) s (Trap.of .misalignedTarget)) ∧
    (c.depth ≠ 7 → off % 4 = 0 → (accessesDone s = false ∨
        accept released s.core.die c.aspace (c.depth.toNat + 1) (spawnRec s (sreg s a)) = none) → Waits (.spawn a b) s) ∧
    (∀ r, capsEth s = true → recAccess s H off = none → PlainMemory s →
      (∀ i, i < 320 → tierOf s (H.base + off + i) = 0 ∧ foreign s s.core.die (H.base + off + i) = false) →
      loadBytes s (H.vbase + off) (H.base + off) 320 = .read (rdBytes s s.core.die (H.base + off) 320) →
      parseRec (rdBytes s s.core.die (H.base + off) 320) = some r → (sreg s b).toNat < 2 ^ 32 → s.arms.length < 4096 →
      (∀ x ∈ s.arms, x.tag = (sreg s b).extractLsb' 0 32 → x.aspace = c.aspace) →
      Completes (.karm a b o h) s { s with arms := s.arms.filter (fun y => !decide (y.tag = (sreg s b).extractLsb' 0 32)) ++
        [⟨(sreg s b).extractLsb' 0 32, c.aspace, s.core.die, decide (o = 1), r⟩] }) ∧
    (capsEth s = false → Traps (.karm a b o h) s (Trap.of .unitAbsent) ∧ Traps (.kdisarm a) s (Trap.of .unitAbsent)) ∧
    (capsEth s = true → (∀ q, recAccess s H off = some q → Traps (.karm a b o h) s q) ∧
      (recAccess s H off = none → (loadBytes s (H.vbase + off) (H.base + off) 320 = .wait → Waits (.karm a b o h) s) ∧
        ∀ l, loadBytes s (H.vbase + off) (H.base + off) 320 = .read l →
        let armed := s.arms.find? fun x => decide (x.tag = (sreg s b).extractLsb' 0 32)
        (parseRec l = none → Traps (.karm a b o h) s (Trap.at .badRecord (H.vbase + off))) ∧
        (parseRec l ≠ none → 2 ^ 32 ≤ (sreg s b).toNat ∨ (armed = none ∧ 4096 ≤ s.arms.length) →
          Traps (.karm a b o h) s (Trap.of .commandLimit)) ∧
        (∀ x, parseRec l ≠ none → (sreg s b).toNat < 2 ^ 32 → armed = some x → x.aspace ≠ c.aspace →
          Traps (.karm a b o h) s (Trap.of .permission)))) ∧
    (capsEth s = true → Completes (.kdisarm a) s
      { s with arms := s.arms.filter fun x => !decide (x.tag.toNat = (sreg s a).toNat ∧ x.aspace = c.aspace) }) ∧
    (kernelNamed s id = none → Completes (.kcancel a b) s (setS s b 2) ∧ (id ≠ c.kernelId → Completes (.shwait a b) s (setS s b 16))) ∧
    (∀ k, kernelNamed s id = some k →
      (k.over = true → Completes (.kcancel a b) s (setS s b 1)) ∧
      (k.over = false → ∃ t0 t, Sequenced (setS s b 0) t0 ∧ PastWord (setS s b 0) t0 ∧ t = cancelKernel t0 k ∧
        Happens (.kcancel a b) s t ∧
        (k.state = .running → (∃ e ∈ t.kernels, e.id = k.id) ∧ ∀ e ∈ t.kernels, e.id = k.id → e.state = .stopping ∧ e.endCode = 3) ∧
        (k.state = .held ∨ k.state = .eligible → (∃ e ∈ t.kernels, e.id = k.id) ∧ ∀ e ∈ t.kernels, e.id = k.id →
          e.endCode = 3 ∧ e.state = if redsDone s k.id then .ended else .stopping)) ∧
      (id ≠ c.kernelId → k.state = .ended → Completes (.shwait a b) s (setS (dropCopies s s.core.die) b k.endWord)) ∧
      (id ≠ c.kernelId → k.state ≠ .ended → ∃ t, Happens (.shwait a b) s t ∧ t.core.ctx.pc = c.pc ∧
        t.core.ctx.state = .waiting ∧ t.core.ctx.wait = .shwait ∧ t.core.ctx.park = some (.kernel id b))) ∧
    (id = c.kernelId → Traps (.shwait a b) s (Trap.of .selfWait))) ∧
  ∀ (s s1 : State) (m die : Nat) (v st : Word), s.recovery = false → m ≠ 0 → s.mgmt.owner.toNat = m → die < capsDies s →
    s.mgmt.bdone = true → hostLaunch { s with launchReg := vset s.launchReg die v } die (natBits v.toNat 51 5 * 32) = (s1, st) →
    let status := rdHomeNat s (natBits v.toNat 51 5 * 32 + 16) 8
    backed s1 status = true → Happens (.launch m die v) s (raiseMsix (wrHomeNat s1 status 8 st.toNat) 0 (2 * die + 1))

/-- STEWARD_DISPATCH places the entry served first on the cores found for it, and it is allocating, or restoring if it was saved.
SCRUB_COMPLETE makes it running, and leaves a core that is being scrubbed with zeroed scratchpads, no error, and context,
templates, bank formats, feeds, rings, pointers, scales and core barriers as core reset leaves them; every other core stays.
ITERATION_HANDOUT gives the next iteration to an empty slot of one of its cores, loading, with the record's arguments and the
iteration's indices. DECLARED_INPUTS_ARRIVED makes a slot whose inputs have all come runnable. CONTEXT_START starts the
earliest runnable one with its CTX_ID (the serial that it takes here is log entry 61) and drops every copy that the die holds
(log entry 91). CONTEXT_RETIRE empties the slot and counts the iteration; the last one makes the entry ending. KERNEL_END of
an entry that has stopped, with its cores quiet and its REDs performed, ends it with its END and frees its cores: KERNEL_ID
and end word stand at CADDR, or a record of SRC 9 says why not, and CBAR takes one arrival, with FAULT for END 2 and 4; with a
RED still to perform it frees the cores only. -/
def Obligations.GroupsRunTheirIterations : Prop :=
  (∀ (s : State) (die : Nat) (k : KEntry) (gangs : List (List Nat)), chosen s die = some k → shapeFrom (openCores s die) k = some gangs →
    ∃ t, Happens (.stewardDispatch die) s t ∧ (∃ e ∈ t.kernels, e.id = k.id) ∧ (∀ e ∈ t.kernels, e.id = k.id → e.cores = gangs.flatten ∧
      e.state = if k.state = .saved then .restoring else .allocating) ∧
      ∀ n, n ∈ gangs.flatten → (getCore t k.die n).group = some k.entry) ∧
  (∀ (s : State) (die e : Nat) (k : KEntry), kernelAt s die e = some k →
    (k.state = .allocating → ∃ t, Happens (.scrubComplete die e) s t ∧ (∃ x ∈ t.kernels, x.id = k.id) ∧ (∀ x ∈ t.kernels, x.id = k.id → x.state = .running) ∧
      ∀ n, n ∈ k.cores → (getCore t die n).scrubbing = false ∧
        let c := getCore s die n
        let c' := getCore t die n
        let z := Core.reset c.die c.num
        (c.scrubbing = false → c' = c) ∧
        (c.scrubbing = true → (∀ b o, spByte c' b o = 0) ∧ c'.bad = [] ∧ c'.soft = [] ∧ c'.ctx = z.ctx ∧ c'.shadows = [] ∧
          c'.tmpl = z.tmpl ∧ c'.tpred = z.tpred ∧ c'.bfmt = z.bfmt ∧ c'.feeds = z.feeds ∧ c'.rings = z.rings ∧ c'.wps = z.wps ∧
          c'.scaleQ = [] ∧ c'.bars = z.bars ∧ c'.lastAspace = some k.aspace ∧ c'.group = c.group)) ∧
    (∀ i n q, k.state = .running → nextIter k = some i → emptySlot s die k.cores = some (n, q) →
      ∃ t c, Happens (.iterationHandout die e) s t ∧ (getCore t die n).shadows = (getCore s die n).shadows ++ [c] ∧
        c.slot = q ∧ c.state = .loading ∧ c.iter = i ∧ c.pc = k.launch.entry ∧ c.kernelId = k.id ∧ c.aspace = k.aspace ∧
        (∀ j, 1 ≤ j → j ≤ 8 → vget c.s j 0 = k.launch.args.getD (j - 1) 0) ∧
        (∀ j, j < 6 → vget c.s (24 + j) 0 = BitVec.ofNat 64 ((iterIndices k.launch i).getD j 0))) ∧
    ((k.state = .ending ∨ k.state = .stopping) → groupQuiet s k = true → redsDone s k.id = true →
      (∀ x ∈ s.kernels, x.id = k.id → x = k) → (∀ x ∈ s.kernels, k.id ∉ x.heldBy) →
      ∃ t, Happens (.kernelEnd die e) s t ∧ (∃ x ∈ t.kernels, x.id = k.id) ∧
        (∀ x ∈ t.kernels, x.id = k.id → x.state = .ended ∧ x.endCode = (if k.endCode = 0 then 1 else k.endCode) ∧ x.cores = []) ∧
        (∀ n, n ∈ k.cores → (getCore t k.die n).group = none) ∧
        (let r := k.launch
          let u := kernelRelease s k
          let bytes := leBytes 8 k.id.toNat ++ leBytes 8 k.endWord.toNat
          let key := r.cbarKey k.die
          let B := getBar s key
          let st : BitVec 4 := B.status ||| (if k.endOf = 2 ∨ k.endOf = 4 then 2 else 0)
          let A : Barrier := if B.sigcnt ≤ B.arrived then { B with status := st ||| 4 } else { B with arrived := B.arrived + 1, status := st }
          (∀ pa l, r.caddr ≠ 0 → r.cbarOn = false → caddrAt u k = .ok pa →
            walk (wrHomeBytes (flushHeld (flushHeld u 0 pa 16) 1 pa 16) pa bytes) k.aspace r.caddr.toNat = .ok l →
            (∀ i j, i < 16 → j < 16 → canonPa s (l.addr + i) ≠ canonPa s (pa + j)) →
            (∀ i j, i < 16 → j < 16 → canonPa s (pa + i) = canonPa s (pa + j) → i = j) →
            ∀ i, i < 16 → memRead t.mem (canonPa s (pa + i)) = bytes.getD i 0) ∧
          (∀ e, r.caddr ≠ 0 → r.cbarOn = false → caddrAt u k = .error e → t.mem = (writeRecord u k.aspace
            { cause := e, src := 9, kernelId := k.id, addr := r.caddr, die := k.die }).mem) ∧
          (r.cbarOn = false → ∀ key', getBar t key' = getBar s key') ∧
          (r.cbarOn = true → r.caddr = 0 → allotted s key k.aspace = true → B.kind = .phaser → s.oneCycle = false →
            (key.level = 0 → key.num < 32) →
            getBar t key = if 1 ≤ A.sigcnt ∧ A.sigcnt ≤ A.arrived ∧ A.pending = 0 then
              { A with phase := A.phase + 1, arrived := 0, lstatus := A.status, status := 0 } else A))) ∧
    ((k.state = .ending ∨ k.state = .stopping) → groupQuiet s k = true → redsDone s k.id = false →
      ∃ t, Happens (.kernelEnd die e) s t ∧ (∃ x ∈ t.kernels, x.id = k.id) ∧ (∀ x ∈ t.kernels, x.id = k.id → x.cores = []) ∧
        ∀ n, n ∈ k.cores → (getCore t k.die n).group = none)) ∧
  (∀ (s : State) (slot : Nat) (c : Context), (s.core.shadows.find? fun x => x.slot = slot ∧ x.state = .loading) = some c →
    s.core.stopping = false → s.core.draining = false → c.inputs = [] →
    ∃ t, Happens (.declaredInputsArrived slot) s t ∧ (∀ x ∈ t.core.shadows, x.slot = slot → x.state = .runnable) ∧
      t.core.ctx = s.core.ctx ∧ t.mem = s.mem) ∧
  (∀ (s : State) (c : Context), earliestReady s.core.shadows = some c → mayStart s s.core c = true →
    Happens .contextStart s (modCore (dropCopies s s.core.die) fun k => { k with
      ctx := { c with state := .running, ctxId := nextCtxId k c.slot, shown := c.shown.map fun x => (nextCtxId k c.slot, x.2) }, serial := k.serial + 1
      shadows := k.shadows.filter fun x => !decide (x.slot = c.slot) })) ∧
  ∀ (s : State), (s.core.ctx.state = .retired ∨
      (s.core.stopping = false ∧ s.core.ctx.state = .waiting ∧ s.core.ctx.park = some .retire ∧ workLeft s = false)) →
    ∃ t, Happens .contextRetire s t ∧ t.core.ctx = Context.blank s.core.ctx.slot ∧ t.mem = s.mem ∧
      ∀ e ∈ s.kernels, e.id = s.core.ctx.kernelId → ∃ e' ∈ t.kernels, e'.id = e.id ∧ e'.retired = e.retired + 1 ∧
        (e.retired + 1 = e.launch.count → (e.state = .running ∨ e.state = .draining) → e'.state = .ending) ∧
        (e.retired + 1 ≠ e.launch.count → e'.state = e.state)

/-- A host request by the owner makes a running group that stands under no request a victim. ESTIMATOR_DECISION carries out the
option chosen for a running victim: the group drains or is discarded, where no context of it is trapped (log entry 104), or is
being saved, with a frame of the save pool for each core, taken then (log entry 46). PREEMPTION_COMPLETE of a quiet discarded
group, or of a drained one with no context left, with no output element unwritten, gives its cores free and makes it eligible
again; of a quiet saving one it is saved with an image of each core: for a running context the frame holds the version, its
pc, scalar registers, handles and vector registers, and the bytes of the three buffers. RESTORE_COMPLETE of a group whose
images are sound, with no context that waits or is trapped, makes it running on its new cores; where no command was queued and
no signal is owed, each running context has the pc and scalar registers of its image, no valid handle and an empty vector
queue, and its core the image's buffers. One with a bad image is aborted. -/
def Obligations.PreemptionStopsSavesAndRestores : Prop :=
  (∀ (s : State) (m die : Nat) (entry : BitVec 16) (dead : BitVec 32) (k : KEntry), s.recovery = false → m ≠ 0 →
    s.mgmt.owner.toNat = m → die < capsDies s → kernelAt s die entry.toNat = some k → k.state = .running → k.victim = none →
    (∀ x ∈ s.kernels, x.id = k.id → x = k) →
    ∃ t, Happens (.hostPreemptionRequest m die entry dead) s t ∧ (∃ x ∈ t.kernels, x.id = k.id) ∧
      (∀ x ∈ t.kernels, x.id = k.id → x.victim = some ⟨if dead = 0 then 0 else s.clock + dead.toNat, none, none⟩) ∧
      t.core = s.core ∧ t.others = s.others ∧ t.mem = s.mem) ∧
  (∀ (s : State) (die e : Nat) (k : KEntry) (v : Victim) (o : Option3),
    let swept := sweepGroup s die e
    kernelAt swept die e = some k → k.state = .running → k.victim = some v →
    chooseOption swept v (optionsOf swept k v.yielder.isSome) = some o → (o ≠ .save → trappedCtx swept k = none) →
    ∃ t, Happens (.estimatorDecision die e) s t ∧ (∃ x ∈ t.kernels, x.id = k.id) ∧ ∀ x ∈ t.kernels, x.id = k.id →
      (o = .drain → x.state = .draining) ∧ (o = .discard → x.state = .discarding) ∧
      (o = .save → x.state = .saving ∧ x.frames.map (fun f => f.1) = k.cores ∧
        ∀ n, k.cores = [n] → x.frames = [(n, n % 4, (vget s.sched k.die ⟨0, 0, false, 0, 0, 0, 0⟩).savefree.toNat)])) ∧
  ∀ (s : State) (die e : Nat) (k : KEntry), kernelAt s die e = some k →
    ((k.state = .discarding ∨ (k.state = .draining ∧ ∀ n ∈ k.cores, (getCore s die n).ctx.state = .empty)) → groupQuiet s k = true →
      (∀ n ∈ k.cores, feedsQuiet (getCore s die n) = true) →
      ∃ t, Happens (.preemptionComplete die e) s t ∧ (∃ x ∈ t.kernels, x.id = k.id) ∧
      (∀ x ∈ t.kernels, x.id = k.id → x.state = .eligible ∧ x.cores = [] ∧ x.victim = none) ∧
      ∀ n, n ∈ k.cores → (getCore t die n).group = none) ∧
    (k.state = .saving → groupQuiet s k = true → k.endCode ≠ 3 → (∀ n ∈ k.cores, feedsQuiet (getCore s die n) = true) →
      ∃ t, Happens (.preemptionComplete die e) s t ∧ (∃ x ∈ t.kernels, x.id = k.id) ∧
        (∀ x ∈ t.kernels, x.id = k.id → x.state = .saved ∧ x.images.length = k.frames.length ∧ x.cores = []) ∧
        (∀ n, n ∈ k.cores → (getCore t k.die n).group = none) ∧
        ((∀ f ∈ k.frames, ∀ i, i < imageSize → canonPa s (f.2.2 + i) = f.2.2 + i) →
          k.frames.Pairwise (fun x y => x.2.2 + imageSize ≤ y.2.2 ∨ y.2.2 + imageSize ≤ x.2.2) →
          ∀ f ∈ k.frames,
            let c := getCore s die f.1
            (∀ b, Memory.wf (bufMem c b) = true ∧ ∀ x ∈ bufMem c b, x.1 < bufBytes b) → c.scaleQ.length ≤ 64 →
            (∀ n, n < 5 → (queueOf c n).length ≤ 8) → c.ctx.state = .running →
            imgNat t f.2.2 0 4 = 0x60001 ∧ imgWord t f.2.2 0x18 = c.ctx.pc ∧
            (∀ i, i < 32 → imgWord t f.2.2 (0x100 + 8 * i) = vget c.ctx.s i 0) ∧
            (∀ i, i < 16 → imgNat t f.2.2 (0x200 + 16 * i) 16 = (vget c.ctx.h i Handle.invalid).image.toNat) ∧
            (∀ r i, r < 32 → i < 1024 →
              imgNat t f.2.2 (0x8000 + 4096 * r + 4 * i) 4 = ((vget c.ctx.v r (Vector.replicate 1024 0))[i]?.getD 0).toNat) ∧
            ∀ b i, i < bufBytes b → memRead t.mem (f.2.2 + bufImage b + i) = memRead (bufMem c b) i)) ∧
    (k.state = .restoring → k.endCode ≠ 3 → (k.frames.all fun f => imageOk s f.2.2) = true → k.cores.length ≤ k.frames.length →
      k.images.length = k.frames.length → (∀ f ∈ k.frames, natBits (imgNat s f.2.2 0x10 8) 3 0 ≤ 3) →
      ∃ t, Happens (.restoreComplete die e) s t ∧ (∃ x ∈ t.kernels, x.id = k.id) ∧
        (∀ x ∈ t.kernels, x.id = k.id → x.state = .running ∧ x.frames = []) ∧
        (k.owed = [] → k.cores.Nodup → (∀ f ∈ k.frames, ∀ n, n < 5 → imgNat s f.2.2 (0x8D + n) 1 = 0) →
          ∀ x ∈ k.cores.zip k.frames,
            let frame := x.2.2.2
            let c := getCore t die x.1
            (natBits (imgNat s frame 0x10 8) 3 0 = 3 →
              c.ctx.state = .running ∧ c.ctx.pc = imgWord s frame 0x18 ∧ c.ctx.vq = [] ∧
              (∀ i, 1 ≤ i → i < 32 → vget c.ctx.s i 0 = imgWord s frame (0x100 + 8 * i)) ∧
              ∀ h, h < 16 → (vget c.ctx.h h Handle.invalid).valid = false) ∧
            ∀ b i, i < bufBytes b → memRead (bufMem c b) i = memRead s.mem (frame + bufImage b + i))) ∧
    (k.state = .restoring → (k.frames.all fun f => imageOk s f.2.2) = false → kernelById s k.id = some k →
      ∃ t, Happens (.restoreComplete die e) s t ∧ (∃ x ∈ t.kernels, x.id = k.id) ∧
        ∀ x ∈ t.kernels, x.id = k.id → x.state = .stopping ∧ x.endCode = 4)

/-- With no FENCE mark queued: HDLBIND of a good record whose images can be read answers 3 with no number free, 5 where its range
meets that of another binding of the die, 4 where a window does not fit; else the binding stands with a free number in the
first windows that fit, its initial data, zero beyond DATALEN (log entry 49), is in the data memory of every usable reeve of
the die, and s(d) holds the number. A bad record and an unreadable image trap. HDLBIND and HDLMSG wait until every earlier
access is performed, HDLBIND also for a RED on the record's bytes (log entry 56). HDLUNB answers 2 for no binding of its
address space; else the binding's queued events go, and it waits for a running handler or ends with the drop count. HDLMSG
answers 2, 1 with a full queue, or 0 with the event queued. -/
def Obligations.ReeveBindingsComplete : Prop :=
  ∀ (s : State) (a b d : BitVec 5) (h : BitVec 4), fenceHeld s.core.ctx = false →
    let off := (sreg s a).toNat
    let H := hreg s h
    (bindAccess s H off = none → (accessesDone s = false ∨ redHolds s (H.base + off) 64 = true) → Waits (.hdlbind a d h) s) ∧
    (bindAccess s H off = none → accessesDone s = true → redHolds s (H.base + off) 64 = false →
      let bytes := rdBytes s s.core.die (H.base + off) 64
      let r := readBindRec bytes
      let n := if r.data = 0 then 0 else r.dataLen
      let t := touchLine s H off
      let u := imageTouched (imageTouched t r.code r.codeLen) r.data n
      (bindBad bytes = true → Traps (.hdlbind a d h) s (Trap.at .badRecord (H.vbase + off))) ∧
      (∀ q, bindBad bytes = false → imageBad t r.code r.codeLen = some q → Traps (.hdlbind a d h) s q) ∧
      (∀ q, bindBad bytes = false → imageBad t r.code r.codeLen = none → imageBad t r.data n = some q → Traps (.hdlbind a d h) s q) ∧
      (bindBad bytes = false → imageBad t r.code r.codeLen = none → imageBad t r.data n = none →
        imageHeld t r.code r.codeLen = false → imageHeld t r.data n = false →
        let free (n : Nat) : Bool := decide (n < 16) && (bindingAt u u.core.die n).isNone
        ((∀ n, free n = false) → Completes (.hdlbind a d h) s (setS u d 3)) ∧
        (∀ n, free n = true → rangeTaken u u.core.die r.vbase r.vlen = true → Completes (.hdlbind a d h) s (setS u d 5)) ∧
        (∀ n, free n = true → rangeTaken u u.core.die r.vbase r.vlen = false →
          (firstFit (codeTaken u u.core.die) (windowBytes r.codeLen) = none ∨
            firstFit (dataTaken u u.core.die) (windowBytes r.dataLen) = none) → Completes (.hdlbind a d h) s (setS u d 4)) ∧
        (∀ k ca da, free k = true → rangeTaken u u.core.die r.vbase r.vlen = false →
          firstFit (codeTaken u u.core.die) (windowBytes r.codeLen) = some ca →
          firstFit (dataTaken u u.core.die) (windowBytes r.dataLen) = some da →
          ∃ (num : Nat) (x : Binding) (reeves : List Reeve), free num = true ∧ x.die = u.core.die ∧ x.num = num ∧
            x.aspace = u.core.ctx.aspace ∧ x.vbase = BitVec.ofNat 64 r.vbase ∧ x.vlen = r.vlen ∧ x.code = imageBytes t r.code r.codeLen ∧
            x.codeAt = ca ∧ x.dataAt = da ∧ x.entries = r.entries ∧ x.budgets = r.budgets ∧ x.drops = 0 ∧
            x.dataLen = r.dataLen ∧ x.filter = filterOf u u.core.ctx.aspace r.vbase (r.vbase + r.vlen) ∧
            (∀ k i, k < 48 → reeveUsable u u.core.die k = true → i < windowBytes r.dataLen →
              memRead (getReeve { u with reeves := reeves } u.core.die k).data (da + i) = (imageBytes t r.data n).getD i 0) ∧
            Completes (.hdlbind a d h) s
              (setS { u with bindings := u.bindings ++ [x], reeves := reeves } d (BitVec.ofNat 64 (0x10000 * num)))))) ∧
    (∀ q, bindAccess s H off = some q → Traps (.hdlbind a d h) s q) ∧
    (16 ≤ off → Traps (.hdlunb a d) s (Trap.of .illegalInstruction)) ∧
    (off < 16 → ownBinding s off = none → Completes (.hdlunb a d) s (setS s d 2)) ∧
    (∀ x, off < 16 → ownBinding s off = some x →
      let s1 := discardEvents s x.die x.num
      (handlerRuns s1 x.die x.num = true → ∃ t, Happens (.hdlunb a d) s t ∧ Sequenced s1 t ∧ t.core.ctx.pc = s.core.ctx.pc) ∧
      (handlerRuns s1 x.die x.num = false → Completes (.hdlunb a d) s
        (setS { s1 with bindings := s1.bindings.filter fun y => !decide (y.die = x.die ∧ y.num = x.num) } d
          (BitVec.ofNat 64 (2 ^ 32 * min 0xFFFFFFFF x.drops))))) ∧
    (∀ slice num, slice < 48 → num < 16 → off = slice + num * 256 →
      (ownBinding s num = none → Completes (.hdlmsg a b d) s (setS s d 2)) ∧
      (∀ x, ownBinding s num = some x → accessesDone s = false → Waits (.hdlmsg a b d) s) ∧
      (∀ x, ownBinding s num = some x → accessesDone s = true →
        (x.entryOf 3 = 0xFFFF ∨ reeveUsable s s.core.die slice = false → Completes (.hdlmsg a b d) s (setS s d 2)) ∧
        (x.entryOf 3 ≠ 0xFFFF → reeveUsable s s.core.die slice = true →
          let r := getReeve s s.core.die slice
          (64 ≤ r.queue.length → Completes (.hdlmsg a b d) s (setS s d 1)) ∧
          (r.queue.length < 64 → Completes (.hdlmsg a b d) s
            (setS (putReeve s { r with queue := r.queue ++ [⟨x.num, 3, false, 0, sreg s b, s.core.ctx.ctxId⟩] }) d 0))))) ∧
    (∀ slice num, 48 ≤ slice → slice < 64 → num < 16 → off = slice + num * 256 → Traps (.hdlmsg a b d) s (Trap.of .commandLimit))

/-- An idle reeve takes its oldest event: its registers are those of R375, cycle and instret are 0 and the pc is the kind's entry.
In a running handler within its budget: an ordinary instruction writes its destination, or jumps, branches, loads or stores,
with instret one more and its cycles added; a word that is no instruction, and a load or store that is misaligned or reaches
nothing, cut the handler off with a record; one whose cycles pass the budget has no effect but that cycle is the budget. SLPF,
SLCHASE, SLUPD, SLFWD, SLDEF and SLDONE do what R379 gives. A handler whose cycle has reached its budget is cut off. A load or
SLUPD that a RED at its home holds waits (log entry 56); an SLUPD that its budget ends leaves its request at the home. The
meanings of the ordinary instructions are the RISC-V standard's (log entry 15), instret starts at 0 and a store marks its page
at once (log entry 50), an SLCHASE operand outside its limits is an illegal instruction (log entry 51), and a chase's pointer
stands at the line's first byte plus the offset (log entry 93). The cycles of a load or SLUPD whose home is on the other die,
and the number of chases still running, are free values (log entry 5). -/
def Obligations.ReevesRunHandlers : Prop :=
  (∀ (s : State) (die slice : Nat) (e : ReeveEvent) (rest : List ReeveEvent) (b : Binding),
    let r := getReeve s die slice
    r.cur = none → r.queue = e :: rest → reeveUsable s die slice = true → bindingAt s die e.binding = some b →
    ∃ q, Happens (.reeveHandlerEntry die slice) s (putReeve s q) ∧
      q = { r with queue := rest, cur := some e, x := q.x, pc := q.pc, cycle := 0, instret := 0 } ∧
      q.pc = BitVec.ofNat 64 (b.codeAt + (b.entryOf e.kind.toNat).toNat) ∧
      xreg q 2 = BitVec.ofNat 64 (0x8000 + b.dataAt + b.dataLen) ∧ xreg q 12 = BitVec.ofNat 64 (0x8000 + b.dataAt) ∧
      xreg q 10 = BitVec.ofNat 64 (e.kind.toNat + (if e.dirty then 4 else 0) + slice * 16) ∧
      xreg q 11 = (if e.kind = 3 then e.payload else e.line) ∧ xreg q 13 = (if e.kind = 3 then e.sender else 0) ∧
      ∀ n, n ∉ [2, 10, 11, 12, 13] → xreg q n = 0) ∧
  (∀ (s : State) (die slice : Nat) (e : ReeveEvent) (b : Binding),
    let t := { s with reeveNow := (die, slice) }
    let r := getReeve s die slice
    r.cur = some e → bindingAt s die e.binding = some b → budgetOf b e ≤ r.cycle →
    Happens (.budgetOverrun die slice) s
      (putReeve (writeRecord t b.aspace (cutRecord r e .budgetOverrun)) { r with cur := none })) ∧
  ∀ (s : State) (r : Reeve) (e : ReeveEvent) (b : Binding), r = reeveHere s → r.cur = some e → reeveBinding s = some b →
    r.cycle < budgetOf b e →
    let within (n : Nat) : Prop := r.cycle + n ≤ budgetOf b e
    let ran (i : Instr) (n : Nat) (q : Reeve) : Prop :=
      Happens i s (putReeve s { q with cycle := r.cycle + n, instret := r.instret + 1 })
    let cut : State := putReeve (writeRecord s b.aspace (cutRecord r e .reeveException)) { r with cur := none }
    (reeveFetch b r.pc = none → Happens .reeveInstruction s cut) ∧
    (∀ w, reeveFetch b r.pc = some (4, w) → rv32 w = none → Happens .reeveInstruction s cut) ∧
    (∀ w, reeveFetch b r.pc = some (2, w) → rv16 (w.extractLsb' 0 16) = none → Happens .reeveInstruction s cut) ∧
    (∀ w len j, reeveFetch b r.pc = some (len, w) → ((len = 4 ∧ rv32 w = some j) ∨ (len = 2 ∧ rv16 (w.extractLsb' 0 16) = some j)) →
      let pc := r.pc + BitVec.ofNat 64 len
      let done := ran .reeveInstruction
      (within 1 →
        (∀ o rd x y, j = .op o rd x y → done 1 { setX r rd (rvAlu o (xreg r x) (xreg r y)) with pc := pc }) ∧
        (∀ o rd x imm, j = .opImm o rd x imm → done 1 { setX r rd (rvAlu o (xreg r x) imm) with pc := pc }) ∧
        (∀ o rd x, j = .unary o rd x → done 1 { setX r rd (rvUnary o (xreg r x)) with pc := pc }) ∧
        (∀ rd imm, j = .lui rd imm → done 1 { setX r rd imm with pc := pc }) ∧
        (∀ rd imm, j = .auipc rd imm → done 1 { setX r rd (r.pc + imm) with pc := pc }) ∧
        (∀ rd imm, j = .jal rd imm → done 1 { setX r rd pc with pc := r.pc + imm }) ∧
        (∀ rd x imm, j = .jalr rd x imm → done 1 { setX r rd pc with pc := (xreg r x + imm) &&& ~~~1 }) ∧
        (∀ c x y imm, j = .branch c x y imm →
          done 1 { r with pc := if rvCond c (xreg r x) (xreg r y) = true then r.pc + imm else pc }) ∧
        (j = .fence → done 1 { r with pc := pc }) ∧
        (∀ rd, j = .readCycle rd → done 1 { setX r rd (BitVec.ofNat 64 r.cycle) with pc := pc }) ∧
        (∀ rd, j = .readInstret rd → done 1 { setX r rd (BitVec.ofNat 64 r.instret) with pc := pc }) ∧
        (∀ n x y imm o, j = .store n x y imm → (xreg r x + imm).toNat % n = 0 → dataAddr b (xreg r x + imm).toNat n = some o →
          done 1 { r with data := memWrites r.data o (leBytes n ((xreg r y).toNat % 2 ^ (8 * n))), pc := pc }) ∧
        (∀ n x y imm pa, j = .store n x y imm → (xreg r x + imm).toNat % n = 0 → dataAddr b (xreg r x + imm).toNat n = none →
          globalAddr s b (xreg r x + imm).toNat n true false = some pa → redHolds s pa n = false →
          let a := (xreg r x + imm).toNat
          let t := reeveTouch (setDirty (wrDie s r.die (cellsFrom pa (leBytes n ((xreg r y).toNat % 2 ^ (8 * n))))) b.aspace a) b a pa
          let q := getReeve t r.die r.slice
          Happens .reeveInstruction s
            (putReeve t { q with pc := q.pc + BitVec.ofNat 64 len, cycle := q.cycle + 1, instret := q.instret + 1 }))) ∧
      (within 2 → ∀ n sg rd x imm o, j = .load n sg rd x imm → (xreg r x + imm).toNat % n = 0 →
        dataAddr b (xreg r x + imm).toNat n = some o →
        done 2 { setX r rd (extendLoad n sg (leNat (memReads r.data o n))) with pc := pc }) ∧
      (∀ n sg rd x imm pa, j = .load n sg rd x imm → (xreg r x + imm).toNat % n = 0 → dataAddr b (xreg r x + imm).toNat n = none →
        globalAddr s b (xreg r x + imm).toNat n false true = some pa →
        (redHolds s pa n = true → Happens .reeveInstruction s (reeveWaits s r (budgetOf b e) none)) ∧
        (redHolds s pa n = false → within (homeCost s r pa) →
          let t := reeveTouch s b (xreg r x + imm).toNat pa
          let q := getReeve t r.die r.slice
          Happens .reeveInstruction s (putReeve t { setX q rd (extendLoad n sg (leNat (rdBytes s r.die pa n))) with
            pc := q.pc + BitVec.ofNat 64 len, cycle := q.cycle + homeCost s r pa, instret := q.instret + 1 }) ∧
          (homeDie s pa = some r.die → homeCost s r pa = if homeSlice (canonPa s pa) = r.slice then 12 else 40))) ∧
      (∀ n sg rd x imm, j = .load n sg rd x imm → ((xreg r x + imm).toNat % n ≠ 0 ∨ (dataAddr b (xreg r x + imm).toNat n = none ∧
        globalAddr s b (xreg r x + imm).toNat n false true = none)) → Happens .reeveInstruction s cut) ∧
      (∀ n x y imm, j = .store n x y imm → ((xreg r x + imm).toNat % n ≠ 0 ∨ (dataAddr b (xreg r x + imm).toNat n = none ∧
        globalAddr s b (xreg r x + imm).toNat n true false = none)) → Happens .reeveInstruction s cut) ∧
      (∀ n sg rd x imm o, j = .load n sg rd x imm → (xreg r x + imm).toNat % n = 0 →
        dataAddr b (xreg r x + imm).toNat n = some o → r.cycle + 1 = budgetOf b e →
        Happens .reeveInstruction s (putReeve s { r with cycle := budgetOf b e }))) ∧
    (∀ rs2 rs1 rd : BitVec 5,
      (let lines := ((List.range (min (xreg r rs2).toNat 64)).map fun i => (xreg r rs1).toNat / 64 * 64 + 64 * i).filter fun a =>
          (lineReached s b a).isSome
       let t := lines.foldl (fun t a => placeLine t b a) s
       let q := getReeve t r.die r.slice
       within 2 → Happens (.slpf rs2 rs1 rd) s (putReeve t
         { setX q rd (BitVec.ofNat 64 lines.length) with pc := q.pc + 4, cycle := q.cycle + 2, instret := q.instret + 1 })) ∧
      (let y := (xreg r rs2).toNat
       let good := y % 8 = 0 ∧ natBits y 15 12 = 0 ∧ natBits y 19 16 ≠ 0 ∧ y < 2 ^ 20
       let t := chaseOn b (y % 4096) (natBits y 19 16) s (xreg r rs1).toNat
       let q := getReeve t r.die r.slice
       (¬ good → Happens (.slchase rs2 rs1 rd) s cut) ∧
       (good → within 2 →
         (∃ n, 1 ≤ n ∧ n ≤ 4 ∧ n ≤ r.chases + 1 ∧ Happens (.slchase rs2 rs1 rd) s (putReeve t { setX q rd 0 with
            pc := q.pc + 4, cycle := q.cycle + 2, instret := q.instret + 1, chases := n })) ∨
          ∃ n, 4 ≤ n ∧ n ≤ r.chases ∧ ran (.slchase rs2 rs1 rd) 2 { setX r rd 1 with pc := r.pc + 4, chases := n })) ∧
      (let v := xreg r rs2
       let slice := (xreg r rs1).toNat % 64
       within 1 →
        ((47 < slice ∨ b.entryOf 3 = 0xFFFF ∨ reeveUsable s r.die slice = false) →
          ran (.slfwd rs2 rs1 rd) 1 { setX r rd 2 with pc := r.pc + 4 }) ∧
        (slice ≤ 47 → b.entryOf 3 ≠ 0xFFFF → reeveUsable s r.die slice = true → 64 ≤ (getReeve s r.die slice).queue.length →
          ran (.slfwd rs2 rs1 rd) 1 { setX r rd 1 with pc := r.pc + 4 }) ∧
        (slice ≤ 47 → b.entryOf 3 ≠ 0xFFFF → reeveUsable s r.die slice = true → (getReeve s r.die slice).queue.length < 64 →
          let o := getReeve s r.die slice
          let t := putReeve s { o with queue := o.queue ++ [⟨b.num, 3, false, 0, v, BitVec.allOnes 64⟩] }
          let q := getReeve t r.die r.slice
          Happens (.slfwd rs2 rs1 rd) s
            (putReeve t { setX q rd 0 with pc := q.pc + 4, cycle := q.cycle + 1, instret := q.instret + 1 }))) ∧
      (∀ (o : BitVec 3) (g : BitVec 1),
        let size := if g = 0 then 4 else 8
        let va := (xreg r rs1).toNat
        ((va % size ≠ 0 ∨ globalAddr s b va size true true = none) → Happens (.slupd o g rs2 rs1 rd) s cut) ∧
        (∀ pa, va % size = 0 → globalAddr s b va size true true = some pa → redHolds s pa size = true →
          (r.cycle + 1 < budgetOf b e → Happens (.slupd o g rs2 rs1 rd) s (putReeve s { r with cycle := r.cycle + 1 })) ∧
          (r.cycle + 1 = budgetOf b e → Happens (.slupd o g rs2 rs1 rd) s
            (putReeve { s with reds := s.reds ++ [slupdRequest r b (BitVec.ofNat 4 (o.toNat + 1)) g va
              ((xreg r rs2).toNat % 2 ^ (8 * size)) (canonPa s pa)] } { r with cycle := r.cycle + 1 }))) ∧
        (∀ pa, va % size = 0 → globalAddr s b va size true true = some pa → redHolds s pa size = false → within (homeCost s r pa) →
          let s1 := dropLines (flushHeld s r.die pa size) pa size
          let old := rdHomeNat s1 pa size
          let t := reeveTouch (setDirty (wrHomeNat s1 pa size (atomNew (BitVec.ofNat 4 (o.toNat + 1)) size old
            ((xreg r rs2).toNat % 2 ^ (8 * size)))) b.aspace va) b va pa
          let q := getReeve t r.die r.slice
          Happens (.slupd o g rs2 rs1 rd) s (putReeve t { setX q rd (BitVec.ofNat 64 old) with
            pc := q.pc + 4, cycle := q.cycle + homeCost s r pa, instret := q.instret + 1 }))) ∧
      (within 1 → ran .sldef 1 { r with cur := none }) ∧
      (within 1 → xreg r rs1 = 0 → ran (.sldone rs1) 1 { r with cur := none }) ∧
      (within 1 → xreg r rs1 = 1 → e.kind = 1 → Happens (.sldone rs1) s
        (putReeve (offerLine s r b e.line) { r with cycle := r.cycle + 1, instret := r.instret + 1, cur := none })) ∧
      (¬ (xreg r rs1 = 0 ∨ (xreg r rs1 = 1 ∧ e.kind = 1)) → Happens (.sldone rs1) s cut))

/-- A search command that heads its queue and may start leaves the queue for the die's table. SEEK with a result page that may not
be written ends with that fault alone; with a bad query or index it ends faulted; else its drove takes the snapshot and visits
the entry node, or over an empty graph scans its log and ends. A page that arrives is scored; its survivors are offered in
some order (or kept for the visit's end under REPRO.ON), and with the last page the drove goes on. An offer keeps R within k
and F within CAND + 1. A failed read is queued again and counted, and after the eighth the command ends with storage error.
KFETCH that passes its checks links block after block, each popped from the pool and copied, and ends with the last. SAPPEND
writes its entry and LOGTAIL, or ends with log full. SMERGE waits for another merge of its index or marks MERGING; its swap
ends it, with the log's head where the snapshot ended, and the next merge of the index begins. A SEEK, SAPPEND, page arrival
or block link whose bytes a RED at its home holds waits (log entry 56). The near-tier reads of the descriptor and the log, and
the writes of a block, are seen by the slices. Two clauses rest on what the model deduced: a delete of SAPPEND writes the
first 8 bytes of its entry alone (log entry 52), and ADDR of a storage error is a physical address (log entry 94). -/
def Obligations.SearchesRunOnTheQuesarDie : Prop :=
  (∀ (s : State) (x : Command),
    let c := settleCaps s x
    let s1 := searchStarted s c
    let d := { Drove.begin s c with query := rdHome s1 (c.src.base + seekQoff c.body) (queryBytes c.body) }
    let s2 := touchLines (indexSeen s1 d.index) c.aspace c.die (c.src.vbase + seekQoff c.body) (c.src.base + seekQoff c.body) (queryBytes c.body)
    searchHead s 1 = some x →
    ((redHolds s (c.src.base + seekQoff c.body) (queryBytes c.body) = true ∨ resultHeld s c = true) → Happens .seekStart s s) ∧
    (redHolds s (c.src.base + seekQoff c.body) (queryBytes c.body) = false → resultHeld s c = false →
      (notThere s1 c.dst = true → Happens .seekStart s (searchEnded s1 d (some (.notResident, resultVa c)))) ∧
      (∀ i, notThere s1 c.dst = false → recordByte s1 (resultPa c) (seekBytes c.body) = some i →
        Happens .seekStart s (searchEnded s1 d (some (.permission, resultVa c + i)))) ∧
      (notThere s1 c.dst = false → recordByte s1 (resultPa c) (seekBytes c.body) = none →
        (notThere s1 c.src = true → Happens .seekStart s
          (seekEnded s1 d (some (.notResident, (if c.src.valid then c.src.vbase else 0) + seekQoff c.body)))) ∧
        (∀ e, notThere s1 c.src = false → readIndex s2 c.aspace d.index = .error e → Happens .seekStart s (seekEnded s2 d (some e))) ∧
        (∀ ix f, notThere s1 c.src = false → readIndex s2 c.aspace d.index = .ok ix → queryBad s2 d ix = some f →
          Happens .seekStart s (seekEnded s2 d (some f))) ∧
        (∀ ix q, notThere s1 c.src = false → readIndex s2 c.aspace d.index = .ok ix → queryBad s2 d ix = none →
          seekQuery d ix = some q →
          let n := (ix.tail + 2 ^ 32 - ix.head) % 2 ^ 32
          let log := (List.range n).map fun i => rdHome s2 (logAddr ix (ix.head + i)) ix.lsz
          let s3 := logSeen s2 ix ix.head n
          let snap := { d with entry := ix.entry, head := ix.head, tail := ix.tail, log := log }
          (ix.entry ≠ emptyRef → Happens .seekStart s (putDrove s3 { snap with
            visited := [ix.entry], wanted := [ix.entry], awaited := [(refFp ix.entry, 0)], pages := 1,
              thrs := [BitVec.ofNat 32 posInf] })) ∧
          (ix.entry = emptyRef → (∀ l ∈ log, ∃ v, readVec ix false l = .ok v) → logBad s3 ix ix.head n = none →
            Happens .seekStart s (seekEnded s3 (scanLog ix q snap) none)))))) ∧
  (∀ (s : State) (x : Command),
    let c := settleCaps s x
    let d := Drove.begin s c
    let s1 := indexSeen (searchStarted s c) d.index
    (searchHead s 3 = some x → bodyHeld s c = true → Happens .sappendStart s s) ∧
    (searchHead s 3 = some x → bodyHeld s c = false →
    (∀ e, readIndex s1 c.aspace (searchIndex c.body) = .error e → Happens .sappendStart s (searchEnded s1 d (some e))) ∧
    (∀ ix, readIndex s1 c.aspace (searchIndex c.body) = .ok ix →
      let full := (ix.tail + 2 ^ 32 - ix.head) % 2 ^ 32 = ix.logCap
      (full → Happens .sappendStart s (searchEnded s1 d (some (.logFull, 0)))) ∧
      (∀ f, ¬ full → sappendBad s1 c ix = some f → Happens .sappendStart s (searchEnded s1 d (some f))) ∧
      (¬ full → sappendOp c.body = 1 → Happens .sappendStart s (searchEnded (putIndex
        (quesarWrite s1 (logAddr ix ix.tail) (leBytes 8 (bodyNat c.body 80 48 + 2 ^ 48))) ix 0x38 8 ((ix.tail + 1) % 2 ^ 32)) d none)) ∧
      (∀ v, ¬ full → sappendOp c.body ≠ 1 → sappendBad s1 c ix = none →
        let bytes := rdHome s1 (c.src.base + seekQoff c.body) (bodyBytes ix.vfmt ix.nc)
        decodeBody ix.vfmt ix.nc bytes = some v →
        Happens .sappendStart s (searchEnded (putIndex (quesarWrite (bodyTouched s1 c ix) (logAddr ix ix.tail)
          (entryBytes ix c.body bytes v)) ix 0x38 8 ((ix.tail + 1) % 2 ^ 32)) d none))))) ∧
  (∀ (s : State) (c : Command),
    let d := Drove.begin s c
    let s1 := indexSeen (searchStarted s c) d.index
    (searchHead s 2 = some c →
      (∀ ix, readIndex s1 c.aspace d.index = .ok ix → kfetchBad s1 c ix = none → Happens .kfetchStart s s1) ∧
      (∀ ix e, readIndex s1 c.aspace d.index = .ok ix → kfetchBad s1 c ix = some e → Happens .kfetchStart s (searchEnded s1 d (some e))) ∧
      (∀ e, readIndex s1 c.aspace d.index = .error e → Happens .kfetchStart s (searchEnded s1 d (some e)))) ∧
    (searchHead s 4 = some c →
      (∀ e, readIndex s1 c.aspace d.index = .error e → Happens .smergeStart s (searchEnded s1 d (some e))) ∧
      (∀ ix, readIndex s1 c.aspace d.index = .ok ix →
        (mergeRuns s1 d = true → Happens .smergeStart s (putDrove s1 { d with waits := true })) ∧
        (mergeRuns s1 d = false →
          Happens .smergeStart s (putMerging (putDrove s1 { d with head := ix.head, tail := ix.tail }) ix true))))) ∧
  (∀ (k cand : Nat) (r f : List DNode) (n : DNode), r.length ≤ k → f.length ≤ cand + 1 →
    (offerNode k cand (r, f) n).1.length ≤ k ∧ (offerNode k cand (r, f) n).2.length ≤ cand + 1 ∧
    (n.live = false → (offerNode k cand (r, f) n).1 = r) ∧
    (∀ x ∈ (offerNode k cand (r, f) n).1, x ∈ r ∨ x = n) ∧ (∀ x ∈ (offerNode k cand (r, f) n).2, x ∈ f ∨ x = n) ∧
    (r.length < k → n.live = true → n ∈ (offerNode k cand (r, f) n).1)) ∧
  ∀ (s : State) (k fp : Nat) (d : Drove), s.droves[k]? = some d →
    (bodyKind d.cmd.body = 1 → (resultHeld s d.cmd = true ∨ resultAway s d.cmd = true) → Happens (.drovePageArrival k fp) s s) ∧
    (∀ n, bodyKind d.cmd.body = 1 → assocGet d.awaited fp = some n → resultHeld s d.cmd = false → resultAway s d.cmd = false →
      (n < 8 → Happens (.pageReadRequeue k fp) s
        (putDrove s { d with awaited := assocSet d.awaited fp (n + 1), requeue := d.requeue + 1 })) ∧
      (8 ≤ n → Happens (.pageReadRequeue k fp) s (seekEnded s d (some (.storageError, 0)))) ∧
      (∀ e, readIndex s d.cmd.aspace d.index = .error e → Happens (.drovePageArrival k fp) s (seekEnded s d (some e))) ∧
      (∀ ix q d1 ns, readIndex s d.cmd.aspace d.index = .ok ix → seekQuery d ix = some q →
        scorePage s ix q fp (d.wanted.filter fun r => refFp r = fp) d = .ok (d1, ns) →
        let left := d1.awaited.filter fun p => !decide (p.1 = fp)
        let d2 := { d1 with awaited := left }
        (left ≠ [] → d.cmd.repro = true → Happens (.drovePageArrival k fp) s (putDrove s { d2 with kept := d2.kept ++ ns })) ∧
        (left ≠ [] → d.cmd.repro = false → ∃ ms, ms.Perm ns ∧ Happens (.drovePageArrival k fp) s (putDrove s (offerAll d2 ms))) ∧
        (left = [] → d.cmd.repro = true → ∃ ms, ms.Perm (d2.kept ++ ns) ∧
          Happens (.drovePageArrival k fp) s (seekOn s ix q (offerAll { d2 with kept := d2.kept ++ ns } ms))) ∧
        (left = [] → d.cmd.repro = false → ∃ ms, ms.Perm ns ∧
          Happens (.drovePageArrival k fp) s (seekOn s ix q (offerAll d2 ms))))) ∧
    (bodyKind d.cmd.body = 2 → ∀ ix, readIndex s d.cmd.aspace d.index = .ok ix → redHolds s ix.kvpool (256 * ix.blkb) = true →
      Happens (.kfetchBlockArrival k) s s) ∧
    (bodyKind d.cmd.body = 2 → ∀ ix, readIndex s d.cmd.aspace d.index = .ok ix → redHolds s ix.kvpool (256 * ix.blkb) = false →
      let b := d.cmd.body
      let page := blockPage s ix (kfetchPass b) d.next
      let e := rdDir s (kfetchSeq b)
      let l := kfetchLblk b + d.next
      let readFailed := ∃ p ∈ d.awaited, page ≤ p.1 ∧ p.1 < page + blockPages ix ∧ 8 < p.2
      (ix.kvpool = 0 → Happens (.kfetchBlockArrival k) s (searchEnded s d (some (.poolEmpty, 0)))) ∧
      (ix.kvpool ≠ 0 → readFailed → Happens (.kfetchBlockArrival k) s (searchEnded s d (some (.storageError, 0)))) ∧
      (∀ a, ix.kvpool ≠ 0 → ¬ readFailed → badAt s ix.kvpool 8 = some a →
        Happens (.kfetchBlockArrival k) s (searchEnded s d (some (.storageError, a)))) ∧
      (∀ f, ix.kvpool ≠ 0 → ¬ readFailed → badAt s ix.kvpool 8 = none → linkBad s d.cmd e l = some f →
        Happens (.kfetchBlockArrival k) s (searchEnded s d (some (f, 0)))) ∧
      (ix.kvpool ≠ 0 → ¬ readFailed → badAt s ix.kvpool 8 = none → linkBad s d.cmd e l = none →
        let t := changeEntry (seenLines (copyHome (putIndex s ix 0x40 8 (rdHomeNat s ix.kvpool 8)) (flashAddr page) ix.kvpool
          (256 * ix.blkb)) ix.kvpool (256 * ix.blkb)) (eRoot e) l (tableEntryOf false ix.kvpool)
        let d1 := { d with next := d.next + 1 }
        (d1.next ≤ kfetchNblk b → Happens (.kfetchBlockArrival k) s (putDrove t d1)) ∧
        (kfetchNblk b < d1.next → Happens (.kfetchBlockArrival k) s (searchEnded t d1 none))) ∧
      (kfetchPage s d fp = true → (assocGet d.awaited fp).getD 0 ≤ 8 → Happens (.pageReadRequeue k fp) s (putDrove s { d with
        awaited := assocSet d.awaited fp ((assocGet d.awaited fp).getD 0 + 1), requeue := d.requeue + 1 }))) ∧
    (bodyKind d.cmd.body = 4 → d.waits = false → ∀ ix, readIndex s d.cmd.aspace d.index = .ok ix →
      let done := mergeDo s d ix
      Happens (.smergeSwap k) s (wakeMerge (searchEnded (putMerging done.1 ix false) d done.2) d.index) ∧
      (done.2 = none → d.tail < 2 ^ 32 → (∀ i, i < 128 → canonPa s (ix.addr + i) = ix.addr + i) →
        rdHomeNat done.1 (ix.addr + 0x30) 8 = d.tail))

/-- Where a collective heads a core's queue, ready, and every member's matching entry is ready too, COLLECTIVE_START takes each of
them out of its queue and makes it a started command. With entries that agree, no fault among them and members that differ,
the destination of member r then holds the bytes R389 gives for rank r, and no other byte of its scratchpad changes. Entries
that differ end faulted with cause collective state and write nothing; so does an entry whose partner's was removed.
COLLECTIVE_END takes one started collective of the core from every member. Two choices of the model: the whole effect stands
at the start (log entry 23), and a faulted one writes nothing (log entry 53). -/
def Obligations.CollectivesStartTogetherAndEnd : Prop :=
  (∀ (s : State) (c : Command) (rest : List Command),
    let me := asMember s s.core.die s.core.num
    let comm := collComm c.body
    queueOf s.core 3 = c :: rest → (collReady s comm c.part me).isSome = true →
    (s.collGone.contains (comm, c.part) = true → ∃ t c', Happens .collectiveStart s t ∧ queueOf t.core 3 = rest ∧
      vget t.core.run 3 [] = vget s.core.run 3 [] ++ [c'] ∧ c'.fault = some ⟨.collectiveState, 0, 0⟩ ∧ c'.body = c.body ∧
      t.mem = s.mem ∧ SameBuffers s t) ∧
    (∀ ms cs, s.collGone.contains (comm, c.part) = false → commMembers s (commEntry s s.core.die comm) = some ms → ms.Nodup →
      collMatch s comm c.part ms = some cs → (∀ x ∈ cs, collBadFields x.body = false) →
      (∀ r m x, ms[r]? = some m → cs[r]? = some x →
        (dstRange x.body r ms.length).hi ≤ bufSize (getCore s m.die m.core) (dstRange x.body r ms.length).buf) →
      let srcs : List (List Byte) := (ms.zip cs).zipIdx.map fun p =>
        let x := srcRange p.1.2.body p.2 ms.length
        spRead (getCore s p.1.1.die p.1.1.core) x.buf x.lo (x.hi - x.lo)
      let agree := ∀ a ∈ cs, ∀ b ∈ cs, collAgree a b = true
      ∃ t, Happens .collectiveStart s t ∧ t.mem = s.mem ∧ ∀ r m x, ms[r]? = some m → cs[r]? = some x →
        let k := getCore s m.die m.core
        let k' := getCore t m.die m.core
        let d := dstRange x.body r ms.length
        let bytes := collBytes x.body srcs r
        queueOf k' 3 = (queueOf k 3).tail ∧
        (∃ y, vget k'.run 3 [] = vget k.run 3 [] ++ [y] ∧ y.body = x.body ∧
          (¬ agree → y.fault = some ⟨.collectiveState, 0, 0⟩) ∧ (agree → collFault s cs ms srcs = none → y.fault = none)) ∧
        (agree → collFault s cs ms srcs = none → ∀ j, j < bytes.length → spByte k' d.buf (stored k d.buf (d.lo + j)) = bytes.getD j 0) ∧
        SameScratch k k' fun b o => ¬ (agree ∧ collFault s cs ms srcs = none ∧ b = d.buf ∧
          ∃ j, j < bytes.length ∧ o = stored k d.buf (d.lo + j)))) ∧
  ∀ s : State, vget s.core.run 3 [] ≠ [] → ∃ c t, c ∈ vget s.core.run 3 [] ∧ Happens .collectiveEnd s t ∧
    ∀ die num, ∀ x ∈ vget (getCore t die num).run 3 [], x.gid ≠ c.gid

/-- By the owner, EN of a link whose EN a write may change sends one that passed bring-up into training, or disables it; another
link's write is ignored, and anyone else's is counted. Training ends up, degraded or failed by its lanes; a retry is counted;
a lane lost sends it back to training. A lost path drops the queued loads and stores, sent REDs and held bytes to its module
and ends its engine commands faulted (its abandoned fetches and started searches: log entry 122); a failure of the die
boundary or of the Quesar path, whichever it is of those present (log entry 55), reports the module failed. With no reeve
bound, no failing line and no RED on the bytes: a host read of the module's near or far tier or of host memory answers its
line, a write and an atomic change their bytes and no other, and pod loads, stores and atomics the same at near offsets (log
entry 54); another address is answered empty (log entry 56). A pod barrier takes its operation (log entry 96): an arrival,
bytes, a fill, a lock's wait or leave, and a wait or FGET that is answered or recorded. A RoCEv2 message lands or answers
through resident pages of the address space that it carries (log entry 68), behind a RED that holds them; a tagged message
lands and starts its armed launch, waits for an operation on its stream's entry, or is dropped and counted. -/
def Obligations.LinksAndOutsideRequests : Prop :=
  (∀ (s : State) (m n : Nat), n < 23 →
    let l := getLink s n
    let sets (i : Instr) (l' : Link) : Prop := ∃ t, Happens i s t ∧ getLink t n = l' ∧ (∀ j, j ≠ n → getLink t j = getLink s j) ∧
      t = if l'.state = l.state ∨ 20 < n then { s with links := t.links } else raiseMsix { s with links := t.links } 0 8
    (s.recovery = false → m ≠ 0 → s.mgmt.owner.toNat = m → enWrites s n = true →
      (l.passed = true → (l.state = 0 ∨ l.state = 4 ∨ l.state = 5) →
        sets (.linkEnable m n) { l with en := true, state := 1, width := 0 }) ∧
      ((l.passed = false ∨ (l.state ≠ 0 ∧ l.state ≠ 4 ∧ l.state ≠ 5)) → sets (.linkEnable m n) { l with en := true }) ∧
      sets (.linkDisable m n) { l with en := false, state := 5, width := 0 }) ∧
    (s.recovery = false → m ≠ 0 → s.mgmt.owner.toNat = m → enWrites s n = false →
      Happens (.linkEnable m n) s s ∧ Happens (.linkDisable m n) s s) ∧
    (s.recovery = false → m ≠ 0 → s.mgmt.owner.toNat ≠ m →
      Happens (.linkEnable m n) s (addNown s) ∧ Happens (.linkDisable m n) s (addNown s)) ∧
    (∀ lanes peer, l.state = 1 →
      let p := if n < 18 then peer else 0
      let full := if n = 22 then 16 else 8
      (full ≤ lanes → sets (.linkTrainingDone n lanes peer) { l with state := 2, width := BitVec.ofNat 5 full, peer := p }) ∧
      (full ≤ 2 * lanes → lanes < full →
        sets (.linkTrainingDone n lanes peer) { l with state := 3, width := BitVec.ofNat 5 lanes, peer := p }) ∧
      (2 * lanes < full → n ≠ 20 → n ≠ 21 →
        sets (.linkTrainingDone n lanes peer) { l with state := 4, width := 0, downs := l.downs + 1 }) ∧
      (2 * lanes < full → (n = 20 ∨ n = 21) → ∃ t, Happens (.linkTrainingDone n lanes peer) s t ∧ t.reportedFailed = true ∧
        getLink t n = { l with state := 4, width := 0, downs := l.downs + 1 })) ∧
    ((l.state = 2 ∨ l.state = 3) →
      sets (.flitRetry n) { l with retry := if l.retry = 0xFFFF then 0xFFFF else l.retry + 1 } ∧
      sets (.laneLost n) { l with state := 1, width := 0, downs := l.downs + 1 })) ∧
  (∀ (s : State) (pkg : Nat), pkg ≠ s.pkgId.toNat → (∀ die, portFor s die pkg 0 = none) →
    ∃ t, Happens (.pathLossTimeout pkg) s t ∧ (∀ r ∈ t.reds, redTo s pkg r = false) ∧ (∀ h ∈ t.heldBytes, homedAt s pkg h.addr = false) ∧
      (∀ c ∈ allCtxs t, ∀ e ∈ c.accessQ, storeTo s pkg e = false) ∧
      ∀ k ∈ allCores t, ∀ c, c ∈ vget k.run 1 [] ∨ c ∈ vget k.run 2 [] → commandTo s pkg c = true → c.fault.isSome = true) ∧
  (∀ s : State, (capsDies s ≠ 1 ∨ capsQuesar s = true) →
    ∃ t n, Happens .dieBoundaryFailure s t ∧ t.reportedFailed = true ∧ ((n = 20 ∧ capsDies s ≠ 1) ∨ (n = 21 ∧ capsQuesar s = true)) ∧
      (getLink t n).state = 4 ∧ (getLink t n).width = 0) ∧
  (∀ (s : State) (pa : Nat), s.bindings = [] → s.badLines = [] →
    let sees (i : Instr) (n : Nat) (answer bytes : List Byte) : Prop := ∃ t, Happens i s t ∧ t.answer = answer ∧
      (∀ j, j < n → memRead t.mem (pa + j) = bytes.getD j 0) ∧ (∀ a, (a < pa ∨ pa + n ≤ a) → memRead t.mem a = memRead s.mem a) ∧
      t = { s with mem := t.mem, answer := answer }
    let mem := hostReaches s pa = true
    (mem →
      (redHolds s (pa / 64 * 64) 64 = false → Happens (.hostMemoryAccess pa none) s { s with answer := rdHome s (pa / 64 * 64) 64 }) ∧
      (∀ bs : List Byte, pa % 64 + bs.length ≤ 64 → redHolds s pa bs.length = false →
        sees (.hostMemoryAccess pa (some bs)) bs.length [] bs) ∧
      ∀ (op : BitVec 2) (sz : BitVec 1) (v e : BitVec 64),
        let n := if sz = 0 then 4 else 8
        let M := 2 ^ (8 * n)
        let old := rdHomeNat s pa n
        pa % n = 0 → redHolds s pa n = false →
        (op = 0 → sees (.hostAtomic op sz pa v e) n (leBytes n old) (leBytes n ((old + v.toNat) % M))) ∧
        (op = 1 → sees (.hostAtomic op sz pa v e) n (leBytes n old) (leBytes n (v.toNat % M))) ∧
        (op = 2 → sees (.hostAtomic op sz pa v e) n (leBytes n old) (leBytes n (if old = e.toNat % M then v.toNat % M else old)))) ∧
    (¬ mem → (∀ wr, Happens (.hostMemoryAccess pa wr) s { s with answer := [] }) ∧
      ∀ op sz v e, Happens (.hostAtomic op sz pa v e) s { s with answer := [] }) ∧
    (isNear s pa = true →
      (∀ n, isNear s (pa + n - 1) = true → redHolds s pa n = false →
        Happens (.podRequest (.load pa n)) s { s with answer := rdHome s pa n }) ∧
      (∀ bs : List Byte, isNear s (pa + bs.length - 1) = true → redHolds s pa bs.length = false →
        sees (.podRequest (.store pa bs)) bs.length [] bs) ∧
      ∀ (op : BitVec 4) (sz : BitVec 1) (v e : BitVec 64),
        let n := if sz = 0 then 4 else 8
        let w (x : BitVec 64) : Nat := if sz = 0 then x.toNat % 2 ^ 32 else x.toNat
        let old := rdHomeNat s pa n
        pa % n = 0 → redHolds s pa n = false →
        sees (.podRequest (.atom op sz pa v)) n (leBytes n old) (leBytes n (atomNew op n old (w v))) ∧
        sees (.podRequest (.red op sz pa v)) n (leBytes n old) (leBytes n (atomNew op n old (w v))) ∧
        sees (.podRequest (.cas sz pa e v)) n (leBytes n old) (leBytes n (if old = w e then w v else old))) ∧
    (isNear s pa = false → ∀ n bs, Happens (.podRequest (.load pa n)) s { s with answer := [] } ∧
      Happens (.podRequest (.store pa bs)) s { s with answer := [] })) ∧
  (∀ (s : State) (n : Nat) (op : PodBarOp), n < barCount 4 →
    let key : BarKey := ⟨4, 0, n⟩
    let b := getBar s key
    Happens (.podRequest (.barrier n op)) s (podBarrier s key op) ∧
    (∀ f g, op = .arrive f g → b.kind = .phaser → s.podParks = [] →
      podBarrier s key op = barAnswer (arrive s key f g) .none (b.phase.zeroExtend 64)) ∧
    (∀ n f, op = .bytes n f → b.kind = .phaser → s.podParks = [] → podBarrier s key op = barAnswer (takeBytes s key n f) .none 0) ∧
    (∀ t, op = .wait t → b.kind = .phaser → s.oneCycle = false → podBarrier s key op =
      if phaseDone b.phase t then barAnswer s .none (statusWord b t)
      else { s with podParks := s.podParks ++ [⟨n, some t⟩], answer := [] }) ∧
    (op = .get → b.kind = .future → podBarrier s key op =
      if b.full then barAnswer s .none b.value else { s with podParks := s.podParks ++ [⟨n, none⟩], answer := [] }) ∧
    (∀ h, op = .abandon h → b.kind = .lock → b.held = true → b.holder = h.extractLsb' 0 48 → s.podWaits = [] →
      podBarrier s key op = barAnswer (lockRelease s key true) .none 0) ∧
    (∀ f g k t, op ∈ [.arrive f g, .bytes k f, .wait t] → b.kind ≠ .phaser → s.oneCycle = false →
      podBarrier s key op = barAnswer s .barrierState 0) ∧
    (op = .test → b.kind ≠ .free → s.oneCycle = false → podBarrier s key op = barAnswer s .none (testWord b)) ∧
    (∀ v, op = .fill v → b.kind = .future → b.full = false → s.podParks = [] →
      podBarrier s key op = barAnswer (wakeFuture (putBar s key { b with value := v, full := true }) key v) .none 0) ∧
    (∀ h g p, op = .lockWait h g p → b.kind = .lock → b.held = false → podBarrier s key op =
      barAnswer (putBar s key { b with held := true, holder := h.extractLsb' 0 48, hgroup := g, abandoned := false }) .none
        (if b.abandoned then 1 else 0)) ∧
    (∀ h g p, op = .lockWait h g p → b.kind = .lock → b.held = true → b.holder ≠ h.extractLsb' 0 48 → podBarrier s key op =
      answered (podWaiting s key (h.extractLsb' 0 48) g p) []) ∧
    (∀ t, op = .leave t → podBarrier s key op = barAnswer { s with podParks := s.podParks.erase ⟨n, t⟩ } .none 0) ∧
    ∀ h, op = .lockLeave h → ∃ u, podBarrier s key op = barAnswer u .none 0 ∧
      u.podWaits = s.podWaits.filter fun w => !decide (w.num = n ∧ w.holder = h.extractLsb' 0 48)) ∧
  (∀ (s : State) (qp : Nat), qp < 16384 → capsEth s = true → (ethUp s 0 || ethUp s 1) = true →
    (∀ asp va bytes pas, netBytes s asp true (BitVec.toNat va) bytes.length = some pas → netHeld s pas = false →
      Happens (.rocev2Message qp (.send asp va bytes)) s (netLand s asp va.toNat pas bytes) ∧
      Happens (.rocev2Message qp (.write asp va bytes)) s (netLand s asp va.toNat pas bytes)) ∧
    (∀ asp va n pas, netBytes s asp false (BitVec.toNat va) n = some pas → netHeld s pas = false →
      Happens (.rocev2Message qp (.read asp va n)) s { s with answer := pas.map fun pa => memRead s.mem (canonPa s pa) }) ∧
    Happens (.rocev2Message qp .noBuffer) s s) ∧
  ∀ (s : State) (port : Nat) (asp : BitVec 12) (tag : BitVec 32) (hdr : BitVec 128) (va : BitVec 64) (pay : List Byte) (pas : List Nat),
    capsEth s = true → ethUp s port = true →
    netBytes s asp true va.toNat (leBytes 16 hdr.toNat ++ pay).length = some pas → netHeld s pas = false →
    let landed := netLand s asp va.toNat pas (leBytes 16 hdr.toNat ++ pay)
    let arm := s.arms.find? fun x => x.tag == tag && x.aspace == asp
    ((arm = none ∨ hdr.extractLsb' 32 96 ≠ 0 ∨ ∃ x, arm = some x ∧ cbarAllotted s x.die x.aspace x.launch = false) →
      Happens (.taggedLaunchMessage port asp tag hdr va pay) s (tagDropped landed port)) ∧
    (∀ x, arm = some x → hdr.extractLsb' 32 96 = 0 → cbarAllotted s x.die x.aspace x.launch = true →
      streamBusy s x.die x.aspace (hdr.extractLsb' 0 32) = true → Happens (.taggedLaunchMessage port asp tag hdr va pay) s s) ∧
    (∀ x t, arm = some x → hdr.extractLsb' 32 96 = 0 → cbarAllotted s x.die x.aspace x.launch = true →
      streamBusy s x.die x.aspace (hdr.extractLsb' 0 32) = false → armedLaunch landed x (hdr.extractLsb' 0 32) va = some t →
      Happens (.taggedLaunchMessage port asp tag hdr va pay) s t)

/-- Outside recovery a master's write of ownership acts as R410 orders, or is counted (log entry 38). An owner's ALLOT, FRING,
PKGSET and PLIMIT act as R408, R411 and R414 give, anyone else's are counted. A register write of 4 or 8 aligned bytes within
a block acts on it, the Quesar, link-control and LAUNCH bits stated; any other does nothing. The write-only LAUNCH, PENTRY,
PDEAD, FRING and ALLOT read as zero. A self-test sets READY or FAILED once, FAILED where a firmware image is rejected by its
signature, key or version (log entry 99), and the last one ends bring-up; a rejected image of Olulas enters recovery, and an
accepted recovery image ends it. A reset leaves the reset state with the contents of memory (log entry 7) and the fused key
and version; a trip holds the module in it. Power above the limit throttles, below it restores. An SPDM request is answered
with free bytes (log entry 4) and, for measurements 4 and 5, CAPS or ownership; which path carries it is free (log entry 4): a
reply over DOE raises function 1's vector 1, one over I3C none. An error makes a scratchpad word corrected once and
uncorrectable twice (log entry 34), or a line fail for which no queued load waits (log entry 88), or a clean cached line leave
and be counted; a failed bank is recorded. -/
def Obligations.ManagementStepsComplete : Prop :=
  (∀ (s : State) (m : Nat) (c h : BitVec 3), s.recovery = false → 1 ≤ m → m ≤ 4 → (s.mgmt.pkgw = 3 → s.pkgId = s.mgmt.pkgset) →
    let g := s.mgmt
    let me := g.owner.toNat = m
    let own (o t : BitVec 3) : State := putMgmt s { g with owner := o, handto := t }
    (me → Happens (.ownershipRelease m) s (own 0 0)) ∧ (¬ me → Happens (.ownershipRelease m) s (addNown s)) ∧
    (me → h ≠ 0 → Happens (.handover m h) s (own g.owner h)) ∧ (¬ me → Happens (.handover m h) s (addNown s)) ∧
    (c.toNat = m → (me → Happens (.claim m c h) s (own c h)) ∧ (g.owner = 0 → Happens (.claim m c h) s (own c g.handto)) ∧
      (¬ me → g.owner ≠ 0 → g.handto = c → Happens (.claim m c h) s (own c 0)) ∧
      (¬ me → g.owner ≠ 0 → g.handto ≠ c → Happens (.claim m c h) s (addNown s))) ∧
    (c ≠ 0 → c.toNat ≠ m → Happens (.claim m c h) s (addNown s))) ∧
  (∀ (s : State) (m : Nat), ((m = 1 ∨ m = 2 ∨ m = 4) → s.mgmt.owner.toNat = m →
      Happens (.functionLevelReset m) s (putMgmt s { s.mgmt with owner := 0, handto := 0 })) ∧
    (s.mgmt.owner.toNat ≠ m → Happens (.functionLevelReset m) s s)) ∧
  (∀ (s : State) (m : Nat) (i : Instr), s.recovery = false → m ≠ 0 → s.mgmt.owner.toNat ≠ m →
    ((∃ v, i = .allot m v) ∨ (∃ v, i = .fring m v) ∨ (∃ p v, i = .pkgset m p v) ∨ (∃ v, i = .plimit m v)) → Happens i s (addNown s)) ∧
  (∀ (s : State) (m : Nat), s.recovery = false → m ≠ 0 → s.mgmt.owner.toNat = m →
    (∀ (level n : Nat) (asp : BitVec 12) (v : BitVec 64), 1 ≤ level → level ≤ 4 → n < barCount level →
      (∀ b ∈ s.netBars, b.1.level = level → b.1.num = n → b.2.kind = .free) →
      v.extractLsb' 0 48 = BitVec.ofNat 48 n → v.extractLsb' 48 12 = asp → v.extractLsb' 60 3 = BitVec.ofNat 3 level →
      ∃ t, Happens (.allot m v) s t ∧ t = { s with allotReg := v, allots := t.allots } ∧
        (∀ a, (level, n, a) ∈ t.allots ↔ (v.getLsbD 63 = true ∧ a = asp)) ∧
        ∀ x, (x.1 ≠ level ∨ x.2.1 ≠ n) → (x ∈ t.allots ↔ x ∈ s.allots)) ∧
    (∀ v : BitVec 64, v.extractLsb' 11 37 ≠ 0 ∨ v.extractLsb' 60 3 = 0 → Happens (.allot m v) s { s with allotReg := v }) ∧
    (∀ (v : BitVec 64) (pa : Nat), pa = natBits v.toNat 51 6 * 64 →
      (isNear s pa = true → pa ≠ 0 → ∃ t, Happens (.fring m v) s t ∧ t = { s with fringReg := v, frings := t.frings } ∧
        assocGet t.frings (v.extractLsb' 52 12) = some pa ∧ ∀ a, a ≠ v.extractLsb' 52 12 → assocGet t.frings a = assocGet s.frings a) ∧
      (pa = 0 → ∃ t, Happens (.fring m v) s t ∧ t = { s with fringReg := v, frings := t.frings } ∧
        assocGet t.frings (v.extractLsb' 52 12) = none ∧ ∀ a, a ≠ v.extractLsb' 52 12 → assocGet t.frings a = assocGet s.frings a) ∧
      (isNear s pa = false → Happens (.fring m v) s { s with fringReg := v })) ∧
    (∀ v : BitVec 10, s.mgmt.pkgw = 0 →
      Happens (.pkgset m 3 v) s { s with mgmt := { s.mgmt with pkgset := v, pkgw := 3 }, pkgId := v } ∧
      Happens (.pkgset m 1 v) s { s with mgmt := { s.mgmt with
        pkgset := s.mgmt.pkgset.extractLsb' 4 6 ++ v.extractLsb' 0 4, pkgw := 1 } }) ∧
    (∀ (v : BitVec 10) (p : BitVec 2), s.mgmt.pkgw = 3 → s.pkgId = s.mgmt.pkgset → Happens (.pkgset m p v) s s) ∧
    (∀ v : BitVec 12, Happens (.plimit m v) s { s with mgmt := { s.mgmt with
      plimit := BitVec.ofNat 12 (max 400 (min v.toNat (if s.part = .a then 2800 else 1300))) } }) ∧
    (∀ (fn off size : Nat) (v : BitVec 64), (size = 4 ∨ size = 8) → off % size = 0 →
      (fn = 0 → ∀ b rel, blockAt s off size = some (b, rel) →
        Happens (.registerWrite m fn off size v) s (blockWrite s b rel size v.toNat)) ∧
      (fn = 0 → blockAt s off size = none → Happens (.registerWrite m fn off size v) s s)) ∧
    (∀ v : BitVec 64, capsQuesar s = true →
      Happens (.registerWrite m 0 0x800000 8 v) s { s with quesarBase := v &&& 0xFFFFFFFFFFF80 }) ∧
    (∀ (die : Nat) (v : BitVec 64), die < capsDies s → die < 2 →
      Happens (.registerWrite m 0 (0x100000 * die + 0xC0) 8 v) s
        { s with linkCtl := vset s.linkCtl die { getLinkCtl s die with routebase := v } } ∧
      Happens (.registerWrite m 0 (0x100000 * die + 0xC8) 8 v) s
        { s with linkCtl := vset s.linkCtl die { getLinkCtl s die with commbase := v } } ∧
      Happens (.registerWrite m 0 (0x100000 * die + 0xD0) 8 v) s
        { s with linkCtl := vset s.linkCtl die { getLinkCtl s die with qpbase := v } } ∧
      Happens (.registerWrite m 0 (0x100000 * die + 0x40) 8 v) s (launchWrite { s with launchReg := vset s.launchReg die v } die v))) ∧
  (∀ (s : State) (m fn off size : Nat) (v : BitVec 64), ((size ≠ 4 ∧ size ≠ 8) ∨ off % size ≠ 0) →
    Happens (.registerWrite m fn off size v) s s) ∧
  (∀ s : State,
    (s.recovery = true → ∀ fn off size, registerRead s false fn off size = none) ∧
    (∀ i3c, (s.recovery = false ∨ i3c = true) → registerRead s i3c 1 16 8 = some 0 ∧ registerRead s i3c 1 24 8 = some 0 ∧
      (∀ fn off size, ((size ≠ 4 ∧ size ≠ 8) ∨ off % size ≠ 0) → registerRead s i3c fn off size = none) ∧
      ∀ die, die < capsDies s → die < 2 → registerRead s i3c 0 (0x100000 * die + 0x40) 8 = some 0 ∧
        registerRead s i3c 0 (0x100000 * die + 0x98) 8 = some 0 ∧
        registerRead s i3c 0 (0x100000 * die + 0xC0) 8 = some (getLinkCtl s die).routebase.toNat)) ∧
  (∀ (s : State) (f : Nat) (pass : Bool) (img : FwImage) (found : Nat), s.recovery = false → functionPresent s.part f = true →
    (s.mgmt.bdone = false ∨ f = 0) → s.mgmt.ready.getLsbD f = false → s.mgmt.failed.getLsbD f = false →
    let accepted : Prop := img.signed_ = true ∧ img.key = s.fuseKey ∧ s.fuseVersion ≤ img.version
    let runsImage : Prop := f = 0 ∨ f = 5 ∨ f = 6
    let ok : Prop := pass = true ∧ (runsImage → accepted)
    ∃ t, Happens (.functionSelfTestDone f ⟨pass, img⟩ found) s t ∧
      (∀ j, t.mgmt.ready.getLsbD j = true ↔ s.mgmt.ready.getLsbD j = true ∨ (ok ∧ j = f)) ∧
      (∀ j, j < 10 → (t.mgmt.failed.getLsbD j = true ↔ s.mgmt.failed.getLsbD j = true ∨ (¬ ok ∧ j = f))) ∧
      (t.mgmt.bdone = true ↔ s.mgmt.bdone = true ∨ ∀ j, j < 10 → functionPresent s.part j = true →
        t.mgmt.ready.getLsbD j = true ∨ t.mgmt.failed.getLsbD j = true) ∧
      (t.recovery = true ↔ f = 0 ∧ ¬ accepted) ∧ (t.mgmt.bdone = s.mgmt.bdone → t.caps = s.caps) ∧ t.core = s.core ∧ t.mem = s.mem) ∧
  (∀ s : State,
    let after := { State.resetOf s.part with mem := s.mem, badLines := s.badLines, msix := s.msix, fuseKey := s.fuseKey
                                             fuseVersion := s.fuseVersion, fresh := s.fresh, clock := s.clock }
    Happens .moduleReset s after ∧ Happens .tripTemperature s { after with held := true, reportedFailed := true } ∧
    (∀ w : BitVec 12, ∃ t u, Happens (.throttle w) s t ∧ t = { s with mgmt := t.mgmt, msix := t.msix, msixPend := t.msixPend } ∧ t.mgmt.pmeas = w ∧
      (t.mgmt.throt = true ↔ s.mgmt.throt = true ∨ s.mgmt.plimit.toNat < w.toNat) ∧
      Happens (.clockRestore w) s u ∧ u = { s with mgmt := u.mgmt, msix := u.msix, msixPend := u.msixPend } ∧ u.mgmt.pmeas = w ∧
      (u.mgmt.throt = true ↔ s.mgmt.throt = true ∧ s.mgmt.plimit.toNat ≤ w.toNat)) ∧
    (∀ img : FwImage, s.recovery = true →
      let accepted : Prop := img.signed_ = true ∧ img.key = s.fuseKey ∧ s.fuseVersion ≤ img.version
      (accepted → ∃ t, Happens (.recoveryImage img) s t ∧ t.recovery = false ∧ t.mgmt.failed.getLsbD 0 = false) ∧
      (¬ accepted → Happens (.recoveryImage img) s s)) ∧
    (s.recovery = false →
      let replies (i : Instr) (value : List Byte) : Prop := ∃ i3c b,
        let t := { s with spdm := s.spdm ++ [(i3c, b ++ value)], fresh := s.fresh + 1 }
        Happens i s (if i3c = true then t else raiseMsix t 1 1)
      replies .getVersion [] ∧ replies .getCapabilities [] ∧ replies .negotiateAlgorithms [] ∧ replies .getDigests [] ∧
        replies .getCertificate [] ∧ replies .challenge [] ∧ replies (.getMeasurements 4) (leBytes 8 s.caps.toNat) ∧
        replies (.getMeasurements 5) [s.mgmt.owner.zeroExtend 8, s.mgmt.handto.zeroExtend 8] ∧
        ∀ n, n ≠ 4 → n ≠ 5 → replies (.getMeasurements n) []) ∧
    (∀ (die core pa : Nat) (buf : BitVec 2) (double : Bool), buf ≠ 3 → die < capsDies s → core < coreCount s die → pa < bufBytes buf →
      let k := getCore s die core
      let w := (buf, pa / 8)
      ∃ t, Happens (.softError (.scratch die core buf) pa double) s t ∧ t.mem = s.mem ∧
        let k' := getCore t die core
        (k.bad.contains w = true → k' = k) ∧
        (k.bad.contains w = false → k.soft.contains w = false → double = false → k' = { k with soft := k.soft ++ [w] }) ∧
        (k.bad.contains w = false → (k.soft.contains w = true ∨ double = true) →
          k' = { k with bad := k.bad ++ [w], soft := k.soft.filter fun x => !decide (x = w) })) ∧
    (∀ pa : Nat, (isNear s pa || isFar s pa) = true →
      Happens (.softError .mem pa false) s s ∧
      Happens (.softError .cache pa false) s { dropLines s (pa / 64 * 64) 64 with
        mgmt := { s.mgmt with serr := if s.mgmt.serr = 0xFFFFFFFF then 0xFFFFFFFF else s.mgmt.serr + 1 } } ∧
      (s.badLines.contains (pa / 64) = false → lineAwaited s pa = false →
        Happens (.softError .mem pa true) s { s with badLines := s.badLines ++ [pa / 64] })) ∧
    ∀ bank : Nat, bank < 24 →
      Happens (.bankFailed bank true) s (modCore s fun k => { k with
        failedBanks := (k.failedBanks.filter fun n => n != bank) ++ [bank], withheld := true }) ∧
      Happens (.bankFailed bank false) s (modCore s fun k => { k with
        failedBanks := k.failedBanks.filter fun n => n != bank, withheld := !(k.failedBanks.all fun n => n == bank) }))

/-- With the module out of reset, a move taken, from the agenda or, where that is empty, chosen freely among the open ones (log
entry 1); the cycle it belongs to has been ended, or is shared with it (log entry 87). Where the move is a core's issue and
its running context fetches a word (R98, R127), and the word waits for no register and is not held behind queued vector
instructions (R107, R149), the step is exec of the instruction that the word decodes to, a patch word's command named by its
template's kind (R67), or the trap of a word that is no instruction (R71); behind an unchecked vector instruction a trap, or a
return from one, waits. A word that is held or waits is not run. Other cores' traps join the step only where its own trap
aborts their group (R402, log entry 105). A reeve's own word in a running handler is run likewise (R379). An event is exec of
that step, and a started command's work a piece of it, after a free number of cycles. Afterwards the step only gives the
commands' signals that no load holds any more (R229, log entry 116), advances the counter of free values, and drops the counts
of communicators that are no longer valid (R390). A core that has issued in a shared cycle issues next in a later one (R417).
A module that nothing moves stays as it is, and one held in reset faults (R414). -/
def Obligations.StepRunsTheDecodedInstruction : Prop :=
  (∀ (s u0 : State) (die n : Nat) (later : Bool), s.held = false → Takes s u0 (.issue die n later) →
    let u := { focus u0 die n with later := later }
    mayIssue u u.core = true → ∀ t w, fetchWord u = .word t w →
      let v := withWord t w
      let c := v.core.ctx
      (waitsLoad c w = false → waitsVector c w = false → heldWord c w = false → vectorPending c = false →
        (∀ i, decode w = .ok i → step s = settleOut (coincide u (exec (resolveKind v i) v))) ∧
        (∀ e, decode w = .error e → step s = settleOut (coincide u (.next (takeTrap v (decodeTrap v e)))))) ∧
      (waitsLoad c w = false → waitsVector c w = false → heldWord c w = false → vectorPending c = true →
        ∀ i x, decode w = .ok i → exec (resolveKind v i) v = .next x →
          step s = settleOut (coincide u (.next (if trapMoved v x then stallStep v else x)))) ∧
      (waitsLoad c w = true → step s = .next (settled (stallData v))) ∧
      (waitsLoad c w = false → (waitsVector c w = true ∨ heldWord c w = true) → step s = .next (settled (stallStep v)))) ∧
  (∀ (s u0 : State) (die n : Nat) (i : Instr), s.held = false → Takes s u0 (.event die n i) →
    let u := focus { u0 with clock := u0.clock + Config.freeCycles u0.fresh } die n
    step s = settleOut (coincide u (exec i u))) ∧
  (∀ (s : State) (o : Host.Outcome State Fault Refusal), (∀ t, o = .next t → t.agenda = s.agenda ∧
    ∀ k ∈ t.kernels, k.state ≠ .stopping ∨ k.endCode ≠ 4) → coincide s o = o) ∧
  (∀ (s u0 : State) (die n cls k : Nat), s.held = false → Takes s u0 (.work die n cls k) →
    step s = .next (settled (commandWork (focus { u0 with clock := u0.clock + Config.freeCycles u0.fresh } die n) cls k))) ∧
  (∀ (s u0 : State) (die slice : Nat) (e : ReeveEvent) (b : Binding) (w : BitVec 32) (i : Instr),
    s.held = false → Takes s u0 (.reeve die slice) →
    let u := { u0 with reeveNow := (die, slice) }
    (reeveHere u).cur = some e → reeveBinding u = some b → (reeveHere u).cycle < budgetOf b e →
    reeveFetch b (reeveHere u).pc = some (4, w) → decodeReeve w = some i → step s = settleOut (exec i u)) ∧
  (∀ (s : State) (i : Instr), i.canonical = i → (resolveKind s i).canonical = i) ∧
  (∀ s : State, s.heldSignals = [] → settled s = { s with
    fresh := s.fresh + 1, later := false, collCounts := (settled s).collCounts, collGone := (settled s).collGone }) ∧
  (∀ s : State, s.held = false → s.agenda = [] → ownMoves s = [] → step s = .next (settled s)) ∧
  (∀ s : State, s.oneCycle = false → cycleOver s = s ∧
    ∀ m, cycleOf s m = s ∨ ∃ l, cycleOf s m = { s with oneCycle := true, cycleCores := l }) ∧
  (∀ (s : State) (die n : Nat) (later : Bool), s.oneCycle = true → (die, n) ∈ s.cycleCores →
    (cycleOf s (.issue die n later)).cycleCores = [] ∨ (cycleOf s (.issue die n later)).cycleCores = [(die, n)]) ∧
  ∀ s : State, s.held = true → step s = .fault .heldInReset

/-- The words of the worked examples of R65, R67, R125, R137, R378 and R379 and of the other chapters decode to their
instructions, operand by operand. The word with the reserved fn 0x1C and a word of an unassigned major are refused as codes, a
word with a reserved bit set as a field. -/
def Obligations.WordsDecodeAsWritten : Prop :=
  decode 0x04611000#32 = .ok (.add 3 1 2 0 0) ∧
  decode 0x0484080A#32 = .ok (.add 4 4 1 1 2) ∧ decode 0x34C74005#32 = .ok (.ldg 6 3 2 4 5) ∧
  decode 0x24A00040#32 = .ok (.movi 5 0 0x40) ∧ decode 0x08381840#32 = .ok (.cmp 1 24 3 2 0 0) ∧
  decode 0x4EFFFFFD#32 = .ok (.br 1 3 0x3FFFFD) ∧ decode 0x2CC44008#32 = .ok (.lds 6 4 1 8) ∧
  decode 0x3CA4712C#32 = .ok (.atom 5 2 7 1 0 1 6) ∧ decode 0x48000016#32 = .ok (.fenceRel 6) ∧
  decode 0x58008004#32 = .ok (.loop 0 1 4) ∧ decode 0xE804828E#32 = .ok (.tmplBfmt 9 14) ∧
  decode 0xC4520040#32 = .ok (.matrixHold 5 2 0x40) ∧ decode 0xC055003F#32 = .ok (.mma 5 5 0x3F) ∧
  decode 0xA544B360#32 = .ok (.vldg 10 2 11 1 5 2) ∧ decode 0xF84200C2#32 = .ok (.hdlbind 4 12 2) ∧
  decode 0x64500000#32 = .ok .done ∧ decodeReeve 0x00C5850B#32 = some (.slpf 12 11 10) ∧
  decodeReeve 0x10C5A50B#32 = some (.slupd 0 1 12 11 10) ∧ decodeReeve 0x0005102B#32 = some (.sldone 10) ∧
  decode 0x04611380#32 = .error .code ∧ decode 0x00000000#32 = .error .code ∧ decode 0x64500001#32 = .error (.field none)

/-- For every constructor that has a word, with every operand at every value its encoding admits: encode gives a word, and the
core's or the reeve's decoder reads from it the instruction again (a patch word reads as the class's first command, since its
template names the rest: R67, and log entry 64, the model's choice). The other way, a word that decodes gives a well-formed
instruction whose word it is. -/
def Obligations.WellFormedInstructionsRoundTrip : Prop :=
  (∀ i : Instr, i.isCoreWord = true → i.wf = true → ∃ w, encode i = some w ∧ decode w = .ok i.canonical) ∧
  (∀ i : Instr, i.isReeveWord = true → ∃ w, encode i = some w ∧ decodeReeve w = some i) ∧
  (∀ (w : BitVec 32) (i : Instr), decode w = .ok i → i.isCoreWord = true ∧ i.wf = true ∧ encode i = some w ∧ i.canonical = i) ∧
  ∀ (w : BitVec 32) (i : Instr), decodeReeve w = some i → i.isReeveWord = true ∧ encode i = some w

/-- From every state in which each communicator that has a count of collectives, and each that has a removed entry, is valid in a
die's table (R387, R390), whatever step the module takes, the next state is again such a state: a count runs only from the
time the entry last became valid. In particular a step that writes the table, or moves it, drops the counts of the entries
that it makes invalid. -/
def Obligations.CollectiveCountsStayValid : Prop :=
  ∀ s t : State, CountsValid s → step s = .next t → CountsValid t

/-- From every state whose main memory, whose cores' three buffers and whose reeves' data memories list their bytes at strictly
rising addresses, none at the value that an unlisted byte reads as, whatever step the module takes, the next state is again
such a state: equal memories are equal lists. The rules give the memories (R132, R244, R368); the canonical form, and the zero
that an unlisted byte reads as, are the model's (log entry 8). -/
def Obligations.MemoryStaysCanonical : Prop :=
  ∀ s t : State, MemoryCanonical s → step s = .next t → MemoryCanonical t

/-- After module reset of an A part: memory lists nothing; no kernel, stream, page request, window or binding exists; the running
slot is empty; the page, scheduler and Hearth blocks and the bases of the link control blocks read zero; every link has EN 1
and no count; every MSI-X vector is masked with none pending (log entry 97); the management block has no owner, no function
ready, PLIMIT 2,800 and every other field zero; PKG_ID is 0. CAPS, KOLMAP and REEVEMAP full, the links in training and the
empty slots are the model's readings of its reset state (log entry 7). CountsValid and MemoryCanonical hold. -/
def Obligations.ResetLeavesTheStatedValues : Prop :=
  let s := State.reset
  CountsValid s ∧ MemoryCanonical s ∧ s.mem = [] ∧ s.kernels = [] ∧ s.streams = [] ∧ s.promos = [] ∧ s.windows = [] ∧
  s.bindings = [] ∧ s.reds = [] ∧ s.copies = [] ∧ s.heldBytes = [] ∧ s.core.ctx.state = .empty ∧ s.others = [] ∧
  s.pageCtl = ⟨0, 0, 0, 0, false, 0, 0, 0, 0, 0, 0, 0, 0⟩ ∧
  (∀ die, die < 2 → vget s.sched die ⟨1, 1, true, 1, 1, 1, 1⟩ = ⟨0, 0, false, 0, 0, 0, 0⟩ ∧
    vget s.hearth die ⟨1, 1, 1⟩ = ⟨0, 0, 0⟩ ∧ vget s.linkCtl die ⟨1, 1, 1, 1, 1⟩ = ⟨BitVec.allOnes 18, BitVec.allOnes 48, 0, 0, 0⟩) ∧
  (∀ n, n < 23 → (getLink s n).en = true ∧ (getLink s n).retry = 0 ∧ (getLink s n).drop = 0 ∧ (getLink s n).width = 0 ∧
    (getLink s n).state = 1) ∧ (∀ fn vec, fn < 2 → vec < 64 → msixMasked s fn vec = true ∧ (vget s.msixPend fn 0).getLsbD vec = false) ∧
  s.podParks = [] ∧ s.oneCycle = false ∧ s.dueBars = [] ∧ s.cycleCores = [] ∧ s.heldSignals = [] ∧
  s.mgmt = ⟨0, 0, 2800, false, 0, 0, 0, 0, false, 0, 0, 0, 0⟩ ∧ s.pkgId = 0 ∧ s.held = false
end

