-- ==== Sys2Proof/Laws/Memory.lean ====
section
/-! SUPPORT. Byte memories: a read after a write, and the canonical form that every memory operation keeps. -/

namespace Sys2Proof.Laws

open Sys2Proof.Machine

theorem memRead_absent (m : Memory) (x : Nat) (n : ∀ c ∈ m, c.1 ≠ x) : memRead m x = unwritten := by
  induction m with
  | nil => rfl
  | cons c m ih =>
    obtain ⟨a, b⟩ := c
    have ha : a ≠ x := n (a, b) (by simp)
    simp only [memRead, ha, if_false]
    exact ih fun c h => n c (List.mem_cons_of_mem _ h)

theorem memRead_insert_same (m : Memory) (x : Nat) (v : Byte) (n : ∀ c ∈ m, c.1 ≠ x) : memRead (memInsert m x v) x = v := by
  induction m with
  | nil => by_cases hv : v = unwritten <;> simp [memInsert, memRead, hv]
  | cons c m ih =>
    obtain ⟨a, b⟩ := c
    have ha : a ≠ x := n (a, b) (by simp)
    have hm : ∀ c ∈ m, c.1 ≠ x := fun c h => n c (List.mem_cons_of_mem _ h)
    unfold memInsert
    by_cases hx : x < a
    · by_cases hv : v = unwritten
      · simp [hx, hv, memRead, ha, memRead_absent m x hm]
      · simp [hx, hv, memRead]
    · simp only [hx, if_false, memRead, ha]
      exact ih hm

theorem memRead_insert_other (m : Memory) (x y : Nat) (v : Byte) (h : y ≠ x) : memRead (memInsert m x v) y = memRead m y := by
  induction m with
  | nil => by_cases hv : v = unwritten <;> simp [memInsert, memRead, hv, Ne.symm h]
  | cons c m ih =>
    obtain ⟨a, b⟩ := c
    unfold memInsert
    by_cases hx : x < a
    · simp only [hx, if_true]
      by_cases hv : v = unwritten <;> simp [hv, memRead, Ne.symm h]
    · simp only [hx, if_false, memRead, ih]

theorem memRead_erase_other (m : Memory) (x y : Nat) (h : y ≠ x) : memRead (memErase m x) y = memRead m y := by
  induction m with
  | nil => rfl
  | cons c m ih =>
    obtain ⟨a, b⟩ := c
    by_cases e : a = x
    · subst e
      simp [memErase, memRead, Ne.symm h, ih]
    · simp only [memErase, e, if_false, memRead, ih]

theorem memErase_none (m : Memory) (x : Nat) : ∀ c ∈ memErase m x, c.1 ≠ x := by
  induction m with
  | nil => simp [memErase]
  | cons c m ih =>
    obtain ⟨a, b⟩ := c
    by_cases e : a = x
    · simpa [memErase, e] using ih
    · intro c hc
      simp only [memErase, e, if_false, List.mem_cons] at hc
      rcases hc with rfl | hc
      · exact e
      · exact ih c hc

/-- A read after a write of the same address gives the value written. -/
@[simp] theorem memRead_write_same (m : Memory) (x : Nat) (v : Byte) : memRead (memWrite m x v) x = v :=
  memRead_insert_same _ _ _ (memErase_none m x)

/-- A write leaves every other address alone. -/
theorem memRead_write_other (m : Memory) (x y : Nat) (v : Byte) (h : y ≠ x) : memRead (memWrite m x v) y = memRead m y := by
  rw [memWrite, memRead_insert_other _ _ _ _ h, memRead_erase_other _ _ _ h]

/-! The canonical form. -/

theorem wfFrom_mono {lo lo' : Nat} (h : lo' ≤ lo) (m : Memory) (w : Memory.wfFrom lo m = true) : Memory.wfFrom lo' m = true := by
  cases m with
  | nil => rfl
  | cons c m =>
    obtain ⟨a, b⟩ := c
    simp only [Memory.wfFrom, Bool.and_eq_true, decide_eq_true_eq] at *
    exact ⟨⟨by omega, w.1.2⟩, w.2⟩

theorem wfFrom_erase (lo : Nat) (m : Memory) (x : Nat) (w : Memory.wfFrom lo m = true) : Memory.wfFrom lo (memErase m x) = true := by
  induction m generalizing lo with
  | nil => rfl
  | cons c m ih =>
    obtain ⟨a, b⟩ := c
    simp only [Memory.wfFrom, Bool.and_eq_true, decide_eq_true_eq] at w
    by_cases e : a = x
    · simp only [memErase, e, if_true]
      exact ih lo (wfFrom_mono (by omega) m w.2)
    · simp only [memErase, e, if_false, Memory.wfFrom, Bool.and_eq_true, decide_eq_true_eq]
      exact ⟨w.1, ih _ w.2⟩

theorem wfFrom_insert (lo : Nat) (m : Memory) (x : Nat) (v : Byte) (hx : lo ≤ x) (n : ∀ c ∈ m, c.1 ≠ x)
    (w : Memory.wfFrom lo m = true) : Memory.wfFrom lo (memInsert m x v) = true := by
  induction m generalizing lo with
  | nil => by_cases hv : v = unwritten <;> simp [memInsert, Memory.wfFrom, hv, hx]
  | cons c m ih =>
    obtain ⟨a, b⟩ := c
    have ha : a ≠ x := n (a, b) (by simp)
    have hm : ∀ c ∈ m, c.1 ≠ x := fun c h => n c (List.mem_cons_of_mem _ h)
    have w0 := w
    simp only [Memory.wfFrom, Bool.and_eq_true, decide_eq_true_eq] at w
    by_cases h : x < a
    · by_cases hv : v = unwritten
      · simpa [memInsert, h, hv] using w0
      · simp only [memInsert, h, hv, if_true, if_false, Memory.wfFrom, Bool.and_eq_true, decide_eq_true_eq]
        exact ⟨⟨hx, hv⟩, ⟨⟨by omega, w.1.2⟩, w.2⟩⟩
    · simp only [memInsert, h, if_false, Memory.wfFrom, Bool.and_eq_true, decide_eq_true_eq]
      exact ⟨w.1, ih (a + 1) (by omega) hm w.2⟩

/-- A write keeps the canonical form. -/
theorem wf_write (m : Memory) (x : Nat) (v : Byte) (w : m.wf = true) : (memWrite m x v).wf = true :=
  wfFrom_insert 0 _ x v (Nat.zero_le _) (memErase_none m x) (wfFrom_erase 0 m x w)

/-- Writes of consecutive bytes keep the canonical form. -/
theorem wf_writes (bs : List Byte) (m : Memory) (a : Nat) (w : m.wf = true) : (memWrites m a bs).wf = true := by
  induction bs generalizing m a with
  | nil => exact w
  | cons b bs ih => exact ih _ _ (wf_write m a b w)

/-- Writes of cells keep the canonical form. -/
theorem wf_cells (cells : List Host.Cell) (m : Memory) (w : m.wf = true) : (memCells m cells).wf = true := by
  induction cells generalizing m with
  | nil => exact w
  | cons c cells ih => exact ih _ (wf_write m c.1 c.2 w)

/-- A read after cells have been written gives the last value written there, else what was there. -/
theorem memRead_cells (cells : List Host.Cell) (m : Memory) (x : Nat) :
    memRead (memCells m cells) x = ((cells.reverse.find? fun c => c.1 = x).map Prod.snd).getD (memRead m x) := by
  induction cells generalizing m with
  | nil => rfl
  | cons c cells ih =>
    show memRead (memCells (memWrite m c.1 c.2) cells) x = _
    rw [ih, List.reverse_cons, List.find?_append]
    cases h : cells.reverse.find? fun c => decide (c.1 = x) with
    | some d => simp
    | none =>
      by_cases e : c.1 = x
      · subst e; simp
      · simp [e, memRead_write_other m c.1 x c.2 (Ne.symm e)]

theorem leBytes_length (n v : Nat) : (leBytes n v).length = n := by
  induction n generalizing v with
  | zero => rfl
  | succ n ih => simp [leBytes, ih]

/-- Little-endian bytes and the natural they hold (R3). -/
theorem leNat_leBytes (n v : Nat) : leNat (leBytes n v) = v % 2 ^ (8 * n) := by
  induction n generalizing v with
  | zero => simp [leBytes, leNat, Nat.mod_one]
  | succ n ih =>
    have e : (2 : Nat) ^ (8 * (n + 1)) = 256 * 2 ^ (8 * n) := by rw [Nat.mul_add, Nat.pow_add, Nat.mul_comm]
    simp only [leBytes, leNat, BitVec.toNat_ofNat, ih, e]
    rw [Nat.mod_mul]

end Sys2Proof.Laws
end

