-- ==== Sys2Proof/Laws/Home.lean ====
section
/-! SUPPORT. Every operation that writes the module's memory or a scratchpad buffer keeps the canonical form, and what reads back
after it. -/

namespace Sys2Proof.Laws

open Sys2Proof.Machine

theorem clearBad_mem (s : State) (l : List Nat) : (clearBad s l).mem = s.mem := by
  unfold clearBad
  split <;> rfl

theorem clearBad_none (s : State) (l : List Nat) (h : s.badLines = []) : clearBad s l = s := by simp [clearBad, h]

/-- A write at the home keeps the canonical form. -/
theorem wf_wrHome (s : State) (cells : List Host.Cell) (h : s.mem.wf = true) : (wrHome s cells).mem.wf = true := by
  unfold wrHome
  simp only [clearBad_mem]
  exact wf_cells _ _ h

theorem wf_wrHomeBytes (s : State) (pa : Nat) (bs : List Byte) (h : s.mem.wf = true) : (wrHomeBytes s pa bs).mem.wf = true :=
  wf_wrHome s _ h

theorem wf_wrHomeNat (s : State) (pa n v : Nat) (h : s.mem.wf = true) : (wrHomeNat s pa n v).mem.wf = true := wf_wrHome s _ h

/-- A byte stored by a die's observer keeps the canonical form. -/
theorem wf_wrByte (s : State) (die : Nat) (c : Host.Cell) (h : s.mem.wf = true) : (wrByte s die c).mem.wf = true := by
  unfold wrByte
  simp only
  split
  · exact h
  · exact wf_write _ _ _ h

theorem wf_wrBytes (cells : List Host.Cell) (s : State) (die : Nat) (h : s.mem.wf = true) :
    (cells.foldl (fun t c => wrByte t die c) s).mem.wf = true := by
  induction cells generalizing s with
  | nil => exact h
  | cons c cs ih => exact ih _ (wf_wrByte s die c h)

/-- A store performed at its die keeps the canonical form. -/
theorem wf_wrDie (s : State) (die : Nat) (cells : List Host.Cell) (h : s.mem.wf = true) : (wrDie s die cells).mem.wf = true := by
  unfold wrDie
  rw [clearBad_mem]
  exact wf_wrBytes cells s die h

/-- Bytes written home keep the canonical form. -/
theorem wf_flushHeld (s : State) (die lo n : Nat) (h : s.mem.wf = true) : (flushHeld s die lo n).mem.wf = true := wf_cells _ _ h

/-- A die's bytes written home keep the canonical form. -/
theorem wf_flushDie (s : State) (die : Nat) (h : s.mem.wf = true) : (flushDie s die).mem.wf = true := wf_cells _ _ h

/-- With nothing held by a die, a release that writes its bytes home changes nothing. -/
theorem flushDie_none (s : State) (die : Nat) (h : s.heldBytes = []) : flushDie s die = s := by
  cases s
  simp only at h
  subst h
  simp [flushDie, memCells]

/-! Scratchpad. -/

/-- A write with the guard byte that follows it keeps the canonical form. -/
theorem wf_guardedWrite (b : BitVec 2) (m : Memory) (c : Host.Cell) (h : m.wf = true) : (guardedWrite b m c).wf = true :=
  wf_write _ _ _ (wf_write _ _ _ h)

theorem wf_guardedWrites (b : BitVec 2) (cells : List Host.Cell) (m : Memory) (h : m.wf = true) :
    (cells.foldl (guardedWrite b) m).wf = true := by
  induction cells generalizing m with
  | nil => exact h
  | cons c cs ih => exact ih _ (wf_guardedWrite b m c h)

theorem wf_bufCells (k : Core) (b : BitVec 2) (cells : List Host.Cell) (h : (bufMem k b).wf = true) :
    (bufCells k b cells).wf = true := by
  unfold bufCells
  split
  · exact wf_guardedWrites b cells _ h
  · exact wf_cells cells _ h

/-- A scratchpad write keeps the canonical form of the buffers. -/
theorem wf_spPut (k : Core) (b : BitVec 2) (cells : List Host.Cell) (q : BitVec 2) (h : ∀ x, (bufMem k x).wf = true) :
    (bufMem (spPut k b cells) q).wf = true := by
  have e : bufMem (spPut k b cells) q = bufMem (setBufMem k b (bufCells k b cells)) q := by
    unfold spPut
    simp only
    split <;> rfl
  rw [e]
  have w := wf_bufCells k b cells (h b)
  have hq := h q
  clear e h
  unfold bufMem setBufMem at *
  by_cases b0 : b = 0 <;> by_cases b1 : b = 1 <;> by_cases q0 : q = 0 <;> by_cases q1 : q = 1 <;> simp_all

/-- A swizzle keeps an offset below 32 KiB within its bank. -/
theorem swizzle_lt (mode o : Nat) (h : o < 0x8000) : swizzle mode o < 0x8000 := by
  have big : ∀ a b : Nat, a < 2 ^ 15 → b < 2 ^ 15 → Nat.xor a b < 2 ^ 15 := fun a b ha hb => Nat.xor_lt_two_pow ha hb
  unfold swizzle
  split
  · exact big _ _ (by omega) (by omega)
  · exact big _ _ (by omega) (by omega)
  · exact big _ _ (by omega) (by omega)
  · exact h

end Sys2Proof.Laws
end

