-- ==== Sys2Proof/Laws/Buffers.lean ====
section
/-! SUPPORT. The operations that drop, move or read whole intervals of a memory keep the canonical form. -/

namespace Sys2Proof.Laws

open Sys2Proof.Machine

theorem wfFrom_filter (p : Host.Cell → Bool) (lo : Nat) (m : Memory) (w : Memory.wfFrom lo m = true) :
    Memory.wfFrom lo (m.filter p) = true := by
  induction m generalizing lo with
  | nil => rfl
  | cons c m ih =>
    obtain ⟨a, b⟩ := c
    simp only [Memory.wfFrom, Bool.and_eq_true, decide_eq_true_eq] at w
    by_cases h : p (a, b) = true
    · simp only [List.filter_cons_of_pos h, Memory.wfFrom, Bool.and_eq_true, decide_eq_true_eq]
      exact ⟨w.1, ih _ w.2⟩
    · rw [List.filter_cons_of_neg h]
      exact ih lo (wfFrom_mono (by omega) m w.2)

/-- Bytes dropped from a memory. -/
theorem wf_filter (p : Host.Cell → Bool) (m : Memory) (w : m.wf = true) : Memory.wf (m.filter p) = true := wfFrom_filter p 0 m w

/-- An interval set to zero. -/
theorem wf_memZero (m : Memory) (a n : Nat) (w : m.wf = true) : (memZero m a n).wf = true := wf_filter _ m w

/-- An interval copied. -/
theorem wf_memMove (m : Memory) (src dst n : Nat) (w : m.wf = true) : (memMove m src dst n).wf = true :=
  wf_cells _ _ (wf_filter _ m w)

theorem wfFrom_shift (d lo : Nat) (m : Memory) (hl : d ≤ lo) (w : Memory.wfFrom lo m = true) :
    Memory.wfFrom (lo - d) (m.map fun c => (c.1 - d, c.2)) = true := by
  induction m generalizing lo with
  | nil => rfl
  | cons c m ih =>
    obtain ⟨a, b⟩ := c
    simp only [Memory.wfFrom, Bool.and_eq_true, decide_eq_true_eq] at w
    have e : a - d + 1 = a + 1 - d := by omega
    simp only [List.map_cons, Memory.wfFrom, Bool.and_eq_true, decide_eq_true_eq, e]
    exact ⟨⟨by omega, w.1.2⟩, ih (a + 1) (by omega) w.2⟩

theorem wfFrom_above (lo : Nat) (m : Memory) (h : ∀ c ∈ m, lo ≤ c.1) (w : m.wf = true) : Memory.wfFrom lo m = true := by
  cases m with
  | nil => rfl
  | cons c m =>
    obtain ⟨a, b⟩ := c
    unfold Memory.wf at w
    simp only [Memory.wfFrom, Bool.and_eq_true, decide_eq_true_eq] at w ⊢
    exact ⟨⟨h (a, b) (by simp), w.1.2⟩, w.2⟩

/-- A buffer read back from an image. -/
theorem wf_readBuf (s : State) (frame : Nat) (b : BitVec 2) (w : s.mem.wf = true) : (readBuf s frame b).wf = true := by
  have h := wfFrom_shift (frame + bufImage b) (frame + bufImage b) _ (Nat.le_refl _)
    (wfFrom_above (frame + bufImage b)
      (s.mem.filter fun c => decide (frame + bufImage b ≤ c.1) && decide (c.1 < frame + bufImage b + bufBytes b))
      (by simp +contextual) (wf_filter _ _ w))
  simpa [readBuf, Memory.wf] using h

/-- A buffer whose guard bank is filled from the others. -/
theorem wf_guardFilled (b : BitVec 2) (m : Memory) (w : m.wf = true) : (guardFilled b m).wf = true := by
  have fold (l : List Host.Cell) (t : Memory) (h : t.wf = true) :
      (l.foldl (fun t c => memWrite t (guardOff b c.1) (memRead t (guardOff b c.1) ^^^ c.2)) t).wf = true := by
    induction l generalizing t with
    | nil => exact h
    | cons c l ih => exact ih _ (wf_write _ _ _ h)
  exact fold _ _ (wf_filter _ m w)

/-- Bytes of an interval set to zero at their home. -/
theorem wf_zeroHome (s : State) (pa n : Nat) (h : s.mem.wf = true) : (zeroHome s pa n).mem.wf = true :=
  wf_memZero _ pa n (wf_flushHeld _ 1 pa n (wf_flushHeld s 0 pa n h))

/-- Bytes of an interval copied at their homes. -/
theorem wf_copyHome (s : State) (src dst n : Nat) (h : s.mem.wf = true) : (copyHome s src dst n).mem.wf = true :=
  wf_memMove _ src dst n
    (wf_flushHeld _ 1 dst n (wf_flushHeld _ 0 dst n (wf_flushHeld _ 1 src n (wf_flushHeld s 0 src n h))))

end Sys2Proof.Laws
end

