-- ==== Sys2Proof/Laws/Sequencer.lean ====
section
/-! SUPPORT. What the ends of an instruction can do, said once: the loop-end step, the clock, retirement, transfer, waiting and
trap entry. -/

namespace Sys2Proof.Laws

open Sys2Proof.Machine

/-- A context with another's pc, loop counters and loop levels. -/
def withSeq (c d : Context) : Context := { c with pc := d.pc, lc := d.lc, loops := d.loops }

@[simp] theorem withSeq_self (c : Context) : withSeq c c = c := rfl

@[simp] theorem withSeq_withSeq (c d e : Context) : withSeq c (withSeq d e) = withSeq c e := rfl

theorem endLevel_withSeq (c : Context) (n : Nat) : endLevel c n = withSeq c (endLevel c n) := by
  unfold endLevel
  dsimp only
  by_cases h : (loopAt c n).active = true <;> simp only [h, if_true] <;> rfl

/-- The loop-end step changes the pc, the loop counters and the loop levels only. -/
theorem loopEndFrom_withSeq (a : Word) (n : Nat) (c : Context) : loopEndFrom a n c = withSeq c (loopEndFrom a n c) := by
  induction n generalizing c with
  | zero => rfl
  | succ n ih =>
    unfold loopEndFrom
    split
    · exact ih c
    · next m _ =>
      simp only
      split
      · split
        · rfl
        · have h := ih (endLevel { c with lc := vset c.lc m 0 } m)
          have e := endLevel_withSeq { c with lc := vset c.lc m 0 } m
          rw [h, e]
          rfl
      · exact ih c

/-- Moving past an instruction changes the pc, the loop counters and the loop levels only. -/
theorem pastInstr_withSeq (c : Context) : pastInstr c = withSeq c (pastInstr c) := by
  unfold pastInstr
  simp only
  split
  · rfl
  · rw [loopEndFrom_withSeq]
    rfl

/-- The clock's tick moves counters only. -/
theorem tick_sequenced (s : State) : Sequenced s (tick s) := by
  unfold Sequenced tick
  simp only [modCtx]
  split <;> rfl

theorem tick_pc (s : State) : (tick s).core.ctx.pc = s.core.ctx.pc := by
  unfold tick
  simp only [modCtx]
  split <;> rfl

theorem tick_lc (s : State) : (tick s).core.ctx.lc = s.core.ctx.lc := by
  unfold tick
  simp only [modCtx]
  split <;> rfl

theorem tick_loops (s : State) : (tick s).core.ctx.loops = s.core.ctx.loops := by
  unfold tick
  simp only [modCtx]
  split <;> rfl

theorem Sequenced.refl (u : State) : Sequenced u u := rfl

/-- Only sequencer values differ, and only they differ again. -/
theorem Sequenced.trans {u v t : State} (h : Sequenced u v) (k : Sequenced v t) : Sequenced u t := by
  unfold Sequenced at *
  rw [h] at k
  exact k

/-- What the sequencer changes in a context is all that a state so changed shows. -/
theorem sequenced_modCtx (u : State) (f : Context → Context)
    (h : f u.core.ctx = { u.core.ctx with
      pc := (f u.core.ctx).pc, lc := (f u.core.ctx).lc, loops := (f u.core.ctx).loops, perf := (f u.core.ctx).perf,
      cyc := (f u.core.ctx).cyc }) : Sequenced u (modCtx u f) := by
  unfold Sequenced modCtx
  simp only
  rw [h]

/-- Retirement in line: nothing but the sequencer moves. -/
theorem retire_sequenced (u : State) : Sequenced u (retire u) := by
  refine Sequenced.trans (sequenced_modCtx u _ ?_) (tick_sequenced _)
  simp only [addPerf]
  rw [pastInstr_withSeq]
  rfl

/-- Retirement in line goes to what follows. -/
theorem retire_pastWord (u : State) : PastWord u (retire u) :=
  ⟨tick_pc _, tick_lc _, tick_loops _⟩

/-- An instruction that answers the retirement of `u` completes with the effect of `u`. -/
theorem completes_of_retire {i : Instr} {s u : State} (h : exec i s = .next (retire u)) : Completes i s u :=
  ⟨_, h, retire_sequenced u, retire_pastWord u⟩

theorem jump_sequenced (u : State) (a : Word) : Sequenced u (retireJump u a) :=
  Sequenced.trans (sequenced_modCtx u _ rfl) (tick_sequenced _)

theorem jump_pc (u : State) (a : Word) : (retireJump u a).core.ctx.pc = a := tick_pc _

/-- An instruction that answers a wait waits. -/
theorem waits_of_stall {i : Instr} {s : State} (h : exec i s = .next (stallStep s)) : Waits i s :=
  ⟨_, h, tick_sequenced s, tick_pc s, tick_lc s, tick_loops s⟩

/-- A complete effect that moves on in line. -/
theorem inLine_ok (s u : State) : inLine s (.ok u) = .next (retire u) := rfl

/-- A trap of an instruction that would move on in line. -/
theorem inLine_trap (s : State) (t : Trap) : inLine s (.trap t) = .next (takeTrap s t) := rfl

theorem guarded_true {s : State} {g : BitVec 3} (h : preg s g = true) (e : Eff) : guarded s g e = inLine s e := by
  simp [guarded, h]

theorem guarded_false {s : State} {g : BitVec 3} (h : preg s g = false) (e : Eff) : guarded s g e = .next (retire s) := by
  simp [guarded, h]

end Sys2Proof.Laws
end

