-- ==== Sys2Proof/Laws/Issue.lean ====
section
/-! SUPPORT. The shared shapes of an instruction, each said once: a patch word that issues, an instruction behind a FENCE mark, one at
a barrier, a write that needs ownership, and an instruction of a handler. -/

namespace Sys2Proof.Laws

open Sys2Proof.Machine

/-- With no FENCE mark queued, an instruction of majors 0x3B to 0x3E acts at once. -/
theorem behindFence_open {s : State} (h : fenceHeld s.core.ctx = false) (e : Eff) : behindFence s e = inLine s e := by
  simp [behindFence, h]

/-- Behind a FENCE mark it waits. -/
theorem behindFence_held {s : State} (h : fenceHeld s.core.ctx = true) (e : Eff) : behindFence s e = .next (stallStep s) := by
  simp [behindFence, h, finish]

/-- An instruction at a barrier that is named well and reachable. -/
theorem atBarrier_named {s : State} {l : BitVec 3} {n : BitVec 5} {key : BarKey} (h : fenceHeld s.core.ctx = false)
    (hn : barNamed s l n = .ok key) (hr : barReachable s key = true) (e : BarKey → Eff) : atBarrier s l n e = inLine s (e key) := by
  simp [atBarrier, behindFence, h, hn, hr]

/-- An instruction at a barrier that is named badly traps. -/
theorem atBarrier_trap {s : State} {l : BitVec 3} {n : BitVec 5} {t : Trap} (h : fenceHeld s.core.ctx = false)
    (hn : barNamed s l n = .error t) (e : BarKey → Eff) : atBarrier s l n e = .next (takeTrap s t) := by
  simp [atBarrier, behindFence, h, hn, inLine]

/-- A hold word whose patch is legal completes with the amended body in its staging register. -/
theorem holdWord_ok {s : State} {cls : Nat} {t : BitVec 6} {f : BitVec 4} {v : BitVec 16} {b : BitVec 512}
    (hq : cls = 4 → capsQuesar s = true) (hp : patched s cls t f v = .ok b) :
    holdWord cls t f v s = .next (retire (setStaging s cls (some (t, b)))) := by
  have h : ¬ (cls = 4 ∧ capsQuesar s = false) := fun ⟨a, c⟩ => by rw [hq a] at c; cases c
  simp [holdWord, h, hp, inLine]

/-- An issue word whose body passes its kind's checks, with room in the queues, completes with the command entered. -/
theorem issueWord_ok {s : State} {cls expect : Nat} {t : BitVec 6} {f : BitVec 4} {v : BitVec 16}
    {check : State → BitVec 6 → BitVec 512 → Except Trap Command} {enter : State → Command → State} {b : BitVec 512} {c : Command}
    (hq : cls = 4 → capsQuesar s = true) (hf : fenceHeld s.core.ctx = false) (hp : patched s cls t f v = .ok b)
    (hk : bodyKind b = expect) (hr : reservedSet cls (bodyKind b) b = false) (hc : check s t b = .ok c) (hg : gangFree s cls c = true) :
    issueWord cls expect t f v check enter s =
      .next (retire (modCtx (setStaging (enter s c) cls none) fun c => addPerf c 3 1)) := by
  have h : ¬ (cls = 4 ∧ capsQuesar s = false) := fun ⟨a, c⟩ => by rw [hq a] at c; cases c
  have hr' : reservedSet cls expect b = false := hk ▸ hr
  simp [issueWord, h, hf, hp, hk, hr', hc, hg, inLine, Eff.counted]

/-- A write by the owner acts. -/
theorem ownedDo_owner {s : State} {m : Nat} (hr : s.recovery = false) (hm : m ≠ 0) (ho : s.mgmt.owner.toNat = m) (f : State → State) :
    ownedDo s m f = .next (f s) := by simp [ownedDo, hr, hm, ho]

/-- A write by anyone else is counted. -/
theorem ownedDo_other {s : State} {m : Nat} (hr : s.recovery = false) (ho : s.mgmt.owner.toNat ≠ m) (f : State → State) :
    ownedDo s m f = .next (addNown s) := by simp [ownedDo, hr, ho]

theorem getReeve_key (s : State) (die slice : Nat) : (getReeve s die slice).die = die ∧ (getReeve s die slice).slice = slice := by
  unfold getReeve
  cases h : s.reeves.find? fun r => decide (r.die = die ∧ r.slice = slice) with
  | none => exact ⟨rfl, rfl⟩
  | some r =>
    have := List.find?_some h
    simp only [decide_eq_true_eq] at this
    exact this

/-- The reeve that moves is the one found under its own numbers. -/
theorem reeveHere_self (s : State) : getReeve s (reeveHere s).die (reeveHere s).slice = reeveHere s := by
  have h := getReeve_key s s.reeveNow.1 s.reeveNow.2
  unfold reeveHere
  rw [h.1, h.2]

/-- An instruction of a handler within its budget that leaves the memory alone: the reeve is updated and its counters advance. -/
theorem reeveDo_quiet {s : State} {e : ReeveEvent} {b : Binding} {f : Reeve → ReeveEvent → Binding → Option ReeveEff} {cost : Nat}
    {upd : Reeve → Reeve} (hc : (reeveHere s).cur = some e) (hb : reeveBinding s = some b) (h0 : (reeveHere s).cycle < budgetOf b e)
    (hf : f (reeveHere s) e b = some (.quiet s cost upd)) (hw : (reeveHere s).cycle + cost ≤ budgetOf b e) :
    reeveDo s f = .next (putReeve s { upd (reeveHere s) with
      cycle := (upd (reeveHere s)).cycle + cost, instret := (upd (reeveHere s)).instret + 1 }) := by
  have h1 : ¬ budgetOf b e ≤ (reeveHere s).cycle := by omega
  have h2 : ¬ budgetOf b e < (reeveHere s).cycle + cost := by omega
  simp only [reeveDo, hc, hb, h1, if_false, hf, ReeveEff.quiet, h2, reeveHere_self, Bool.false_eq_true]

/-- An instruction of a handler that raises a reeve exception cuts the handler off. -/
theorem reeveDo_cut {s : State} {e : ReeveEvent} {b : Binding} {f : Reeve → ReeveEvent → Binding → Option ReeveEff}
    (hc : (reeveHere s).cur = some e) (hb : reeveBinding s = some b) (h0 : (reeveHere s).cycle < budgetOf b e)
    (hf : f (reeveHere s) e b = none) :
    reeveDo s f = .next (putReeve (writeRecord s b.aspace (cutRecord (reeveHere s) e .reeveException)) { reeveHere s with cur := none }) := by
  have h1 : ¬ budgetOf b e ≤ (reeveHere s).cycle := by omega
  simp only [reeveDo, hc, hb, h1, if_false, hf, cutOff]

end Sys2Proof.Laws
end

