-- ==== Sys2Proof/Laws/PerInstr.lean ====
section
/-! SUPPORT. The family Coded: of every instruction as syntax, whether it has a word. A core's word and a reeve's word exclude each other,
exactly the instructions with one of them are encoded, and the first command of a patch word's class is again a word of a core (R53,
R65, R67). One lemma per constructor. -/

namespace Sys2Proof.Laws.Coded

/-- An instruction is encoded exactly when it is a word, a core's or a reeve's but not both. -/
def Statement (i : Instr) : Prop :=
  (encode i).isSome = (i.isCoreWord || i.isReeveWord) ∧ (i.isCoreWord && i.isReeveWord) = false ∧
    i.canonical.isCoreWord = i.isCoreWord

end Sys2Proof.Laws.Coded

namespace Sys2Proof

theorem Laws.Coded.add (d : BitVec 5) (a : BitVec 5) (b : BitVec 5) (w : BitVec 2) (g : BitVec 3) : Laws.Coded.Statement (.add d a b w g) := ⟨rfl, rfl, rfl⟩
theorem Laws.Coded.sub (d : BitVec 5) (a : BitVec 5) (b : BitVec 5) (w : BitVec 2) (g : BitVec 3) : Laws.Coded.Statement (.sub d a b w g) := ⟨rfl, rfl, rfl⟩
theorem Laws.Coded.mul (d : BitVec 5) (a : BitVec 5) (b : BitVec 5) (w : BitVec 2) (g : BitVec 3) : Laws.Coded.Statement (.mul d a b w g) := ⟨rfl, rfl, rfl⟩
theorem Laws.Coded.mulh (d : BitVec 5) (a : BitVec 5) (b : BitVec 5) (w : BitVec 2) (g : BitVec 3) : Laws.Coded.Statement (.mulh d a b w g) := ⟨rfl, rfl, rfl⟩
theorem Laws.Coded.mulhn (d : BitVec 5) (a : BitVec 5) (b : BitVec 5) (w : BitVec 2) (g : BitVec 3) : Laws.Coded.Statement (.mulhn d a b w g) := ⟨rfl, rfl, rfl⟩
theorem Laws.Coded.div (d : BitVec 5) (a : BitVec 5) (b : BitVec 5) (w : BitVec 2) (g : BitVec 3) : Laws.Coded.Statement (.div d a b w g) := ⟨rfl, rfl, rfl⟩
theorem Laws.Coded.divn (d : BitVec 5) (a : BitVec 5) (b : BitVec 5) (w : BitVec 2) (g : BitVec 3) : Laws.Coded.Statement (.divn d a b w g) := ⟨rfl, rfl, rfl⟩
theorem Laws.Coded.rem (d : BitVec 5) (a : BitVec 5) (b : BitVec 5) (w : BitVec 2) (g : BitVec 3) : Laws.Coded.Statement (.rem d a b w g) := ⟨rfl, rfl, rfl⟩
theorem Laws.Coded.remn (d : BitVec 5) (a : BitVec 5) (b : BitVec 5) (w : BitVec 2) (g : BitVec 3) : Laws.Coded.Statement (.remn d a b w g) := ⟨rfl, rfl, rfl⟩
theorem Laws.Coded.and (d : BitVec 5) (a : BitVec 5) (b : BitVec 5) (w : BitVec 2) (g : BitVec 3) : Laws.Coded.Statement (.and d a b w g) := ⟨rfl, rfl, rfl⟩
theorem Laws.Coded.or (d : BitVec 5) (a : BitVec 5) (b : BitVec 5) (w : BitVec 2) (g : BitVec 3) : Laws.Coded.Statement (.or d a b w g) := ⟨rfl, rfl, rfl⟩
theorem Laws.Coded.xor (d : BitVec 5) (a : BitVec 5) (b : BitVec 5) (w : BitVec 2) (g : BitVec 3) : Laws.Coded.Statement (.xor d a b w g) := ⟨rfl, rfl, rfl⟩
theorem Laws.Coded.andn (d : BitVec 5) (a : BitVec 5) (b : BitVec 5) (w : BitVec 2) (g : BitVec 3) : Laws.Coded.Statement (.andn d a b w g) := ⟨rfl, rfl, rfl⟩
theorem Laws.Coded.shl (d : BitVec 5) (a : BitVec 5) (b : BitVec 5) (w : BitVec 2) (g : BitVec 3) : Laws.Coded.Statement (.shl d a b w g) := ⟨rfl, rfl, rfl⟩
theorem Laws.Coded.shr (d : BitVec 5) (a : BitVec 5) (b : BitVec 5) (w : BitVec 2) (g : BitVec 3) : Laws.Coded.Statement (.shr d a b w g) := ⟨rfl, rfl, rfl⟩
theorem Laws.Coded.sar (d : BitVec 5) (a : BitVec 5) (b : BitVec 5) (w : BitVec 2) (g : BitVec 3) : Laws.Coded.Statement (.sar d a b w g) := ⟨rfl, rfl, rfl⟩
theorem Laws.Coded.rol (d : BitVec 5) (a : BitVec 5) (b : BitVec 5) (w : BitVec 2) (g : BitVec 3) : Laws.Coded.Statement (.rol d a b w g) := ⟨rfl, rfl, rfl⟩
theorem Laws.Coded.min (d : BitVec 5) (a : BitVec 5) (b : BitVec 5) (w : BitVec 2) (g : BitVec 3) : Laws.Coded.Statement (.min d a b w g) := ⟨rfl, rfl, rfl⟩
theorem Laws.Coded.max (d : BitVec 5) (a : BitVec 5) (b : BitVec 5) (w : BitVec 2) (g : BitVec 3) : Laws.Coded.Statement (.max d a b w g) := ⟨rfl, rfl, rfl⟩
theorem Laws.Coded.minn (d : BitVec 5) (a : BitVec 5) (b : BitVec 5) (w : BitVec 2) (g : BitVec 3) : Laws.Coded.Statement (.minn d a b w g) := ⟨rfl, rfl, rfl⟩
theorem Laws.Coded.maxn (d : BitVec 5) (a : BitVec 5) (b : BitVec 5) (w : BitVec 2) (g : BitVec 3) : Laws.Coded.Statement (.maxn d a b w g) := ⟨rfl, rfl, rfl⟩
theorem Laws.Coded.popc (d : BitVec 5) (a : BitVec 5) (w : BitVec 2) (g : BitVec 3) : Laws.Coded.Statement (.popc d a w g) := ⟨rfl, rfl, rfl⟩
theorem Laws.Coded.clz (d : BitVec 5) (a : BitVec 5) (w : BitVec 2) (g : BitVec 3) : Laws.Coded.Statement (.clz d a w g) := ⟨rfl, rfl, rfl⟩
theorem Laws.Coded.ctz (d : BitVec 5) (a : BitVec 5) (w : BitVec 2) (g : BitVec 3) : Laws.Coded.Statement (.ctz d a w g) := ⟨rfl, rfl, rfl⟩
theorem Laws.Coded.bfx (d : BitVec 5) (a : BitVec 5) (b : BitVec 5) (w : BitVec 2) (g : BitVec 3) : Laws.Coded.Statement (.bfx d a b w g) := ⟨rfl, rfl, rfl⟩
theorem Laws.Coded.bfi (d : BitVec 5) (a : BitVec 5) (b : BitVec 5) (w : BitVec 2) (g : BitVec 3) : Laws.Coded.Statement (.bfi d a b w g) := ⟨rfl, rfl, rfl⟩
theorem Laws.Coded.sel (d : BitVec 5) (a : BitVec 5) (b : BitVec 5) (w : BitVec 2) (g : BitVec 3) : Laws.Coded.Statement (.sel d a b w g) := ⟨rfl, rfl, rfl⟩
theorem Laws.Coded.mov (d : BitVec 5) (a : BitVec 5) (w : BitVec 2) (g : BitVec 3) : Laws.Coded.Statement (.mov d a w g) := ⟨rfl, rfl, rfl⟩
theorem Laws.Coded.cmp (p : BitVec 3) (a : BitVec 5) (b : BitVec 5) (c : BitVec 6) (w : BitVec 2) (g : BitVec 3) : Laws.Coded.Statement (.cmp p a b c w g) := ⟨rfl, rfl, rfl⟩
theorem Laws.Coded.fadd (d : BitVec 5) (a : BitVec 5) (b : BitVec 5) (w : BitVec 2) (g : BitVec 3) : Laws.Coded.Statement (.fadd d a b w g) := ⟨rfl, rfl, rfl⟩
theorem Laws.Coded.fsub (d : BitVec 5) (a : BitVec 5) (b : BitVec 5) (w : BitVec 2) (g : BitVec 3) : Laws.Coded.Statement (.fsub d a b w g) := ⟨rfl, rfl, rfl⟩
theorem Laws.Coded.fmul (d : BitVec 5) (a : BitVec 5) (b : BitVec 5) (w : BitVec 2) (g : BitVec 3) : Laws.Coded.Statement (.fmul d a b w g) := ⟨rfl, rfl, rfl⟩
theorem Laws.Coded.ffma (d : BitVec 5) (a : BitVec 5) (b : BitVec 5) (w : BitVec 2) (g : BitVec 3) : Laws.Coded.Statement (.ffma d a b w g) := ⟨rfl, rfl, rfl⟩
theorem Laws.Coded.fmin (d : BitVec 5) (a : BitVec 5) (b : BitVec 5) (w : BitVec 2) (g : BitVec 3) : Laws.Coded.Statement (.fmin d a b w g) := ⟨rfl, rfl, rfl⟩
theorem Laws.Coded.fmax (d : BitVec 5) (a : BitVec 5) (b : BitVec 5) (w : BitVec 2) (g : BitVec 3) : Laws.Coded.Statement (.fmax d a b w g) := ⟨rfl, rfl, rfl⟩
theorem Laws.Coded.fcmp (c : BitVec 2) (p : BitVec 3) (a : BitVec 5) (b : BitVec 5) (w : BitVec 2) (g : BitVec 3) : Laws.Coded.Statement (.fcmp c p a b w g) := ⟨rfl, rfl, rfl⟩
theorem Laws.Coded.fcvt (d : BitVec 5) (a : BitVec 5) (sv : BitVec 5) (t : BitVec 4) (g : BitVec 3) : Laws.Coded.Statement (.fcvt d a sv t g) := ⟨rfl, rfl, rfl⟩
theorem Laws.Coded.addi (d : BitVec 5) (a : BitVec 5) (i : BitVec 16) : Laws.Coded.Statement (.addi d a i) := ⟨rfl, rfl, rfl⟩
theorem Laws.Coded.andi (d : BitVec 5) (a : BitVec 5) (i : BitVec 16) : Laws.Coded.Statement (.andi d a i) := ⟨rfl, rfl, rfl⟩
theorem Laws.Coded.ori (d : BitVec 5) (a : BitVec 5) (i : BitVec 16) : Laws.Coded.Statement (.ori d a i) := ⟨rfl, rfl, rfl⟩
theorem Laws.Coded.xori (d : BitVec 5) (a : BitVec 5) (i : BitVec 16) : Laws.Coded.Statement (.xori d a i) := ⟨rfl, rfl, rfl⟩
theorem Laws.Coded.shli (d : BitVec 5) (a : BitVec 5) (n : BitVec 6) : Laws.Coded.Statement (.shli d a n) := ⟨rfl, rfl, rfl⟩
theorem Laws.Coded.shri (d : BitVec 5) (a : BitVec 5) (n : BitVec 6) : Laws.Coded.Statement (.shri d a n) := ⟨rfl, rfl, rfl⟩
theorem Laws.Coded.sari (d : BitVec 5) (a : BitVec 5) (n : BitVec 6) : Laws.Coded.Statement (.sari d a n) := ⟨rfl, rfl, rfl⟩
theorem Laws.Coded.movi (d : BitVec 5) (h : BitVec 2) (i : BitVec 16) : Laws.Coded.Statement (.movi d h i) := ⟨rfl, rfl, rfl⟩
theorem Laws.Coded.movk (d : BitVec 5) (h : BitVec 2) (i : BitVec 16) : Laws.Coded.Statement (.movk d h i) := ⟨rfl, rfl, rfl⟩
theorem Laws.Coded.lds (d : BitVec 5) (a : BitVec 5) (b : BitVec 2) (o : BitVec 14) : Laws.Coded.Statement (.lds d a b o) := ⟨rfl, rfl, rfl⟩
theorem Laws.Coded.sts (d : BitVec 5) (a : BitVec 5) (b : BitVec 2) (o : BitVec 14) : Laws.Coded.Statement (.sts d a b o) := ⟨rfl, rfl, rfl⟩
theorem Laws.Coded.ldg (d : BitVec 5) (h : BitVec 4) (z : BitVec 2) (n : BitVec 3) (o : BitVec 12) : Laws.Coded.Statement (.ldg d h z n o) := ⟨rfl, rfl, rfl⟩
theorem Laws.Coded.stg (d : BitVec 5) (h : BitVec 4) (z : BitVec 2) (n : BitVec 3) (o : BitVec 12) : Laws.Coded.Statement (.stg d h z n o) := ⟨rfl, rfl, rfl⟩
theorem Laws.Coded.atom (d : BitVec 5) (h : BitVec 4) (x : BitVec 5) (o : BitVec 4) (z : BitVec 1) (r : BitVec 2) (sv : BitVec 4) : Laws.Coded.Statement (.atom d h x o z r sv) := ⟨rfl, rfl, rfl⟩
theorem Laws.Coded.red (b : BitVec 5) (h : BitVec 4) (x : BitVec 5) (o : BitVec 4) (z : BitVec 1) (r : BitVec 1) (sv : BitVec 4) : Laws.Coded.Statement (.red b h x o z r sv) := ⟨rfl, rfl, rfl⟩
theorem Laws.Coded.cas (d : BitVec 5) (h : BitVec 4) (x : BitVec 5) (b : BitVec 5) (z : BitVec 1) (r : BitVec 2) (sv : BitVec 4) : Laws.Coded.Statement (.cas d h x b z r sv) := ⟨rfl, rfl, rfl⟩
theorem Laws.Coded.xlate (a : BitVec 5) (h : BitVec 4) : Laws.Coded.Statement (.xlate a h) := ⟨rfl, rfl, rfl⟩
theorem Laws.Coded.hdrop (h : BitVec 4) : Laws.Coded.Statement (.hdrop h) := ⟨rfl, rfl, rfl⟩
theorem Laws.Coded.hstat (a : BitVec 5) (h : BitVec 4) : Laws.Coded.Statement (.hstat a h) := ⟨rfl, rfl, rfl⟩
theorem Laws.Coded.fenceAcq (sv : BitVec 4) : Laws.Coded.Statement (.fenceAcq sv) := ⟨rfl, rfl, rfl⟩
theorem Laws.Coded.fenceRel (sv : BitVec 4) : Laws.Coded.Statement (.fenceRel sv) := ⟨rfl, rfl, rfl⟩
theorem Laws.Coded.fenceFull (sv : BitVec 4) : Laws.Coded.Statement (.fenceFull sv) := ⟨rfl, rfl, rfl⟩
theorem Laws.Coded.lsmark (sv : BitVec 4) : Laws.Coded.Statement (.lsmark sv) := ⟨rfl, rfl, rfl⟩
theorem Laws.Coded.br (n : BitVec 1) (p : BitVec 3) (o : BitVec 22) : Laws.Coded.Statement (.br n p o) := ⟨rfl, rfl, rfl⟩
theorem Laws.Coded.j (o : BitVec 25) : Laws.Coded.Statement (.j o) := ⟨rfl, rfl, rfl⟩
theorem Laws.Coded.call (o : BitVec 25) : Laws.Coded.Statement (.call o) := ⟨rfl, rfl, rfl⟩
theorem Laws.Coded.jr (a : BitVec 5) : Laws.Coded.Statement (.jr a) := ⟨rfl, rfl, rfl⟩
theorem Laws.Coded.callr (a : BitVec 5) : Laws.Coded.Statement (.callr a) := ⟨rfl, rfl, rfl⟩
theorem Laws.Coded.ret : Laws.Coded.Statement (.ret) := ⟨rfl, rfl, rfl⟩
theorem Laws.Coded.loop (l : BitVec 2) (n : BitVec 8) (c : BitVec 15) : Laws.Coded.Statement (.loop l n c) := ⟨rfl, rfl, rfl⟩
theorem Laws.Coded.loopReg (l : BitVec 2) (n : BitVec 8) (a : BitVec 5) : Laws.Coded.Statement (.loopReg l n a) := ⟨rfl, rfl, rfl⟩
theorem Laws.Coded.pand (d : BitVec 3) (a : BitVec 3) (b : BitVec 3) (g : BitVec 3) : Laws.Coded.Statement (.pand d a b g) := ⟨rfl, rfl, rfl⟩
theorem Laws.Coded.por (d : BitVec 3) (a : BitVec 3) (b : BitVec 3) (g : BitVec 3) : Laws.Coded.Statement (.por d a b g) := ⟨rfl, rfl, rfl⟩
theorem Laws.Coded.pxor (d : BitVec 3) (a : BitVec 3) (b : BitVec 3) (g : BitVec 3) : Laws.Coded.Statement (.pxor d a b g) := ⟨rfl, rfl, rfl⟩
theorem Laws.Coded.pnot (d : BitVec 3) (a : BitVec 3) (g : BitVec 3) : Laws.Coded.Statement (.pnot d a g) := ⟨rfl, rfl, rfl⟩
theorem Laws.Coded.pmov (d : BitVec 3) (a : BitVec 3) (g : BitVec 3) : Laws.Coded.Statement (.pmov d a g) := ⟨rfl, rfl, rfl⟩
theorem Laws.Coded.getsr (a : BitVec 5) (r : BitVec 10) : Laws.Coded.Statement (.getsr a r) := ⟨rfl, rfl, rfl⟩
theorem Laws.Coded.setsr (a : BitVec 5) (r : BitVec 10) : Laws.Coded.Statement (.setsr a r) := ⟨rfl, rfl, rfl⟩
theorem Laws.Coded.nop : Laws.Coded.Statement (.nop) := ⟨rfl, rfl, rfl⟩
theorem Laws.Coded.trap (i : BitVec 10) : Laws.Coded.Statement (.trap i) := ⟨rfl, rfl, rfl⟩
theorem Laws.Coded.eret : Laws.Coded.Statement (.eret) := ⟨rfl, rfl, rfl⟩
theorem Laws.Coded.bkpt : Laws.Coded.Statement (.bkpt) := ⟨rfl, rfl, rfl⟩
theorem Laws.Coded.halt : Laws.Coded.Statement (.halt) := ⟨rfl, rfl, rfl⟩
theorem Laws.Coded.done : Laws.Coded.Statement (.done) := ⟨rfl, rfl, rfl⟩
theorem Laws.Coded.yield : Laws.Coded.Statement (.yield) := ⟨rfl, rfl, rfl⟩
theorem Laws.Coded.vadd (d : BitVec 5) (a : BitVec 5) (b : BitVec 5) (m : BitVec 3) (z : BitVec 1) : Laws.Coded.Statement (.vadd d a b m z) := ⟨rfl, rfl, rfl⟩
theorem Laws.Coded.vsub (d : BitVec 5) (a : BitVec 5) (b : BitVec 5) (m : BitVec 3) (z : BitVec 1) : Laws.Coded.Statement (.vsub d a b m z) := ⟨rfl, rfl, rfl⟩
theorem Laws.Coded.vmul (d : BitVec 5) (a : BitVec 5) (b : BitVec 5) (m : BitVec 3) (z : BitVec 1) : Laws.Coded.Statement (.vmul d a b m z) := ⟨rfl, rfl, rfl⟩
theorem Laws.Coded.vfma (d : BitVec 5) (a : BitVec 5) (b : BitVec 5) (m : BitVec 3) (z : BitVec 1) : Laws.Coded.Statement (.vfma d a b m z) := ⟨rfl, rfl, rfl⟩
theorem Laws.Coded.vfms (d : BitVec 5) (a : BitVec 5) (b : BitVec 5) (m : BitVec 3) (z : BitVec 1) : Laws.Coded.Statement (.vfms d a b m z) := ⟨rfl, rfl, rfl⟩
theorem Laws.Coded.vmin (d : BitVec 5) (a : BitVec 5) (b : BitVec 5) (m : BitVec 3) (z : BitVec 1) : Laws.Coded.Statement (.vmin d a b m z) := ⟨rfl, rfl, rfl⟩
theorem Laws.Coded.vmax (d : BitVec 5) (a : BitVec 5) (b : BitVec 5) (m : BitVec 3) (z : BitVec 1) : Laws.Coded.Statement (.vmax d a b m z) := ⟨rfl, rfl, rfl⟩
theorem Laws.Coded.vabs (d : BitVec 5) (a : BitVec 5) (m : BitVec 3) (z : BitVec 1) : Laws.Coded.Statement (.vabs d a m z) := ⟨rfl, rfl, rfl⟩
theorem Laws.Coded.vneg (d : BitVec 5) (a : BitVec 5) (m : BitVec 3) (z : BitVec 1) : Laws.Coded.Statement (.vneg d a m z) := ⟨rfl, rfl, rfl⟩
theorem Laws.Coded.vcpys (d : BitVec 5) (a : BitVec 5) (b : BitVec 5) (m : BitVec 3) (z : BitVec 1) : Laws.Coded.Statement (.vcpys d a b m z) := ⟨rfl, rfl, rfl⟩
theorem Laws.Coded.viadd (d : BitVec 5) (a : BitVec 5) (b : BitVec 5) (m : BitVec 3) (z : BitVec 1) : Laws.Coded.Statement (.viadd d a b m z) := ⟨rfl, rfl, rfl⟩
theorem Laws.Coded.visub (d : BitVec 5) (a : BitVec 5) (b : BitVec 5) (m : BitVec 3) (z : BitVec 1) : Laws.Coded.Statement (.visub d a b m z) := ⟨rfl, rfl, rfl⟩
theorem Laws.Coded.vimul (d : BitVec 5) (a : BitVec 5) (b : BitVec 5) (m : BitVec 3) (z : BitVec 1) : Laws.Coded.Statement (.vimul d a b m z) := ⟨rfl, rfl, rfl⟩
theorem Laws.Coded.vand (d : BitVec 5) (a : BitVec 5) (b : BitVec 5) (m : BitVec 3) (z : BitVec 1) : Laws.Coded.Statement (.vand d a b m z) := ⟨rfl, rfl, rfl⟩
theorem Laws.Coded.vor (d : BitVec 5) (a : BitVec 5) (b : BitVec 5) (m : BitVec 3) (z : BitVec 1) : Laws.Coded.Statement (.vor d a b m z) := ⟨rfl, rfl, rfl⟩
theorem Laws.Coded.vxor (d : BitVec 5) (a : BitVec 5) (b : BitVec 5) (m : BitVec 3) (z : BitVec 1) : Laws.Coded.Statement (.vxor d a b m z) := ⟨rfl, rfl, rfl⟩
theorem Laws.Coded.vshl (d : BitVec 5) (a : BitVec 5) (b : BitVec 5) (m : BitVec 3) (z : BitVec 1) : Laws.Coded.Statement (.vshl d a b m z) := ⟨rfl, rfl, rfl⟩
theorem Laws.Coded.vshr (d : BitVec 5) (a : BitVec 5) (b : BitVec 5) (m : BitVec 3) (z : BitVec 1) : Laws.Coded.Statement (.vshr d a b m z) := ⟨rfl, rfl, rfl⟩
theorem Laws.Coded.vsar (d : BitVec 5) (a : BitVec 5) (b : BitVec 5) (m : BitVec 3) (z : BitVec 1) : Laws.Coded.Statement (.vsar d a b m z) := ⟨rfl, rfl, rfl⟩
theorem Laws.Coded.vimin (d : BitVec 5) (a : BitVec 5) (b : BitVec 5) (m : BitVec 3) (z : BitVec 1) : Laws.Coded.Statement (.vimin d a b m z) := ⟨rfl, rfl, rfl⟩
theorem Laws.Coded.vimax (d : BitVec 5) (a : BitVec 5) (b : BitVec 5) (m : BitVec 3) (z : BitVec 1) : Laws.Coded.Statement (.vimax d a b m z) := ⟨rfl, rfl, rfl⟩
theorem Laws.Coded.viminN32 (d : BitVec 5) (a : BitVec 5) (b : BitVec 5) (m : BitVec 3) (z : BitVec 1) : Laws.Coded.Statement (.viminN32 d a b m z) := ⟨rfl, rfl, rfl⟩
theorem Laws.Coded.vimaxN32 (d : BitVec 5) (a : BitVec 5) (b : BitVec 5) (m : BitVec 3) (z : BitVec 1) : Laws.Coded.Statement (.vimaxN32 d a b m z) := ⟨rfl, rfl, rfl⟩
theorem Laws.Coded.vcmp (d : BitVec 3) (a : BitVec 5) (b : BitVec 5) (c : BitVec 3) (t : BitVec 2) (m : BitVec 3) (z : BitVec 1) : Laws.Coded.Statement (.vcmp d a b c t m z) := ⟨rfl, rfl, rfl⟩
theorem Laws.Coded.vcvt (d : BitVec 5) (a : BitVec 5) (sv : BitVec 5) (t : BitVec 5) (m : BitVec 3) (z : BitVec 1) : Laws.Coded.Statement (.vcvt d a sv t m z) := ⟨rfl, rfl, rfl⟩
theorem Laws.Coded.vsplit (d : BitVec 5) (a : BitVec 5) (m : BitVec 3) (z : BitVec 1) : Laws.Coded.Statement (.vsplit d a m z) := ⟨rfl, rfl, rfl⟩
theorem Laws.Coded.vpack (d : BitVec 5) (a : BitVec 5) (f : BitVec 5) (m : BitVec 3) (z : BitVec 1) : Laws.Coded.Statement (.vpack d a f m z) := ⟨rfl, rfl, rfl⟩
theorem Laws.Coded.vunpk (d : BitVec 5) (a : BitVec 5) (f : BitVec 5) (m : BitVec 3) (z : BitVec 1) : Laws.Coded.Statement (.vunpk d a f m z) := ⟨rfl, rfl, rfl⟩
theorem Laws.Coded.vsfu (d : BitVec 5) (a : BitVec 5) (f : BitVec 7) (m : BitVec 3) (z : BitVec 1) : Laws.Coded.Statement (.vsfu d a f m z) := ⟨rfl, rfl, rfl⟩
theorem Laws.Coded.vrotr (d : BitVec 5) (a : BitVec 5) (b : BitVec 5) (m : BitVec 3) (z : BitVec 1) : Laws.Coded.Statement (.vrotr d a b m z) := ⟨rfl, rfl, rfl⟩
theorem Laws.Coded.vbcr (d : BitVec 5) (a : BitVec 5) (b : BitVec 5) (m : BitVec 3) (z : BitVec 1) : Laws.Coded.Statement (.vbcr d a b m z) := ⟨rfl, rfl, rfl⟩
theorem Laws.Coded.vredr (d : BitVec 5) (a : BitVec 5) (t : BitVec 2) (o : BitVec 2) (m : BitVec 3) (z : BitVec 1) : Laws.Coded.Statement (.vredr d a t o m z) := ⟨rfl, rfl, rfl⟩
theorem Laws.Coded.vredrC (d : BitVec 5) (a : BitVec 5) (m : BitVec 3) (z : BitVec 1) : Laws.Coded.Statement (.vredrC d a m z) := ⟨rfl, rfl, rfl⟩
theorem Laws.Coded.vscanr (d : BitVec 5) (a : BitVec 5) (t : BitVec 2) (o : BitVec 2) (m : BitVec 3) (z : BitVec 1) : Laws.Coded.Statement (.vscanr d a t o m z) := ⟨rfl, rfl, rfl⟩
theorem Laws.Coded.vrotc (d : BitVec 5) (a : BitVec 5) (b : BitVec 5) (m : BitVec 3) (z : BitVec 1) : Laws.Coded.Statement (.vrotc d a b m z) := ⟨rfl, rfl, rfl⟩
theorem Laws.Coded.vbcc (d : BitVec 5) (a : BitVec 5) (b : BitVec 5) (m : BitVec 3) (z : BitVec 1) : Laws.Coded.Statement (.vbcc d a b m z) := ⟨rfl, rfl, rfl⟩
theorem Laws.Coded.vredc (d : BitVec 5) (a : BitVec 5) (t : BitVec 2) (o : BitVec 2) (m : BitVec 3) (z : BitVec 1) : Laws.Coded.Statement (.vredc d a t o m z) := ⟨rfl, rfl, rfl⟩
theorem Laws.Coded.vredcC (d : BitVec 5) (a : BitVec 5) (m : BitVec 3) (z : BitVec 1) : Laws.Coded.Statement (.vredcC d a m z) := ⟨rfl, rfl, rfl⟩
theorem Laws.Coded.vscanc (d : BitVec 5) (a : BitVec 5) (t : BitVec 2) (o : BitVec 2) (m : BitVec 3) (z : BitVec 1) : Laws.Coded.Statement (.vscanc d a t o m z) := ⟨rfl, rfl, rfl⟩
theorem Laws.Coded.vperm (d : BitVec 5) (a : BitVec 5) (b : BitVec 5) (m : BitVec 3) (z : BitVec 1) : Laws.Coded.Statement (.vperm d a b m z) := ⟨rfl, rfl, rfl⟩
theorem Laws.Coded.vsel (d : BitVec 5) (a : BitVec 5) (b : BitVec 5) (m : BitVec 3) : Laws.Coded.Statement (.vsel d a b m) := ⟨rfl, rfl, rfl⟩
theorem Laws.Coded.vmov (d : BitVec 5) (a : BitVec 5) (m : BitVec 3) (z : BitVec 1) : Laws.Coded.Statement (.vmov d a m z) := ⟨rfl, rfl, rfl⟩
theorem Laws.Coded.viota (d : BitVec 5) (a : BitVec 5) (m : BitVec 3) (z : BitVec 1) : Laws.Coded.Statement (.viota d a m z) := ⟨rfl, rfl, rfl⟩
theorem Laws.Coded.vins (d : BitVec 5) (a : BitVec 5) (b : BitVec 5) : Laws.Coded.Statement (.vins d a b) := ⟨rfl, rfl, rfl⟩
theorem Laws.Coded.vext (d : BitVec 5) (a : BitVec 5) (b : BitVec 5) : Laws.Coded.Statement (.vext d a b) := ⟨rfl, rfl, rfl⟩
theorem Laws.Coded.vld (v : BitVec 5) (u : BitVec 2) (sv : BitVec 5) (o : BitVec 13) : Laws.Coded.Statement (.vld v u sv o) := ⟨rfl, rfl, rfl⟩
theorem Laws.Coded.vst (v : BitVec 5) (u : BitVec 2) (sv : BitVec 5) (o : BitVec 13) : Laws.Coded.Statement (.vst v u sv o) := ⟨rfl, rfl, rfl⟩
theorem Laws.Coded.vldg (v : BitVec 5) (h : BitVec 4) (i : BitVec 5) (m : BitVec 3) (r : BitVec 3) (z : BitVec 2) : Laws.Coded.Statement (.vldg v h i m r z) := ⟨rfl, rfl, rfl⟩
theorem Laws.Coded.vstg (v : BitVec 5) (h : BitVec 4) (i : BitVec 5) (m : BitVec 3) (r : BitVec 3) (z : BitVec 2) : Laws.Coded.Statement (.vstg v h i m r z) := ⟨rfl, rfl, rfl⟩
theorem Laws.Coded.vpop (d : BitVec 5) (f : BitVec 3) (m : BitVec 3) (z : BitVec 1) : Laws.Coded.Statement (.vpop d f m z) := ⟨rfl, rfl, rfl⟩
theorem Laws.Coded.vpush (a : BitVec 5) (f : BitVec 3) (m : BitVec 3) : Laws.Coded.Statement (.vpush a f m) := ⟨rfl, rfl, rfl⟩
theorem Laws.Coded.mand (d : BitVec 3) (a : BitVec 3) (b : BitVec 3) : Laws.Coded.Statement (.mand d a b) := ⟨rfl, rfl, rfl⟩
theorem Laws.Coded.mor (d : BitVec 3) (a : BitVec 3) (b : BitVec 3) : Laws.Coded.Statement (.mor d a b) := ⟨rfl, rfl, rfl⟩
theorem Laws.Coded.mxor (d : BitVec 3) (a : BitVec 3) (b : BitVec 3) : Laws.Coded.Statement (.mxor d a b) := ⟨rfl, rfl, rfl⟩
theorem Laws.Coded.mnot (d : BitVec 3) (a : BitVec 3) : Laws.Coded.Statement (.mnot d a) := ⟨rfl, rfl, rfl⟩
theorem Laws.Coded.mpopc (d : BitVec 5) (a : BitVec 3) : Laws.Coded.Statement (.mpopc d a) := ⟨rfl, rfl, rfl⟩
theorem Laws.Coded.mtest (d : BitVec 3) (a : BitVec 3) (b : BitVec 3) : Laws.Coded.Statement (.mtest d a b) := ⟨rfl, rfl, rfl⟩
theorem Laws.Coded.vdopen (d : BitVec 5) (a : BitVec 5) (b : BitVec 5) : Laws.Coded.Statement (.vdopen d a b) := ⟨rfl, rfl, rfl⟩
theorem Laws.Coded.vdacc (d : BitVec 5) (a : BitVec 5) (b : BitVec 5) : Laws.Coded.Statement (.vdacc d a b) := ⟨rfl, rfl, rfl⟩
theorem Laws.Coded.vdthr (a : BitVec 5) : Laws.Coded.Statement (.vdthr a) := ⟨rfl, rfl, rfl⟩
theorem Laws.Coded.vdclose (d : BitVec 5) : Laws.Coded.Statement (.vdclose d) := ⟨rfl, rfl, rfl⟩
theorem Laws.Coded.vdtest (d : BitVec 3) (a : BitVec 5) (m : BitVec 3) (z : BitVec 1) : Laws.Coded.Statement (.vdtest d a m z) := ⟨rfl, rfl, rfl⟩
theorem Laws.Coded.vdtestAny (d : BitVec 3) (a : BitVec 5) (m : BitVec 3) (z : BitVec 1) : Laws.Coded.Statement (.vdtestAny d a m z) := ⟨rfl, rfl, rfl⟩
theorem Laws.Coded.topki (d : BitVec 5) (a : BitVec 5) (b : BitVec 5) (m : BitVec 3) : Laws.Coded.Statement (.topki d a b m) := ⟨rfl, rfl, rfl⟩
theorem Laws.Coded.bscore (d : BitVec 5) (a : BitVec 5) (b : BitVec 5) : Laws.Coded.Statement (.bscore d a b) := ⟨rfl, rfl, rfl⟩
theorem Laws.Coded.mma (t : BitVec 6) (f : BitVec 4) (v : BitVec 16) : Laws.Coded.Statement (.mma t f v) := ⟨rfl, rfl, rfl⟩
theorem Laws.Coded.mmas (t : BitVec 6) (f : BitVec 4) (v : BitVec 16) : Laws.Coded.Statement (.mmas t f v) := ⟨rfl, rfl, rfl⟩
theorem Laws.Coded.mmag (t : BitVec 6) (f : BitVec 4) (v : BitVec 16) : Laws.Coded.Statement (.mmag t f v) := ⟨rfl, rfl, rfl⟩
theorem Laws.Coded.mzero (t : BitVec 6) (f : BitVec 4) (v : BitVec 16) : Laws.Coded.Statement (.mzero t f v) := ⟨rfl, rfl, rfl⟩
theorem Laws.Coded.mstore (t : BitVec 6) (f : BitVec 4) (v : BitVec 16) : Laws.Coded.Statement (.mstore t f v) := ⟨rfl, rfl, rfl⟩
theorem Laws.Coded.matrixHold (t : BitVec 6) (f : BitVec 4) (v : BitVec 16) : Laws.Coded.Statement (.matrixHold t f v) := ⟨rfl, rfl, rfl⟩
theorem Laws.Coded.tcopy (t : BitVec 6) (f : BitVec 4) (v : BitVec 16) : Laws.Coded.Statement (.tcopy t f v) := ⟨rfl, rfl, rfl⟩
theorem Laws.Coded.tfill (t : BitVec 6) (f : BitVec 4) (v : BitVec 16) : Laws.Coded.Statement (.tfill t f v) := ⟨rfl, rfl, rfl⟩
theorem Laws.Coded.bcopy (t : BitVec 6) (f : BitVec 4) (v : BitVec 16) : Laws.Coded.Statement (.bcopy t f v) := ⟨rfl, rfl, rfl⟩
theorem Laws.Coded.copyHold (t : BitVec 6) (f : BitVec 4) (v : BitVec 16) : Laws.Coded.Statement (.copyHold t f v) := ⟨rfl, rfl, rfl⟩
theorem Laws.Coded.tgather (t : BitVec 6) (f : BitVec 4) (v : BitVec 16) : Laws.Coded.Statement (.tgather t f v) := ⟨rfl, rfl, by show Instr.isCoreWord (if f = 15 ∧ v = 0 then .tscore t else .tgather t f v) = true; split <;> rfl⟩
theorem Laws.Coded.tscatter (t : BitVec 6) (f : BitVec 4) (v : BitVec 16) : Laws.Coded.Statement (.tscatter t f v) := ⟨rfl, rfl, by show Instr.isCoreWord (if f = 15 ∧ v = 0 then .tscore t else .tgather t f v) = true; split <;> rfl⟩
theorem Laws.Coded.tscore (t : BitVec 6) : Laws.Coded.Statement (.tscore t) := ⟨rfl, rfl, rfl⟩
theorem Laws.Coded.gatherHold (t : BitVec 6) (f : BitVec 4) (v : BitVec 16) : Laws.Coded.Statement (.gatherHold t f v) := ⟨rfl, rfl, rfl⟩
theorem Laws.Coded.tcoll (t : BitVec 6) (f : BitVec 4) (v : BitVec 16) : Laws.Coded.Statement (.tcoll t f v) := ⟨rfl, rfl, rfl⟩
theorem Laws.Coded.collectiveHold (t : BitVec 6) (f : BitVec 4) (v : BitVec 16) : Laws.Coded.Statement (.collectiveHold t f v) := ⟨rfl, rfl, rfl⟩
theorem Laws.Coded.seek (t : BitVec 6) (f : BitVec 4) (v : BitVec 16) : Laws.Coded.Statement (.seek t f v) := ⟨rfl, rfl, rfl⟩
theorem Laws.Coded.kfetch (t : BitVec 6) (f : BitVec 4) (v : BitVec 16) : Laws.Coded.Statement (.kfetch t f v) := ⟨rfl, rfl, rfl⟩
theorem Laws.Coded.sappend (t : BitVec 6) (f : BitVec 4) (v : BitVec 16) : Laws.Coded.Statement (.sappend t f v) := ⟨rfl, rfl, rfl⟩
theorem Laws.Coded.smerge (t : BitVec 6) (f : BitVec 4) (v : BitVec 16) : Laws.Coded.Statement (.smerge t f v) := ⟨rfl, rfl, rfl⟩
theorem Laws.Coded.searchHold (t : BitVec 6) (f : BitVec 4) (v : BitVec 16) : Laws.Coded.Statement (.searchHold t f v) := ⟨rfl, rfl, rfl⟩
theorem Laws.Coded.tmpl (a : BitVec 5) (b : BitVec 2) (c : BitVec 3) (t : BitVec 6) : Laws.Coded.Statement (.tmpl a b c t) := ⟨rfl, rfl, rfl⟩
theorem Laws.Coded.tmplBfmt (a : BitVec 5) (n : BitVec 5) : Laws.Coded.Statement (.tmplBfmt a n) := ⟨rfl, rfl, rfl⟩
theorem Laws.Coded.notify (a : BitVec 5) (l : BitVec 3) (c : BitVec 6) : Laws.Coded.Statement (.notify a l c) := ⟨rfl, rfl, rfl⟩
theorem Laws.Coded.qdrain (c : BitVec 6) : Laws.Coded.Statement (.qdrain c) := ⟨rfl, rfl, rfl⟩
theorem Laws.Coded.ringsetCfg (a : BitVec 5) (g : BitVec 3) : Laws.Coded.Statement (.ringsetCfg a g) := ⟨rfl, rfl, rfl⟩
theorem Laws.Coded.ringsetAdv (a : BitVec 5) (g : BitVec 3) : Laws.Coded.Statement (.ringsetAdv a g) := ⟨rfl, rfl, rfl⟩
theorem Laws.Coded.feedbind (a : BitVec 5) (u : BitVec 2) (f : BitVec 3) : Laws.Coded.Statement (.feedbind a u f) := ⟨rfl, rfl, rfl⟩
theorem Laws.Coded.feedstop (f : BitVec 3) : Laws.Coded.Statement (.feedstop f) := ⟨rfl, rfl, rfl⟩
theorem Laws.Coded.sqld (a : BitVec 5) (b : BitVec 5) (u : BitVec 2) : Laws.Coded.Statement (.sqld a b u) := ⟨rfl, rfl, rfl⟩
theorem Laws.Coded.ztest (a : BitVec 5) (b : BitVec 5) (u : BitVec 2) (t : BitVec 4) : Laws.Coded.Statement (.ztest a b u t) := ⟨rfl, rfl, rfl⟩
theorem Laws.Coded.wpwait (a : BitVec 5) (p : BitVec 4) : Laws.Coded.Statement (.wpwait a p) := ⟨rfl, rfl, rfl⟩
theorem Laws.Coded.bjoin (k : BitVec 2) (b : BitVec 5) (l : BitVec 3) (m : BitVec 2) (n : BitVec 5) : Laws.Coded.Statement (.bjoin k b l m n) := ⟨rfl, rfl, rfl⟩
theorem Laws.Coded.bdrop (l : BitVec 3) (m : BitVec 2) (n : BitVec 5) : Laws.Coded.Statement (.bdrop l m n) := ⟨rfl, rfl, rfl⟩
theorem Laws.Coded.barr (b : BitVec 5) (l : BitVec 3) (n : BitVec 5) : Laws.Coded.Statement (.barr b l n) := ⟨rfl, rfl, rfl⟩
theorem Laws.Coded.bwait (a : BitVec 5) (b : BitVec 5) (l : BitVec 3) (n : BitVec 5) : Laws.Coded.Statement (.bwait a b l n) := ⟨rfl, rfl, rfl⟩
theorem Laws.Coded.barw (b : BitVec 5) (l : BitVec 3) (n : BitVec 5) : Laws.Coded.Statement (.barw b l n) := ⟨rfl, rfl, rfl⟩
theorem Laws.Coded.bexp (a : BitVec 5) (l : BitVec 3) (n : BitVec 5) : Laws.Coded.Statement (.bexp a l n) := ⟨rfl, rfl, rfl⟩
theorem Laws.Coded.btest (b : BitVec 5) (l : BitVec 3) (n : BitVec 5) : Laws.Coded.Statement (.btest b l n) := ⟨rfl, rfl, rfl⟩
theorem Laws.Coded.fset (a : BitVec 5) (l : BitVec 3) (n : BitVec 5) : Laws.Coded.Statement (.fset a l n) := ⟨rfl, rfl, rfl⟩
theorem Laws.Coded.fget (b : BitVec 5) (l : BitVec 3) (n : BitVec 5) : Laws.Coded.Statement (.fget b l n) := ⟨rfl, rfl, rfl⟩
theorem Laws.Coded.lwait (b : BitVec 5) (l : BitVec 3) (n : BitVec 5) : Laws.Coded.Statement (.lwait b l n) := ⟨rfl, rfl, rfl⟩
theorem Laws.Coded.lrel (l : BitVec 3) (n : BitVec 5) : Laws.Coded.Statement (.lrel l n) := ⟨rfl, rfl, rfl⟩
theorem Laws.Coded.barrierWake : Laws.Coded.Statement (.barrierWake) := ⟨rfl, rfl, rfl⟩
theorem Laws.Coded.enq (a : BitVec 5) (b : BitVec 5) (h : BitVec 4) : Laws.Coded.Statement (.enq a b h) := ⟨rfl, rfl, rfl⟩
theorem Laws.Coded.spawn (a : BitVec 5) (b : BitVec 5) : Laws.Coded.Statement (.spawn a b) := ⟨rfl, rfl, rfl⟩
theorem Laws.Coded.karm (a : BitVec 5) (b : BitVec 5) (o : BitVec 1) (h : BitVec 4) : Laws.Coded.Statement (.karm a b o h) := ⟨rfl, rfl, rfl⟩
theorem Laws.Coded.kdisarm (a : BitVec 5) : Laws.Coded.Statement (.kdisarm a) := ⟨rfl, rfl, rfl⟩
theorem Laws.Coded.klaunch (a : BitVec 5) (b : BitVec 5) (h : BitVec 4) : Laws.Coded.Statement (.klaunch a b h) := ⟨rfl, rfl, rfl⟩
theorem Laws.Coded.kcancel (a : BitVec 5) (b : BitVec 5) : Laws.Coded.Statement (.kcancel a b) := ⟨rfl, rfl, rfl⟩
theorem Laws.Coded.shwait (a : BitVec 5) (b : BitVec 5) : Laws.Coded.Statement (.shwait a b) := ⟨rfl, rfl, rfl⟩
theorem Laws.Coded.preq (a : BitVec 5) (b : BitVec 5) (e : BitVec 1) (n : BitVec 5) : Laws.Coded.Statement (.preq a b e n) := ⟨rfl, rfl, rfl⟩
theorem Laws.Coded.pcancel (a : BitVec 5) (b : BitVec 5) (l : BitVec 1) : Laws.Coded.Statement (.pcancel a b l) := ⟨rfl, rfl, rfl⟩
theorem Laws.Coded.pharv (a : BitVec 5) (b : BitVec 5) : Laws.Coded.Statement (.pharv a b) := ⟨rfl, rfl, rfl⟩
theorem Laws.Coded.btfork (a : BitVec 5) (b : BitVec 5) : Laws.Coded.Statement (.btfork a b) := ⟨rfl, rfl, rfl⟩
theorem Laws.Coded.btmap (a : BitVec 5) (b : BitVec 5) (h : BitVec 4) : Laws.Coded.Statement (.btmap a b h) := ⟨rfl, rfl, rfl⟩
theorem Laws.Coded.btunmap (a : BitVec 5) (b : BitVec 5) (c : BitVec 10) : Laws.Coded.Statement (.btunmap a b c) := ⟨rfl, rfl, rfl⟩
theorem Laws.Coded.wopen (a : BitVec 5) (b : BitVec 5) (d : BitVec 5) (h : BitVec 4) : Laws.Coded.Statement (.wopen a b d h) := ⟨rfl, rfl, rfl⟩
theorem Laws.Coded.wcommit (a : BitVec 5) (b : BitVec 5) (d : BitVec 5) : Laws.Coded.Statement (.wcommit a b d) := ⟨rfl, rfl, rfl⟩
theorem Laws.Coded.wabort (a : BitVec 5) (d : BitVec 5) : Laws.Coded.Statement (.wabort a d) := ⟨rfl, rfl, rfl⟩
theorem Laws.Coded.wstat (a : BitVec 5) (d : BitVec 5) : Laws.Coded.Statement (.wstat a d) := ⟨rfl, rfl, rfl⟩
theorem Laws.Coded.hpin (a : BitVec 5) (b : BitVec 5) (d : BitVec 5) : Laws.Coded.Statement (.hpin a b d) := ⟨rfl, rfl, rfl⟩
theorem Laws.Coded.hunpin (a : BitVec 5) (d : BitVec 5) : Laws.Coded.Statement (.hunpin a d) := ⟨rfl, rfl, rfl⟩
theorem Laws.Coded.hsave (a : BitVec 5) (d : BitVec 5) : Laws.Coded.Statement (.hsave a d) := ⟨rfl, rfl, rfl⟩
theorem Laws.Coded.hevict (a : BitVec 5) (d : BitVec 5) : Laws.Coded.Statement (.hevict a d) := ⟨rfl, rfl, rfl⟩
theorem Laws.Coded.hdlbind (a : BitVec 5) (d : BitVec 5) (h : BitVec 4) : Laws.Coded.Statement (.hdlbind a d h) := ⟨rfl, rfl, rfl⟩
theorem Laws.Coded.hdlunb (a : BitVec 5) (d : BitVec 5) : Laws.Coded.Statement (.hdlunb a d) := ⟨rfl, rfl, rfl⟩
theorem Laws.Coded.hdlmsg (a : BitVec 5) (b : BitVec 5) (d : BitVec 5) : Laws.Coded.Statement (.hdlmsg a b d) := ⟨rfl, rfl, rfl⟩
theorem Laws.Coded.slpf (sv : BitVec 5) (r : BitVec 5) (d : BitVec 5) : Laws.Coded.Statement (.slpf sv r d) := ⟨rfl, rfl, rfl⟩
theorem Laws.Coded.slchase (sv : BitVec 5) (r : BitVec 5) (d : BitVec 5) : Laws.Coded.Statement (.slchase sv r d) := ⟨rfl, rfl, rfl⟩
theorem Laws.Coded.slupd (o : BitVec 3) (g : BitVec 1) (sv : BitVec 5) (r : BitVec 5) (d : BitVec 5) : Laws.Coded.Statement (.slupd o g sv r d) := ⟨rfl, rfl, rfl⟩
theorem Laws.Coded.slfwd (sv : BitVec 5) (r : BitVec 5) (d : BitVec 5) : Laws.Coded.Statement (.slfwd sv r d) := ⟨rfl, rfl, rfl⟩
theorem Laws.Coded.sldef : Laws.Coded.Statement (.sldef) := ⟨rfl, rfl, rfl⟩
theorem Laws.Coded.sldone (r : BitVec 5) : Laws.Coded.Statement (.sldone r) := ⟨rfl, rfl, rfl⟩
theorem Laws.Coded.mmaStart : Laws.Coded.Statement (.mmaStart) := ⟨rfl, rfl, rfl⟩
theorem Laws.Coded.mmasStart : Laws.Coded.Statement (.mmasStart) := ⟨rfl, rfl, rfl⟩
theorem Laws.Coded.mmagStart : Laws.Coded.Statement (.mmagStart) := ⟨rfl, rfl, rfl⟩
theorem Laws.Coded.mzeroStart : Laws.Coded.Statement (.mzeroStart) := ⟨rfl, rfl, rfl⟩
theorem Laws.Coded.mstoreStart : Laws.Coded.Statement (.mstoreStart) := ⟨rfl, rfl, rfl⟩
theorem Laws.Coded.tileCommandEnd : Laws.Coded.Statement (.tileCommandEnd) := ⟨rfl, rfl, rfl⟩
theorem Laws.Coded.tcopyStart : Laws.Coded.Statement (.tcopyStart) := ⟨rfl, rfl, rfl⟩
theorem Laws.Coded.tfillStart : Laws.Coded.Statement (.tfillStart) := ⟨rfl, rfl, rfl⟩
theorem Laws.Coded.bcopyStart : Laws.Coded.Statement (.bcopyStart) := ⟨rfl, rfl, rfl⟩
theorem Laws.Coded.sqldAppend : Laws.Coded.Statement (.sqldAppend) := ⟨rfl, rfl, rfl⟩
theorem Laws.Coded.tgatherStart : Laws.Coded.Statement (.tgatherStart) := ⟨rfl, rfl, rfl⟩
theorem Laws.Coded.tscatterStart : Laws.Coded.Statement (.tscatterStart) := ⟨rfl, rfl, rfl⟩
theorem Laws.Coded.tscoreStart : Laws.Coded.Statement (.tscoreStart) := ⟨rfl, rfl, rfl⟩
theorem Laws.Coded.commandEnd (k : Nat) : Laws.Coded.Statement (.commandEnd k) := ⟨rfl, rfl, rfl⟩
theorem Laws.Coded.notifyEvent : Laws.Coded.Statement (.notifyEvent) := ⟨rfl, rfl, rfl⟩
theorem Laws.Coded.feedTransfer (f : BitVec 3) : Laws.Coded.Statement (.feedTransfer f) := ⟨rfl, rfl, rfl⟩
theorem Laws.Coded.collectiveStart : Laws.Coded.Statement (.collectiveStart) := ⟨rfl, rfl, rfl⟩
theorem Laws.Coded.seekStart : Laws.Coded.Statement (.seekStart) := ⟨rfl, rfl, rfl⟩
theorem Laws.Coded.drovePageArrival (k : Nat) (fp : Nat) : Laws.Coded.Statement (.drovePageArrival k fp) := ⟨rfl, rfl, rfl⟩
theorem Laws.Coded.pageReadRequeue (k : Nat) (fp : Nat) : Laws.Coded.Statement (.pageReadRequeue k fp) := ⟨rfl, rfl, rfl⟩
theorem Laws.Coded.kfetchStart : Laws.Coded.Statement (.kfetchStart) := ⟨rfl, rfl, rfl⟩
theorem Laws.Coded.sappendStart : Laws.Coded.Statement (.sappendStart) := ⟨rfl, rfl, rfl⟩
theorem Laws.Coded.smergeStart : Laws.Coded.Statement (.smergeStart) := ⟨rfl, rfl, rfl⟩
theorem Laws.Coded.smergeSwap (k : Nat) : Laws.Coded.Statement (.smergeSwap k) := ⟨rfl, rfl, rfl⟩
theorem Laws.Coded.redTranslation (k : Nat) : Laws.Coded.Statement (.redTranslation k) := ⟨rfl, rfl, rfl⟩
theorem Laws.Coded.redPerformed (k : Nat) : Laws.Coded.Statement (.redPerformed k) := ⟨rfl, rfl, rfl⟩
theorem Laws.Coded.iterationHandout (die : Nat) (e : Nat) : Laws.Coded.Statement (.iterationHandout die e) := ⟨rfl, rfl, rfl⟩
theorem Laws.Coded.declaredInputsArrived (slot : Nat) : Laws.Coded.Statement (.declaredInputsArrived slot) := ⟨rfl, rfl, rfl⟩
theorem Laws.Coded.contextStart : Laws.Coded.Statement (.contextStart) := ⟨rfl, rfl, rfl⟩
theorem Laws.Coded.contextRetire : Laws.Coded.Statement (.contextRetire) := ⟨rfl, rfl, rfl⟩
theorem Laws.Coded.stewardDispatch (die : Nat) : Laws.Coded.Statement (.stewardDispatch die) := ⟨rfl, rfl, rfl⟩
theorem Laws.Coded.estimatorDecision (die : Nat) (e : Nat) : Laws.Coded.Statement (.estimatorDecision die e) := ⟨rfl, rfl, rfl⟩
theorem Laws.Coded.scrubComplete (die : Nat) (e : Nat) : Laws.Coded.Statement (.scrubComplete die e) := ⟨rfl, rfl, rfl⟩
theorem Laws.Coded.preemptionComplete (die : Nat) (e : Nat) : Laws.Coded.Statement (.preemptionComplete die e) := ⟨rfl, rfl, rfl⟩
theorem Laws.Coded.restoreComplete (die : Nat) (e : Nat) : Laws.Coded.Statement (.restoreComplete die e) := ⟨rfl, rfl, rfl⟩
theorem Laws.Coded.kernelEnd (die : Nat) (e : Nat) : Laws.Coded.Statement (.kernelEnd die e) := ⟨rfl, rfl, rfl⟩
theorem Laws.Coded.promotionComplete (k : Nat) : Laws.Coded.Statement (.promotionComplete k) := ⟨rfl, rfl, rfl⟩
theorem Laws.Coded.promotionFailed (k : Nat) : Laws.Coded.Statement (.promotionFailed k) := ⟨rfl, rfl, rfl⟩
theorem Laws.Coded.shoot (m : Nat) (v : BitVec 64) : Laws.Coded.Statement (.shoot m v) := ⟨rfl, rfl, rfl⟩
theorem Laws.Coded.shootDownComplete (k : Nat) : Laws.Coded.Statement (.shootDownComplete k) := ⟨rfl, rfl, rfl⟩
theorem Laws.Coded.poolClearComplete (k : Nat) : Laws.Coded.Statement (.poolClearComplete k) := ⟨rfl, rfl, rfl⟩
theorem Laws.Coded.silenceEviction (die : Nat) (k : Nat) : Laws.Coded.Statement (.silenceEviction die k) := ⟨rfl, rfl, rfl⟩
theorem Laws.Coded.evictionComplete (die : Nat) (k : Nat) : Laws.Coded.Statement (.evictionComplete die k) := ⟨rfl, rfl, rfl⟩
theorem Laws.Coded.reeveHandlerEntry (die : Nat) (slice : Nat) : Laws.Coded.Statement (.reeveHandlerEntry die slice) := ⟨rfl, rfl, rfl⟩
theorem Laws.Coded.budgetOverrun (die : Nat) (slice : Nat) : Laws.Coded.Statement (.budgetOverrun die slice) := ⟨rfl, rfl, rfl⟩
theorem Laws.Coded.launch (m : Nat) (die : Nat) (v : BitVec 64) : Laws.Coded.Statement (.launch m die v) := ⟨rfl, rfl, rfl⟩
theorem Laws.Coded.hostPreemptionRequest (m : Nat) (die : Nat) (entry : BitVec 16) (dead : BitVec 32) : Laws.Coded.Statement (.hostPreemptionRequest m die entry dead) := ⟨rfl, rfl, rfl⟩
theorem Laws.Coded.registerWrite (m : Nat) (fn : Nat) (off : Nat) (size : Nat) (v : BitVec 64) : Laws.Coded.Statement (.registerWrite m fn off size v) := ⟨rfl, rfl, rfl⟩
theorem Laws.Coded.taggedLaunchMessage (port : Nat) (aspace : BitVec 12) (tag : BitVec 32) (hdr : BitVec 128) (va : BitVec 64) (pay : List (BitVec 8)) : Laws.Coded.Statement (.taggedLaunchMessage port aspace tag hdr va pay) := ⟨rfl, rfl, rfl⟩
theorem Laws.Coded.hostMemoryAccess (pa : Nat) (wr : Option (List (BitVec 8))) : Laws.Coded.Statement (.hostMemoryAccess pa wr) := ⟨rfl, rfl, rfl⟩
theorem Laws.Coded.hostAtomic (op : BitVec 2) (sz : BitVec 1) (pa : Nat) (v : BitVec 64) (e : BitVec 64) : Laws.Coded.Statement (.hostAtomic op sz pa v e) := ⟨rfl, rfl, rfl⟩
theorem Laws.Coded.linkEnable (m : Nat) (link : Nat) : Laws.Coded.Statement (.linkEnable m link) := ⟨rfl, rfl, rfl⟩
theorem Laws.Coded.linkDisable (m : Nat) (link : Nat) : Laws.Coded.Statement (.linkDisable m link) := ⟨rfl, rfl, rfl⟩
theorem Laws.Coded.linkTrainingDone (link : Nat) (lanes : Nat) (peer : BitVec 10) : Laws.Coded.Statement (.linkTrainingDone link lanes peer) := ⟨rfl, rfl, rfl⟩
theorem Laws.Coded.flitRetry (link : Nat) : Laws.Coded.Statement (.flitRetry link) := ⟨rfl, rfl, rfl⟩
theorem Laws.Coded.laneLost (link : Nat) : Laws.Coded.Statement (.laneLost link) := ⟨rfl, rfl, rfl⟩
theorem Laws.Coded.pathLossTimeout (pkg : Nat) : Laws.Coded.Statement (.pathLossTimeout pkg) := ⟨rfl, rfl, rfl⟩
theorem Laws.Coded.dieBoundaryFailure : Laws.Coded.Statement .dieBoundaryFailure := ⟨rfl, rfl, rfl⟩
theorem Laws.Coded.moduleReset : Laws.Coded.Statement (.moduleReset) := ⟨rfl, rfl, rfl⟩
theorem Laws.Coded.functionSelfTestDone (f : Nat) (test : SelfTest) (found : Nat) : Laws.Coded.Statement (.functionSelfTestDone f test found) := ⟨rfl, rfl, rfl⟩
theorem Laws.Coded.claim (m : Nat) (c : BitVec 3) (h : BitVec 3) : Laws.Coded.Statement (.claim m c h) := ⟨rfl, rfl, rfl⟩
theorem Laws.Coded.ownershipRelease (m : Nat) : Laws.Coded.Statement (.ownershipRelease m) := ⟨rfl, rfl, rfl⟩
theorem Laws.Coded.handover (m : Nat) (h : BitVec 3) : Laws.Coded.Statement (.handover m h) := ⟨rfl, rfl, rfl⟩
theorem Laws.Coded.functionLevelReset (m : Nat) : Laws.Coded.Statement (.functionLevelReset m) := ⟨rfl, rfl, rfl⟩
theorem Laws.Coded.allot (m : Nat) (v : BitVec 64) : Laws.Coded.Statement (.allot m v) := ⟨rfl, rfl, rfl⟩
theorem Laws.Coded.fring (m : Nat) (v : BitVec 64) : Laws.Coded.Statement (.fring m v) := ⟨rfl, rfl, rfl⟩
theorem Laws.Coded.pkgset (m : Nat) (part : BitVec 2) (v : BitVec 10) : Laws.Coded.Statement (.pkgset m part v) := ⟨rfl, rfl, rfl⟩
theorem Laws.Coded.plimit (m : Nat) (v : BitVec 12) : Laws.Coded.Statement (.plimit m v) := ⟨rfl, rfl, rfl⟩
theorem Laws.Coded.throttle (watts : BitVec 12) : Laws.Coded.Statement (.throttle watts) := ⟨rfl, rfl, rfl⟩
theorem Laws.Coded.clockRestore (watts : BitVec 12) : Laws.Coded.Statement (.clockRestore watts) := ⟨rfl, rfl, rfl⟩
theorem Laws.Coded.tripTemperature : Laws.Coded.Statement (.tripTemperature) := ⟨rfl, rfl, rfl⟩
theorem Laws.Coded.getVersion : Laws.Coded.Statement .getVersion := ⟨rfl, rfl, rfl⟩
theorem Laws.Coded.getCapabilities : Laws.Coded.Statement .getCapabilities := ⟨rfl, rfl, rfl⟩
theorem Laws.Coded.negotiateAlgorithms : Laws.Coded.Statement .negotiateAlgorithms := ⟨rfl, rfl, rfl⟩
theorem Laws.Coded.getDigests : Laws.Coded.Statement .getDigests := ⟨rfl, rfl, rfl⟩
theorem Laws.Coded.getCertificate : Laws.Coded.Statement .getCertificate := ⟨rfl, rfl, rfl⟩
theorem Laws.Coded.challenge : Laws.Coded.Statement .challenge := ⟨rfl, rfl, rfl⟩
theorem Laws.Coded.getMeasurements (idx : Nat) : Laws.Coded.Statement (.getMeasurements idx) := ⟨rfl, rfl, rfl⟩
theorem Laws.Coded.vectorInstructionStart : Laws.Coded.Statement (.vectorInstructionStart) := ⟨rfl, rfl, rfl⟩
theorem Laws.Coded.accessPerformed (k : Nat) : Laws.Coded.Statement (.accessPerformed k) := ⟨rfl, rfl, rfl⟩
theorem Laws.Coded.collectiveEnd : Laws.Coded.Statement (.collectiveEnd) := ⟨rfl, rfl, rfl⟩
theorem Laws.Coded.kfetchBlockArrival (k : Nat) : Laws.Coded.Statement (.kfetchBlockArrival k) := ⟨rfl, rfl, rfl⟩
theorem Laws.Coded.reeveInstruction : Laws.Coded.Statement (.reeveInstruction) := ⟨rfl, rfl, rfl⟩
theorem Laws.Coded.softError (where_ : ErrSite) (pa : Nat) (double : Bool) : Laws.Coded.Statement (.softError where_ pa double) := ⟨rfl, rfl, rfl⟩
theorem Laws.Coded.bankFailed (bank : Nat) (failed : Bool) : Laws.Coded.Statement (.bankFailed bank failed) := ⟨rfl, rfl, rfl⟩
theorem Laws.Coded.podRequest (req : PodReq) : Laws.Coded.Statement (.podRequest req) := ⟨rfl, rfl, rfl⟩
theorem Laws.Coded.rocev2Message (qp : Nat) (msg : RoceMsg) : Laws.Coded.Statement (.rocev2Message qp msg) := ⟨rfl, rfl, rfl⟩
theorem Laws.Coded.recoveryImage (img : FwImage) : Laws.Coded.Statement (.recoveryImage img) := ⟨rfl, rfl, rfl⟩

end Sys2Proof
end

