-- ==== Sys2Proof/Laws/State.lean ====
section
/-! SUPPORT. What the plain updates of the state leave alone: one lemma for each field of each update. -/

namespace Sys2Proof.Laws

open Sys2Proof.Machine

@[simp] theorem modCtx_core (s : State) (f : Context → Context) : (modCtx s f).core = { s.core with ctx := f s.core.ctx } := rfl
@[simp] theorem modCore_core (s : State) (f : Core → Core) : (modCore s f).core = f s.core := rfl
@[simp] theorem bumpFresh_fresh (s : State) : (bumpFresh s).fresh = s.fresh + 1 := rfl
@[simp] theorem raiseMsix_msix (s : State) (fn vec : Nat) :
    (raiseMsix s fn vec).msix = if msixMasked s fn vec then s.msix else s.msix ++ [(fn, vec)] := rfl
@[simp] theorem raiseMsix_msixPend (s : State) (fn vec : Nat) :
    (raiseMsix s fn vec).msixPend =
      if msixMasked s fn vec then vset s.msixPend fn (vget s.msixPend fn 0 ||| BitVec.ofNat 64 (2 ^ vec)) else s.msixPend := rfl
@[simp] theorem mapCores_core (s : State) (f : Core → Core) : (mapCores s f).core = f s.core := rfl
@[simp] theorem mapCores_others (s : State) (f : Core → Core) : (mapCores s f).others = s.others.map f := rfl
@[simp] theorem setH_core (s : State) (h : BitVec 4) (v : Handle) :
    (setH s h v).core = { s.core with ctx := { s.core.ctx with h := vset s.core.ctx.h h.toNat v } } := rfl

/-- A scalar register write reaches the running context's scalar registers only. -/
theorem setS_eq (s : State) (r : BitVec 5) (v : Word) :
    setS s r v = { s with core := { s.core with ctx := { s.core.ctx with s := (setS s r v).core.ctx.s } } } := by
  unfold setS
  split <;> rfl

/-- A predicate write reaches the running context's predicates only. -/
theorem setP_eq (s : State) (p : BitVec 3) (v : Bool) :
    setP s p v = { s with core := { s.core with ctx := { s.core.ctx with p := (setP s p v).core.ctx.p } } } := by
  unfold setP
  split <;> rfl

/-! modCtx. -/

@[simp] theorem modCtx_part (s : State) (f : Context → Context) : (modCtx s f).part = s.part := rfl
@[simp] theorem modCtx_caps (s : State) (f : Context → Context) : (modCtx s f).caps = s.caps := rfl
@[simp] theorem modCtx_pkgId (s : State) (f : Context → Context) : (modCtx s f).pkgId = s.pkgId := rfl
@[simp] theorem modCtx_held (s : State) (f : Context → Context) : (modCtx s f).held = s.held := rfl
@[simp] theorem modCtx_mem (s : State) (f : Context → Context) : (modCtx s f).mem = s.mem := rfl
@[simp] theorem modCtx_badLines (s : State) (f : Context → Context) : (modCtx s f).badLines = s.badLines := rfl
@[simp] theorem modCtx_heldBytes (s : State) (f : Context → Context) : (modCtx s f).heldBytes = s.heldBytes := rfl
@[simp] theorem modCtx_copies (s : State) (f : Context → Context) : (modCtx s f).copies = s.copies := rfl
@[simp] theorem modCtx_roots (s : State) (f : Context → Context) : (modCtx s f).roots = s.roots := rfl
@[simp] theorem modCtx_others (s : State) (f : Context → Context) : (modCtx s f).others = s.others := rfl
@[simp] theorem modCtx_netBars (s : State) (f : Context → Context) : (modCtx s f).netBars = s.netBars := rfl
@[simp] theorem modCtx_podWaits (s : State) (f : Context → Context) : (modCtx s f).podWaits = s.podWaits := rfl
@[simp] theorem modCtx_podParks (s : State) (f : Context → Context) : (modCtx s f).podParks = s.podParks := rfl
@[simp] theorem modCtx_allots (s : State) (f : Context → Context) : (modCtx s f).allots = s.allots := rfl
@[simp] theorem modCtx_reds (s : State) (f : Context → Context) : (modCtx s f).reds = s.reds := rfl
@[simp] theorem modCtx_heldSignals (s : State) (f : Context → Context) : (modCtx s f).heldSignals = s.heldSignals := rfl
@[simp] theorem modCtx_kernels (s : State) (f : Context → Context) : (modCtx s f).kernels = s.kernels := rfl
@[simp] theorem modCtx_kserial (s : State) (f : Context → Context) : (modCtx s f).kserial = s.kserial := rfl
@[simp] theorem modCtx_order (s : State) (f : Context → Context) : (modCtx s f).order = s.order := rfl
@[simp] theorem modCtx_pageCtl (s : State) (f : Context → Context) : (modCtx s f).pageCtl = s.pageCtl := rfl
@[simp] theorem modCtx_promos (s : State) (f : Context → Context) : (modCtx s f).promos = s.promos := rfl
@[simp] theorem modCtx_shoots (s : State) (f : Context → Context) : (modCtx s f).shoots = s.shoots := rfl
@[simp] theorem modCtx_windows (s : State) (f : Context → Context) : (modCtx s f).windows = s.windows := rfl
@[simp] theorem modCtx_sched (s : State) (f : Context → Context) : (modCtx s f).sched = s.sched := rfl
@[simp] theorem modCtx_hearth (s : State) (f : Context → Context) : (modCtx s f).hearth = s.hearth := rfl
@[simp] theorem modCtx_streams (s : State) (f : Context → Context) : (modCtx s f).streams = s.streams := rfl
@[simp] theorem modCtx_streamOps (s : State) (f : Context → Context) : (modCtx s f).streamOps = s.streamOps := rfl
@[simp] theorem modCtx_arms (s : State) (f : Context → Context) : (modCtx s f).arms = s.arms := rfl
@[simp] theorem modCtx_quesarBase (s : State) (f : Context → Context) : (modCtx s f).quesarBase = s.quesarBase := rfl
@[simp] theorem modCtx_droves (s : State) (f : Context → Context) : (modCtx s f).droves = s.droves := rfl
@[simp] theorem modCtx_swapped (s : State) (f : Context → Context) : (modCtx s f).swapped = s.swapped := rfl
@[simp] theorem modCtx_collCounts (s : State) (f : Context → Context) : (modCtx s f).collCounts = s.collCounts := rfl
@[simp] theorem modCtx_collGone (s : State) (f : Context → Context) : (modCtx s f).collGone = s.collGone := rfl
@[simp] theorem modCtx_bindings (s : State) (f : Context → Context) : (modCtx s f).bindings = s.bindings := rfl
@[simp] theorem modCtx_reeves (s : State) (f : Context → Context) : (modCtx s f).reeves = s.reeves := rfl
@[simp] theorem modCtx_reeveNow (s : State) (f : Context → Context) : (modCtx s f).reeveNow = s.reeveNow := rfl
@[simp] theorem modCtx_offers (s : State) (f : Context → Context) : (modCtx s f).offers = s.offers := rfl
@[simp] theorem modCtx_links (s : State) (f : Context → Context) : (modCtx s f).links = s.links := rfl
@[simp] theorem modCtx_linkCtl (s : State) (f : Context → Context) : (modCtx s f).linkCtl = s.linkCtl := rfl
@[simp] theorem modCtx_mgmt (s : State) (f : Context → Context) : (modCtx s f).mgmt = s.mgmt := rfl
@[simp] theorem modCtx_frings (s : State) (f : Context → Context) : (modCtx s f).frings = s.frings := rfl
@[simp] theorem modCtx_msix (s : State) (f : Context → Context) : (modCtx s f).msix = s.msix := rfl
@[simp] theorem modCtx_msixMask (s : State) (f : Context → Context) : (modCtx s f).msixMask = s.msixMask := rfl
@[simp] theorem modCtx_msixPend (s : State) (f : Context → Context) : (modCtx s f).msixPend = s.msixPend := rfl
@[simp] theorem modCtx_spdm (s : State) (f : Context → Context) : (modCtx s f).spdm = s.spdm := rfl
@[simp] theorem modCtx_answer (s : State) (f : Context → Context) : (modCtx s f).answer = s.answer := rfl
@[simp] theorem modCtx_fuseKey (s : State) (f : Context → Context) : (modCtx s f).fuseKey = s.fuseKey := rfl
@[simp] theorem modCtx_fuseVersion (s : State) (f : Context → Context) : (modCtx s f).fuseVersion = s.fuseVersion := rfl
@[simp] theorem modCtx_recovery (s : State) (f : Context → Context) : (modCtx s f).recovery = s.recovery := rfl
@[simp] theorem modCtx_found (s : State) (f : Context → Context) : (modCtx s f).found = s.found := rfl
@[simp] theorem modCtx_launchReg (s : State) (f : Context → Context) : (modCtx s f).launchReg = s.launchReg := rfl
@[simp] theorem modCtx_allotReg (s : State) (f : Context → Context) : (modCtx s f).allotReg = s.allotReg := rfl
@[simp] theorem modCtx_fringReg (s : State) (f : Context → Context) : (modCtx s f).fringReg = s.fringReg := rfl
@[simp] theorem modCtx_reportedFailed (s : State) (f : Context → Context) : (modCtx s f).reportedFailed = s.reportedFailed := rfl
@[simp] theorem modCtx_agenda (s : State) (f : Context → Context) : (modCtx s f).agenda = s.agenda := rfl
@[simp] theorem modCtx_later (s : State) (f : Context → Context) : (modCtx s f).later = s.later := rfl
@[simp] theorem modCtx_oneCycle (s : State) (f : Context → Context) : (modCtx s f).oneCycle = s.oneCycle := rfl
@[simp] theorem modCtx_dueBars (s : State) (f : Context → Context) : (modCtx s f).dueBars = s.dueBars := rfl
@[simp] theorem modCtx_cycleCores (s : State) (f : Context → Context) : (modCtx s f).cycleCores = s.cycleCores := rfl
@[simp] theorem modCtx_fresh (s : State) (f : Context → Context) : (modCtx s f).fresh = s.fresh := rfl
@[simp] theorem modCtx_clock (s : State) (f : Context → Context) : (modCtx s f).clock = s.clock := rfl

/-! modCore. -/

@[simp] theorem modCore_part (s : State) (f : Core → Core) : (modCore s f).part = s.part := rfl
@[simp] theorem modCore_caps (s : State) (f : Core → Core) : (modCore s f).caps = s.caps := rfl
@[simp] theorem modCore_pkgId (s : State) (f : Core → Core) : (modCore s f).pkgId = s.pkgId := rfl
@[simp] theorem modCore_held (s : State) (f : Core → Core) : (modCore s f).held = s.held := rfl
@[simp] theorem modCore_mem (s : State) (f : Core → Core) : (modCore s f).mem = s.mem := rfl
@[simp] theorem modCore_badLines (s : State) (f : Core → Core) : (modCore s f).badLines = s.badLines := rfl
@[simp] theorem modCore_heldBytes (s : State) (f : Core → Core) : (modCore s f).heldBytes = s.heldBytes := rfl
@[simp] theorem modCore_copies (s : State) (f : Core → Core) : (modCore s f).copies = s.copies := rfl
@[simp] theorem modCore_roots (s : State) (f : Core → Core) : (modCore s f).roots = s.roots := rfl
@[simp] theorem modCore_others (s : State) (f : Core → Core) : (modCore s f).others = s.others := rfl
@[simp] theorem modCore_netBars (s : State) (f : Core → Core) : (modCore s f).netBars = s.netBars := rfl
@[simp] theorem modCore_podWaits (s : State) (f : Core → Core) : (modCore s f).podWaits = s.podWaits := rfl
@[simp] theorem modCore_podParks (s : State) (f : Core → Core) : (modCore s f).podParks = s.podParks := rfl
@[simp] theorem modCore_allots (s : State) (f : Core → Core) : (modCore s f).allots = s.allots := rfl
@[simp] theorem modCore_reds (s : State) (f : Core → Core) : (modCore s f).reds = s.reds := rfl
@[simp] theorem modCore_heldSignals (s : State) (f : Core → Core) : (modCore s f).heldSignals = s.heldSignals := rfl
@[simp] theorem modCore_kernels (s : State) (f : Core → Core) : (modCore s f).kernels = s.kernels := rfl
@[simp] theorem modCore_kserial (s : State) (f : Core → Core) : (modCore s f).kserial = s.kserial := rfl
@[simp] theorem modCore_order (s : State) (f : Core → Core) : (modCore s f).order = s.order := rfl
@[simp] theorem modCore_pageCtl (s : State) (f : Core → Core) : (modCore s f).pageCtl = s.pageCtl := rfl
@[simp] theorem modCore_promos (s : State) (f : Core → Core) : (modCore s f).promos = s.promos := rfl
@[simp] theorem modCore_shoots (s : State) (f : Core → Core) : (modCore s f).shoots = s.shoots := rfl
@[simp] theorem modCore_windows (s : State) (f : Core → Core) : (modCore s f).windows = s.windows := rfl
@[simp] theorem modCore_sched (s : State) (f : Core → Core) : (modCore s f).sched = s.sched := rfl
@[simp] theorem modCore_hearth (s : State) (f : Core → Core) : (modCore s f).hearth = s.hearth := rfl
@[simp] theorem modCore_streams (s : State) (f : Core → Core) : (modCore s f).streams = s.streams := rfl
@[simp] theorem modCore_streamOps (s : State) (f : Core → Core) : (modCore s f).streamOps = s.streamOps := rfl
@[simp] theorem modCore_arms (s : State) (f : Core → Core) : (modCore s f).arms = s.arms := rfl
@[simp] theorem modCore_quesarBase (s : State) (f : Core → Core) : (modCore s f).quesarBase = s.quesarBase := rfl
@[simp] theorem modCore_droves (s : State) (f : Core → Core) : (modCore s f).droves = s.droves := rfl
@[simp] theorem modCore_swapped (s : State) (f : Core → Core) : (modCore s f).swapped = s.swapped := rfl
@[simp] theorem modCore_collCounts (s : State) (f : Core → Core) : (modCore s f).collCounts = s.collCounts := rfl
@[simp] theorem modCore_collGone (s : State) (f : Core → Core) : (modCore s f).collGone = s.collGone := rfl
@[simp] theorem modCore_bindings (s : State) (f : Core → Core) : (modCore s f).bindings = s.bindings := rfl
@[simp] theorem modCore_reeves (s : State) (f : Core → Core) : (modCore s f).reeves = s.reeves := rfl
@[simp] theorem modCore_reeveNow (s : State) (f : Core → Core) : (modCore s f).reeveNow = s.reeveNow := rfl
@[simp] theorem modCore_offers (s : State) (f : Core → Core) : (modCore s f).offers = s.offers := rfl
@[simp] theorem modCore_links (s : State) (f : Core → Core) : (modCore s f).links = s.links := rfl
@[simp] theorem modCore_linkCtl (s : State) (f : Core → Core) : (modCore s f).linkCtl = s.linkCtl := rfl
@[simp] theorem modCore_mgmt (s : State) (f : Core → Core) : (modCore s f).mgmt = s.mgmt := rfl
@[simp] theorem modCore_frings (s : State) (f : Core → Core) : (modCore s f).frings = s.frings := rfl
@[simp] theorem modCore_msix (s : State) (f : Core → Core) : (modCore s f).msix = s.msix := rfl
@[simp] theorem modCore_msixMask (s : State) (f : Core → Core) : (modCore s f).msixMask = s.msixMask := rfl
@[simp] theorem modCore_msixPend (s : State) (f : Core → Core) : (modCore s f).msixPend = s.msixPend := rfl
@[simp] theorem modCore_spdm (s : State) (f : Core → Core) : (modCore s f).spdm = s.spdm := rfl
@[simp] theorem modCore_answer (s : State) (f : Core → Core) : (modCore s f).answer = s.answer := rfl
@[simp] theorem modCore_fuseKey (s : State) (f : Core → Core) : (modCore s f).fuseKey = s.fuseKey := rfl
@[simp] theorem modCore_fuseVersion (s : State) (f : Core → Core) : (modCore s f).fuseVersion = s.fuseVersion := rfl
@[simp] theorem modCore_recovery (s : State) (f : Core → Core) : (modCore s f).recovery = s.recovery := rfl
@[simp] theorem modCore_found (s : State) (f : Core → Core) : (modCore s f).found = s.found := rfl
@[simp] theorem modCore_launchReg (s : State) (f : Core → Core) : (modCore s f).launchReg = s.launchReg := rfl
@[simp] theorem modCore_allotReg (s : State) (f : Core → Core) : (modCore s f).allotReg = s.allotReg := rfl
@[simp] theorem modCore_fringReg (s : State) (f : Core → Core) : (modCore s f).fringReg = s.fringReg := rfl
@[simp] theorem modCore_reportedFailed (s : State) (f : Core → Core) : (modCore s f).reportedFailed = s.reportedFailed := rfl
@[simp] theorem modCore_agenda (s : State) (f : Core → Core) : (modCore s f).agenda = s.agenda := rfl
@[simp] theorem modCore_later (s : State) (f : Core → Core) : (modCore s f).later = s.later := rfl
@[simp] theorem modCore_oneCycle (s : State) (f : Core → Core) : (modCore s f).oneCycle = s.oneCycle := rfl
@[simp] theorem modCore_dueBars (s : State) (f : Core → Core) : (modCore s f).dueBars = s.dueBars := rfl
@[simp] theorem modCore_cycleCores (s : State) (f : Core → Core) : (modCore s f).cycleCores = s.cycleCores := rfl
@[simp] theorem modCore_fresh (s : State) (f : Core → Core) : (modCore s f).fresh = s.fresh := rfl
@[simp] theorem modCore_clock (s : State) (f : Core → Core) : (modCore s f).clock = s.clock := rfl

/-! bumpFresh. -/

@[simp] theorem bumpFresh_part (s : State) : (bumpFresh s).part = s.part := rfl
@[simp] theorem bumpFresh_caps (s : State) : (bumpFresh s).caps = s.caps := rfl
@[simp] theorem bumpFresh_pkgId (s : State) : (bumpFresh s).pkgId = s.pkgId := rfl
@[simp] theorem bumpFresh_held (s : State) : (bumpFresh s).held = s.held := rfl
@[simp] theorem bumpFresh_mem (s : State) : (bumpFresh s).mem = s.mem := rfl
@[simp] theorem bumpFresh_badLines (s : State) : (bumpFresh s).badLines = s.badLines := rfl
@[simp] theorem bumpFresh_heldBytes (s : State) : (bumpFresh s).heldBytes = s.heldBytes := rfl
@[simp] theorem bumpFresh_copies (s : State) : (bumpFresh s).copies = s.copies := rfl
@[simp] theorem bumpFresh_roots (s : State) : (bumpFresh s).roots = s.roots := rfl
@[simp] theorem bumpFresh_core (s : State) : (bumpFresh s).core = s.core := rfl
@[simp] theorem bumpFresh_others (s : State) : (bumpFresh s).others = s.others := rfl
@[simp] theorem bumpFresh_netBars (s : State) : (bumpFresh s).netBars = s.netBars := rfl
@[simp] theorem bumpFresh_podWaits (s : State) : (bumpFresh s).podWaits = s.podWaits := rfl
@[simp] theorem bumpFresh_podParks (s : State) : (bumpFresh s).podParks = s.podParks := rfl
@[simp] theorem bumpFresh_allots (s : State) : (bumpFresh s).allots = s.allots := rfl
@[simp] theorem bumpFresh_reds (s : State) : (bumpFresh s).reds = s.reds := rfl
@[simp] theorem bumpFresh_heldSignals (s : State) : (bumpFresh s).heldSignals = s.heldSignals := rfl
@[simp] theorem bumpFresh_kernels (s : State) : (bumpFresh s).kernels = s.kernels := rfl
@[simp] theorem bumpFresh_kserial (s : State) : (bumpFresh s).kserial = s.kserial := rfl
@[simp] theorem bumpFresh_order (s : State) : (bumpFresh s).order = s.order := rfl
@[simp] theorem bumpFresh_pageCtl (s : State) : (bumpFresh s).pageCtl = s.pageCtl := rfl
@[simp] theorem bumpFresh_promos (s : State) : (bumpFresh s).promos = s.promos := rfl
@[simp] theorem bumpFresh_shoots (s : State) : (bumpFresh s).shoots = s.shoots := rfl
@[simp] theorem bumpFresh_windows (s : State) : (bumpFresh s).windows = s.windows := rfl
@[simp] theorem bumpFresh_sched (s : State) : (bumpFresh s).sched = s.sched := rfl
@[simp] theorem bumpFresh_hearth (s : State) : (bumpFresh s).hearth = s.hearth := rfl
@[simp] theorem bumpFresh_streams (s : State) : (bumpFresh s).streams = s.streams := rfl
@[simp] theorem bumpFresh_streamOps (s : State) : (bumpFresh s).streamOps = s.streamOps := rfl
@[simp] theorem bumpFresh_arms (s : State) : (bumpFresh s).arms = s.arms := rfl
@[simp] theorem bumpFresh_quesarBase (s : State) : (bumpFresh s).quesarBase = s.quesarBase := rfl
@[simp] theorem bumpFresh_droves (s : State) : (bumpFresh s).droves = s.droves := rfl
@[simp] theorem bumpFresh_swapped (s : State) : (bumpFresh s).swapped = s.swapped := rfl
@[simp] theorem bumpFresh_collCounts (s : State) : (bumpFresh s).collCounts = s.collCounts := rfl
@[simp] theorem bumpFresh_collGone (s : State) : (bumpFresh s).collGone = s.collGone := rfl
@[simp] theorem bumpFresh_bindings (s : State) : (bumpFresh s).bindings = s.bindings := rfl
@[simp] theorem bumpFresh_reeves (s : State) : (bumpFresh s).reeves = s.reeves := rfl
@[simp] theorem bumpFresh_reeveNow (s : State) : (bumpFresh s).reeveNow = s.reeveNow := rfl
@[simp] theorem bumpFresh_offers (s : State) : (bumpFresh s).offers = s.offers := rfl
@[simp] theorem bumpFresh_links (s : State) : (bumpFresh s).links = s.links := rfl
@[simp] theorem bumpFresh_linkCtl (s : State) : (bumpFresh s).linkCtl = s.linkCtl := rfl
@[simp] theorem bumpFresh_mgmt (s : State) : (bumpFresh s).mgmt = s.mgmt := rfl
@[simp] theorem bumpFresh_frings (s : State) : (bumpFresh s).frings = s.frings := rfl
@[simp] theorem bumpFresh_msix (s : State) : (bumpFresh s).msix = s.msix := rfl
@[simp] theorem bumpFresh_msixMask (s : State) : (bumpFresh s).msixMask = s.msixMask := rfl
@[simp] theorem bumpFresh_msixPend (s : State) : (bumpFresh s).msixPend = s.msixPend := rfl
@[simp] theorem bumpFresh_spdm (s : State) : (bumpFresh s).spdm = s.spdm := rfl
@[simp] theorem bumpFresh_answer (s : State) : (bumpFresh s).answer = s.answer := rfl
@[simp] theorem bumpFresh_fuseKey (s : State) : (bumpFresh s).fuseKey = s.fuseKey := rfl
@[simp] theorem bumpFresh_fuseVersion (s : State) : (bumpFresh s).fuseVersion = s.fuseVersion := rfl
@[simp] theorem bumpFresh_recovery (s : State) : (bumpFresh s).recovery = s.recovery := rfl
@[simp] theorem bumpFresh_found (s : State) : (bumpFresh s).found = s.found := rfl
@[simp] theorem bumpFresh_launchReg (s : State) : (bumpFresh s).launchReg = s.launchReg := rfl
@[simp] theorem bumpFresh_allotReg (s : State) : (bumpFresh s).allotReg = s.allotReg := rfl
@[simp] theorem bumpFresh_fringReg (s : State) : (bumpFresh s).fringReg = s.fringReg := rfl
@[simp] theorem bumpFresh_reportedFailed (s : State) : (bumpFresh s).reportedFailed = s.reportedFailed := rfl
@[simp] theorem bumpFresh_agenda (s : State) : (bumpFresh s).agenda = s.agenda := rfl
@[simp] theorem bumpFresh_later (s : State) : (bumpFresh s).later = s.later := rfl
@[simp] theorem bumpFresh_oneCycle (s : State) : (bumpFresh s).oneCycle = s.oneCycle := rfl
@[simp] theorem bumpFresh_dueBars (s : State) : (bumpFresh s).dueBars = s.dueBars := rfl
@[simp] theorem bumpFresh_cycleCores (s : State) : (bumpFresh s).cycleCores = s.cycleCores := rfl
@[simp] theorem bumpFresh_clock (s : State) : (bumpFresh s).clock = s.clock := rfl

/-! raiseMsix. -/

@[simp] theorem raiseMsix_part (s : State) (fn vec : Nat) : (raiseMsix s fn vec).part = s.part := rfl
@[simp] theorem raiseMsix_caps (s : State) (fn vec : Nat) : (raiseMsix s fn vec).caps = s.caps := rfl
@[simp] theorem raiseMsix_pkgId (s : State) (fn vec : Nat) : (raiseMsix s fn vec).pkgId = s.pkgId := rfl
@[simp] theorem raiseMsix_held (s : State) (fn vec : Nat) : (raiseMsix s fn vec).held = s.held := rfl
@[simp] theorem raiseMsix_mem (s : State) (fn vec : Nat) : (raiseMsix s fn vec).mem = s.mem := rfl
@[simp] theorem raiseMsix_badLines (s : State) (fn vec : Nat) : (raiseMsix s fn vec).badLines = s.badLines := rfl
@[simp] theorem raiseMsix_heldBytes (s : State) (fn vec : Nat) : (raiseMsix s fn vec).heldBytes = s.heldBytes := rfl
@[simp] theorem raiseMsix_copies (s : State) (fn vec : Nat) : (raiseMsix s fn vec).copies = s.copies := rfl
@[simp] theorem raiseMsix_roots (s : State) (fn vec : Nat) : (raiseMsix s fn vec).roots = s.roots := rfl
@[simp] theorem raiseMsix_core (s : State) (fn vec : Nat) : (raiseMsix s fn vec).core = s.core := rfl
@[simp] theorem raiseMsix_others (s : State) (fn vec : Nat) : (raiseMsix s fn vec).others = s.others := rfl
@[simp] theorem raiseMsix_netBars (s : State) (fn vec : Nat) : (raiseMsix s fn vec).netBars = s.netBars := rfl
@[simp] theorem raiseMsix_podWaits (s : State) (fn vec : Nat) : (raiseMsix s fn vec).podWaits = s.podWaits := rfl
@[simp] theorem raiseMsix_podParks (s : State) (fn vec : Nat) : (raiseMsix s fn vec).podParks = s.podParks := rfl
@[simp] theorem raiseMsix_allots (s : State) (fn vec : Nat) : (raiseMsix s fn vec).allots = s.allots := rfl
@[simp] theorem raiseMsix_reds (s : State) (fn vec : Nat) : (raiseMsix s fn vec).reds = s.reds := rfl
@[simp] theorem raiseMsix_heldSignals (s : State) (fn vec : Nat) : (raiseMsix s fn vec).heldSignals = s.heldSignals := rfl
@[simp] theorem raiseMsix_kernels (s : State) (fn vec : Nat) : (raiseMsix s fn vec).kernels = s.kernels := rfl
@[simp] theorem raiseMsix_kserial (s : State) (fn vec : Nat) : (raiseMsix s fn vec).kserial = s.kserial := rfl
@[simp] theorem raiseMsix_order (s : State) (fn vec : Nat) : (raiseMsix s fn vec).order = s.order := rfl
@[simp] theorem raiseMsix_pageCtl (s : State) (fn vec : Nat) : (raiseMsix s fn vec).pageCtl = s.pageCtl := rfl
@[simp] theorem raiseMsix_promos (s : State) (fn vec : Nat) : (raiseMsix s fn vec).promos = s.promos := rfl
@[simp] theorem raiseMsix_shoots (s : State) (fn vec : Nat) : (raiseMsix s fn vec).shoots = s.shoots := rfl
@[simp] theorem raiseMsix_windows (s : State) (fn vec : Nat) : (raiseMsix s fn vec).windows = s.windows := rfl
@[simp] theorem raiseMsix_sched (s : State) (fn vec : Nat) : (raiseMsix s fn vec).sched = s.sched := rfl
@[simp] theorem raiseMsix_hearth (s : State) (fn vec : Nat) : (raiseMsix s fn vec).hearth = s.hearth := rfl
@[simp] theorem raiseMsix_streams (s : State) (fn vec : Nat) : (raiseMsix s fn vec).streams = s.streams := rfl
@[simp] theorem raiseMsix_streamOps (s : State) (fn vec : Nat) : (raiseMsix s fn vec).streamOps = s.streamOps := rfl
@[simp] theorem raiseMsix_arms (s : State) (fn vec : Nat) : (raiseMsix s fn vec).arms = s.arms := rfl
@[simp] theorem raiseMsix_quesarBase (s : State) (fn vec : Nat) : (raiseMsix s fn vec).quesarBase = s.quesarBase := rfl
@[simp] theorem raiseMsix_droves (s : State) (fn vec : Nat) : (raiseMsix s fn vec).droves = s.droves := rfl
@[simp] theorem raiseMsix_swapped (s : State) (fn vec : Nat) : (raiseMsix s fn vec).swapped = s.swapped := rfl
@[simp] theorem raiseMsix_collCounts (s : State) (fn vec : Nat) : (raiseMsix s fn vec).collCounts = s.collCounts := rfl
@[simp] theorem raiseMsix_collGone (s : State) (fn vec : Nat) : (raiseMsix s fn vec).collGone = s.collGone := rfl
@[simp] theorem raiseMsix_bindings (s : State) (fn vec : Nat) : (raiseMsix s fn vec).bindings = s.bindings := rfl
@[simp] theorem raiseMsix_reeves (s : State) (fn vec : Nat) : (raiseMsix s fn vec).reeves = s.reeves := rfl
@[simp] theorem raiseMsix_reeveNow (s : State) (fn vec : Nat) : (raiseMsix s fn vec).reeveNow = s.reeveNow := rfl
@[simp] theorem raiseMsix_offers (s : State) (fn vec : Nat) : (raiseMsix s fn vec).offers = s.offers := rfl
@[simp] theorem raiseMsix_links (s : State) (fn vec : Nat) : (raiseMsix s fn vec).links = s.links := rfl
@[simp] theorem raiseMsix_linkCtl (s : State) (fn vec : Nat) : (raiseMsix s fn vec).linkCtl = s.linkCtl := rfl
@[simp] theorem raiseMsix_mgmt (s : State) (fn vec : Nat) : (raiseMsix s fn vec).mgmt = s.mgmt := rfl
@[simp] theorem raiseMsix_frings (s : State) (fn vec : Nat) : (raiseMsix s fn vec).frings = s.frings := rfl
@[simp] theorem raiseMsix_msixMask (s : State) (fn vec : Nat) : (raiseMsix s fn vec).msixMask = s.msixMask := rfl
@[simp] theorem raiseMsix_spdm (s : State) (fn vec : Nat) : (raiseMsix s fn vec).spdm = s.spdm := rfl
@[simp] theorem raiseMsix_answer (s : State) (fn vec : Nat) : (raiseMsix s fn vec).answer = s.answer := rfl
@[simp] theorem raiseMsix_fuseKey (s : State) (fn vec : Nat) : (raiseMsix s fn vec).fuseKey = s.fuseKey := rfl
@[simp] theorem raiseMsix_fuseVersion (s : State) (fn vec : Nat) : (raiseMsix s fn vec).fuseVersion = s.fuseVersion := rfl
@[simp] theorem raiseMsix_recovery (s : State) (fn vec : Nat) : (raiseMsix s fn vec).recovery = s.recovery := rfl
@[simp] theorem raiseMsix_found (s : State) (fn vec : Nat) : (raiseMsix s fn vec).found = s.found := rfl
@[simp] theorem raiseMsix_launchReg (s : State) (fn vec : Nat) : (raiseMsix s fn vec).launchReg = s.launchReg := rfl
@[simp] theorem raiseMsix_allotReg (s : State) (fn vec : Nat) : (raiseMsix s fn vec).allotReg = s.allotReg := rfl
@[simp] theorem raiseMsix_fringReg (s : State) (fn vec : Nat) : (raiseMsix s fn vec).fringReg = s.fringReg := rfl
@[simp] theorem raiseMsix_reportedFailed (s : State) (fn vec : Nat) : (raiseMsix s fn vec).reportedFailed = s.reportedFailed := rfl
@[simp] theorem raiseMsix_agenda (s : State) (fn vec : Nat) : (raiseMsix s fn vec).agenda = s.agenda := rfl
@[simp] theorem raiseMsix_later (s : State) (fn vec : Nat) : (raiseMsix s fn vec).later = s.later := rfl
@[simp] theorem raiseMsix_oneCycle (s : State) (fn vec : Nat) : (raiseMsix s fn vec).oneCycle = s.oneCycle := rfl
@[simp] theorem raiseMsix_dueBars (s : State) (fn vec : Nat) : (raiseMsix s fn vec).dueBars = s.dueBars := rfl
@[simp] theorem raiseMsix_cycleCores (s : State) (fn vec : Nat) : (raiseMsix s fn vec).cycleCores = s.cycleCores := rfl
@[simp] theorem raiseMsix_fresh (s : State) (fn vec : Nat) : (raiseMsix s fn vec).fresh = s.fresh := rfl
@[simp] theorem raiseMsix_clock (s : State) (fn vec : Nat) : (raiseMsix s fn vec).clock = s.clock := rfl

/-! modKernel. -/

@[simp] theorem modKernel_part (s : State) (id : Word) (f : KEntry → KEntry) : (modKernel s id f).part = s.part := rfl
@[simp] theorem modKernel_caps (s : State) (id : Word) (f : KEntry → KEntry) : (modKernel s id f).caps = s.caps := rfl
@[simp] theorem modKernel_pkgId (s : State) (id : Word) (f : KEntry → KEntry) : (modKernel s id f).pkgId = s.pkgId := rfl
@[simp] theorem modKernel_held (s : State) (id : Word) (f : KEntry → KEntry) : (modKernel s id f).held = s.held := rfl
@[simp] theorem modKernel_mem (s : State) (id : Word) (f : KEntry → KEntry) : (modKernel s id f).mem = s.mem := rfl
@[simp] theorem modKernel_badLines (s : State) (id : Word) (f : KEntry → KEntry) : (modKernel s id f).badLines = s.badLines := rfl
@[simp] theorem modKernel_heldBytes (s : State) (id : Word) (f : KEntry → KEntry) : (modKernel s id f).heldBytes = s.heldBytes := rfl
@[simp] theorem modKernel_copies (s : State) (id : Word) (f : KEntry → KEntry) : (modKernel s id f).copies = s.copies := rfl
@[simp] theorem modKernel_roots (s : State) (id : Word) (f : KEntry → KEntry) : (modKernel s id f).roots = s.roots := rfl
@[simp] theorem modKernel_core (s : State) (id : Word) (f : KEntry → KEntry) : (modKernel s id f).core = s.core := rfl
@[simp] theorem modKernel_others (s : State) (id : Word) (f : KEntry → KEntry) : (modKernel s id f).others = s.others := rfl
@[simp] theorem modKernel_netBars (s : State) (id : Word) (f : KEntry → KEntry) : (modKernel s id f).netBars = s.netBars := rfl
@[simp] theorem modKernel_podWaits (s : State) (id : Word) (f : KEntry → KEntry) : (modKernel s id f).podWaits = s.podWaits := rfl
@[simp] theorem modKernel_podParks (s : State) (id : Word) (f : KEntry → KEntry) : (modKernel s id f).podParks = s.podParks := rfl
@[simp] theorem modKernel_allots (s : State) (id : Word) (f : KEntry → KEntry) : (modKernel s id f).allots = s.allots := rfl
@[simp] theorem modKernel_reds (s : State) (id : Word) (f : KEntry → KEntry) : (modKernel s id f).reds = s.reds := rfl
@[simp] theorem modKernel_heldSignals (s : State) (id : Word) (f : KEntry → KEntry) : (modKernel s id f).heldSignals = s.heldSignals := rfl
@[simp] theorem modKernel_kserial (s : State) (id : Word) (f : KEntry → KEntry) : (modKernel s id f).kserial = s.kserial := rfl
@[simp] theorem modKernel_order (s : State) (id : Word) (f : KEntry → KEntry) : (modKernel s id f).order = s.order := rfl
@[simp] theorem modKernel_pageCtl (s : State) (id : Word) (f : KEntry → KEntry) : (modKernel s id f).pageCtl = s.pageCtl := rfl
@[simp] theorem modKernel_promos (s : State) (id : Word) (f : KEntry → KEntry) : (modKernel s id f).promos = s.promos := rfl
@[simp] theorem modKernel_shoots (s : State) (id : Word) (f : KEntry → KEntry) : (modKernel s id f).shoots = s.shoots := rfl
@[simp] theorem modKernel_windows (s : State) (id : Word) (f : KEntry → KEntry) : (modKernel s id f).windows = s.windows := rfl
@[simp] theorem modKernel_sched (s : State) (id : Word) (f : KEntry → KEntry) : (modKernel s id f).sched = s.sched := rfl
@[simp] theorem modKernel_hearth (s : State) (id : Word) (f : KEntry → KEntry) : (modKernel s id f).hearth = s.hearth := rfl
@[simp] theorem modKernel_streams (s : State) (id : Word) (f : KEntry → KEntry) : (modKernel s id f).streams = s.streams := rfl
@[simp] theorem modKernel_streamOps (s : State) (id : Word) (f : KEntry → KEntry) : (modKernel s id f).streamOps = s.streamOps := rfl
@[simp] theorem modKernel_arms (s : State) (id : Word) (f : KEntry → KEntry) : (modKernel s id f).arms = s.arms := rfl
@[simp] theorem modKernel_quesarBase (s : State) (id : Word) (f : KEntry → KEntry) : (modKernel s id f).quesarBase = s.quesarBase := rfl
@[simp] theorem modKernel_droves (s : State) (id : Word) (f : KEntry → KEntry) : (modKernel s id f).droves = s.droves := rfl
@[simp] theorem modKernel_swapped (s : State) (id : Word) (f : KEntry → KEntry) : (modKernel s id f).swapped = s.swapped := rfl
@[simp] theorem modKernel_collCounts (s : State) (id : Word) (f : KEntry → KEntry) : (modKernel s id f).collCounts = s.collCounts := rfl
@[simp] theorem modKernel_collGone (s : State) (id : Word) (f : KEntry → KEntry) : (modKernel s id f).collGone = s.collGone := rfl
@[simp] theorem modKernel_bindings (s : State) (id : Word) (f : KEntry → KEntry) : (modKernel s id f).bindings = s.bindings := rfl
@[simp] theorem modKernel_reeves (s : State) (id : Word) (f : KEntry → KEntry) : (modKernel s id f).reeves = s.reeves := rfl
@[simp] theorem modKernel_reeveNow (s : State) (id : Word) (f : KEntry → KEntry) : (modKernel s id f).reeveNow = s.reeveNow := rfl
@[simp] theorem modKernel_offers (s : State) (id : Word) (f : KEntry → KEntry) : (modKernel s id f).offers = s.offers := rfl
@[simp] theorem modKernel_links (s : State) (id : Word) (f : KEntry → KEntry) : (modKernel s id f).links = s.links := rfl
@[simp] theorem modKernel_linkCtl (s : State) (id : Word) (f : KEntry → KEntry) : (modKernel s id f).linkCtl = s.linkCtl := rfl
@[simp] theorem modKernel_mgmt (s : State) (id : Word) (f : KEntry → KEntry) : (modKernel s id f).mgmt = s.mgmt := rfl
@[simp] theorem modKernel_frings (s : State) (id : Word) (f : KEntry → KEntry) : (modKernel s id f).frings = s.frings := rfl
@[simp] theorem modKernel_msix (s : State) (id : Word) (f : KEntry → KEntry) : (modKernel s id f).msix = s.msix := rfl
@[simp] theorem modKernel_msixMask (s : State) (id : Word) (f : KEntry → KEntry) : (modKernel s id f).msixMask = s.msixMask := rfl
@[simp] theorem modKernel_msixPend (s : State) (id : Word) (f : KEntry → KEntry) : (modKernel s id f).msixPend = s.msixPend := rfl
@[simp] theorem modKernel_spdm (s : State) (id : Word) (f : KEntry → KEntry) : (modKernel s id f).spdm = s.spdm := rfl
@[simp] theorem modKernel_answer (s : State) (id : Word) (f : KEntry → KEntry) : (modKernel s id f).answer = s.answer := rfl
@[simp] theorem modKernel_fuseKey (s : State) (id : Word) (f : KEntry → KEntry) : (modKernel s id f).fuseKey = s.fuseKey := rfl
@[simp] theorem modKernel_fuseVersion (s : State) (id : Word) (f : KEntry → KEntry) : (modKernel s id f).fuseVersion = s.fuseVersion := rfl
@[simp] theorem modKernel_recovery (s : State) (id : Word) (f : KEntry → KEntry) : (modKernel s id f).recovery = s.recovery := rfl
@[simp] theorem modKernel_found (s : State) (id : Word) (f : KEntry → KEntry) : (modKernel s id f).found = s.found := rfl
@[simp] theorem modKernel_launchReg (s : State) (id : Word) (f : KEntry → KEntry) : (modKernel s id f).launchReg = s.launchReg := rfl
@[simp] theorem modKernel_allotReg (s : State) (id : Word) (f : KEntry → KEntry) : (modKernel s id f).allotReg = s.allotReg := rfl
@[simp] theorem modKernel_fringReg (s : State) (id : Word) (f : KEntry → KEntry) : (modKernel s id f).fringReg = s.fringReg := rfl
@[simp] theorem modKernel_reportedFailed (s : State) (id : Word) (f : KEntry → KEntry) : (modKernel s id f).reportedFailed = s.reportedFailed := rfl
@[simp] theorem modKernel_agenda (s : State) (id : Word) (f : KEntry → KEntry) : (modKernel s id f).agenda = s.agenda := rfl
@[simp] theorem modKernel_later (s : State) (id : Word) (f : KEntry → KEntry) : (modKernel s id f).later = s.later := rfl
@[simp] theorem modKernel_oneCycle (s : State) (id : Word) (f : KEntry → KEntry) : (modKernel s id f).oneCycle = s.oneCycle := rfl
@[simp] theorem modKernel_dueBars (s : State) (id : Word) (f : KEntry → KEntry) : (modKernel s id f).dueBars = s.dueBars := rfl
@[simp] theorem modKernel_cycleCores (s : State) (id : Word) (f : KEntry → KEntry) : (modKernel s id f).cycleCores = s.cycleCores := rfl
@[simp] theorem modKernel_fresh (s : State) (id : Word) (f : KEntry → KEntry) : (modKernel s id f).fresh = s.fresh := rfl
@[simp] theorem modKernel_clock (s : State) (id : Word) (f : KEntry → KEntry) : (modKernel s id f).clock = s.clock := rfl

/-! mapCores. -/

@[simp] theorem mapCores_part (s : State) (f : Core → Core) : (mapCores s f).part = s.part := rfl
@[simp] theorem mapCores_caps (s : State) (f : Core → Core) : (mapCores s f).caps = s.caps := rfl
@[simp] theorem mapCores_pkgId (s : State) (f : Core → Core) : (mapCores s f).pkgId = s.pkgId := rfl
@[simp] theorem mapCores_held (s : State) (f : Core → Core) : (mapCores s f).held = s.held := rfl
@[simp] theorem mapCores_mem (s : State) (f : Core → Core) : (mapCores s f).mem = s.mem := rfl
@[simp] theorem mapCores_badLines (s : State) (f : Core → Core) : (mapCores s f).badLines = s.badLines := rfl
@[simp] theorem mapCores_heldBytes (s : State) (f : Core → Core) : (mapCores s f).heldBytes = s.heldBytes := rfl
@[simp] theorem mapCores_copies (s : State) (f : Core → Core) : (mapCores s f).copies = s.copies := rfl
@[simp] theorem mapCores_roots (s : State) (f : Core → Core) : (mapCores s f).roots = s.roots := rfl
@[simp] theorem mapCores_netBars (s : State) (f : Core → Core) : (mapCores s f).netBars = s.netBars := rfl
@[simp] theorem mapCores_podWaits (s : State) (f : Core → Core) : (mapCores s f).podWaits = s.podWaits := rfl
@[simp] theorem mapCores_podParks (s : State) (f : Core → Core) : (mapCores s f).podParks = s.podParks := rfl
@[simp] theorem mapCores_allots (s : State) (f : Core → Core) : (mapCores s f).allots = s.allots := rfl
@[simp] theorem mapCores_reds (s : State) (f : Core → Core) : (mapCores s f).reds = s.reds := rfl
@[simp] theorem mapCores_heldSignals (s : State) (f : Core → Core) : (mapCores s f).heldSignals = s.heldSignals := rfl
@[simp] theorem mapCores_kernels (s : State) (f : Core → Core) : (mapCores s f).kernels = s.kernels := rfl
@[simp] theorem mapCores_kserial (s : State) (f : Core → Core) : (mapCores s f).kserial = s.kserial := rfl
@[simp] theorem mapCores_order (s : State) (f : Core → Core) : (mapCores s f).order = s.order := rfl
@[simp] theorem mapCores_pageCtl (s : State) (f : Core → Core) : (mapCores s f).pageCtl = s.pageCtl := rfl
@[simp] theorem mapCores_promos (s : State) (f : Core → Core) : (mapCores s f).promos = s.promos := rfl
@[simp] theorem mapCores_shoots (s : State) (f : Core → Core) : (mapCores s f).shoots = s.shoots := rfl
@[simp] theorem mapCores_windows (s : State) (f : Core → Core) : (mapCores s f).windows = s.windows := rfl
@[simp] theorem mapCores_sched (s : State) (f : Core → Core) : (mapCores s f).sched = s.sched := rfl
@[simp] theorem mapCores_hearth (s : State) (f : Core → Core) : (mapCores s f).hearth = s.hearth := rfl
@[simp] theorem mapCores_streams (s : State) (f : Core → Core) : (mapCores s f).streams = s.streams := rfl
@[simp] theorem mapCores_streamOps (s : State) (f : Core → Core) : (mapCores s f).streamOps = s.streamOps := rfl
@[simp] theorem mapCores_arms (s : State) (f : Core → Core) : (mapCores s f).arms = s.arms := rfl
@[simp] theorem mapCores_quesarBase (s : State) (f : Core → Core) : (mapCores s f).quesarBase = s.quesarBase := rfl
@[simp] theorem mapCores_droves (s : State) (f : Core → Core) : (mapCores s f).droves = s.droves := rfl
@[simp] theorem mapCores_swapped (s : State) (f : Core → Core) : (mapCores s f).swapped = s.swapped := rfl
@[simp] theorem mapCores_collCounts (s : State) (f : Core → Core) : (mapCores s f).collCounts = s.collCounts := rfl
@[simp] theorem mapCores_collGone (s : State) (f : Core → Core) : (mapCores s f).collGone = s.collGone := rfl
@[simp] theorem mapCores_bindings (s : State) (f : Core → Core) : (mapCores s f).bindings = s.bindings := rfl
@[simp] theorem mapCores_reeves (s : State) (f : Core → Core) : (mapCores s f).reeves = s.reeves := rfl
@[simp] theorem mapCores_reeveNow (s : State) (f : Core → Core) : (mapCores s f).reeveNow = s.reeveNow := rfl
@[simp] theorem mapCores_offers (s : State) (f : Core → Core) : (mapCores s f).offers = s.offers := rfl
@[simp] theorem mapCores_links (s : State) (f : Core → Core) : (mapCores s f).links = s.links := rfl
@[simp] theorem mapCores_linkCtl (s : State) (f : Core → Core) : (mapCores s f).linkCtl = s.linkCtl := rfl
@[simp] theorem mapCores_mgmt (s : State) (f : Core → Core) : (mapCores s f).mgmt = s.mgmt := rfl
@[simp] theorem mapCores_frings (s : State) (f : Core → Core) : (mapCores s f).frings = s.frings := rfl
@[simp] theorem mapCores_msix (s : State) (f : Core → Core) : (mapCores s f).msix = s.msix := rfl
@[simp] theorem mapCores_msixMask (s : State) (f : Core → Core) : (mapCores s f).msixMask = s.msixMask := rfl
@[simp] theorem mapCores_msixPend (s : State) (f : Core → Core) : (mapCores s f).msixPend = s.msixPend := rfl
@[simp] theorem mapCores_spdm (s : State) (f : Core → Core) : (mapCores s f).spdm = s.spdm := rfl
@[simp] theorem mapCores_answer (s : State) (f : Core → Core) : (mapCores s f).answer = s.answer := rfl
@[simp] theorem mapCores_fuseKey (s : State) (f : Core → Core) : (mapCores s f).fuseKey = s.fuseKey := rfl
@[simp] theorem mapCores_fuseVersion (s : State) (f : Core → Core) : (mapCores s f).fuseVersion = s.fuseVersion := rfl
@[simp] theorem mapCores_recovery (s : State) (f : Core → Core) : (mapCores s f).recovery = s.recovery := rfl
@[simp] theorem mapCores_found (s : State) (f : Core → Core) : (mapCores s f).found = s.found := rfl
@[simp] theorem mapCores_launchReg (s : State) (f : Core → Core) : (mapCores s f).launchReg = s.launchReg := rfl
@[simp] theorem mapCores_allotReg (s : State) (f : Core → Core) : (mapCores s f).allotReg = s.allotReg := rfl
@[simp] theorem mapCores_fringReg (s : State) (f : Core → Core) : (mapCores s f).fringReg = s.fringReg := rfl
@[simp] theorem mapCores_reportedFailed (s : State) (f : Core → Core) : (mapCores s f).reportedFailed = s.reportedFailed := rfl
@[simp] theorem mapCores_agenda (s : State) (f : Core → Core) : (mapCores s f).agenda = s.agenda := rfl
@[simp] theorem mapCores_later (s : State) (f : Core → Core) : (mapCores s f).later = s.later := rfl
@[simp] theorem mapCores_oneCycle (s : State) (f : Core → Core) : (mapCores s f).oneCycle = s.oneCycle := rfl
@[simp] theorem mapCores_dueBars (s : State) (f : Core → Core) : (mapCores s f).dueBars = s.dueBars := rfl
@[simp] theorem mapCores_cycleCores (s : State) (f : Core → Core) : (mapCores s f).cycleCores = s.cycleCores := rfl
@[simp] theorem mapCores_fresh (s : State) (f : Core → Core) : (mapCores s f).fresh = s.fresh := rfl
@[simp] theorem mapCores_clock (s : State) (f : Core → Core) : (mapCores s f).clock = s.clock := rfl

/-! setS. -/

@[simp] theorem setS_part (s : State) (r : BitVec 5) (v : Word) : (setS s r v).part = s.part := by unfold setS; split <;> rfl
@[simp] theorem setS_caps (s : State) (r : BitVec 5) (v : Word) : (setS s r v).caps = s.caps := by unfold setS; split <;> rfl
@[simp] theorem setS_pkgId (s : State) (r : BitVec 5) (v : Word) : (setS s r v).pkgId = s.pkgId := by unfold setS; split <;> rfl
@[simp] theorem setS_held (s : State) (r : BitVec 5) (v : Word) : (setS s r v).held = s.held := by unfold setS; split <;> rfl
@[simp] theorem setS_mem (s : State) (r : BitVec 5) (v : Word) : (setS s r v).mem = s.mem := by unfold setS; split <;> rfl
@[simp] theorem setS_badLines (s : State) (r : BitVec 5) (v : Word) : (setS s r v).badLines = s.badLines := by unfold setS; split <;> rfl
@[simp] theorem setS_heldBytes (s : State) (r : BitVec 5) (v : Word) : (setS s r v).heldBytes = s.heldBytes := by unfold setS; split <;> rfl
@[simp] theorem setS_copies (s : State) (r : BitVec 5) (v : Word) : (setS s r v).copies = s.copies := by unfold setS; split <;> rfl
@[simp] theorem setS_roots (s : State) (r : BitVec 5) (v : Word) : (setS s r v).roots = s.roots := by unfold setS; split <;> rfl
@[simp] theorem setS_others (s : State) (r : BitVec 5) (v : Word) : (setS s r v).others = s.others := by unfold setS; split <;> rfl
@[simp] theorem setS_netBars (s : State) (r : BitVec 5) (v : Word) : (setS s r v).netBars = s.netBars := by unfold setS; split <;> rfl
@[simp] theorem setS_podWaits (s : State) (r : BitVec 5) (v : Word) : (setS s r v).podWaits = s.podWaits := by unfold setS; split <;> rfl
@[simp] theorem setS_podParks (s : State) (r : BitVec 5) (v : Word) : (setS s r v).podParks = s.podParks := by unfold setS; split <;> rfl
@[simp] theorem setS_allots (s : State) (r : BitVec 5) (v : Word) : (setS s r v).allots = s.allots := by unfold setS; split <;> rfl
@[simp] theorem setS_reds (s : State) (r : BitVec 5) (v : Word) : (setS s r v).reds = s.reds := by unfold setS; split <;> rfl
@[simp] theorem setS_heldSignals (s : State) (r : BitVec 5) (v : Word) : (setS s r v).heldSignals = s.heldSignals := by unfold setS; split <;> rfl
@[simp] theorem setS_kernels (s : State) (r : BitVec 5) (v : Word) : (setS s r v).kernels = s.kernels := by unfold setS; split <;> rfl
@[simp] theorem setS_kserial (s : State) (r : BitVec 5) (v : Word) : (setS s r v).kserial = s.kserial := by unfold setS; split <;> rfl
@[simp] theorem setS_order (s : State) (r : BitVec 5) (v : Word) : (setS s r v).order = s.order := by unfold setS; split <;> rfl
@[simp] theorem setS_pageCtl (s : State) (r : BitVec 5) (v : Word) : (setS s r v).pageCtl = s.pageCtl := by unfold setS; split <;> rfl
@[simp] theorem setS_promos (s : State) (r : BitVec 5) (v : Word) : (setS s r v).promos = s.promos := by unfold setS; split <;> rfl
@[simp] theorem setS_shoots (s : State) (r : BitVec 5) (v : Word) : (setS s r v).shoots = s.shoots := by unfold setS; split <;> rfl
@[simp] theorem setS_windows (s : State) (r : BitVec 5) (v : Word) : (setS s r v).windows = s.windows := by unfold setS; split <;> rfl
@[simp] theorem setS_sched (s : State) (r : BitVec 5) (v : Word) : (setS s r v).sched = s.sched := by unfold setS; split <;> rfl
@[simp] theorem setS_hearth (s : State) (r : BitVec 5) (v : Word) : (setS s r v).hearth = s.hearth := by unfold setS; split <;> rfl
@[simp] theorem setS_streams (s : State) (r : BitVec 5) (v : Word) : (setS s r v).streams = s.streams := by unfold setS; split <;> rfl
@[simp] theorem setS_streamOps (s : State) (r : BitVec 5) (v : Word) : (setS s r v).streamOps = s.streamOps := by unfold setS; split <;> rfl
@[simp] theorem setS_arms (s : State) (r : BitVec 5) (v : Word) : (setS s r v).arms = s.arms := by unfold setS; split <;> rfl
@[simp] theorem setS_quesarBase (s : State) (r : BitVec 5) (v : Word) : (setS s r v).quesarBase = s.quesarBase := by unfold setS; split <;> rfl
@[simp] theorem setS_droves (s : State) (r : BitVec 5) (v : Word) : (setS s r v).droves = s.droves := by unfold setS; split <;> rfl
@[simp] theorem setS_swapped (s : State) (r : BitVec 5) (v : Word) : (setS s r v).swapped = s.swapped := by unfold setS; split <;> rfl
@[simp] theorem setS_collCounts (s : State) (r : BitVec 5) (v : Word) : (setS s r v).collCounts = s.collCounts := by unfold setS; split <;> rfl
@[simp] theorem setS_collGone (s : State) (r : BitVec 5) (v : Word) : (setS s r v).collGone = s.collGone := by unfold setS; split <;> rfl
@[simp] theorem setS_bindings (s : State) (r : BitVec 5) (v : Word) : (setS s r v).bindings = s.bindings := by unfold setS; split <;> rfl
@[simp] theorem setS_reeves (s : State) (r : BitVec 5) (v : Word) : (setS s r v).reeves = s.reeves := by unfold setS; split <;> rfl
@[simp] theorem setS_reeveNow (s : State) (r : BitVec 5) (v : Word) : (setS s r v).reeveNow = s.reeveNow := by unfold setS; split <;> rfl
@[simp] theorem setS_offers (s : State) (r : BitVec 5) (v : Word) : (setS s r v).offers = s.offers := by unfold setS; split <;> rfl
@[simp] theorem setS_links (s : State) (r : BitVec 5) (v : Word) : (setS s r v).links = s.links := by unfold setS; split <;> rfl
@[simp] theorem setS_linkCtl (s : State) (r : BitVec 5) (v : Word) : (setS s r v).linkCtl = s.linkCtl := by unfold setS; split <;> rfl
@[simp] theorem setS_mgmt (s : State) (r : BitVec 5) (v : Word) : (setS s r v).mgmt = s.mgmt := by unfold setS; split <;> rfl
@[simp] theorem setS_frings (s : State) (r : BitVec 5) (v : Word) : (setS s r v).frings = s.frings := by unfold setS; split <;> rfl
@[simp] theorem setS_msix (s : State) (r : BitVec 5) (v : Word) : (setS s r v).msix = s.msix := by unfold setS; split <;> rfl
@[simp] theorem setS_msixMask (s : State) (r : BitVec 5) (v : Word) : (setS s r v).msixMask = s.msixMask := by unfold setS; split <;> rfl
@[simp] theorem setS_msixPend (s : State) (r : BitVec 5) (v : Word) : (setS s r v).msixPend = s.msixPend := by unfold setS; split <;> rfl
@[simp] theorem setS_spdm (s : State) (r : BitVec 5) (v : Word) : (setS s r v).spdm = s.spdm := by unfold setS; split <;> rfl
@[simp] theorem setS_answer (s : State) (r : BitVec 5) (v : Word) : (setS s r v).answer = s.answer := by unfold setS; split <;> rfl
@[simp] theorem setS_fuseKey (s : State) (r : BitVec 5) (v : Word) : (setS s r v).fuseKey = s.fuseKey := by unfold setS; split <;> rfl
@[simp] theorem setS_fuseVersion (s : State) (r : BitVec 5) (v : Word) : (setS s r v).fuseVersion = s.fuseVersion := by unfold setS; split <;> rfl
@[simp] theorem setS_recovery (s : State) (r : BitVec 5) (v : Word) : (setS s r v).recovery = s.recovery := by unfold setS; split <;> rfl
@[simp] theorem setS_found (s : State) (r : BitVec 5) (v : Word) : (setS s r v).found = s.found := by unfold setS; split <;> rfl
@[simp] theorem setS_launchReg (s : State) (r : BitVec 5) (v : Word) : (setS s r v).launchReg = s.launchReg := by unfold setS; split <;> rfl
@[simp] theorem setS_allotReg (s : State) (r : BitVec 5) (v : Word) : (setS s r v).allotReg = s.allotReg := by unfold setS; split <;> rfl
@[simp] theorem setS_fringReg (s : State) (r : BitVec 5) (v : Word) : (setS s r v).fringReg = s.fringReg := by unfold setS; split <;> rfl
@[simp] theorem setS_reportedFailed (s : State) (r : BitVec 5) (v : Word) : (setS s r v).reportedFailed = s.reportedFailed := by unfold setS; split <;> rfl
@[simp] theorem setS_agenda (s : State) (r : BitVec 5) (v : Word) : (setS s r v).agenda = s.agenda := by unfold setS; split <;> rfl
@[simp] theorem setS_later (s : State) (r : BitVec 5) (v : Word) : (setS s r v).later = s.later := by unfold setS; split <;> rfl
@[simp] theorem setS_oneCycle (s : State) (r : BitVec 5) (v : Word) : (setS s r v).oneCycle = s.oneCycle := by unfold setS; split <;> rfl
@[simp] theorem setS_dueBars (s : State) (r : BitVec 5) (v : Word) : (setS s r v).dueBars = s.dueBars := by unfold setS; split <;> rfl
@[simp] theorem setS_cycleCores (s : State) (r : BitVec 5) (v : Word) : (setS s r v).cycleCores = s.cycleCores := by unfold setS; split <;> rfl
@[simp] theorem setS_fresh (s : State) (r : BitVec 5) (v : Word) : (setS s r v).fresh = s.fresh := by unfold setS; split <;> rfl
@[simp] theorem setS_clock (s : State) (r : BitVec 5) (v : Word) : (setS s r v).clock = s.clock := by unfold setS; split <;> rfl

/-! setP. -/

@[simp] theorem setP_part (s : State) (p : BitVec 3) (v : Bool) : (setP s p v).part = s.part := by unfold setP; split <;> rfl
@[simp] theorem setP_caps (s : State) (p : BitVec 3) (v : Bool) : (setP s p v).caps = s.caps := by unfold setP; split <;> rfl
@[simp] theorem setP_pkgId (s : State) (p : BitVec 3) (v : Bool) : (setP s p v).pkgId = s.pkgId := by unfold setP; split <;> rfl
@[simp] theorem setP_held (s : State) (p : BitVec 3) (v : Bool) : (setP s p v).held = s.held := by unfold setP; split <;> rfl
@[simp] theorem setP_mem (s : State) (p : BitVec 3) (v : Bool) : (setP s p v).mem = s.mem := by unfold setP; split <;> rfl
@[simp] theorem setP_badLines (s : State) (p : BitVec 3) (v : Bool) : (setP s p v).badLines = s.badLines := by unfold setP; split <;> rfl
@[simp] theorem setP_heldBytes (s : State) (p : BitVec 3) (v : Bool) : (setP s p v).heldBytes = s.heldBytes := by unfold setP; split <;> rfl
@[simp] theorem setP_copies (s : State) (p : BitVec 3) (v : Bool) : (setP s p v).copies = s.copies := by unfold setP; split <;> rfl
@[simp] theorem setP_roots (s : State) (p : BitVec 3) (v : Bool) : (setP s p v).roots = s.roots := by unfold setP; split <;> rfl
@[simp] theorem setP_others (s : State) (p : BitVec 3) (v : Bool) : (setP s p v).others = s.others := by unfold setP; split <;> rfl
@[simp] theorem setP_netBars (s : State) (p : BitVec 3) (v : Bool) : (setP s p v).netBars = s.netBars := by unfold setP; split <;> rfl
@[simp] theorem setP_podWaits (s : State) (p : BitVec 3) (v : Bool) : (setP s p v).podWaits = s.podWaits := by unfold setP; split <;> rfl
@[simp] theorem setP_podParks (s : State) (p : BitVec 3) (v : Bool) : (setP s p v).podParks = s.podParks := by unfold setP; split <;> rfl
@[simp] theorem setP_allots (s : State) (p : BitVec 3) (v : Bool) : (setP s p v).allots = s.allots := by unfold setP; split <;> rfl
@[simp] theorem setP_reds (s : State) (p : BitVec 3) (v : Bool) : (setP s p v).reds = s.reds := by unfold setP; split <;> rfl
@[simp] theorem setP_heldSignals (s : State) (p : BitVec 3) (v : Bool) : (setP s p v).heldSignals = s.heldSignals := by unfold setP; split <;> rfl
@[simp] theorem setP_kernels (s : State) (p : BitVec 3) (v : Bool) : (setP s p v).kernels = s.kernels := by unfold setP; split <;> rfl
@[simp] theorem setP_kserial (s : State) (p : BitVec 3) (v : Bool) : (setP s p v).kserial = s.kserial := by unfold setP; split <;> rfl
@[simp] theorem setP_order (s : State) (p : BitVec 3) (v : Bool) : (setP s p v).order = s.order := by unfold setP; split <;> rfl
@[simp] theorem setP_pageCtl (s : State) (p : BitVec 3) (v : Bool) : (setP s p v).pageCtl = s.pageCtl := by unfold setP; split <;> rfl
@[simp] theorem setP_promos (s : State) (p : BitVec 3) (v : Bool) : (setP s p v).promos = s.promos := by unfold setP; split <;> rfl
@[simp] theorem setP_shoots (s : State) (p : BitVec 3) (v : Bool) : (setP s p v).shoots = s.shoots := by unfold setP; split <;> rfl
@[simp] theorem setP_windows (s : State) (p : BitVec 3) (v : Bool) : (setP s p v).windows = s.windows := by unfold setP; split <;> rfl
@[simp] theorem setP_sched (s : State) (p : BitVec 3) (v : Bool) : (setP s p v).sched = s.sched := by unfold setP; split <;> rfl
@[simp] theorem setP_hearth (s : State) (p : BitVec 3) (v : Bool) : (setP s p v).hearth = s.hearth := by unfold setP; split <;> rfl
@[simp] theorem setP_streams (s : State) (p : BitVec 3) (v : Bool) : (setP s p v).streams = s.streams := by unfold setP; split <;> rfl
@[simp] theorem setP_streamOps (s : State) (p : BitVec 3) (v : Bool) : (setP s p v).streamOps = s.streamOps := by unfold setP; split <;> rfl
@[simp] theorem setP_arms (s : State) (p : BitVec 3) (v : Bool) : (setP s p v).arms = s.arms := by unfold setP; split <;> rfl
@[simp] theorem setP_quesarBase (s : State) (p : BitVec 3) (v : Bool) : (setP s p v).quesarBase = s.quesarBase := by unfold setP; split <;> rfl
@[simp] theorem setP_droves (s : State) (p : BitVec 3) (v : Bool) : (setP s p v).droves = s.droves := by unfold setP; split <;> rfl
@[simp] theorem setP_swapped (s : State) (p : BitVec 3) (v : Bool) : (setP s p v).swapped = s.swapped := by unfold setP; split <;> rfl
@[simp] theorem setP_collCounts (s : State) (p : BitVec 3) (v : Bool) : (setP s p v).collCounts = s.collCounts := by unfold setP; split <;> rfl
@[simp] theorem setP_collGone (s : State) (p : BitVec 3) (v : Bool) : (setP s p v).collGone = s.collGone := by unfold setP; split <;> rfl
@[simp] theorem setP_bindings (s : State) (p : BitVec 3) (v : Bool) : (setP s p v).bindings = s.bindings := by unfold setP; split <;> rfl
@[simp] theorem setP_reeves (s : State) (p : BitVec 3) (v : Bool) : (setP s p v).reeves = s.reeves := by unfold setP; split <;> rfl
@[simp] theorem setP_reeveNow (s : State) (p : BitVec 3) (v : Bool) : (setP s p v).reeveNow = s.reeveNow := by unfold setP; split <;> rfl
@[simp] theorem setP_offers (s : State) (p : BitVec 3) (v : Bool) : (setP s p v).offers = s.offers := by unfold setP; split <;> rfl
@[simp] theorem setP_links (s : State) (p : BitVec 3) (v : Bool) : (setP s p v).links = s.links := by unfold setP; split <;> rfl
@[simp] theorem setP_linkCtl (s : State) (p : BitVec 3) (v : Bool) : (setP s p v).linkCtl = s.linkCtl := by unfold setP; split <;> rfl
@[simp] theorem setP_mgmt (s : State) (p : BitVec 3) (v : Bool) : (setP s p v).mgmt = s.mgmt := by unfold setP; split <;> rfl
@[simp] theorem setP_frings (s : State) (p : BitVec 3) (v : Bool) : (setP s p v).frings = s.frings := by unfold setP; split <;> rfl
@[simp] theorem setP_msix (s : State) (p : BitVec 3) (v : Bool) : (setP s p v).msix = s.msix := by unfold setP; split <;> rfl
@[simp] theorem setP_msixMask (s : State) (p : BitVec 3) (v : Bool) : (setP s p v).msixMask = s.msixMask := by unfold setP; split <;> rfl
@[simp] theorem setP_msixPend (s : State) (p : BitVec 3) (v : Bool) : (setP s p v).msixPend = s.msixPend := by unfold setP; split <;> rfl
@[simp] theorem setP_spdm (s : State) (p : BitVec 3) (v : Bool) : (setP s p v).spdm = s.spdm := by unfold setP; split <;> rfl
@[simp] theorem setP_answer (s : State) (p : BitVec 3) (v : Bool) : (setP s p v).answer = s.answer := by unfold setP; split <;> rfl
@[simp] theorem setP_fuseKey (s : State) (p : BitVec 3) (v : Bool) : (setP s p v).fuseKey = s.fuseKey := by unfold setP; split <;> rfl
@[simp] theorem setP_fuseVersion (s : State) (p : BitVec 3) (v : Bool) : (setP s p v).fuseVersion = s.fuseVersion := by unfold setP; split <;> rfl
@[simp] theorem setP_recovery (s : State) (p : BitVec 3) (v : Bool) : (setP s p v).recovery = s.recovery := by unfold setP; split <;> rfl
@[simp] theorem setP_found (s : State) (p : BitVec 3) (v : Bool) : (setP s p v).found = s.found := by unfold setP; split <;> rfl
@[simp] theorem setP_launchReg (s : State) (p : BitVec 3) (v : Bool) : (setP s p v).launchReg = s.launchReg := by unfold setP; split <;> rfl
@[simp] theorem setP_allotReg (s : State) (p : BitVec 3) (v : Bool) : (setP s p v).allotReg = s.allotReg := by unfold setP; split <;> rfl
@[simp] theorem setP_fringReg (s : State) (p : BitVec 3) (v : Bool) : (setP s p v).fringReg = s.fringReg := by unfold setP; split <;> rfl
@[simp] theorem setP_reportedFailed (s : State) (p : BitVec 3) (v : Bool) : (setP s p v).reportedFailed = s.reportedFailed := by unfold setP; split <;> rfl
@[simp] theorem setP_agenda (s : State) (p : BitVec 3) (v : Bool) : (setP s p v).agenda = s.agenda := by unfold setP; split <;> rfl
@[simp] theorem setP_later (s : State) (p : BitVec 3) (v : Bool) : (setP s p v).later = s.later := by unfold setP; split <;> rfl
@[simp] theorem setP_oneCycle (s : State) (p : BitVec 3) (v : Bool) : (setP s p v).oneCycle = s.oneCycle := by unfold setP; split <;> rfl
@[simp] theorem setP_dueBars (s : State) (p : BitVec 3) (v : Bool) : (setP s p v).dueBars = s.dueBars := by unfold setP; split <;> rfl
@[simp] theorem setP_cycleCores (s : State) (p : BitVec 3) (v : Bool) : (setP s p v).cycleCores = s.cycleCores := by unfold setP; split <;> rfl
@[simp] theorem setP_fresh (s : State) (p : BitVec 3) (v : Bool) : (setP s p v).fresh = s.fresh := by unfold setP; split <;> rfl
@[simp] theorem setP_clock (s : State) (p : BitVec 3) (v : Bool) : (setP s p v).clock = s.clock := by unfold setP; split <;> rfl

/-! setH. -/

@[simp] theorem setH_part (s : State) (h : BitVec 4) (v : Handle) : (setH s h v).part = s.part := rfl
@[simp] theorem setH_caps (s : State) (h : BitVec 4) (v : Handle) : (setH s h v).caps = s.caps := rfl
@[simp] theorem setH_pkgId (s : State) (h : BitVec 4) (v : Handle) : (setH s h v).pkgId = s.pkgId := rfl
@[simp] theorem setH_held (s : State) (h : BitVec 4) (v : Handle) : (setH s h v).held = s.held := rfl
@[simp] theorem setH_mem (s : State) (h : BitVec 4) (v : Handle) : (setH s h v).mem = s.mem := rfl
@[simp] theorem setH_badLines (s : State) (h : BitVec 4) (v : Handle) : (setH s h v).badLines = s.badLines := rfl
@[simp] theorem setH_heldBytes (s : State) (h : BitVec 4) (v : Handle) : (setH s h v).heldBytes = s.heldBytes := rfl
@[simp] theorem setH_copies (s : State) (h : BitVec 4) (v : Handle) : (setH s h v).copies = s.copies := rfl
@[simp] theorem setH_roots (s : State) (h : BitVec 4) (v : Handle) : (setH s h v).roots = s.roots := rfl
@[simp] theorem setH_others (s : State) (h : BitVec 4) (v : Handle) : (setH s h v).others = s.others := rfl
@[simp] theorem setH_netBars (s : State) (h : BitVec 4) (v : Handle) : (setH s h v).netBars = s.netBars := rfl
@[simp] theorem setH_podWaits (s : State) (h : BitVec 4) (v : Handle) : (setH s h v).podWaits = s.podWaits := rfl
@[simp] theorem setH_podParks (s : State) (h : BitVec 4) (v : Handle) : (setH s h v).podParks = s.podParks := rfl
@[simp] theorem setH_allots (s : State) (h : BitVec 4) (v : Handle) : (setH s h v).allots = s.allots := rfl
@[simp] theorem setH_reds (s : State) (h : BitVec 4) (v : Handle) : (setH s h v).reds = s.reds := rfl
@[simp] theorem setH_heldSignals (s : State) (h : BitVec 4) (v : Handle) : (setH s h v).heldSignals = s.heldSignals := rfl
@[simp] theorem setH_kernels (s : State) (h : BitVec 4) (v : Handle) : (setH s h v).kernels = s.kernels := rfl
@[simp] theorem setH_kserial (s : State) (h : BitVec 4) (v : Handle) : (setH s h v).kserial = s.kserial := rfl
@[simp] theorem setH_order (s : State) (h : BitVec 4) (v : Handle) : (setH s h v).order = s.order := rfl
@[simp] theorem setH_pageCtl (s : State) (h : BitVec 4) (v : Handle) : (setH s h v).pageCtl = s.pageCtl := rfl
@[simp] theorem setH_promos (s : State) (h : BitVec 4) (v : Handle) : (setH s h v).promos = s.promos := rfl
@[simp] theorem setH_shoots (s : State) (h : BitVec 4) (v : Handle) : (setH s h v).shoots = s.shoots := rfl
@[simp] theorem setH_windows (s : State) (h : BitVec 4) (v : Handle) : (setH s h v).windows = s.windows := rfl
@[simp] theorem setH_sched (s : State) (h : BitVec 4) (v : Handle) : (setH s h v).sched = s.sched := rfl
@[simp] theorem setH_hearth (s : State) (h : BitVec 4) (v : Handle) : (setH s h v).hearth = s.hearth := rfl
@[simp] theorem setH_streams (s : State) (h : BitVec 4) (v : Handle) : (setH s h v).streams = s.streams := rfl
@[simp] theorem setH_streamOps (s : State) (h : BitVec 4) (v : Handle) : (setH s h v).streamOps = s.streamOps := rfl
@[simp] theorem setH_arms (s : State) (h : BitVec 4) (v : Handle) : (setH s h v).arms = s.arms := rfl
@[simp] theorem setH_quesarBase (s : State) (h : BitVec 4) (v : Handle) : (setH s h v).quesarBase = s.quesarBase := rfl
@[simp] theorem setH_droves (s : State) (h : BitVec 4) (v : Handle) : (setH s h v).droves = s.droves := rfl
@[simp] theorem setH_swapped (s : State) (h : BitVec 4) (v : Handle) : (setH s h v).swapped = s.swapped := rfl
@[simp] theorem setH_collCounts (s : State) (h : BitVec 4) (v : Handle) : (setH s h v).collCounts = s.collCounts := rfl
@[simp] theorem setH_collGone (s : State) (h : BitVec 4) (v : Handle) : (setH s h v).collGone = s.collGone := rfl
@[simp] theorem setH_bindings (s : State) (h : BitVec 4) (v : Handle) : (setH s h v).bindings = s.bindings := rfl
@[simp] theorem setH_reeves (s : State) (h : BitVec 4) (v : Handle) : (setH s h v).reeves = s.reeves := rfl
@[simp] theorem setH_reeveNow (s : State) (h : BitVec 4) (v : Handle) : (setH s h v).reeveNow = s.reeveNow := rfl
@[simp] theorem setH_offers (s : State) (h : BitVec 4) (v : Handle) : (setH s h v).offers = s.offers := rfl
@[simp] theorem setH_links (s : State) (h : BitVec 4) (v : Handle) : (setH s h v).links = s.links := rfl
@[simp] theorem setH_linkCtl (s : State) (h : BitVec 4) (v : Handle) : (setH s h v).linkCtl = s.linkCtl := rfl
@[simp] theorem setH_mgmt (s : State) (h : BitVec 4) (v : Handle) : (setH s h v).mgmt = s.mgmt := rfl
@[simp] theorem setH_frings (s : State) (h : BitVec 4) (v : Handle) : (setH s h v).frings = s.frings := rfl
@[simp] theorem setH_msix (s : State) (h : BitVec 4) (v : Handle) : (setH s h v).msix = s.msix := rfl
@[simp] theorem setH_msixMask (s : State) (h : BitVec 4) (v : Handle) : (setH s h v).msixMask = s.msixMask := rfl
@[simp] theorem setH_msixPend (s : State) (h : BitVec 4) (v : Handle) : (setH s h v).msixPend = s.msixPend := rfl
@[simp] theorem setH_spdm (s : State) (h : BitVec 4) (v : Handle) : (setH s h v).spdm = s.spdm := rfl
@[simp] theorem setH_answer (s : State) (h : BitVec 4) (v : Handle) : (setH s h v).answer = s.answer := rfl
@[simp] theorem setH_fuseKey (s : State) (h : BitVec 4) (v : Handle) : (setH s h v).fuseKey = s.fuseKey := rfl
@[simp] theorem setH_fuseVersion (s : State) (h : BitVec 4) (v : Handle) : (setH s h v).fuseVersion = s.fuseVersion := rfl
@[simp] theorem setH_recovery (s : State) (h : BitVec 4) (v : Handle) : (setH s h v).recovery = s.recovery := rfl
@[simp] theorem setH_found (s : State) (h : BitVec 4) (v : Handle) : (setH s h v).found = s.found := rfl
@[simp] theorem setH_launchReg (s : State) (h : BitVec 4) (v : Handle) : (setH s h v).launchReg = s.launchReg := rfl
@[simp] theorem setH_allotReg (s : State) (h : BitVec 4) (v : Handle) : (setH s h v).allotReg = s.allotReg := rfl
@[simp] theorem setH_fringReg (s : State) (h : BitVec 4) (v : Handle) : (setH s h v).fringReg = s.fringReg := rfl
@[simp] theorem setH_reportedFailed (s : State) (h : BitVec 4) (v : Handle) : (setH s h v).reportedFailed = s.reportedFailed := rfl
@[simp] theorem setH_agenda (s : State) (h : BitVec 4) (v : Handle) : (setH s h v).agenda = s.agenda := rfl
@[simp] theorem setH_later (s : State) (h : BitVec 4) (v : Handle) : (setH s h v).later = s.later := rfl
@[simp] theorem setH_oneCycle (s : State) (h : BitVec 4) (v : Handle) : (setH s h v).oneCycle = s.oneCycle := rfl
@[simp] theorem setH_dueBars (s : State) (h : BitVec 4) (v : Handle) : (setH s h v).dueBars = s.dueBars := rfl
@[simp] theorem setH_cycleCores (s : State) (h : BitVec 4) (v : Handle) : (setH s h v).cycleCores = s.cycleCores := rfl
@[simp] theorem setH_fresh (s : State) (h : BitVec 4) (v : Handle) : (setH s h v).fresh = s.fresh := rfl
@[simp] theorem setH_clock (s : State) (h : BitVec 4) (v : Handle) : (setH s h v).clock = s.clock := rfl

/-! What the sequencer moves. -/

theorem Sequenced.part {u t : State} (h : Sequenced u t) : t.part = u.part := by rw [h]
theorem Sequenced.caps {u t : State} (h : Sequenced u t) : t.caps = u.caps := by rw [h]
theorem Sequenced.pkgId {u t : State} (h : Sequenced u t) : t.pkgId = u.pkgId := by rw [h]
theorem Sequenced.held {u t : State} (h : Sequenced u t) : t.held = u.held := by rw [h]
theorem Sequenced.mem {u t : State} (h : Sequenced u t) : t.mem = u.mem := by rw [h]
theorem Sequenced.badLines {u t : State} (h : Sequenced u t) : t.badLines = u.badLines := by rw [h]
theorem Sequenced.heldBytes {u t : State} (h : Sequenced u t) : t.heldBytes = u.heldBytes := by rw [h]
theorem Sequenced.copies {u t : State} (h : Sequenced u t) : t.copies = u.copies := by rw [h]
theorem Sequenced.roots {u t : State} (h : Sequenced u t) : t.roots = u.roots := by rw [h]
theorem Sequenced.others {u t : State} (h : Sequenced u t) : t.others = u.others := by rw [h]
theorem Sequenced.netBars {u t : State} (h : Sequenced u t) : t.netBars = u.netBars := by rw [h]
theorem Sequenced.podWaits {u t : State} (h : Sequenced u t) : t.podWaits = u.podWaits := by rw [h]
theorem Sequenced.podParks {u t : State} (h : Sequenced u t) : t.podParks = u.podParks := by rw [h]
theorem Sequenced.allots {u t : State} (h : Sequenced u t) : t.allots = u.allots := by rw [h]
theorem Sequenced.reds {u t : State} (h : Sequenced u t) : t.reds = u.reds := by rw [h]
theorem Sequenced.heldSignals {u t : State} (h : Sequenced u t) : t.heldSignals = u.heldSignals := by rw [h]
theorem Sequenced.kernels {u t : State} (h : Sequenced u t) : t.kernels = u.kernels := by rw [h]
theorem Sequenced.kserial {u t : State} (h : Sequenced u t) : t.kserial = u.kserial := by rw [h]
theorem Sequenced.order {u t : State} (h : Sequenced u t) : t.order = u.order := by rw [h]
theorem Sequenced.pageCtl {u t : State} (h : Sequenced u t) : t.pageCtl = u.pageCtl := by rw [h]
theorem Sequenced.promos {u t : State} (h : Sequenced u t) : t.promos = u.promos := by rw [h]
theorem Sequenced.shoots {u t : State} (h : Sequenced u t) : t.shoots = u.shoots := by rw [h]
theorem Sequenced.windows {u t : State} (h : Sequenced u t) : t.windows = u.windows := by rw [h]
theorem Sequenced.sched {u t : State} (h : Sequenced u t) : t.sched = u.sched := by rw [h]
theorem Sequenced.hearth {u t : State} (h : Sequenced u t) : t.hearth = u.hearth := by rw [h]
theorem Sequenced.streams {u t : State} (h : Sequenced u t) : t.streams = u.streams := by rw [h]
theorem Sequenced.streamOps {u t : State} (h : Sequenced u t) : t.streamOps = u.streamOps := by rw [h]
theorem Sequenced.arms {u t : State} (h : Sequenced u t) : t.arms = u.arms := by rw [h]
theorem Sequenced.quesarBase {u t : State} (h : Sequenced u t) : t.quesarBase = u.quesarBase := by rw [h]
theorem Sequenced.droves {u t : State} (h : Sequenced u t) : t.droves = u.droves := by rw [h]
theorem Sequenced.swapped {u t : State} (h : Sequenced u t) : t.swapped = u.swapped := by rw [h]
theorem Sequenced.collCounts {u t : State} (h : Sequenced u t) : t.collCounts = u.collCounts := by rw [h]
theorem Sequenced.collGone {u t : State} (h : Sequenced u t) : t.collGone = u.collGone := by rw [h]
theorem Sequenced.bindings {u t : State} (h : Sequenced u t) : t.bindings = u.bindings := by rw [h]
theorem Sequenced.reeves {u t : State} (h : Sequenced u t) : t.reeves = u.reeves := by rw [h]
theorem Sequenced.reeveNow {u t : State} (h : Sequenced u t) : t.reeveNow = u.reeveNow := by rw [h]
theorem Sequenced.offers {u t : State} (h : Sequenced u t) : t.offers = u.offers := by rw [h]
theorem Sequenced.links {u t : State} (h : Sequenced u t) : t.links = u.links := by rw [h]
theorem Sequenced.linkCtl {u t : State} (h : Sequenced u t) : t.linkCtl = u.linkCtl := by rw [h]
theorem Sequenced.mgmt {u t : State} (h : Sequenced u t) : t.mgmt = u.mgmt := by rw [h]
theorem Sequenced.frings {u t : State} (h : Sequenced u t) : t.frings = u.frings := by rw [h]
theorem Sequenced.msix {u t : State} (h : Sequenced u t) : t.msix = u.msix := by rw [h]
theorem Sequenced.msixMask {u t : State} (h : Sequenced u t) : t.msixMask = u.msixMask := by rw [h]
theorem Sequenced.msixPend {u t : State} (h : Sequenced u t) : t.msixPend = u.msixPend := by rw [h]
theorem Sequenced.spdm {u t : State} (h : Sequenced u t) : t.spdm = u.spdm := by rw [h]
theorem Sequenced.answer {u t : State} (h : Sequenced u t) : t.answer = u.answer := by rw [h]
theorem Sequenced.fuseKey {u t : State} (h : Sequenced u t) : t.fuseKey = u.fuseKey := by rw [h]
theorem Sequenced.fuseVersion {u t : State} (h : Sequenced u t) : t.fuseVersion = u.fuseVersion := by rw [h]
theorem Sequenced.recovery {u t : State} (h : Sequenced u t) : t.recovery = u.recovery := by rw [h]
theorem Sequenced.found {u t : State} (h : Sequenced u t) : t.found = u.found := by rw [h]
theorem Sequenced.launchReg {u t : State} (h : Sequenced u t) : t.launchReg = u.launchReg := by rw [h]
theorem Sequenced.allotReg {u t : State} (h : Sequenced u t) : t.allotReg = u.allotReg := by rw [h]
theorem Sequenced.fringReg {u t : State} (h : Sequenced u t) : t.fringReg = u.fringReg := by rw [h]
theorem Sequenced.reportedFailed {u t : State} (h : Sequenced u t) : t.reportedFailed = u.reportedFailed := by rw [h]
theorem Sequenced.agenda {u t : State} (h : Sequenced u t) : t.agenda = u.agenda := by rw [h]
theorem Sequenced.later {u t : State} (h : Sequenced u t) : t.later = u.later := by rw [h]
theorem Sequenced.oneCycle {u t : State} (h : Sequenced u t) : t.oneCycle = u.oneCycle := by rw [h]
theorem Sequenced.dueBars {u t : State} (h : Sequenced u t) : t.dueBars = u.dueBars := by rw [h]
theorem Sequenced.cycleCores {u t : State} (h : Sequenced u t) : t.cycleCores = u.cycleCores := by rw [h]

end Sys2Proof.Laws
end

