-- ==== Sys2Proof/Laws/Registers.lean ====
section
/-! SUPPORT. Reading registers after writing them (R55, R89, R146): a register reads what was written, the others keep their values, and
s0, p0 and m0 are as the manual fixes them. -/

namespace Sys2Proof.Laws

open Sys2Proof.Machine

theorem vget_vset_same {α : Type} {n : Nat} (v : Vector α n) (i : Nat) (x d : α) (h : i < n) : vget (vset v i x) i d = x := by
  simp [vget, vset, h]

theorem vget_vset_other {α : Type} {n : Nat} (v : Vector α n) (i j : Nat) (x d : α) (h : i ≠ j) :
    vget (vset v i x) j d = vget v j d := by
  simp [vget, vset, h]

theorem vset_beyond {α : Type} {n : Nat} (v : Vector α n) (i : Nat) (x : α) (h : n ≤ i) : vset v i x = v := by
  ext j hj
  have e : i ≠ j := by omega
  simp [vset, e]

theorem bv5_lt (r : BitVec 5) : r.toNat < 32 := r.isLt

@[simp] theorem sreg_zero (s : State) : sreg s 0 = 0 := by simp [sreg]

@[simp] theorem setS_zero (s : State) (v : Word) : setS s 0 v = s := by simp [setS]

/-- A scalar register other than s0 reads what was written to it. -/
theorem sreg_setS_same (s : State) (r : BitVec 5) (v : Word) (h : r ≠ 0) : sreg (setS s r v) r = v := by
  simp only [sreg, setS, h, if_false, modCtx_core]
  exact vget_vset_same _ _ _ _ r.isLt

/-- A write to a scalar register leaves the others alone. -/
theorem sreg_setS_other (s : State) (r q : BitVec 5) (v : Word) (h : q ≠ r) : sreg (setS s r v) q = sreg s q := by
  unfold setS
  split
  · rfl
  · simp only [sreg, modCtx_core]
    split
    · rfl
    · exact vget_vset_other _ _ _ _ _ fun e => h (BitVec.eq_of_toNat_eq e).symm

@[simp] theorem preg_zero (s : State) : preg s 0 = true := by simp [preg]

@[simp] theorem setP_zero (s : State) (v : Bool) : setP s 0 v = s := by simp [setP]

theorem setBit8_get (x : BitVec 8) (n m : Nat) (b : Bool) (h : n < 8) :
    (setBit8 x n b).getLsbD m = if m = n then b else x.getLsbD m := by
  unfold setBit8
  by_cases hm : m < 8
  · by_cases e : m = n
    · subst e
      cases b <;>
        simp only [Bool.false_eq_true, if_true, if_false, BitVec.getLsbD_or, BitVec.getLsbD_and, BitVec.getLsbD_not,
          BitVec.getLsbD_ofNat, Nat.testBit_two_pow, hm, decide_true, Bool.and_self, Bool.not_true, Bool.and_false, Bool.or_true]
    · have e' : ¬ n = m := fun h => e h.symm
      cases b <;>
        simp only [Bool.false_eq_true, if_true, if_false, BitVec.getLsbD_or, BitVec.getLsbD_and, BitVec.getLsbD_not,
          BitVec.getLsbD_ofNat, Nat.testBit_two_pow, hm, e, e', decide_true, decide_false, Bool.and_true, Bool.not_false, Bool.and_false,
          Bool.or_false]
  · have e : m ≠ n := by omega
    rw [if_neg e, BitVec.getLsbD_of_ge _ _ (Nat.le_of_not_lt hm), BitVec.getLsbD_of_ge _ _ (Nat.le_of_not_lt hm)]

/-- A predicate other than p0 reads what was written to it. -/
theorem preg_setP_same (s : State) (p : BitVec 3) (v : Bool) (h : p ≠ 0) : preg (setP s p v) p = v := by
  simp only [preg, setP, h, if_false, modCtx_core, decide_false, Bool.false_or]
  rw [setBit8_get _ _ _ _ p.isLt, if_pos rfl]

/-- A write to a predicate leaves the others alone. -/
theorem preg_setP_other (s : State) (p q : BitVec 3) (v : Bool) (h : q ≠ p) : preg (setP s p v) q = preg s q := by
  unfold setP
  split
  · rfl
  · simp only [preg, modCtx_core]
    rw [setBit8_get _ _ _ _ p.isLt, if_neg fun e => h (BitVec.eq_of_toNat_eq e)]

/-- A vector register reads what was written to it. -/
theorem vreg_setV_same (c : Context) (r : BitVec 5) (v : VReg) : vreg (setV c r v) r = v := vget_vset_same _ _ _ _ r.isLt

/-- A write to a vector register leaves the others alone. -/
theorem vreg_setV_other (c : Context) (r q : BitVec 5) (v : VReg) (h : q ≠ r) : vreg (setV c r v) q = vreg c q :=
  vget_vset_other _ _ _ _ _ fun e => h (BitVec.eq_of_toNat_eq e).symm

@[simp] theorem mreg_zero (c : Context) : mreg c 0 = BitVec.allOnes 1024 := by simp [mreg]

/-- A mask other than m0 reads what was written to it. -/
theorem mreg_setM_same (c : Context) (m : BitVec 3) (v : BitVec 1024) (h : m ≠ 0) : mreg (setM c m v) m = v := by
  simp only [mreg, setM, h, if_false]
  exact vget_vset_same _ _ _ _ m.isLt

/-- A handle reads what was written to it. -/
theorem hreg_setH_same (s : State) (h : BitVec 4) (v : Handle) : hreg (setH s h v) h = v := by
  simp only [hreg, setH_core]
  exact vget_vset_same _ _ _ _ h.isLt

end Sys2Proof.Laws
end

