-- ==== Sys2Proof/Laws/Scratchpad.lean ====
section
/-! SUPPORT. The scratchpad's stored offsets (R139, R140): different logical offsets have different stored ones, so that a write reads
back byte by byte and leaves every other stored byte alone. -/

namespace Sys2Proof.Laws

open Sys2Proof.Machine

theorem xor_keeps_high (a b n : Nat) (h : b < 2 ^ n) : (a ^^^ b) / 2 ^ n = a / 2 ^ n := by
  rw [← Nat.shiftRight_eq_div_pow, ← Nat.shiftRight_eq_div_pow, Nat.shiftRight_xor_distrib, Nat.shiftRight_eq_div_pow b,
    Nat.div_eq_of_lt h, Nat.xor_zero]

theorem xor_twice (a b : Nat) : (a ^^^ b) ^^^ b = a := by rw [Nat.xor_assoc, Nat.xor_self, Nat.xor_zero]

/-- Swizzling twice gives the offset again. -/
theorem swizzle_twice (mode o : Nat) : swizzle mode (swizzle mode o) = o := by
  have key : ∀ n k : Nat, k * 8 = 2 ^ n →
      (o ^^^ (o / 2 ^ n % 8 * k)) ^^^ ((o ^^^ (o / 2 ^ n % 8 * k)) / 2 ^ n % 8 * k) = o := by
    intro n k h
    have hk : 0 < k := by
      rcases Nat.eq_zero_or_pos k with e | e
      · subst e; have := Nat.two_pow_pos n; omega
      · exact e
    have hlt : o / 2 ^ n % 8 * k < 2 ^ n := by
      have : o / 2 ^ n % 8 < 8 := Nat.mod_lt _ (by omega)
      calc o / 2 ^ n % 8 * k < 8 * k := Nat.mul_lt_mul_of_pos_right this hk
        _ = 2 ^ n := by omega
    rw [xor_keeps_high _ _ _ hlt, xor_twice]
  unfold swizzle
  match mode with
  | 0 => rfl
  | 1 => exact key 7 16 rfl
  | 2 => exact key 8 32 rfl
  | 3 => exact key 9 64 rfl
  | _ + 4 => rfl

theorem swizzle_inj (mode a b : Nat) (h : swizzle mode a = swizzle mode b) : a = b := by
  rw [← swizzle_twice mode a, h, swizzle_twice]

theorem storedWith_bank (mode o : Nat) : storedWith mode o / 0x8000 = o / 0x8000 := by
  have h := swizzle_lt mode (o % 0x8000) (Nat.mod_lt _ (by omega))
  unfold storedWith
  omega

theorem stored_bank (k : Core) (b : BitVec 2) (o : Nat) : stored k b o / 0x8000 = o / 0x8000 := storedWith_bank _ _

/-- Different logical offsets have different stored offsets. -/
theorem stored_inj (k : Core) (b : BitVec 2) (x y : Nat) (h : stored k b x = stored k b y) : x = y := by
  have hb : x / 0x8000 = y / 0x8000 := by rw [← stored_bank k b x, h, stored_bank]
  have hm : bfmtSwz (bfmtOf k (bankOf b x)) = bfmtSwz (bfmtOf k (bankOf b y)) := by simp only [bankOf, hb]
  unfold stored storedWith at h
  rw [hm, hb] at h
  have := swizzle_inj _ _ _ (Nat.add_left_cancel h)
  omega

theorem spByte_setBufMem_same (k : Core) (b : BitVec 2) (m : Memory) (o : Nat) :
    memRead (bufMem (setBufMem k b m) b) o = memRead m o := by
  unfold bufMem setBufMem
  by_cases b0 : b = 0 <;> by_cases b1 : b = 1 <;> simp_all

theorem bufMem_spPut (k : Core) (b q : BitVec 2) (cells : List Host.Cell) :
    bufMem (spPut k b cells) q = bufMem (setBufMem k b (bufCells k b cells)) q := by
  unfold spPut
  simp only
  split <;> rfl

/-- A write with its guard byte acts on a byte below the guard bank as a plain write does. -/
theorem memRead_guardedWrite (b : BitVec 2) (m : Memory) (c : Host.Cell) (o : Nat) (h : o < 0x8000 * (bufBanks b - 1)) :
    memRead (guardedWrite b m c) o = memRead (memWrite m c.1 c.2) o := by
  unfold guardedWrite
  exact memRead_write_other _ _ _ _ (by unfold guardOff; omega)

theorem memRead_guardedWrites (b : BitVec 2) (cells : List Host.Cell) (m : Memory) (o : Nat) (h : o < 0x8000 * (bufBanks b - 1)) :
    memRead (cells.foldl (guardedWrite b) m) o = memRead (memCells m cells) o := by
  rw [memRead_cells]
  induction cells generalizing m with
  | nil => rfl
  | cons c cells ih =>
    rw [List.foldl_cons, ih, List.reverse_cons, List.find?_append, memRead_guardedWrite b m c o h]
    cases cells.reverse.find? fun c => decide (c.1 = o) with
    | some d => simp
    | none =>
      by_cases e : c.1 = o
      · subst e; simp
      · simp [e, memRead_write_other m c.1 o c.2 (Ne.symm e)]

/-- A stored byte that a core's accesses may reach: in guard mode, one below the guard bank (R144). -/
def Reached (k : Core) (b : BitVec 2) (o : Nat) : Prop := k.guardMode = true → o < 0x8000 * (bufBanks b - 1)

theorem memRead_bufCells (k : Core) (b : BitVec 2) (cells : List Host.Cell) (o : Nat) (h : Reached k b o) :
    memRead (bufCells k b cells) o = memRead (memCells (bufMem k b) cells) o := by
  unfold bufCells
  split
  · next g => exact memRead_guardedWrites b cells _ o (h g)
  · rfl

/-- A stored byte that a write names reads as written; another keeps its value. -/
theorem spByte_spPut (k : Core) (b : BitVec 2) (cells : List Host.Cell) (o : Nat) (h : Reached k b o) :
    spByte (spPut k b cells) b o = ((cells.reverse.find? fun c => c.1 = o).map Prod.snd).getD (spByte k b o) := by
  unfold spByte
  rw [bufMem_spPut, spByte_setBufMem_same, memRead_bufCells k b cells o h, memRead_cells]

/-- Bytes of another buffer keep their values. -/
theorem spByte_spPut_other (k : Core) (b q : BitVec 2) (cells : List Host.Cell) (o : Nat)
    (h : (b = 0 ∧ q ≠ 0) ∨ (b = 1 ∧ q ≠ 1) ∨ (b ≠ 0 ∧ b ≠ 1 ∧ (q = 0 ∨ q = 1))) :
    spByte (spPut k b cells) q o = spByte k q o := by
  unfold spByte
  rw [bufMem_spPut]
  unfold bufMem setBufMem
  rcases h with ⟨hb, h⟩ | ⟨hb, h⟩ | ⟨h0, h1, h | h⟩ <;> by_cases q0 : q = 0 <;> by_cases q1 : q = 1 <;> simp_all

theorem zip_find (l : List Nat) (bs : List Byte) (hl : l.length = bs.length) (hn : l.Nodup) (i : Nat) (h : i < l.length) :
    ((l.zip bs).reverse.find? fun c => c.1 = l[i]).map Prod.snd = bs[i]? := by
  induction l generalizing bs i with
  | nil => cases h
  | cons a l ih =>
    cases bs with
    | nil => cases hl
    | cons b bs =>
      simp only [List.length_cons, Nat.add_right_cancel_iff] at hl
      obtain ⟨ha, hn'⟩ := List.nodup_cons.mp hn
      simp only [List.zip_cons_cons, List.reverse_cons, List.find?_append]
      cases i with
      | zero =>
        have none : (l.zip bs).reverse.find? (fun c => decide (c.1 = a)) = none := by
          rw [List.find?_eq_none]
          intro c hc
          rw [List.mem_reverse] at hc
          have := (List.of_mem_zip hc).1
          simp only [decide_eq_true_eq]
          intro e
          subst e
          exact ha this
        simp only [List.getElem_cons_zero, none, Option.none_or]
        simp
      | succ i =>
        have hi : i < l.length := by simpa using h
        have e := ih bs hl hn' i hi
        have hx : i < bs.length := by omega
        simp only [List.getElem_cons_succ, List.getElem?_cons_succ]
        rw [← e]
        cases hf : (l.zip bs).reverse.find? fun c => decide (c.1 = l[i]) with
        | some c => simp
        | none => rw [hf] at e; simp [hx] at e

theorem storedRange_length (k : Core) (b : BitVec 2) (o n : Nat) : (storedRange k b o n).length = n := by simp [storedRange]

theorem storedRange_nodup (k : Core) (b : BitVec 2) (o n : Nat) : (storedRange k b o n).Nodup := by
  unfold storedRange
  refine List.Nodup.map ?_ List.nodup_range
  intro x y h
  have := stored_inj k b _ _ h
  omega

/-- An offset within a buffer's size is reached. -/
theorem reached_of_lt (k : Core) (b : BitVec 2) (o : Nat) (h : o < bufSize k b) : Reached k b (stored k b o) := by
  intro g
  have e := stored_bank k b o
  unfold bufSize at h
  rw [g] at h
  simp only [if_true] at h
  omega

/-- A scratchpad write reads back. -/
theorem spByte_spWrite (k : Core) (b : BitVec 2) (o : Nat) (bytes : List Byte) (j : Nat) (h : j < bytes.length)
    (r : Reached k b (stored k b (o + j))) : spByte (spWrite k b o bytes) b (stored k b (o + j)) = bytes.getD j 0 := by
  unfold spWrite
  rw [spByte_spPut k b _ _ r]
  have hl : (storedRange k b o bytes.length).length = bytes.length := storedRange_length k b o bytes.length
  have e := zip_find (storedRange k b o bytes.length) bytes hl (storedRange_nodup k b o _) j (by omega)
  have g : (storedRange k b o bytes.length)[j]'(by omega) = stored k b (o + j) := by simp [storedRange]
  rw [g] at e
  rw [e, List.getElem?_eq_getElem h, List.getD_eq_getElem?_getD, List.getElem?_eq_getElem h]
  rfl

/-- A scratchpad write leaves every other stored byte of its buffer alone. -/
theorem spByte_spWrite_other (k : Core) (b : BitVec 2) (o : Nat) (bytes : List Byte) (x : Nat)
    (h : ∀ j, j < bytes.length → x ≠ stored k b (o + j)) (r : Reached k b x) : spByte (spWrite k b o bytes) b x = spByte k b x := by
  unfold spWrite
  rw [spByte_spPut k b _ _ r]
  have none : (((storedRange k b o bytes.length).zip bytes).reverse.find? fun c => decide (c.1 = x)) = none := by
    rw [List.find?_eq_none]
    intro c hc
    rw [List.mem_reverse] at hc
    have hm := (List.of_mem_zip hc).1
    simp only [storedRange, List.mem_map, List.mem_range] at hm
    obtain ⟨j, hj, e⟩ := hm
    simp only [decide_eq_true_eq]
    intro e'
    exact h j hj (by rw [e, e'])
  rw [none]
  rfl

end Sys2Proof.Laws
end

