-- ==== Sys2Proof/Laws/Trap.lean ====
section
/-! SUPPORT. What a precise trap can do (R100): into the handler, or to the trapped state with its group aborted. -/

namespace Sys2Proof.Laws

open Sys2Proof.Machine

/-- A trap of a context with a handler, outside it and other than HALT: the trap registers are written, INTRAP is 1 and the pc is the
handler's entry; nothing else changes. -/
theorem takeTrapAt_handled (s : State) (t : Trap) (pc : Word) (w : BitVec 32) (h1 : s.core.ctx.inTrap = false)
    (h2 : s.core.ctx.handler ≠ 0) (h3 : t.cause ≠ .halt) :
    takeTrapAt s t pc w = modCtx s fun c => { c with
      tcause := tcauseOf t, tpc := pc, tword := w.zeroExtend 64, taddr := t.addr, inTrap := true, trapAt := pc, pc := c.handler } := by
  have h : ((trapRegs s.core.ctx t pc w).inTrap || decide ((trapRegs s.core.ctx t pc w).handler = 0) ||
      decide (t.cause = .halt)) = false := by
    have h2' : ¬ s.core.ctx.handler = 0#64 := h2
    simp [trapRegs, h1, h2', h3]
  unfold takeTrapAt
  simp only [h, Bool.false_eq_true, if_false]
  rfl

/-- A trap that finds no handler: the context is trapped, and its group is aborted after the record, when it is restored if it is being
saved, or by the decision on a request that coincides (log entry 104). -/
theorem takeTrapAt_stops (s : State) (t : Trap) (pc : Word) (w : BitVec 32)
    (h : s.core.ctx.inTrap = true ∨ s.core.ctx.handler = 0 ∨ t.cause = .halt) :
    takeTrapAt s t pc w =
      (let c := trapRegs s.core.ctx t pc w
       let s2 := writeRecord (modCtx s fun _ => { c with state := .trapped }) c.aspace (trapRecord s.core c t)
       if beingSaved s2 c.kernelId then s2
       else if decisionNow s2 c.kernelId ≠ [] then { s2 with agenda := decisionNow s2 c.kernelId ++ s2.agenda }
       else abortGroup s2 c.kernelId t.cause) := by
  unfold takeTrapAt
  simp only
  rw [if_pos]
  rcases h with h | h | h <;> simp [trapRegs, h]

/-- Trap entry into the handler leaves memory and every other core alone. -/
theorem takeTrapAt_handled_frame (s : State) (t : Trap) (pc : Word) (w : BitVec 32) (h1 : s.core.ctx.inTrap = false)
    (h2 : s.core.ctx.handler ≠ 0) (h3 : t.cause ≠ .halt) :
    (takeTrapAt s t pc w).mem = s.mem ∧ (takeTrapAt s t pc w).others = s.others ∧
      (takeTrapAt s t pc w).core.ctx.s = s.core.ctx.s ∧ (takeTrapAt s t pc w).core.ctx.v = s.core.ctx.v := by
  rw [takeTrapAt_handled s t pc w h1 h2 h3]
  exact ⟨rfl, rfl, rfl, rfl⟩

end Sys2Proof.Laws
end

