-- ==== Sys2Proof/Tests/Slice0.lean ====
section
/-! SUPPORT. Own tests: ill-formed terms refused, words of the encoding tables of 04_encoding.md to 27_bringup.md decoded, worked
examples of the spec run one step, and for every statement with hypotheses a state and operands that meet them. -/

namespace Sys2Proof.Tests

open Sys2Proof Sys2Proof.Machine

-- One theorem after another: each evaluates on its own stack, and many at a time would need too much memory.
set_option Elab.async false

/-- A state whose started context is the given one. -/
def st (c : Context) : State := { State.reset with core := { State.reset.core with ctx := c } }

/-- A running context with a trap handler. -/
def run : Context := { Context.blank 0 with state := .running, handler := 0x8000 }

/-- A running core right after reset. -/
def s0 : State := st run

/-- A resident page of 4 KiB at virtual 0x20000, physical 0x300000, with both rights. -/
def page : Handle := ⟨0x20, 0, 0, true, true, true, true, 0x300⟩

/-- A context whose handle h1 is that page, h2 the page not resident, h3 the page with no right; s1 to s5 hold small values. -/
def run1 : Context := { run with
  h := (((run.h).set 1 page).set 2 { page with res := false }).set 3 { page with w := false, r := false }
  s := ((((run.s).set 1 100).set 2 7).set 3 0xFFA10003).set 4 (BitVec.ofInt 64 (-7)) }

def s1 : State := st run1

/-! Ill-formed terms, one for each check of WellFormed, beside a well-formed neighbour. -/

theorem test_wf_scalar :
    ([.cmp 1 2 3 10 0 0, .fadd 1 2 3 0 0, .fsub 1 2 3 0 0, .fmul 1 2 3 0 0, .ffma 1 2 3 0 0, .fmin 1 2 3 0 0, .fmax 1 2 3 0 0,
      .fcmp 0 1 2 3 0 0, .fcvt 1 2 13 0 0, .fcvt 1 2 0 13 0, .lds 1 2 3 0, .sts 1 2 3 0, .ldg 1 2 2 3 0, .ldg 1 2 2 4 32, .stg 1 2 2 7 0,
      .atom 1 2 3 10 0 0 0, .atom 1 2 3 9 1 0 0, .atom 1 2 3 1 0 0 12, .red 1 2 3 0 0 0 0, .red 1 2 3 9 1 0 0, .red 1 2 3 1 0 0 12,
      .cas 1 2 3 4 0 0 12, .fenceAcq 12, .fenceRel 12, .fenceFull 15, .lsmark 12, .loop 3 0 1, .loopReg 3 0 1, .getsr 1 0x11,
      .setsr 1 0x17, .getsr 1 0x20] : List Instr).any Instr.wf = false ∧
    ([.cmp 1 2 3 9 0 0, .fadd 1 2 3 1 0, .fcvt 1 2 12 12 0, .lds 1 2 2 0, .ldg 1 2 2 4 31, .ldg 1 2 2 2 0xFFF, .atom 1 2 3 9 0 0 11,
      .red 1 2 3 1 0 0 11, .cas 1 2 3 4 1 3 11, .fenceAcq 11, .lsmark 11, .loop 2 255 0, .getsr 1 0x10, .setsr 1 0x18, .getsr 1 0x1F] :
      List Instr).all Instr.wf = true := by decide

theorem test_wf_vector :
    ([.vcmp 1 2 3 6 0 0 0, .vcmp 1 2 3 0 3 0 0, .vcvt 1 2 11 0 0 0, .vcvt 1 2 13 1 0 0, .vcvt 1 2 1 13 0 0, .vcvt 1 2 0 14 0 0,
      .vsplit 30 1 0 0, .vpack 1 2 0 0 0, .vunpk 1 2 9 0 0, .vsfu 1 2 9 0 0, .vredr 1 2 3 0 0 0, .vredr 1 2 0 3 0 0, .vredrC 1 2 0 0,
      .vscanr 1 2 0 3 0 0, .vredc 1 2 3 0 0 0, .vredcC 3 2 0 0, .vscanc 1 2 0 3 0 0, .vld 1 3 0 0, .vst 1 3 0 0, .vldg 1 2 3 0 0 3,
      .vstg 1 2 3 0 0 3] : List Instr).any Instr.wf = false ∧
    ([.vcmp 1 2 3 5 2 0 0, .vcvt 1 2 13 0 0 0, .vcvt 1 2 0 13 0 0, .vcvt 1 2 10 10 0 0, .vsplit 29 1 0 0, .vpack 1 2 8 0 0,
      .vunpk 1 2 13 0 0,
      .vsfu 1 2 8 0 0, .vredr 1 2 2 2 0 0, .vredrC 30 2 0 0, .vld 1 2 0 0, .vldg 1 2 3 0 0 2] : List Instr).all Instr.wf = true := by decide

theorem test_wf_engine_and_group :
    ([.tmpl 0 3 0 0, .tmpl 0 0 5 0, .tmplBfmt 0 24, .notify 0 6 1, .notify 0 0 0, .notify 1 5 1, .qdrain 0, .feedbind 0 3 0, .sqld 0 0 3,
      .ztest 0 0 3 0, .bjoin 0 1 0 0 1, .bjoin 1 1 0 3 1, .bjoin 1 1 5 0 1, .bdrop 0 3 1, .bdrop 5 0 1, .barr 1 5 1, .bwait 1 2 5 1,
      .barw 1 5 1, .bexp 1 7 1, .btest 1 5 1, .fset 1 5 1, .fget 1 6 1, .lwait 1 5 1, .lrel 5 1,
        .preq 1 2 0 1] : List Instr).any Instr.wf = false ∧
    ([.tmpl 0 2 4 63, .tmplBfmt 0 23, .notify 0 5 63, .qdrain 63, .feedbind 0 2 7, .sqld 0 0 2, .ztest 0 0 2 15, .bjoin 3 1 4 2 31,
      .bdrop 4 2 31,
      .barr 1 4 1, .lrel 4 1, .preq 1 2 1 31, .preq 1 2 0 0] : List Instr).all Instr.wf = true := by decide

/-- R65's word with the reserved fn 0x1C, a word of an unassigned major and one with a reserved bit are refused. -/
theorem test_words_refused :
    ([0x04611380, 0, 0x64500001, 0xFFFFFFFF] : List Nat).map (decodeTableWord 32) = [none, none, none, none] := rfl

/-! Words made from the opcode table's masks and fields, every row of it with other operands, each decoded to its instruction; a
patch word gives its class's first command (R67). -/

theorem test_words_major0 :
    ([0x0024860B, 0x0156938B, 0x00F0B08B, 0x0000002B, 0x0001902B] : List Nat).map (decodeTableWord 32) =
    ([.slpf 2 9 12, .slchase 21 13 7, .slfwd 15 1 1,
     .sldef, .sldone 3] : List Instr).map some := rfl

theorem test_words_major1_a :
    ([0x078DC811, 0x072EB02C, 0x05E2F857, 0x06A5506B, 0x05CEE896, 0x050CD0B4,
     0x04C930DA, 0x056258FA, 0x066C111E, 0x058BA12D, 0x067DC951, 0x0451697D] : List Nat).map (decodeTableWord 32) =
    ([.add 28 13 25 2 1, .sub 25 14 22 1 4, .mul 15 2 31 2 7,
     .mulh 21 5 10 1 3, .mulhn 14 14 29 2 6, .div 8 12 26 2 4,
     .divn 6 9 6 3 2, .rem 11 2 11 3 2, .remn 19 12 2 3 6,
     .and 12 11 20 1 5, .or 19 29 25 2 1, .xor 2 17 13 3 5] : List Instr).map some := rfl

theorem test_words_major1_b :
    ([0x04477991, 0x0484D1B3, 0x04BC39CB, 0x077DD1FC, 0x0504F20D, 0x05ABFA39,
     0x0582BA49, 0x0444226B, 0x05CC529F, 0x049302A9, 0x059C02D9, 0x06A802E9] : List Nat).map (decodeTableWord 32) =
    ([.andn 2 7 15 2 1, .shl 4 4 26 2 3, .shr 5 28 7 1 3,
     .sar 27 29 26 3 4, .rol 8 4 30 1 5, .min 13 11 31 3 1,
     .max 12 2 23 1 1, .minn 2 4 4 1 3, .maxn 14 12 10 3 7,
     .popc 4 19 1 1, .clz 12 28 3 1, .ctz 21 8 1 1] : List Instr).map some := rfl

theorem test_words_major1_c :
    ([0x060D2319, 0x05D5732F, 0x04C21357, 0x04AA037B] : List Nat).map (decodeTableWord 32) =
    ([.bfx 16 13 4 3 1, .bfi 14 21 14 1 7, .sel 6 2 2 2 7,
     .mov 5 10 3 3] : List Instr).map some := rfl

theorem test_words_major2 :
    ([0x08BA78EA] : List Nat).map (decodeTableWord 32) =
    ([.cmp 5 26 15 7 1 2] : List Instr).map some := rfl

theorem test_words_major3 :
    ([0x0E90A81E, 0x0CE1D031, 0x0E11985B, 0x0D97D86C, 0x0F41809D, 0x0DD6A0BE,
     0x0DDE48D9, 0x0FCA5B82] : List Nat).map (decodeTableWord 32) =
    ([.fadd 20 16 21 3 6, .fsub 7 1 26 2 1, .fmul 16 17 19 3 3,
     .ffma 12 23 27 1 4, .fmin 26 1 16 3 5, .fmax 14 22 20 3 6,
     .fcmp 1 6 30 9 3 1, .fcvt 30 10 11 12 2] : List Instr).map some := rfl

theorem test_words_major4 :
    ([0x12128C27] : List Nat).map (decodeTableWord 32) =
    ([.addi 16 18 35879] : List Instr).map some := rfl

theorem test_words_major5 :
    ([0x1570AE36] : List Nat).map (decodeTableWord 32) =
    ([.andi 11 16 44598] : List Instr).map some := rfl

theorem test_words_major6 :
    ([0x190801D2] : List Nat).map (decodeTableWord 32) =
    ([.ori 8 8 466] : List Instr).map some := rfl

theorem test_words_major7 :
    ([0x1EADA53F] : List Nat).map (decodeTableWord 32) =
    ([.xori 21 13 42303] : List Instr).map some := rfl

theorem test_words_major8 :
    ([0x232C0039, 0x21D74024, 0x20988034] : List Nat).map (decodeTableWord 32) =
    ([.shli 25 12 57, .shri 14 23 36, .sari 4 24 52] : List Instr).map some := rfl

theorem test_words_major9 :
    ([0x2702A92B] : List Nat).map (decodeTableWord 32) =
    ([.movi 24 2 43307] : List Instr).map some := rfl

theorem test_words_major10 :
    ([0x29C101CB] : List Nat).map (decodeTableWord 32) =
    ([.movk 14 1 459] : List Instr).map some := rfl

theorem test_words_major11 :
    ([0x2C64A7A2] : List Nat).map (decodeTableWord 32) =
    ([.lds 3 4 2 10146] : List Instr).map some := rfl

theorem test_words_major12 :
    ([0x3102583E] : List Nat).map (decodeTableWord 32) =
    ([.sts 8 2 1 6206] : List Instr).map some := rfl

theorem test_words_major13 :
    ([0x37D0ADBD] : List Nat).map (decodeTableWord 32) =
    ([.ldg 30 8 1 2 3517] : List Instr).map some := rfl

theorem test_words_major14 :
    ([0x3A75A2D3] : List Nat).map (decodeTableWord 32) =
    ([.stg 19 10 3 2 723] : List Instr).map some := rfl

theorem test_words_major15 :
    ([0x3DE267F4] : List Nat).map (decodeTableWord 32) =
    ([.atom 15 1 6 7 1 3 10] : List Instr).map some := rfl

theorem test_words_major16 :
    ([0x41B496E0] : List Nat).map (decodeTableWord 32) =
    ([.red 13 10 9 6 1 1 8] : List Instr).map some := rfl

theorem test_words_major17 :
    ([0x44068003, 0x4410000F, 0x4424800D] : List Nat).map (decodeTableWord 32) =
    ([.xlate 13 3, .hdrop 15, .hstat 9 13] : List Instr).map some := rfl

theorem test_words_major18 :
    ([0x48000003, 0x48000015, 0x4800002A, 0x48100003] : List Nat).map (decodeTableWord 32) =
    ([.fenceAcq 3, .fenceRel 5, .fenceFull 10,
     .lsmark 3] : List Instr).map some := rfl

theorem test_words_major19 :
    ([0x4F60043B] : List Nat).map (decodeTableWord 32) =
    ([.br 1 5 2098235] : List Instr).map some := rfl

theorem test_words_major20 :
    ([0x50F3728B, 0x5357EB5E] : List Nat).map (decodeTableWord 32) =
    ([.j 15954571, .call 22539102] : List Instr).map some := rfl

theorem test_words_major21 :
    ([0x540D8000, 0x54160000, 0x54200000] : List Nat).map (decodeTableWord 32) =
    ([.jr 27, .callr 12, .ret] : List Instr).map some := rfl

theorem test_words_major22 :
    ([0x5966CF0B, 0x5AC3B400] : List Nat).map (decodeTableWord 32) =
    ([.loop 1 205 20235, .loopReg 2 135 13] : List Instr).map some := rfl

theorem test_words_major23 :
    ([0x5CA31801, 0x5C442821, 0x5CA73843, 0x5C840063, 0x5C870083] : List Nat).map (decodeTableWord 32) =
    ([.pand 5 3 3 1, .por 2 4 5 1, .pxor 5 7 7 3,
     .pnot 4 4 3, .pmov 4 7 3] : List Instr).map some := rfl

theorem test_words_major24 :
    ([0x6004801F, 0x6014800C] : List Nat).map (decodeTableWord 32) =
    ([.getsr 9 31, .setsr 9 12] : List Instr).map some := rfl

theorem test_words_major25 :
    ([0x64000000, 0x641003E0, 0x64200000, 0x64300000, 0x64400000, 0x64500000,
     0x64600000] : List Nat).map (decodeTableWord 32) =
    ([.nop, .trap 992, .eret,
     .bkpt, .halt, .done,
     .yield] : List Instr).map some := rfl

theorem test_words_major26 :
    ([0x68CD7F72] : List Nat).map (decodeTableWord 32) =
    ([.cas 6 6 23 30 1 3 2] : List Instr).map some := rfl

theorem test_words_major32 :
    ([0x82912809, 0x82299013, 0x80ECA027, 0x8088E035, 0x81E5504B, 0x81AF405B,
     0x830DF86F, 0x81750077, 0x81310085, 0x8044709D] : List Nat).map (decodeTableWord 32) =
    ([.vadd 20 17 5 4 1, .vsub 17 9 18 1 1, .vmul 7 12 20 3 1,
     .vfma 4 8 28 2 1, .vfms 15 5 10 5 1, .vmin 13 15 8 5 1,
     .vmax 24 13 31 7 1, .vabs 11 21 3 1, .vneg 9 17 2 1,
     .vcpys 2 4 14 6 1] : List Instr).map some := rfl

theorem test_words_major33_a :
    ([0x8426B009, 0x84AF881F, 0x869A082D, 0x84BF383B, 0x84D4984F, 0x87104855,
     0x87CB2867, 0x862D5075, 0x8470D083, 0x846E1099, 0x87B0D0A5, 0x846A649D] : List Nat).map (decodeTableWord 32) =
    ([.viadd 1 6 22 4 1, .visub 5 15 17 7 1, .vimul 20 26 1 6 1,
     .vand 5 31 7 5 1, .vor 6 20 19 7 1, .vxor 24 16 9 2 1,
     .vshl 30 11 5 3 1, .vshr 17 13 10 2 1, .vsar 3 16 26 1 1,
     .vimin 3 14 2 4 1, .vimax 29 16 26 2 1, .viminN32 3 10 12 6 1] : List Instr).map some := rfl

theorem test_words_major33_b :
    ([0x872C14AF] : List Nat).map (decodeTableWord 32) =
    ([.vimaxN32 25 12 2 7 1] : List Instr).map some := rfl

theorem test_words_major34 :
    ([0x8839C54D] : List Nat).map (decodeTableWord 32) =
    ([.vcmp 1 25 24 5 1 6 1] : List Instr).map some := rfl

theorem test_words_major35 :
    ([0x8DB63073, 0x8CE50205, 0x8D51043D, 0x8CF3066F] : List Nat).map (decodeTableWord 32) =
    ([.vcvt 13 22 6 7 1 1, .vsplit 7 5 2 1, .vpack 10 17 3 6 1,
     .vunpk 7 19 6 7 1] : List Instr).map some := rfl

theorem test_words_major36 :
    ([0x9178002F] : List Nat).map (decodeTableWord 32) =
    ([.vsfu 11 24 2 7 1] : List Instr).map some := rfl

theorem test_words_major37 :
    ([0x94FAA80F, 0x94E8D10F, 0x97540299, 0x9704023F, 0x95C103AB] : List Nat).map (decodeTableWord 32) =
    ([.vrotr 7 26 21 7 1, .vbcr 7 8 26 7 1, .vredr 26 20 2 1 4 1,
     .vredrC 24 4 7 1, .vscanr 14 1 2 2 5 1] : List Instr).map some := rfl

theorem test_words_major38 :
    ([0x9B517805, 0x99D17109, 0x98AC025F, 0x9A810237, 0x986C0367] : List Nat).map (decodeTableWord 32) =
    ([.vrotc 26 17 15 2 1, .vbcc 14 17 14 4 1, .vredc 5 12 1 1 7 1,
     .vredcC 20 1 3 1, .vscanc 3 12 1 2 3 1] : List Instr).map some := rfl

theorem test_words_major39 :
    ([0x9D04400D, 0x9EAAA012, 0x9F0F0023, 0x9F7D0039, 0x9F8C9840, 0x9FD68850] : List Nat).map (decodeTableWord 32) =
    ([.vperm 8 4 8 6 1, .vsel 21 10 20 1, .vmov 24 15 1 1,
     .viota 27 29 4 1, .vins 28 12 19, .vext 30 22 17] : List Instr).map some := rfl

theorem test_words_major40 :
    ([0xA18BC6CE, 0xA1116540] : List Nat).map (decodeTableWord 32) =
    ([.vld 12 1 15 1742, .vst 8 2 5 1344] : List Instr).map some := rfl

theorem test_words_major41 :
    ([0xA7D8FF50, 0xA6136F28] : List Nat).map (decodeTableWord 32) =
    ([.vldg 30 12 15 7 5 1, .vstg 16 9 22 7 4 2] : List Instr).map some := rfl

theorem test_words_major42 :
    ([0xA8A02809, 0xA810301C] : List Nat).map (decodeTableWord 32) =
    ([.vpop 5 5 4 1, .vpush 16 6 6] : List Instr).map some := rfl

theorem test_words_major43 :
    ([0xAC673800, 0xACA10810, 0xAC251820, 0xAC620030, 0xAE260040, 0xAC652850] : List Nat).map (decodeTableWord 32) =
    ([.mand 3 7 7, .mor 5 1 1, .mxor 1 5 3,
     .mnot 3 2, .mpopc 17 6, .mtest 3 5 5] : List Instr).map some := rfl

theorem test_words_major44 :
    ([0xB237F800, 0xB154A010, 0xB01B0020, 0xB2400030, 0xB0DC004D, 0xB0F10849,
     0xB23E9054, 0xB2677860] : List Nat).map (decodeTableWord 32) =
    ([.vdopen 17 23 31, .vdacc 10 20 20, .vdthr 27,
     .vdclose 18, .vdtest 6 28 6 1, .vdtestAny 7 17 4 1,
     .topki 17 30 18 2, .bscore 19 7 15] : List Instr).map some := rfl

theorem test_words_major48 :
    ([0xC1A233A3, 0xC2A659EB, 0xC1526ECC, 0xC329E016, 0xC1012C53] : List Nat).map (decodeTableWord 32) =
    ([.mma 26 2 13219, .mma 42 6 23019, .mma 21 2 28364,
     .mma 50 9 57366, .mma 16 1 11347] : List Instr).map some := rfl

theorem test_words_major49 :
    ([0xC641D6A8] : List Nat).map (decodeTableWord 32) =
    ([.matrixHold 36 1 54952] : List Instr).map some := rfl

theorem test_words_major50 :
    ([0xCBF1E583, 0xCA975B9D, 0xC9A88A8F] : List Nat).map (decodeTableWord 32) =
    ([.tcopy 63 1 58755, .tcopy 41 7 23453, .tcopy 26 8 35471] : List Instr).map some := rfl

theorem test_words_major51 :
    ([0xCEC8C937] : List Nat).map (decodeTableWord 32) =
    ([.copyHold 44 8 51511] : List Instr).map some := rfl

theorem test_words_major52 :
    ([0xD10846C9, 0xD2A500B5, 0xD05F0000] : List Nat).map (decodeTableWord 32) =
    ([.tgather 16 8 18121, .tgather 42 5 181, .tscore 5] : List Instr).map some := rfl

theorem test_words_major53 :
    ([0xD4D41F4E] : List Nat).map (decodeTableWord 32) =
    ([.gatherHold 13 4 8014] : List Instr).map some := rfl

theorem test_words_major54 :
    ([0xD8853F82] : List Nat).map (decodeTableWord 32) =
    ([.tcoll 8 5 16258] : List Instr).map some := rfl

theorem test_words_major55 :
    ([0xDCDC6F7A] : List Nat).map (decodeTableWord 32) =
    ([.collectiveHold 13 12 28538] : List Instr).map some := rfl

theorem test_words_major56 :
    ([0xE164BF1F, 0xE0ABE893, 0xE189465B, 0xE2B158B8] : List Nat).map (decodeTableWord 32) =
    ([.seek 22 4 48927, .seek 10 11 59539, .seek 24 9 18011,
     .seek 43 1 22712] : List Instr).map some := rfl

theorem test_words_major57 :
    ([0xE486BBBE] : List Nat).map (decodeTableWord 32) =
    ([.searchHold 8 6 48062] : List Instr).map some := rfl

theorem test_words_major58 :
    ([0xE80788B6, 0xE80C8283, 0xE817809B, 0xE820003B, 0xE83C8001, 0xE8348107,
     0xE8488405, 0xE8500004, 0xE86CA200, 0xE879C20A, 0xE8848005] : List Nat).map (decodeTableWord 32) =
    ([.tmpl 15 2 1 54, .tmplBfmt 25 3, .notify 15 1 27,
     .qdrain 59, .ringsetCfg 25 1, .ringsetAdv 9 7,
     .feedbind 17 1 5, .feedstop 4, .sqld 25 8 2,
     .ztest 19 16 2 10, .wpwait 9 5] : List Instr).map some := rfl

theorem test_words_major59 :
    ([0xEC008E24, 0xEC100133, 0xEC20551B, 0xEC39E918, 0xEC404494, 0xEC520202,
     0xEC604198, 0xEC778093, 0xEC80361E, 0xEC904915, 0xECA00210] : List Nat).map (decodeTableWord 32) =
    ([.bjoin 1 3 4 1 4, .bdrop 2 1 19, .barr 21 2 27,
     .bwait 19 26 2 24, .barw 17 1 20, .bexp 4 4 2,
     .btest 16 3 24, .fset 15 1 19, .fget 13 4 30,
     .lwait 18 2 21, .lrel 4 16] : List Instr).map some := rfl

theorem test_words_major60 :
    ([0xF007840D, 0xF01F9800, 0xF0230411, 0xF0398000, 0xF0433C04, 0xF0592800,
     0xF06A2000, 0xF0FCA10B] : List Nat).map (decodeTableWord 32) =
    ([.enq 15 1 13, .spawn 31 6, .karm 6 1 1 1,
     .kdisarm 19, .klaunch 6 15 4, .kcancel 18 10,
     .shwait 20 8, .slupd 7 1 15 25 2] : List Instr).map some := rfl

theorem test_words_major61 :
    ([0xF40BBC2E, 0xF4122401, 0xF4238C00, 0xF4330C00, 0xF446D405, 0xF45AA999,
     0xF469F872, 0xF47EC590, 0xF48E0190, 0xF4908060] : List Nat).map (decodeTableWord 32) =
    ([.preq 23 15 1 14, .pcancel 4 9 1, .pharv 7 3,
     .btfork 6 3, .btmap 13 21 5, .btunmap 21 10 409,
     .wopen 19 30 7 2, .wcommit 29 17 25, .wabort 28 25,
     .wstat 1 6] : List Instr).map some := rfl

theorem test_words_major62 :
    ([0xF801E019, 0xF818801E, 0xF8280007, 0xF831800F, 0xF84300A2, 0xF85C8050,
     0xF8697190] : List Nat).map (decodeTableWord 32) =
    ([.hpin 3 24 25, .hunpin 17 30, .hsave 16 7,
     .hevict 3 15, .hdlbind 6 10 2, .hdlunb 25 5,
     .hdlmsg 18 28 25] : List Instr).map some := rfl

/-! For each statement with hypotheses: a state and operands that meet them. -/

theorem witness_IntegerMembersCompleteWithTheirResults : preg s0 0 = true ∧ preg s0 1 = false := by decide

theorem witness_CountsMovesAndFieldsComplete : preg s0 0 = true ∧ preg s0 7 = false := by decide

theorem witness_ComparisonAndPredicateLogicComplete :
    preg s0 0 = true ∧ preg s0 2 = false ∧ (9#6).toNat ≤ 9 ∧ 9 < (10#6).toNat := by decide

theorem witness_ScalarFloatMembersComplete :
    preg s1 0 = true ∧ preg s1 1 = false ∧ isVerdict ((sreg s1 1).extractLsb' 0 32) = false ∧
      isVerdict ((sreg s1 3).extractLsb' 0 32) = true ∧ (numFmt 0).isSome = true ∧ (numFmt 12).isSome = true ∧
      12 < (13#4).toNat := by decide

theorem witness_RepresentableValuesRoundToThemselves :
    FFmt.f32.maxMag < 2 ^ FFmt.f32.width ∧ FFmt.f32.maxMag % FFmt.f32.signBit ≤ FFmt.f32.maxMag := by decide

/-- A core on which an unended command reads and writes the first word of W. -/
def s2 : State := { s0 with core := { s0.core with
  seq := 1, q := vset s0.core.q 1 [{ baseCommand s0 0 0 with reads := [⟨0, 0, 8⟩], writes := [⟨0, 0, 8⟩] }] } }

theorem witness_ScratchpadAccessesComplete :
    (0#2 ≠ 3 ∧ (sreg s0 0).toNat % 8 = 0 ∧ (sreg s0 0).toNat + 8 ≤ bufSize s0.core 0 ∧
      mustWait s0.core [⟨0, 0, 8⟩] [] = false ∧ mustWait s0.core [] [⟨0, 0, 8⟩] = false ∧ badWord s0.core 0 0 = false) ∧
    (mustWait s2.core [⟨0, 0, 8⟩] [] = true ∧ mustWait s2.core [] [⟨0, 0, 8⟩] = true) ∧
    (sreg s1 1).toNat % 8 ≠ 0 ∧ (0x3FFF#14).toNat = 16383 ∧ bufSize s0.core 2 < 8 * 0x40000 + 8 := by decide

/-- s1 with a queued store of four bytes at the page's base. -/
def s3 : State := st { run1 with accessQ := [
  ⟨0, .write [(0x300000, 1), (0x300001, 2), (0x300002, 3), (0x300003, 4)] [(0x20000, 0x300000)]⟩] }

/-- s1 whose handle h4 names a page of module 5, which no port reaches. -/
def sLost : State := st { run1 with h := run1.h.set 4 { page with frame := 2 ^ 38 + 5 * 2 ^ 28 } }

theorem witness_GlobalLoadsAndStoresComplete :
    (hintOk 0 0 = true ∧ (hreg s1 1).valid = true ∧ 0 + 4 ≤ (hreg s1 1).pageSize ∧ (hreg s1 1).r = true ∧ (hreg s1 1).res = true ∧
      pathUp s1 (hreg s1 1).base = true ∧ loadBytes s1 0x20000 0x300000 4 = .read [0, 0, 0, 0] ∧ badByte s1 0x300000 4 = none) ∧
    loadBytes s3 0x20000 0x300000 4 = .forwarded [1, 2, 3, 4] ∧ loadBytes s3 0x20000 0x300000 8 = .wait ∧
    (4095 * 1 + 1 ≤ (hreg s1 1).pageSize ∧ (hreg s1 1).pageSize < 2048 * 2 + 2) ∧
    inWindowRecord s1 0x300000 4 = false ∧ (hreg s1 0).valid = false ∧ (hreg s1 2).res = false ∧ (hreg s1 2).r = true ∧
    (hreg s1 3).r = false ∧ (hreg s1 3).w = false ∧ s1.core.ctx.accessQ = [] ∧ s1.later = false ∧
    badByte { s1 with badLines := [0xC000] } 0x300000 4 ≠ none ∧ s1.reds = [] ∧
    ((hreg sLost 4).valid = true ∧ (hreg sLost 4).res = true ∧ (hreg sLost 4).r = true ∧ pathUp sLost (hreg sLost 4).base = false) ∧
    (hreg s1 0).valid = false ∧ 1 % 4 ≠ 0 ∧ loadBytes { s3 with badLines := [0xC000] } 0x20000 0x300000 4 = .forwarded [1, 2, 3, 4] := by
  decide

/-- s1 in a module whose slices keep the dirty mark, or not, by CAPS. -/
def dirtyCaps : State := { s1 with caps := BitVec.allOnes 64 }

/-- A RED of the context to the page, which the store queue holds. -/
def pageRed : Red :=
  { va := 0x20000, aspace := 0, op := 1, sz := 0, v := 5, rel := false, scope := 0, die := 0, core := 0, seqTag := 0
    kernelId := 0, ctxId := 0, word := 0, seq := 3, pa := none, waits := false }

theorem witness_AtomicsComplete :
    ((11#4).toNat ≤ 11 ∧ (sreg s1 0).toNat % 8 = 0 ∧ (hreg s1 1).valid = true ∧ 4088 + 8 ≤ (hreg s1 1).pageSize ∧
      (hreg s1 1).r = true ∧ (hreg s1 1).w = true ∧ (hreg s1 1).res = true ∧ (hreg s1 1).tier = 0 ∧
      pathUp s1 0x300000 = true ∧ inWindowRecord s1 0x300000 8 = false ∧ s1.badLines = [] ∧ s1.core.ctx.accessQ = [] ∧
      s1.reds = [] ∧ s1.heldBytes = [] ∧ s1.bindings = [] ∧ tierOf s1 0x300000 = 0 ∧ capsDirty s1 = false ∧ s1.core.tlbStores < 4095) ∧
    (∀ i, i < 8 → ∀ j, j < 8 → canonPa s1 (0x300000 + i) = canonPa s1 (0x300000 + j) → i = j) ∧
    ((sreg s1 2).toNat % 4 ≠ 0 ∧ (hreg s1 0).valid = false ∧ (hreg s1 1).pageSize < 4096 + 8 ∧ (hreg s1 3).r = false ∧
      (hreg s1 2).res = false ∧ (hreg s1 2).w = true ∧ (hreg sLost 4).res = true ∧ pathUp sLost (hreg sLost 4).base = false ∧
      s3.core.ctx.accessQ ≠ [] ∧ redHolds { s1 with reds := [{ pageRed with pa := some 0x300000 }] } 0x300000 8 = true ∧
      (2#2).getLsbD 1 = true ∧ redsOutstanding { s1 with reds := [pageRed] } = true) := by decide

theorem witness_ReductionsAndMarksAreQueuedAndPerformed :
    (11#4).toNat ≤ 11 ∧ 1 ≤ (9#4).toNat ∧ ¬ (9#4 = 9 ∧ 0#1 = 1) ∧ (sreg s1 0).toNat % 8 = 0 ∧ (sreg s1 2).toNat % 4 ≠ 0 ∧
      0 + 8 ≤ (hreg s1 1).pageSize ∧ (hreg s1 1).w = true ∧ capsDirty dirtyCaps = true ∧ (hreg s1 3).w = false ∧
      (hreg s1 3).valid = true ∧ (hreg s1 1).pageSize < 4096 + 8 := by decide

/-- A program's page mapped at virtual 0, and two REDs to it: one untranslated, one translated. -/
def sRed : State :=
  let r : Red :=
    { va := 0x40, aspace := 0, op := 1, sz := 0, v := 5, rel := false, scope := 0, die := 0, core := 0, seqTag := 0
      kernelId := 0, ctxId := 0, word := 0, seq := 0, pa := none, waits := false }
  { State.reset.withFetchWord 32 0x64000000 with reds := [r, { r with va := 0x80, pa := some 0x100080 }] }

/-- The same statement, its clauses on a RED that has left the queue. -/
theorem witness_ReductionsAndMarksAreQueuedAndPerformed_sent :
    sRed.reds[0]?.map (·.pa) = some none ∧
    (match walk sRed 0 0x40 with
      | .ok l => dW l.desc && residentFor sRed l 0 0 0 && !inWindowRecord sRed (leafPa l 0x40) 4 && pathUp sRed (leafPa l 0x40)
      | .error _ => false) = true ∧
    (sRed.reds[1]?.bind (·.pa) = some 0x100080 ∧ (sRed.reds[1]?.map fun r => redBehind sRed 1 r) = some false ∧ pathFrom sRed 0 0x100080 = true ∧
      sRed.badLines = [] ∧ sRed.heldBytes = [] ∧ capsDirty sRed = false ∧ sRed.bindings = [] ∧ tierOf sRed 0x100080 = 0 ∧
      ∀ i, i < 8 → canonPa sRed (0x100080 + i) = 0x100080 + i) := by decide

theorem witness_HandlesAreFilledDroppedAndRead :
    (match walk sRed 0 0 with | .ok _ => true | .error _ => false) = true ∧
    (match walk s0 0 0 with | .ok _ => false | .error _ => true) = true := by decide

/-- s1 with one queued access, behind queued loads. -/
def queuedAccess (before : List Access) (k : AccessKind) : State := st { run1 with accessQ := before ++ [⟨3, k⟩] }

theorem witness_QueuedAccessesArePerformed :
    uncheckedBefore s3.core.ctx 0 = false ∧
    (storeHead s3.core.ctx.accessQ =
        some ([], ⟨0, .write ((List.range 4).map fun i => (0x300000 + i, BitVec.ofNat 8 (0x04030201 / 256 ^ i)))
          [(0x20000, 0x300000)]⟩, []) ∧
      loadOverlaps s3 [⟨2, .load 1 0x20800 0x300800 4⟩] [(0x300000, 1)] = false ∧
      cellsFree s3 ((List.range 4).map fun i => (0x300000 + i, 0)) = true ∧
      (∀ i, i < 4 → canonPa s3 (0x300000 + i) = 0x300000 + i) ∧ s3.bindings = [] ∧ tierOf s3 0x300000 = 0) ∧
    (storeHead (queuedAccess [⟨2, .load 1 0x20800 0x300800 4⟩] (.red pageRed)).core.ctx.accessQ =
        some ([⟨2, .load 1 0x20800 0x300800 4⟩], ⟨3, .red pageRed⟩, []) ∧
      loadMeetsRed s1 [⟨2, .load 1 0x20800 0x300800 4⟩] pageRed = false) ∧
    (storeHead (queuedAccess [] (.mark .rel 6)).core.ctx.accessQ = some ([], ⟨3, .mark .rel 6⟩, []) ∧
      redsOf s1 s1.core.ctx.ctxId = [] ∧ redsOf sRed sRed.core.ctx.ctxId ≠ [] ∧ (6#4).toNat < 7 ∧ 7 ≤ (7#4).toNat) ∧
    (loadHead (queuedAccess [] (.load 1 0x20000 0x300000 4)).core.ctx.accessQ =
        some ([], ⟨3, .load 1 0x20000 0x300000 4⟩, []) ∧
      pathUp (queuedAccess [] (.load 1 0x20000 0x300000 4)) 0x300000 = true ∧
      (loadHead (queuedAccess [] (.load 1 0x20000 (2 ^ 50 + 5 * 2 ^ 40) 4)).core.ctx.accessQ).isSome = true ∧
      pathUp (queuedAccess [] (.load 1 0x20000 (2 ^ 50 + 5 * 2 ^ 40) 4)) (2 ^ 50 + 5 * 2 ^ 40) = false ∧
      loadHead (queuedAccess [⟨2, .write [] []⟩] (.mark .acq 7)).core.ctx.accessQ = some ([⟨2, .write [] []⟩], ⟨3, .mark .acq 7⟩, []) ∧
      acqHeld [⟨2, .load 1 0x20800 0x300800 4⟩] = false ∧
      (queuedAccess [] (.load 1 0x20000 0x300000 4)).reds = [] ∧ (queuedAccess [] (.mark .acq 7)).core.ctx.vq = []) := by
  refine ⟨?_, ?_, ?_, ?_, ?_⟩ <;> decide

theorem witness_TransfersReachTheirTargets :
    preg s1 0 = (0#1 == 0) ∧ preg s1 1 ≠ (0#1 == 0) ∧ (sreg s1 1).toNat % 4 = 0 ∧ (sreg s1 2).toNat % 4 ≠ 0 ∧
      (sreg s1 31).toNat % 4 = 0 ∧ (sreg (setS s1 31 2) 31).toNat % 4 ≠ 0 := by decide

/-- A loop of level 0 whose one word lies at the pc, with three iterations to go. -/
def looping : Context := { run with
  pc := 0x40, lc := run.lc.set 0 3, loops := run.loops.set 0 ⟨true, 0, 0, 0x40⟩ }

theorem witness_LoopsStartAndEnd :
    run.inTrap = false ∧ (0x7FFF#15).toNat ≠ 0 ∧ min (sreg s1 1).toNat 0xFFFFFFFF ≠ 0 ∧ (0#2) ≠ 3 ∧
    (∀ m, m < 3 → (loopAt run m).active = false) ∧
    ((loopAt looping 0).active = true ∧ (loopAt looping 0).pos = 0 ∧ (loopAt looping 0).last = looping.pc ∧
      (∀ m, m < 3 → m ≠ 0 → (loopAt looping m).active = false) ∧ 1 < (vget looping.lc 0 0).toNat) ∧
    (pastInstr looping).pc = 0x40 ∧ (vget (pastInstr (pastInstr looping)).lc 0 0).toNat ≤ 1 := by decide

theorem witness_SystemRegistersAreReadAndWritten :
    vectorPending run = false ∧ run.vq = [] ∧ ownCommands s0.core run.ctxId = [] ∧ sysregOk 0x11 = false ∧
      sysregOk 0x17 = false ∧ sysregOk 0x20 = false := by decide

theorem witness_TrapsEnterTheHandlerOrStop :
    (run.inTrap = false ∧ run.handler ≠ 0 ∧ Cause.breakpoint ≠ .halt) ∧ run.park = none ∧
      ({ run with inTrap := true } : Context).inTrap = true ∧ (Context.blank 0).handler = 0 := by decide

/-- A running context of a group whose entry stands in the Steward, with a more urgent eligible one beside it, or without. -/
def sGroup (more : Bool) : State :=
  let l : LaunchRec :=
    { entry := 0, handler := 0, prio := 1, cores := 1, gang := 0, task := false, restart := false, repro := false, nest := 1, parg := 1
      harg := 1, seqTag := 0, caddr := 0, cbar := 0, ext := [1], order := 0, args := [], regions := [], prefs := [] }
  let g : KEntry :=
    { die := 0, entry := 0, id := 1, state := .running, launch := l, aspace := 0, depth := 0, arrival := 0, dispatched := 0
      heldBy := [], nextT := 1, redo := [], retired := 0, cause := 0, endCode := 0, cores := [0], frames := [], images := []
      victim := none, cycles := 0, guard := false, owed := [] }
  { st { run with kernelId := 1 } with
    core := { s0.core with ctx := { run with kernelId := 1 }, group := some 0 }
    kernels := if more then [g, { g with
        entry := 1, id := 2, state := .eligible, launch := { l with prio := 200, cores := 192 }, cores := [] }]
      else [g] }

/-- A context in its handler, with the loop of `looping`, whose trap was taken on the loop's last word. -/
def inHandler (tpc : Word) : Context := { looping with inTrap := true, trapAt := 0x40, tpc := tpc }

theorem witness_HandlerReturnsAndContextsEnd :
    ((inHandler 0x40).inTrap = true ∧ (inHandler 0x40).tpc ≠ (inHandler 0x40).trapAt + 4 ∧
      (inHandler 0x44).tpc = (inHandler 0x44).trapAt + 4 ∧ (loopAt (inHandler 0x44) 0).active = true ∧
      (loopAt (inHandler 0x44) 0).pos = 0 ∧ (loopAt (inHandler 0x44) 0).last = (inHandler 0x44).trapAt ∧
      1 < (vget (inHandler 0x44).lc 0 0).toNat ∧ (∀ m, m < 3 → m ≠ 0 → (loopAt (inHandler 0x44) m).active = false)) ∧
    run.inTrap = false ∧ workLeft s0 = false ∧ workLeft s3 = true ∧
    kernelById s0 run.kernelId = none ∧
    ((kernelById (sGroup false) 1).map victimFit = some true ∧ (kernelById (sGroup true) 1).map victimFit = some true ∧
      (kernelById (sGroup false) 1).map (fun g => (yieldTo (sGroup false) g).isNone) = some true ∧
      (kernelById (sGroup true) 1).map (fun g => (yieldTo (sGroup true) g).isSome) = some true) := by decide +kernel

theorem lane_zero (s : State) (h : s.core.ctx.v = run.v) (r : BitVec 5) (k : Nat) : lane s r k = 0 := by
  have hv : vreg s.core.ctx r = Vector.replicate 1024 0 := by
    have hr := r.isLt
    simp [vreg, vget, h, run, Context.blank, hr]
  simp only [lane, hv]
  by_cases hk : k < 1024
  · simp [hk]
  · simp [hk]

theorem verdictFree_s0 (act : BitVec 1024) (r : BitVec 5) : VerdictFree s0 act r := fun k _ _ => by
  rw [lane_zero s0 rfl]; decide

/-- v1 holds a verdict word in every lane. -/
def sVerdict : State := st { run with v := run.v.set 1 (Vector.replicate 1024 0xFFA10003) }

theorem witness_VectorFloatMembersComplete :
    s0.core.ctx.vq = [] ∧ s0.later = false ∧ (∀ a, VerdictFree s0 (mreg s0.core.ctx 0) a) ∧
      sVerdict.core.ctx.vq = [] ∧ (mreg sVerdict.core.ctx 0).getLsbD 1023 = true ∧ isVerdict (lane sVerdict 1 1023) = true :=
  ⟨rfl, rfl, fun _ => verdictFree_s0 _ _, rfl, by decide +kernel, by decide +kernel⟩

theorem witness_VectorIntegerMembersComplete : s0.core.ctx.vq = [] ∧ s0.later = false := ⟨rfl, rfl⟩

theorem witness_VectorComparesAndConversionsComplete :
    (Starts (.vcmp 1 2 3 5 2 0 0) s0 ∧ Starts (.vcvt 1 2 0 10 0 0) s0 ∧ Starts (.vsplit 29 1 0 0) s0 ∧ Starts (.vpack 1 2 8 0 0) s0 ∧
      Starts (.vunpk 1 2 13 0 0) s0 ∧ Starts (.vsfu 1 2 0 0 0) s0 ∧ Starts (.vcvt 1 2 0 13 0 0) s0 ∧ Starts (.vcvt 1 2 13 0 0 0) s0) ∧
    (numFmt 0).isSome = true ∧ (numFmt 10).isSome = true ∧ (∀ act a, VerdictFree s0 act a) ∧
    (∀ a k, isVerdict (lane s0 a k) = false) ∧ q4Decode 0 ≠ none ∧ q4Decode 0x8888 = none ∧
    (Starts (.vcmp 1 1 3 5 2 0 0) sVerdict ∧ Starts (.vpack 2 1 8 0 0) sVerdict ∧ Starts (.vsfu 2 1 3 0 0) sVerdict ∧
      (mreg sVerdict.core.ctx 0).getLsbD 1023 = true ∧ isVerdict (lane sVerdict 1 1023) = true) ∧
    FFmt.f32.val 0x7FC00000 = .nan ∧ FFmt.f32.val 0xFF800000 = .inf true ∧ FFmt.f32.val 0x80000000 = .fin true 0 (-149) ∧
    FFmt.f32.val 0x40400000 = .fin false 0xC00000 (-22) :=
  ⟨by unfold Starts; decide, rfl, rfl, verdictFree_s0, fun a k => by rw [lane_zero s0 rfl]; decide, by decide, by decide,
    ⟨⟨rfl, rfl, rfl⟩, ⟨rfl, rfl, rfl⟩, ⟨rfl, rfl, rfl⟩, by decide +kernel, by decide +kernel⟩, by decide, by decide, by decide, by decide⟩

theorem witness_AxisMembersComplete :
    (Starts (.vrotr 1 2 3 0 0) s0 ∧ Starts (.vbcr 1 2 3 0 0) s0 ∧ Starts (.vrotc 1 2 3 0 0) s0 ∧ Starts (.vbcc 1 2 3 0 0) s0 ∧
      Starts (.vredr 1 2 2 2 0 0) s0 ∧ Starts (.vscanr 1 2 0 0 0 0) s0 ∧ Starts (.vredc 1 2 1 0 0 0) s0 ∧
      Starts (.vscanc 1 2 1 1 0 0) s0 ∧ Starts (.vredrC 2 4 0 0) s0 ∧ Starts (.vredcC 30 4 0 0) s0) ∧
    (∀ a k, isVerdict (lane s0 a k) = false) ∧
    (Starts (.vscanr 1 1 0 0 0 0) sVerdict ∧ Starts (.vredcC 30 1 0 0) sVerdict ∧ (mreg sVerdict.core.ctx 0).getLsbD 0 = true ∧
      Axis.row.group 0 = Axis.row.group 63 ∧ isVerdict (lane sVerdict 1 63) = true) :=
  ⟨by unfold Starts; decide, fun a k => by rw [lane_zero s0 rfl]; decide,
    ⟨rfl, rfl, rfl⟩, ⟨rfl, rfl, rfl⟩, by decide +kernel, rfl, by decide +kernel⟩

theorem witness_PermutesAndMasksComplete : s0.core.ctx.vq = [] ∧ s0.later = false := ⟨rfl, rfl⟩

/-- Feed 0 active, input, with 1,024 elements read ahead; feed 1 active, output, of 1,024 elements. -/
def sFeeds : State :=
  let f := feedOf s1.core 0
  let feeds := (s1.core.feeds.set 0 { f with image := 0x1, ahead := List.replicate 1024 0 }).set 1 { f with image := 0x11 + 1023 * 2 ^ 96 }
  { s1 with core := { s1.core with feeds := feeds } }

/-- Feed 0 active, input, with nothing read ahead. -/
def sDry : State := { s1 with core := { s1.core with feeds := s1.core.feeds.set 0 { feedOf s1.core 0 with image := 0x1 } } }

theorem witness_VectorMemoryMembersComplete :
    (Starts (.vld 1 0 0 0) s1 ∧ (footCheck s1.core 0 0 false).toOption.isSome = true ∧ mustWait s1.core [⟨0, 0, 4096⟩] [] = false ∧
      s1.core.bad = [] ∧ s1.core.failedBanks = [] ∧ s1.core.soft = []) ∧
    (Starts (.vst 1 2 0 0) s1 ∧ (footCheck s1.core 2 0 true).toOption.isSome = true ∧ mustWait s1.core [] [⟨2, 0, 4096⟩] = false) ∧
    (Starts (.vldg 1 1 2 0 0 2) s1 ∧ Starts (.vstg 1 1 2 0 0 0) s1 ∧ s1.windows = [] ∧ s1.bindings = [] ∧ s1.badLines = [] ∧
      s1.core.ctx.accessQ = [] ∧ s1.reds = [] ∧
      loadFinds s3 s3.core.ctx.accessQ [(0x20000, 0x300000, 4), (0x20002, 0x300002, 4)] = .wait ∧
      ∀ j, (lane s1 2 j).toNat % 4 = 0 ∧ (lane s1 2 j).toNat < (hreg s1 1).pageSize ∧
        pathUp s1 ((hreg s1 1).base + (lane s1 2 j).toNat) = true ∧
        tierOf s1 (((hreg s1 1).base + (lane s1 2 j).toNat) / 64 * 64) = 0) ∧
    (Starts (.vpop 1 0 0 0) sFeeds ∧ feedFit (feedOf sFeeds.core 0) false = true ∧ 1024 ≤ (feedOf sFeeds.core 0).ahead.length) ∧
    Starts (.vpush 1 1 0) sFeeds ∧ feedFit (feedOf sFeeds.core 1) true = true ∧
      (feedOf sFeeds.core 1).out.length + 1024 ≤ feedRoom ∧
      (feedOf sFeeds.core 1).done + 1024 ≤ feedLen (feedOf sFeeds.core 1) := by
  refine ⟨⟨⟨rfl, rfl, rfl⟩, rfl, rfl, rfl, rfl, rfl⟩, ⟨⟨rfl, rfl, rfl⟩, by decide +kernel, rfl⟩,
    ⟨⟨rfl, rfl, rfl⟩, ⟨rfl, rfl, rfl⟩, rfl, rfl, rfl, rfl, rfl, by decide, fun j => ?_⟩,
    ⟨⟨rfl, rfl, rfl⟩, by decide +kernel, by decide +kernel⟩, ⟨rfl, rfl, rfl⟩, by decide +kernel, by decide +kernel, by decide +kernel⟩
  rw [lane_zero s1 rfl]
  decide

/-- The core of s1 with BFMT 0 of every bank but the given one, and v1 and v2 holding one value in every lane. -/
def sVm (bank : Nat) (fmt : BitVec 32) (x : BitVec 32) : State := modCore s1 fun k => { k with
  bfmt := vset k.bfmt bank fmt
  ctx := { k.ctx with v := (k.ctx.v.set 1 (Vector.replicate 1024 x)).set 2 (Vector.replicate 1024 x) } }

theorem witness_VectorMemoryMembersTrap :
    (Starts (.vld 1 0 1 0) s1 ∧ Starts (.vst 1 0 0 0) s1 ∧ (sreg s1 1).toNat % 64 ≠ 0 ∧
      bufSize s1.core 2 < 64 * 8191 + (footOf s1.core 2 (64 * 8191)).len) ∧
    (let s := sVm 0 0x10000000 0; Starts (.vld 1 0 0 0) s ∧
      64 * 0 + (footOf s.core 0 0).len ≤ bufSize s.core 0 ∧ (otherBank s.core 0 0 (footOf s.core 0 0).len).isSome = true) ∧
    (let s := modCore s1 fun k => { k with bad := [(0, 3)] };
      footBad s.core 0 0 (footOf s.core 0 0) = some 24 ∧ (footCheck s.core 0 0 false).toOption.isSome = true) ∧
    (let s := sVm 12 1 0xFFA10003; bankOf 1 0 = 12 ∧ narrowing (footOf s.core 1 0).fmt = true ∧ isVerdict (lane s 1 1023) = true ∧
      (footCheck s.core 1 0 true).toOption.isSome = true) ∧
    ((lane (sVm 0 0 6) 2 0).toNat % 4 ≠ 0 ∧ 2 * (hreg s1 1).pageSize ≤ (lane (sVm 0 0 0x80000000) 2 0).toNat ∧
      (hreg s1 1).valid = true ∧ (hreg s1 9).valid = false ∧ ({ hreg s1 1 with w := false } : Handle).w = false) ∧
    (feedFit (feedOf s1.core 0) false = false ∧ feedFit (feedOf s1.core 0) true = false) ∧
    (let F := { feedOf sFeeds.core 1 with out := List.replicate 4000 (0, 0) }; feedFit F true = true ∧ feedRoom < F.out.length + 1024) ∧
    (let F := { feedOf sFeeds.core 1 with image := 0x111 + 1023 * 2 ^ 96 }; feedFit F true = true ∧ narrowing (feedFmt F) = true ∧
      F.out.length + 1024 ≤ feedRoom ∧ F.done + 1024 ≤ feedLen F) := by
  refine ⟨⟨⟨rfl, rfl, rfl⟩, ⟨rfl, rfl, rfl⟩, ?_⟩, ⟨⟨rfl, rfl, rfl⟩, ?_⟩, ?_, ?_, ?_, ?_, ?_, ?_⟩ <;> decide +kernel

/-- A vector queue that holds VADDs of the two registers. -/
def sVq (n : Nat) (c : Context) (a : BitVec 5) : State :=
  st { c with vq := List.replicate n (.instr (.vadd 1 a 3 0 0) ⟨0, 0, 0, Handle.invalid, 0⟩ (snapOf c)) }

theorem witness_VectorQueueKeepsOrder :
    ((sVq 1 run 2).core.ctx.vq ≠ [] ∧ vecQueued (sVq 1 run 2).core.ctx < 16) ∧ ({ s0 with later := true } : State).later = true ∧
      ((sVq 16 run 2).core.ctx.vq ≠ [] ∧ 16 ≤ vecQueued (sVq 16 run 2).core.ctx) ∧ vecQueued (sVq 15 run 2).core.ctx < 16 ∧
      (feedFit (feedOf sFeeds.core 0) false = true ∧ popReady sFeeds 0 = true) ∧
      (feedFit (feedOf sDry.core 0) false = true ∧ popReady sDry 0 = false) ∧
      ((∀ a, VerdictFree (sVq 1 run 2) (mreg run 0) a) ∧ ¬ VerdictFree (sVq 1 sVerdict.core.ctx 1) (mreg run 0) 1 ∧
        run.inTrap = false ∧ run.handler ≠ 0) := by
  refine ⟨by decide, rfl, by decide, by decide, by decide +kernel, by decide +kernel,
    fun a k _ _ => ?_, fun h => ?_, rfl, by decide⟩
  · rw [lane_zero (sVq 1 run 2) rfl]; decide
  · exact absurd (h 1023 (by decide) (by decide +kernel)) (by decide +kernel)

/-- An open monitor of a kind on v1 with one chunk of one, on list v2. -/
def monitor (kind : BitVec 2) (j : Nat) : Monitor := ⟨true, kind, false, false, 1, 2, 0, 0, 0, 0, 1, j⟩

/-- A context with that monitor, s1 = 3 << 48 (kind 3), s2 = 2 << 8 (list v2). -/
def sMon (kind : BitVec 2) (j : Nat) : State := st { run with monitor := monitor kind j, s := (run.s.set 1 0x3000000000000).set 2 0x200 }

/-- The monitor of kind 1 with a verdict word in every lane of v2, the next term. -/
def sMonVerdict : State := st { run with monitor := monitor 1 0, v := run.v.set 2 (Vector.replicate 1024 0xFFA10003) }

theorem witness_VerdictMonitorComplete :
    (s0.core.ctx.vq = [] ∧ s0.later = false ∧ s0.core.ctx.monitor.isOpen = false ∧ (sreg s0 0).extractLsb' 52 12 = 0 ∧
      (FFmt.f32.val 0).isFin = true ∧ ltV (FFmt.f32.val 0) (.fin false 0 0) = false ∧ (FFmt.f32.val 0).isNan = false ∧ sreg s0 0 = 0) ∧
    ((sreg (sMon 3 0) 1).extractLsb' 48 2 = 3 ∧ (sreg (sMon 3 0) 1).extractLsb' 52 12 = 0 ∧
      (sreg (sMon 3 0) 1).getLsbD 51 = false ∧ sreg (sMon 3 0) 2 &&& ~~~0x1F3F = 0 ∧ (sreg (sMon 3 0) 2).extractLsb' 8 5 ≠ 1) ∧
    ((monitor 1 0).isOpen = true ∧ (1 : BitVec 5) = (monitor 1 0).d ∧ (monitor 1 0).j < (monitor 1 0).nc ∧
      (monitor 1 1).nc ≤ (monitor 1 1).j ∧ (monitor 1 0).kind ≠ 0 ∧ (monitor 0 0).kind = 0 ∧ (monitor 1 0).lock = false) ∧
    ((vdTermTrap false (vreg sMonVerdict.core.ctx 2) 0).isSome = true ∧ isVerdict (lane sMonVerdict 1 0) = false ∧
      (monitor 1 0).nonneg = false ∧ (2 : BitVec 5) ≠ 1 ∧ (sreg (sMon 1 0) 1).extractLsb' 32 32 ≠ 0 ∧ (FFmt.f32.val 0x7F800000).isFin = false) ∧
    ∀ k, vdTermTrap false (vreg (sMon 1 0).core.ctx 2) k = none := by
  refine ⟨by decide +kernel, by decide +kernel, by decide +kernel, by decide +kernel, fun k => ?_⟩
  have h (r c : Nat) : colAt (vreg (sMon 1 0).core.ctx 2) r c = 0 := congrArg BitVec.toNat (lane_zero (sMon 1 0) rfl 2 (r * 64 + c))
  simp only [vdTermTrap, h]
  decide

/-- A body of a template, field by field: first bit, width, value. -/
def body (l : List (Nat × Nat × Nat)) : BitVec 512 := l.foldl (fun b x => putField b x.1 x.2.1 x.2.2) 0

/-- A state with template 5 of a class. -/
def withTmpl (s : State) (cls : Nat) (b : BitVec 512) : State :=
  modCore s fun k => { k with tmpl := vset k.tmpl cls (vset (vget k.tmpl cls (Vector.replicate 64 0)) 5 b) }

/-- A state in which the command of a check has entered the queue of its class. -/
def issued (s : State) (cls : Nat) (r : Except Trap Command) : State :=
  match r with
  | .ok c => withCommand s cls c
  | .error _ => s

/-- The issue word of template 5, unamended, passes every check of its kind. -/
def passes (s : State) (cls kind : Nat) (check : State → BitVec 6 → BitVec 512 → Except Trap Command) : Bool :=
  match patched s cls 5 15 0 with
  | .ok b => decide (bodyKind b = kind) && !reservedSet cls kind b && queueFree s.core cls && (check s 5 b).toOption.isSome &&
      !fenceHeld s.core.ctx
  | .error _ => false

/-- A scoring template: D = 64, k = 64, through h1. -/
def scoreBody : BitVec 512 := body [(0, 8, 3), (16, 4, 1), (112, 6, 63), (128, 14, 0x100), (192, 32, 5), (464, 16, 0xFFFF)]

def sScore : State := withTmpl (st { run1 with s := run1.s.set 1 5 }) 2 scoreBody

theorem witness_VerdictTestsAndListsComplete :
    (Starts (.vdtest 1 1 0 0) sVerdict ∧ Starts (.vdtestAny 1 1 0 0) sVerdict ∧ isVerdict (0xFFA10003 : BitVec 32) = true ∧
      ((0xFFA10003 : BitVec 32).extractLsb' 16 5).toNat ≤ 3) ∧
    (Starts (.topki 2 1 0 0) (sMon 3 0) ∧ (sreg (sMon 3 0) 0).extractLsb' 38 26 = 0 ∧ (2 : BitVec 5) ≠ 1 ∧
      (topkCands (vreg (sMon 3 0).core.ctx 1) 0 (List.range 64)).toOption.isSome = true ∧
      ((sMon 3 0).core.ctx.monitor.isOpen && (sMon 3 0).core.ctx.monitor.kind == 3 && (sMon 3 0).core.ctx.monitor.list == 2) = true ∧
      (sMon 3 0).core.ctx.monitor.km1 = (sreg (sMon 3 0) 0).extractLsb' 32 6) ∧
    ((∀ x : BitVec 32, x = 0xFFA40003 → isVerdict x = true ∧ 3 < (x.extractLsb' 16 5).toNat) ∧
      (lane sVerdict 1 63).extractLsb' 16 5 ≠ 3 ∧ isVerdict (lane sVerdict 1 63) = true ∧
      (sMon 3 0).core.ctx.monitor.km1 ≠ (5 : BitVec 6) ∧ 64 ≤ (64 : BitVec 64).toNat ∧
      (scoreCheck s0 0 (bscoreBody s0 0 0 0)).toOption.isNone = true) ∧
    (sreg sScore 1).toNat < 64 ∧ (sreg sScore 2).toNat < 2 ^ 48 ∧ (sreg sScore 0).toNat < 2 ^ 32 ∧ fenceHeld sScore.core.ctx = false ∧
      queueFree sScore.core 2 = true ∧ (scoreCheck sScore 5 (bscoreBody sScore 1 0 0)).toOption.isSome = true := by
  refine ⟨⟨⟨rfl, rfl, rfl⟩, ⟨rfl, rfl, rfl⟩, ?_, ?_⟩, ⟨⟨rfl, rfl, rfl⟩, ?_, ?_, ?_, ?_, ?_⟩,
    ⟨fun x h => h ▸ by decide, ?_, ?_, ?_, ?_, ?_⟩, ?_, ?_, ?_, ?_, ?_, ?_⟩ <;> decide +kernel

theorem witness_PatchWordsStageTheirTemplates :
    (stagingOf sScore.core.ctx 2 = none ∧ kindOk 2 3 = true ∧ (fieldAt 2 1 0 = some (16, 4) ∧ (15#16).toNat < 2 ^ 4 ∧
      2 ^ 4 ≤ (16#16).toNat) ∧
      fieldAt 2 1 14 = none ∧ kindOk 2 0 = false) ∧ capsQuesar dirtyCaps = true ∧ capsQuesar { s0 with caps := 0 } = false := by
  decide +kernel

theorem witness_TemplatesAndBankFormatsComplete :
    ((Instr.tmpl 0 0 0 63).wf = true ∧ fullWait s0.core [Range.of 0 0 32] [] = false ∧ 0 + 64 ≤ bufSize s0.core 0 ∧
      (sreg s1 1).toNat % 32 ≠ 0 ∧ s0.core.bad = [] ∧ s0.core.soft = [] ∧ s0.core.failedBanks = []) ∧
    ((Instr.tmplBfmt 0 23).wf = true ∧ bfmtOk 23 0 = true ∧ 0x8000 * (23 - bufBank0 (bankBuf 23)) < bufSize s0.core (bankBuf 23) ∧
      mustWait s0.core [] [Range.of (bankBuf 23) 0x18000 0x8000] = false ∧ bfmtOk 0 31 = false) := by decide +kernel

/-- Two rings over W and A with f16 banks, metadata at the start of W (two positions of every four), a gang of two cores. -/
def sTiles : State := modCore s1 fun k => { k with
  w := memWrites [] 0 (List.replicate 32 0x44), gang := [0, 1], bfmt := vset (vset k.bfmt 0 1) (bufBank0 1) 1
  rings := vset (vset k.rings 0 ⟨64, 0, 0, 512, 0, 0, true⟩) 1 ⟨64, 0, 0, 512, 0, 1, true⟩ }

/-- A tile template of a kind: rings 0 and 1, K = 32, and what the kind needs besides. -/
def tileBody (kind : Nat) : BitVec 512 :=
  if kind ≤ 3 then body ([(0, 8, kind), (20, 3, 1), (64, 16, 31)] ++ if kind = 3 then [(112, 4, 3)] else [])
  else body ([(0, 8, kind)] ++ if kind = 5 then [(125, 2, 1)] else [])

def sTile (kind : Nat) : State := withTmpl sTiles 0 (tileBody kind)

/-- A copy template of a kind, one run of 4 elements: h1 to A (TCOPY), into A (TFILL), A to C (BCOPY). -/
def copyBody (kind : Nat) : BitVec 512 :=
  body (match kind with
    | 1 => [(0, 8, 1), (16, 4, 1), (28, 2, 2), (128, 16, 3), (464, 16, 0xFFFF)]
    | 2 => [(0, 8, 2), (28, 2, 2), (32, 16, 7), (128, 16, 3), (464, 16, 0xFFFF)]
    | _ => [(0, 8, 3), (20, 2, 2), (28, 2, 3), (128, 16, 3), (464, 16, 0xFFFF)])

def sCopy (kind : Nat) : State := withTmpl s1 1 (copyBody kind)

/-- A gather template: four rows of 64 bytes through h1, LIMIT 8, the list 0 to 3 at A 0x40, rows at C. -/
def gatherBody (kind : Nat) : BitVec 512 :=
  body [(0, 8, kind), (16, 4, 1), (80, 14, 4), (96, 16, 3), (112, 16, 64), (128, 32, 8), (160, 2, 3), (464, 16, 0xFFFF)]

def sGather (kind : Nat) : State := 
  withTmpl (modCore s1 fun k => { k with a := memWrites [] 0x40 ((List.range 4).flatMap (leBytes 4)) }) 2
    (if kind = 3 then scoreBody else gatherBody kind)

/-- A search template of a kind: SEEK with .q4e vectors, results through h1. -/
def searchBody (kind : Nat) : BitVec 512 :=
  body (if kind = 1 then [(0, 8, 1), (16, 4, 1), (24, 4, 1), (152, 8, 4), (160, 8, 1), (171, 5, 1), (176, 12, 15), (144, 6, 3),
    (464, 16, 0xFFFF)] else [(0, 8, kind)])

def sSearch (kind : Nat) : State := withTmpl { s1 with caps := BitVec.allOnes 64 } 4 (searchBody kind)

/-- Communicator 0 of die 0: this core and core 1, its list at 0x2000 and its table at 0x1000. -/
def sColl : State :=
  let m := memWrites (memWrites [] 0x1000 (leBytes 16 (0x2000 + 2 ^ 63))) 0x2000 (leBytes 4 2 ++ leBytes 4 0 ++ leBytes 4 0x800)
  withTmpl { s1 with mem := m, linkCtl := vset s1.linkCtl 0 ⟨0, 0, 0, 0x1000, 0⟩ } 3
    (body [(0, 8, 1), (16, 4, 1), (24, 4, 2), (128, 32, 4), (204, 4, 6)])

theorem witness_EngineCommandsEnterTheirQueues :
    ([1, 2, 3, 4, 5].all fun k => passes (sTile k) 0 k tileCheck) = true ∧
    (match tileCheck (sTile 3) 5 (tileBody 3) with | .ok c => gangFree (sTile 3) 0 c | .error _ => false) = true ∧
    ([1, 2, 3].all fun k => passes (sCopy k) 1 k copyCheck) = true ∧
    (passes (sGather 1) 2 1 (gatherCheck false) && passes (sGather 2) 2 2 (gatherCheck true) && passes (sGather 3) 2 3 scoreCheck) = true ∧
    passes sColl 3 1 collCheck = true ∧ capsQuesar (sSearch 1) = true ∧
    (passes (sSearch 1) 4 1 seekCheck && passes (sSearch 2) 4 2 plainCheck && passes (sSearch 3) 4 3 sappendCheck &&
      passes (sSearch 4) 4 4 plainCheck) = true := by decide +kernel

/-- A tile command of a kind stands in the queues of its participants. -/
def sTileQ (kind : Nat) : State :=
  match tileCheck (sTile kind) 5 (tileBody kind) with
  | .ok c => if kind = 3 then enterQueues (sTile 3) 0 c fun _ x => x else withCommand (sTile kind) 0 c
  | .error _ => s0

theorem witness_TileCommandsStart :
    ([1, 2, 4, 5].all fun k => match queueOf (sTileQ k).core 0 with
      | c :: _ => issuerClear (sTileQ k) c && decide (c.die = (sTileQ k).core.die) && c.gang.all (tileReady (sTileQ k) c) &&
          decide (c.kind = CmdKind.tmpl k) && decide (c.gang = [(sTileQ k).core.num])
      | [] => false) = true ∧
    (match queueOf (sTileQ 3).core 0 with
      | c :: _ => issuerClear (sTileQ 3) c && c.gang.all (tileReady (sTileQ 3) c) && decide (c.kind = .tmpl 3) &&
          decide (c.gang.Nodup ∧ c.gang = [0, 1])
      | [] => false) = true := by decide +kernel

/-- The queue's first command of a class stands as started. -/
def runs (s : State) (cls : Nat) : State := modCore s fun k => { k with
  q := vset k.q cls [], run := vset k.run cls ((queueOf k cls).take 1) }

theorem witness_TileCommandsEndWithTheirResults :
    [1, 2, 4, 5].all (fun k =>
      let s := runs (sTileQ k) 0
      match vget s.core.run 0 [] with
      | [c] => decide (c.gang = [s.core.num] ∧ c.die = s.core.die ∧ c.core = s.core.num) && !c.body.getLsbD 93 && !c.noEffect &&
          decide (c.need = 0 ∧ c.fault = none ∧ s.core.bad = [] ∧ s.core.soft = [] ∧ s.core.failedBanks = []) &&
          (if k ≤ 2 then decide ((tileOperands s.core c).fault = none ∧ accFault s.core c.body = none) &&
              decide (bodyNat c.body 16 3 ≠ bodyNat c.body 20 3 ∧ 1 ≤ tileK c.body / (tileOperands s.core c).g)
            else if k = 5 then (match c.writes with
              | dst :: _ => decide ((storeCheck s.core c.body).toOption = some dst) &&
                  (storeElt (tileInt c.body) false 0 0).isSome
              | [] => false)
            else true)
      | _ => false) = true := by decide +kernel

/-- The started commands of both cores of a gang. -/
def runsAll (s : State) : State :=
  let go (k : Core) : Core := { k with q := vset k.q 0 [], run := vset k.run 0 ((queueOf k 0).take 1) }
  mapCores s go

theorem witness_TileCommandsEndInOtherWays :
    (let s := modCore s1 fun k => { k with bars := vset k.bars 3 { Barrier.freeAt 9 with kind := .phaser, sigcnt := 2, arrived := 1 } };
      let b : BitVec 512 := tileBody 1 + 2 ^ 93 + 3 * 2 ^ 88;
      b.getLsbD 93 = true ∧ bodyNat b 16 3 ≠ bodyNat b 20 3 ∧ bodyKind b = 1 ∧ s.oneCycle = false ∧
        (getBar s (coreBar s.core.die s.core.num (bodyNat b 88 5))).kind = .phaser) ∧
    (let s := modCore (runs (sTileQ 2) 0) fun k => { k with w := [] };
      match vget s.core.run 0 [] with
      | [c] => (tileOperands s.core c).fault.isSome && (accFault s.core c.body).isNone
      | _ => false) = true ∧
    (let s := runsAll (sTileQ 3);
      match vget s.core.run 0 [] with
      | [c] => decide (bodyKind c.body = 3 ∧ c.gang.Nodup ∧ s.core.num ∈ c.gang ∧ c.need = 0 ∧ c.noEffect = false ∧
            c.body.getLsbD 93 = false ∧ c.die = s.core.die ∧ c.core = s.core.num) &&
          decide ((tileOperands s.core c).fault = none ∧ 1 ≤ tileK c.body / (tileOperands s.core c).g) &&
          c.gang.all fun m =>
            let k := getCore s s.core.die m
            decide (k.bad = [] ∧ k.soft = [] ∧ k.failedBanks = []) && (accFault k c.body).isNone &&
              (match vget k.run 0 [] with
              | [x] => decide (x.gid = c.gid ∧ x.fault = none)
              | _ => false)
      | _ => false) = true := by decide +kernel

def sCopyQ (kind : Nat) : State := issued (sCopy kind) 1 (copyCheck (sCopy kind) 5 (copyBody kind))

def sGatherQ (kind : Nat) : State :=
  issued (sGather kind) 2 ((if kind = 3 then scoreCheck else gatherCheck (kind == 2)) (sGather kind) 5 (if kind = 3 then scoreBody else gatherBody kind))

/-- The first command of a class of each kind has started. -/
def startedOf (s : State) (i : Instr) : State :=
  match exec i s with
  | .next t => t
  | _ => s

/-- R138's example: a started copy of four FP32 elements in A to a saturating E4M3 bank of W. -/
def sConvert : State :=
  let s := modCore s1 fun k => { k with
    bfmt := vset k.bfmt 3 0x23
    a := memWrites [] 0 (leBytes 4 0x3F800000 ++ leBytes 4 0x43FA0000 ++ leBytes 4 0x3A800000 ++ leBytes 4 0xC0200000) }
  let b := body [(0, 8, 3), (20, 2, 2), (28, 2, 1), (80, 16, 0x600), (128, 16, 3), (464, 16, 0xFFFF)]
  startedOf (issued s 1 (copyCheck s 5 b)) .bcopyStart

/-- A started BCOPY that signals the quad phaser 5, which lacks only its bytes. -/
def sSignal : State :=
  { modCore s1 (fun k => { k with run := vset k.run 1 [
    { baseCommand s1 5 (putField (putField (copyBody 3) 464 16 5) 480 3 1) with progress := 16 }] }) with
    netBars := [(barKey 1 0 0 5, { Barrier.freeAt 0 with kind := .phaser, sigcnt := 1, arrived := 1, pending := 16 })]
    allots := [(1, 5, 0)] }

/-- The same with twelve bytes left. -/
def sLeft : State := modCore sSignal fun k => { k with run := vset k.run 1 ((vget k.run 1 []).map fun c => { c with progress := 4 }) }

def copyInstr (kind : Nat) : Instr := if kind = 1 then .tcopyStart else if kind = 2 then .tfillStart else .bcopyStart

def gatherInstr (kind : Nat) : Instr := if kind = 1 then .tgatherStart else if kind = 2 then .tscatterStart else .tscoreStart

theorem witness_CopyAndGatherCommandsStartAndEnd :
    [1, 2, 3].all (fun k =>
      let s := sCopyQ k
      match startHead s 1 (.tmpl k) with
      | some c => decide (SoundCore s.core ∧ bodyKind c.body = k ∧ channelFor s.core (destBytes s.core 1 c) = some 0) &&
          !pointerBusy s.core c && (k != 1 || !notThere s (settleHandle s c.aspace c.die c.seqTag c.src))
      | none => false) = true ∧
    [1, 2, 3].all (fun k =>
      let s := sGatherQ k
      match startHead s 2 (.tmpl k) with
      | some c => decide (SoundCore s.core ∧ bodyKind c.body = k ∧ vget s.core.run 2 [] = []) && !pointerBusy s.core c
      | none => false) = true ∧
    channelFor (modCore s0 fun k => { k with run := vset k.run 1 (List.replicate 256 (baseCommand s0 0 0)) }).core 1 = none ∧
    (vget sSignal.core.run 1 [])[0]?.map (fun c => (c.kind, c.fault, bodyBar c.body, destBytes sSignal.core 1 c, c.progress)) =
      some (.tmpl 3, none, some (1, 5), 16, 16) ∧
    ((vget sSignal.core.run 1 []).map fun c => channelTurn sSignal.core 1 c) = [true] ∧
    (sSignal.oneCycle = false ∧ ((vget sLeft.core.run 1 []).map fun c => (destBytes sLeft.core 1 c - c.progress, channelTurn sLeft.core 1 c)) = [(12, true)]) ∧
    ((getBar sSignal (barKey 1 0 0 5)).kind = .phaser ∧ allotted sSignal (barKey 1 0 0 5) 0 = true) ∧
    (let s := startedOf (sGatherQ 1) .tgatherStart;
      (vget s.core.run 1 []).length ≤ 0 ∧ ((vget s.core.run 2 [])[0]?.map fun c => channelTurn s.core 2 c) = some true) := by
  refine ⟨?_, ?_, ?_, ?_, ?_, ?_, ?_, ?_⟩ <;> decide +kernel

theorem witness_CopyCommandsMoveTheirBytes :
    [1, 2, 3].all (fun k =>
      let s := startedOf (sCopyQ k) (copyInstr k)
      match vget s.core.run 1 [] with
      | [c] =>
        let x := copyShape s.core c.body
        decide (c.kind = CmdKind.tmpl k ∧ bodyKind c.body = k ∧ c.die = s.core.die ∧ c.core = s.core.num ∧ channelTurn s.core 1 c = true) &&
          decide (c.fault = none ∧ c.progress = 0 ∧ copyDims c.body = 0 ∧ bodyBar c.body = none ∧ SoundCore s.core) &&
          decide (PlainMemory s ∧ s.windows = [] ∧ s.core.tlbStores + x.drun / 64 + 2 < 4096) &&
          decide (∀ j, j < x.srun → canonPa s (c.src.base + copySoff c.body + j) = c.src.base + copySoff c.body + j ∧
            tierOf s ((c.src.base + copySoff c.body + j) / 64 * 64) = 0) &&
          decide (copySoff c.body + x.srun ≤ bufSize s.core (kindBuf (copySkind c.body))) &&
          decide (copyDoff c.body + x.drun ≤ bufSize s.core (kindBuf (copyDkind c.body))) &&
          decide (k = 3 → kindBuf (copySkind c.body) ≠ kindBuf (copyDkind c.body)) &&
          decide (k ≠ 2 → (copyConv s.core c.body x).toOption = some none)
      | _ => false) = true ∧
    (match vget sConvert.core.run 1 [] with
      | [c] => decide ((copyConv sConvert.core c.body (copyShape sConvert.core c.body)).toOption =
            some (some (NumFmt.flt .f32, NumFmt.flt .e4m3, true)) ∧
          copyDoff c.body % ((copyShape sConvert.core c.body).ed / 8) = 0 ∧ copyDims c.body = 0 ∧ channelTurn sConvert.core 1 c = true) &&
        (List.range 4).all fun j => !isVerdict (BitVec.ofNat 32 (leNat (spRead sConvert.core 1 (4 * j) 4)))
      | _ => false) = true := by decide +kernel

theorem witness_GatherCommandsMoveTheirRows :
    [1, 2, 3].all (fun k =>
      let s := startedOf (sGatherQ k) (gatherInstr k)
      match vget s.core.run 2 [] with
      | [c] =>
        let b := c.body
        let H := if k = 2 then c.dst else c.src
        decide ((vget s.core.run 1 []).length ≤ 0 ∧ c.kind = CmdKind.tmpl k ∧ bodyKind b = k ∧ c.die = s.core.die ∧ c.core = s.core.num) &&
          decide (c.fault = none ∧ c.progress = 0 ∧ bodyBar b = none ∧ SoundCore s.core ∧ PlainMemory s ∧ s.windows = []) &&
          (if k = 3 then decide (scResult b + 8 * scK b + 8 ≤ bufSize s.core 1 ∧
              ∀ l, l < (scLast b / 64 + 1) * scD b → tierOf s (H.base + gTable b + 64 * l) = 0)
            else decide (gRowB b ≤ gPitch b ∧ c.indices = [0, 1, 2, 3] ∧
              ∀ j, j < gRows b → gSpOff b + j * gPitch b + gRowB b ≤ bufSize s.core (gBuf b)) &&
            decide (k = 2 → ∀ j, j < gRows b → ∀ j', j' < gRows b → c.indices.getD j 0 = c.indices.getD j' 0 → j = j') &&
            decide (∀ j, j < gRows b → ∀ i, i < gRowB b → canonPa s (H.base + (gTable b + c.indices.getD j 0 * gRowB b + i)) =
              H.base + (gTable b + c.indices.getD j 0 * gRowB b + i)))
      | _ => false) = true := by decide +kernel

theorem witness_RingsScalesAndTilePredicatesComplete :
    (SoundCore sTiles.core ∧ (0x0200_0001 : Word) &&& ~~~0x000000031FFF1FFF = 0 ∧ 1 + 512 ≤ 4096 ∧ 64 * 513 ≤ bufSize sTiles.core 0 ∧
      ringNamed sTiles.core 7 = false) ∧
    ((ringAt sTiles.core 0).valid = true ∧
      ((ringAt sTiles.core 0).tail - (ringAt sTiles.core 0).ihead).toNat + 448 ≤ (ringAt sTiles.core 0).size.toNat ∧
      (ringAt sTiles.core 0).size.toNat < ((ringAt sTiles.core 0).tail - (ringAt sTiles.core 0).ihead).toNat + 449 ∧
      (ringAt sTiles.core 5).valid = false) ∧
    (fenceHeld sTiles.core.ctx = false ∧ 64 + sTiles.core.scaleQ.length + scalesPending sTiles.core ≤ 64 + scalesOwed sTiles.core ∧
      queueFree sTiles.core 1 = true ∧ 0 + 2 * 64 ≤ bufSize sTiles.core 0) ∧
    (let s := modCore s0 fun k => { k with q := vset k.q 1 [{ baseCommand s0 0 0 with kind := .sqld 0 0 64 }] };
      ((queueOf s.core 1).map (released s s.core 1)) = [true] ∧ ((queueOf s.core 1).map (issuerClear s)) = [true] ∧
        (channelFor s.core 128).isSome = true ∧ s.core.scaleQ.length + ((vget s.core.run 1 []).map sqldScales).sum + 64 ≤ 64) ∧
    (let k := (modCore s0 fun k => { k with run := vset k.run 1 [{ baseCommand s0 0 0 with kind := .sqld 0 0 64 }] }).core;
      ((vget k.run 1 []).find? fun x => decide (sqldScales x ≠ 0)).map (fun c => (c.kind, channelTurn k 1 c)) =
        some (.sqld 0 0 64, true) ∧ vget k.run 0 [] = []) ∧
    mustWait s0.core [Range.of 1 0 64] [] = false ∧ pointerPending s0.core 15 = false ∧
    (vget s0.core.wps 0 WritePtr.reset).buf = 3 := by
  refine ⟨⟨⟨rfl, rfl, rfl⟩, ?_⟩, ?_, ?_, ?_, ?_, ?_⟩ <;> decide +kernel

/-- An outstanding NOTIFY whose event is due: at level 5, or at the quad phaser 5. -/
def sNotified (l : BitVec 3) : State :=
  { sSignal with core := { sSignal.core with notifies := [⟨0, 0, 0, 0, l, 5, 2, 2⟩] } }

theorem witness_NotifyAndDrainComplete :
    ((Instr.notify 0 0 1).wf = true ∧ notifyOf s0.core = none ∧ notifyRoom s0.core 1 = true ∧ (1#6).getLsbD 4 = false ∧
      notifyBar s0 0 0 < barCount 0 ∧ allotted s0 (barKey 0 0 0 (notifyBar s0 0 0)) s0.core.ctx.aspace = true ∧
      (Instr.notify 0 5 63).wf = true) ∧
    (queueOf (sCopyQ 2).core 1).head?.map (fun y => decide (y.kind ≠ .marker)) = some true ∧ queueOf s0.core 0 = [] ∧
    ((sNotified 5).core.notifies = [⟨0, 0, 0, 0, 5, 5, 2, 2⟩] ∧ (sNotified 1).core.ctx.ctxId = 0 ∧ (sNotified 1).core.ctx.state = .running ∧
      notifyOf (sNotified 1).core ≠ none ∧
      (sNotified 1).core.ctx.accessQ = [] ∧ (sNotified 1).reds = [] ∧ (sNotified 1).core.ctx.vq = [] ∧
      barReachable (sNotified 1) (barKey 1 0 0 5) = true ∧ allotted (sNotified 1) (barKey 1 0 0 5) 0 = true ∧
      (getBar (sNotified 1) (barKey 1 0 0 5)).kind = .phaser ∧
      ((kernelById (sGroup false) 1).map (·.state)) = some .running ∧ (2 : BitVec 6) ≠ 3) ∧
    (Instr.qdrain 63).wf = true ∧ drainWaits s0.core 63 0 = false ∧ drainWaits (sCopyQ 2).core 2 1 = true := by decide +kernel

/-- A descriptor's image: an input feed over A of 1,024 FP32 elements. -/
def feedImage : BitVec 512 := body [(6, 2, 2), (96, 32, 1023)]

/-- That descriptor in W at 0, and feed 3 active with it, of input or output. -/
def sFeed (out : Bool) : State := modCore s1 fun k => { k with
  w := memWrites [] 0 (leBytes 64 feedImage.toNat)
  feeds := vset k.feeds 3 { feedOf k 3 with
    image := feedImage ||| body ([(0, 4, 1)] ++ if out then [(4, 1, 1)] else []), out := if out then [(7, 5)] else [] } }

theorem witness_FeedsBindTransferAndStop :
    (let k := (sFeed false).core;
      let f : Feed := { feedOf k 0 with image := feedImage }
      SoundCore k ∧ (Instr.feedbind 0 0 0).wf = true ∧ fullWait k [Range.of 0 0 64] [] = false ∧
        (∀ j, j < 64 → f.image.extractLsb' (8 * j) 8 = spByte k 0 (stored k 0 (0 + j))) ∧ f.aspace = k.ctx.aspace ∧ f.ctxId = k.ctx.ctxId ∧
        f.seqTag = k.ctx.seqTag ∧ f.seq = k.seq ∧
        f.cap = Handle.invalid ∧ f.ahead = [] ∧ f.out = [] ∧ f.done = 0 ∧ feedKind f ≠ 0 ∧ feedState (feedOf k 0) ≠ 1 ∧
        feedBad f = false ∧ feedSide k f = none ∧ fullWait k (feedRanges k f).1 (feedRanges k f).2 = false ) ∧
    (let F := feedOf (sFeed false).core 3;
      feedState F = 1 ∧ feedOut F = false ∧ feedIndirect F = false ∧ feedDims F = 0 ∧ feedKind F ≠ 0 ∧ F.done < feedLen F ∧
        F.ahead.length < 4096 ∧ feedBase F + F.done * feedElt F + feedElt F ≤ bufSize (sFeed false).core (feedBuf F)) ∧
    (let F := feedOf (sFeed true).core 3;
      feedState F = 1 ∧ feedOut F = true ∧ F.out = [(7, 5)] ∧ 7 < feedExt F 0 ∧
        feedBase F + 7 * feedElt F + feedElt F ≤ bufSize (sFeed true).core (feedBuf F)) := by
  refine ⟨⟨⟨rfl, rfl, rfl⟩, ?_⟩, ?_, ?_⟩ <;> decide +kernel

/-- Core barrier 3 in a given state. -/
def sBar (B : Barrier) : State := modCore s1 fun k => { k with bars := vset k.bars 3 B }

/-- A phaser of two members that has one arrival. -/
def phaser : Barrier := { Barrier.freeAt 9 with kind := .phaser, sigcnt := 2, wcnt := 1, arrived := 1 }

theorem witness_BarrierMembershipComplete :
    (fenceHeld s1.core.ctx = false ∧ s1.oneCycle = false ∧ (barNamed s1 0 3).toOption.isSome = true ∧
      (match barNamed s1 0 3 with
        | .ok key => barReachable s1 key && decide ((getBar s1 key).kind = .free) && decide (0 < barLimit key.level) &&
          dropOk (sBar phaser) key phaser 0 && decide ((getBar (sBar phaser) key) = phaser)
        | .error _ => false) = true) ∧
    (phaser.kind ≠ .free ∧ phaser.kind ≠ .future ∧ phaser.sigcnt + phaser.wcnt ≠ 1 ∧
      1 ≤ phaser.sigcnt - 1 ∧ phaser.sigcnt - 1 ≤ phaser.arrived ∧ phaser.pending = 0) ∧
    ((sreg s1 1).toNat < 2 ^ 40 ∧ phaser.pending + 100 < 2 ^ 40 ∧ 2 ^ 40 ≤ (sreg s1 4).toNat) ∧
    (let B : Barrier := { Barrier.freeAt 0 with kind := .lock, sigcnt := 1 };
      dropOk (sBar B) (coreBar 0 0 3) B 2 = true ∧ B.sigcnt + B.wcnt = 1) ∧
    (4 < (5 : BitVec 3).toNat ∧ barCount 1 ≤ (sreg s1 4).toNat ∧ (sreg s1 1).toNat < barCount 2 ∧
      allotted s1 (barKey 2 0 0 (sreg s1 1).toNat) s1.core.ctx.aspace = false) := by decide +kernel

theorem witness_ArrivalsCompletePhases : (getBar (sBar phaser) (coreBar 0 0 31)).kind = .free ∧
    (sBar phaser).oneCycle = false ∧
    (let s := { sBar phaser with oneCycle := true, dueBars := [(coreBar 0 0 3, false)] };
      s.oneCycle = true ∧ s.dueBars = [(coreBar 0 0 3, false)] ∧ (getBar s (coreBar 0 0 3)).kind = .phaser) ∧
    (getBar (sBar phaser) (coreBar 0 0 3)).kind = .phaser ∧ (coreBar 0 0 31).level = 0 ∧ (coreBar 0 0 31).num < 32 := by decide +kernel

theorem witness_WaitsCompleteOrPark :
    ((let c : Context := { run with state := .waiting };
      c.state = .waiting ∧ c.park = none ∧ c.wait ≠ .done) ∧ s0.core.stopping = false) ∧
    (fenceHeld s1.core.ctx = false ∧ (sBar phaser).oneCycle = false ∧ (match barNamed (sBar phaser) 0 3 with
      | .ok key => barReachable (sBar phaser) key && decide ((getBar (sBar phaser) key).kind = .phaser)
      | .error _ => false) = true ∧ accessesDone (sBar phaser) = true ∧ accessesDone s3 = false) ∧
    (1 ≤ (phaser.phase - 8).toNat ∧ (phaser.phase - 8).toNat < 2 ^ 31 ∧ ¬ (1 ≤ (phaser.phase - 9).toNat)) ∧
    (let B : Barrier := { Barrier.freeAt 0 with kind := .future, sigcnt := 1 };
      (getBar (sBar B) (coreBar 0 0 3)).kind = .future ∧ B.full = false) ∧
    (let B : Barrier := { Barrier.freeAt 0 with kind := .lock, sigcnt := 1, held := true, holder := 0 };
      (getBar (sBar B) (coreBar 0 0 3)).kind = .lock ∧ B.holder = s1.core.ctx.ctxId.extractLsb' 0 48 ∧
        lockWaiters (sBar B) (coreBar 0 0 3) = [] ∧
        (let waiter : Core := { Core.reset 0 1 with ctx := { run with park := some (.lock (coreBar 0 0 3) 5 7 0) } };
          let s := { sBar B with others := [waiter] };
          accessesDone s = true ∧ lockWaiters s (coreBar 0 0 3) = [⟨7, 0, 0, 0⟩])) := by decide +kernel

/-- A promotion of that page. -/
def promo (started : Bool) : Promotion := ⟨0, 0, 8, started, [⟨0, 0, 0, .fetch 0⟩]⟩

/-- A stored page of 1 MiB with both rights: its frame in flash, its target frame near. -/
def stored2 : BitVec 128 := BitVec.ofNat 128 (0x100 * 2 ^ 64 + 0x84e0100000000000)

/-- The page at virtual 0 with its descriptor in a given state. -/
def sPage (state : Nat) (promos : List Promotion) : State :=
  let s := State.reset.withFetchWord 32 0x64000000
  match walk s 0 0 with
  | .ok l => { s with
    mem := memWrites s.mem l.addr (leBytes 16 (if state = 2 then stored2 else dWithState l.desc state).toNat)
    promos := promos, caps := BitVec.allOnes 64 }
  | .error _ => s

/-- Below the pod range an address is its own canonical one. -/
theorem canon_low (s : State) (x : Nat) (h : x < 2 ^ 50) : canonPa s x = x := by
  have hp : isPod x = false := by simp [isPod]; omega
  simp [canonPa, hp]

/-- The promoting page whose one request is this core's own, of kernel 1, with core barrier 3 a phaser. -/
def sAsked : State :=
  let s := sPage 4 []
  { s with
    promos := [⟨0, 0, 8, false, [⟨s.core.die, s.core.num, 1, .preq 0 (some 3)⟩]⟩], kernels := (sGroup false).kernels
    core := { s.core with ctx := { s.core.ctx with kernelId := 1 }, bars := vset s.core.bars 3 phaser } }

theorem witness_PageRequestsComplete :
    [1, 2, 4].all (fun n => match walk (sPage n [promo true]) 0 0 with
      | .ok l => (dR l.desc || dW l.desc) && decide (dState l.desc = n) && decide (tableUsed (sPage n [promo true]) 0 < 4096) &&
          capsQuesar (sPage n [promo true]) && (List.range 16).all fun i => canonPa (sPage n [promo true]) (l.addr + i) == l.addr + i
      | .error _ => false) = true ∧
    ((match walk { sPage 2 [] with caps := 0 } 0 0, walk (sPage 3 []) 0 0 with
      | .ok l, .ok m => decide (dState l.desc = 2 ∧ dState m.desc = 3) && (dR m.desc || dW m.desc) &&
          (walk { sPage 3 [] with mem := memWrites (sPage 3 []).mem (m.addr + 15) [0x80] } 0 0).toOption.any fun x => dQueued x.desc
      | _, _ => false) = true ∧ capsQuesar { sPage 2 [] with caps := 0 } = false) ∧
    ((kernelById sAsked 1).map (·.state) = some .running ∧ sAsked.core.ctx.kernelId = 1 ∧ sAsked.reds = [] ∧
      sAsked.promos.map (fun p => p.reqs) = [[⟨0, 0, 1, .preq 0 (some 3)⟩]] ∧ (getBar sAsked (coreBar 0 0 3)).kind = .phaser ∧
      (walk sAsked 0 0).toOption.map (fun l => dState l.desc) = some 4) ∧
    ((Instr.preq 0 0 1 31).wf = true ∧ fenceHeld s0.core.ctx = false ∧ (walk s0 0 0).toOption.isNone = true) := by decide +kernel

theorem witness_PromotionsAndShootDownsEnd :
    ((promo false).started = false ∧ (promo true).started = true ∧
      (walk (sPage 4 [promo true]) 0 0).toOption.map (fun l => dState l.desc) = some 4 ∧
      Memory.wf (sPage 4 [promo true]).mem = true ∧ (allCores (sPage 4 [promo true])).all (fun c => decide (c.tlbDirty = [])) = true ∧
      (∀ r ∈ (promo true).reqs, r.asker = .fetch 0)) ∧
    (s0.recovery = false ∧ (1 : Nat) ≠ 0 ∧ (1 : Word).getLsbD 0 = true ∧ s0.pageCtl.shoot.getLsbD 0 = false) ∧
    (shootOver s0 ⟨0, 0, 0, true⟩ = true ∧ msixMasked s0 0 7 = true ∧ msixMasked { s0 with msixMask := Vector.replicate 2 0 } 0 7 = false ∧
      shootOver (queuedAccess [] (.red pageRed)) ⟨0, 0x20, 0, true⟩ = false) := by decide +kernel

/-- A directory with sequence 1 of block size 1: root 0x10000, table page 0x11000 with block 0 at 0x200000, two free pages. -/
def sDir : State :=
  let put (m : Memory) (a n v : Nat) : Memory := memWrites m a (leBytes n v)
  let m := put (put (put (put (put [] 0x8010 16 (mkDir 0 0 0x10000 1).toNat) 0x10000 8 (rootEntry 0x11000)) 0x11000 8
    (tableEntryOf false 0x200000)) 0x12000 8 0x13000) 0xA004 4 1
  { s1 with mem := m, pageCtl := { s1.pageCtl with dirbase := 0x8000, tpfree := 0x12000, tpref := 0xA000, tpbase := 0x10000 } }

/-- The same with two roots to the table page. -/
def sShared : State := { sDir with mem := memWrites sDir.mem 0xA004 (leBytes 4 2) }

theorem witness_BlockTablesComplete :
    (fenceHeld sDir.core.ctx = false ∧ accessesDone sDir = true ∧ accessesDone s3 = false) ∧
    ((btmapDo sDir 1 0 page).toOption.isSome = true ∧ eValid (rdDir sDir 1) = true ∧
      tablePage sDir (eRoot (rdDir sDir 1)) 0 = some 0x11000 ∧ pageCount sDir 0x11000 ≤ 1 ∧
      ∀ i, i < 8 → canonPa sDir (0x11000 + i) = 0x11000 + i) ∧
    (btmapDo sDir 0 0 page).toOption.isNone = true ∧ (btunmapDo sDir 1 0 0).toOption.isSome = true ∧
    (tableEntry sDir (eRoot (rdDir sDir 1)) 0).testBit 63 = true ∧ (btunmapDo sDir 2 0 0).toOption.isNone = true ∧
    (btforkDo sDir 1 2).toOption.isSome = true ∧ (btforkDo sDir 2 1).toOption.isNone = true ∧
    ((btmapDo sShared 1 0 page).toOption.isSome = true ∧ (btunmapDo sShared 1 0 0).toOption.isSome = true ∧
      (let t := flushDie sShared sShared.core.die;
        tablePage t (eRoot (rdDir sShared 1)) 0 = some 0x11000 ∧ pageCount t 0x11000 = 2 ∧ t.pageCtl.tpfree.toNat = 0x12000 ∧
          countAddr t 0x11000 = 0xA004 ∧ countAddr t 0x12000 = 0xA008 ∧ eRoot (rdDir sShared 1) = 0x10000) ∧
      sShared.heldBytes = [] ∧ Memory.wf sShared.mem = true ∧ (tableEntry sShared 0x10000 0).testBit 63 = true) ∧
    ((btmapDo sDir (2 + 2 ^ 32) 0 page).toOption.isSome = true ∧ eValid (rdDir sDir 2) = false ∧
      (let t := flushDie sDir sDir.core.die;
        t.pageCtl.tpfree.toNat = 0x12000 ∧ rdHomeNat t 0x12000 8 = 0x13000 ∧ dirAddr t 2 = 0x8020 ∧ countAddr t 0x13000 = 0xA00C ∧
          tablesOf t 0x10000 = [0x11000])) ∧
    ∀ x, x < 2 ^ 50 → canonPa (flushDie sDir sDir.core.die) x = x ∧ canonPa (flushDie sShared sShared.core.die) x = x := by
  refine ⟨?_, ?_, ?_, ?_, ?_, ?_, ?_, ?_, ?_, ?_, fun x h => ⟨canon_low _ x h, canon_low _ x h⟩⟩ <;> decide +kernel

/-- A window of sequence 1 opened over block 0, with its pool page at h1. -/
def sWin : State :=
  match wopenCheck sDir 1 0 page with
  | .ok w => wopenDo sDir w
  | .error _ => s0

theorem witness_WindowsOpenAndClose :
    (fenceHeld sDir.core.ctx = false ∧ sDir.core.ctx.inWindow = false ∧ sWin.core.ctx.inWindow = false ∧
      (wopenCheck sDir 1 0 page).toOption.isSome = true ∧
      shootFree sDir 0 page.vpage page.size = true ∧ (wopenCheck sDir 3 0 page).toOption.isNone = true ∧
      (dirValid sDir 0 1).toOption.isSome = true ∧ openWindow sDir 0 1 = none) ∧
    ((match openWindow sWin 0 1, dirValid sWin 0 1 with
      | some w, .ok e => eOpen e && decide ((eWnum e).toNat = natBits 0x100000001 39 32) && decide (1 ≤ rdHomeNat sWin (w.pool + 8) 1) &&
          decide (rdHomeNat sWin (w.pool + 8) 1 < 63) &&
          decide (w.closer = none) && closeReady sWin w ⟨0, 0, 0, 0, 1⟩ &&
          !closeReady { sWin with core := { sWin.core with ctx := s3.core.ctx } } w ⟨0, 0, 0, 0, 1⟩
      | _, _ => false) = true) ∧
    (dirFor sDir 0 1).toOption.isSome = true ∧ (dirValid sDir 0 2).toOption.isNone = true ∧
    ((sWin.windows.map fun w => w.clearing) = [false] ∧ sWin.heldBytes = [] ∧ sWin.badLines = []) ∧
    (sDir.heldBytes = [] ∧ Memory.wf sDir.mem = true ∧ (allCores sDir).all (fun k => decide (k.tlbDirty = [])) = true ∧
      ([(0x300000, 4096), (0x8010, 16), (0x11000, 8)] : List (Nat × Nat)).Pairwise (fun x y => x.1 + x.2 ≤ y.1 ∨ y.1 + y.2 ≤ x.1) ∧
      (wopenCheck sDir 1 0 page).toOption.map (fun w => (w.l0, w.nb)) = some (0, 1) ∧ dirAddr sDir 1 = 0x8010 ∧ page.base = 0x300000 ∧
      page.pageSize = 4096 ∧ tablePage sDir (eRoot (rdDir sDir 1)) 0 = some 0x11000 ∧ pageCount sDir 0x11000 ≤ 1) ∧
    (Memory.wf sWin.mem = true ∧ (allCores sWin).all (fun k => decide (k.tlbDirty = [])) = true ∧
      (sWin.windows.map fun w => (w.pool, w.blocks)) = [(0x300000, [0x200000])] ∧ eL0 (rdDir sWin 1) = 0 ∧ eNb (rdDir sWin 1) = 1 ∧
      tablePage sWin (eRoot (rdDir sWin 1)) 0 = some 0x11000 ∧ pageCount sWin 0x11000 ≤ 1 ∧ rdHomeNat sWin 0x300000 8 = 0) ∧
    ∀ x, x < 2 ^ 50 → canonPa sDir x = x ∧ canonPa sWin x = x := by
  refine ⟨?_, ?_, ?_, ?_, ?_, ?_, ?_, fun x h => ⟨canon_low _ x h, canon_low _ x h⟩⟩ <;> decide +kernel

/-- A part with the Hearth, page 0 mapped, and a stream of slot 0 in a given state. -/
def sHearth (l : List StreamState) : State :=
  { State.reset.withFetchWord 32 0x64000000 with
    caps := BitVec.allOnes 64, streams := l.map fun x => ⟨0, 5, 0, 7, 0, 0, x, 0⟩
    hearth := Vector.replicate 2 ⟨1, 0, 63⟩, clock := 2 ^ 40 }

/-- Stream 8 holds the slot at 0, with stream 7's evicted entry beside it or not. -/
def sClash (mine : Bool) : State :=
  { sHearth [] with
    streams := [⟨0, 5, 0, 8, 0, 0, .pinned, 0⟩] ++ if mine then [⟨0, 6, 0, 7, 0, 0, .evicted, 0⟩] else [] }

/-- The context of another core stalls at an operation on stream 7. -/
def sStalled : State :=
  { sHearth [] with streamOps := [⟨0, 0, 7, 9, true⟩], others := [{ Core.reset 0 1 with ctx := { run with ctxId := 9 } }] }

theorem witness_HearthEntriesComplete :
    (capsHearth (sHearth []) = true ∧ fenceHeld (sHearth []).core.ctx = false ∧ hpinCheck (sHearth []) 0 7 = none ∧
      streamOf (sHearth []) 0 0 7 = none ∧ roomFor (sHearth []) 0 4096 = .free ∧ (hpinCheck (sHearth []) 1 7).isSome = true) ∧
    ([StreamState.pinned, .evicting, .evicted].all fun x =>
      (streamOf (sHearth [x]) 0 0 7).map (fun e => decide (e.state = x) && !slotNamed (sHearth [x]) e) == some true) = true ∧
    (capsHearth { s0 with caps := 0 } = false) ∧
    (hpinCheck (sClash false) 0 7 = none ∧ streamOf (sClash false) 0 0 7 = none ∧
      ((sClash false).streams.any fun e => e.stream != 7 && overlaps e.base.toNat e.size 0 4096) = true ∧
      hpinCheck (sClash true) 0 7 = none ∧ (streamOf (sClash true) 0 0 7).map (fun e => (e.state, e.base, e.z)) = some (.evicted, 0, 0)) ∧
    (let s := { sHearth [] with hearth := Vector.replicate 2 ⟨1, 0, 0⟩ };
      hpinCheck s 0 7 = none ∧ streamOf s 0 0 7 = none ∧ roomFor s 0 4096 = .never ∧
      hpinCheck (sHearth [.pinned]) 0 (7 + 2 ^ 32) = none) ∧
    ((walk (sHearth [.evicting]) 0 0).toOption.isSome = true ∧ (walk s0 0 0).toOption.isNone = true ∧ (sHearth [.evicting]).bindings = []) ∧
    ((sHearth []).streamOps = [] ∧ (sHearth []).bindings = []) ∧
    (sStalled.streamOps.map fun p => p.live sStalled && decide (p.ctxId ≠ sStalled.core.ctx.ctxId)) = [true] ∧
    ((sHearth [.pinned]).streams.map fun e => evictable (sHearth [.pinned]) e &&
      decide (hearthSilence (sHearth [.pinned]) e.die ≠ 0 ∧ e.last + hearthSilence (sHearth [.pinned]) e.die ≤ 2 ^ 40)) = [true] := by
  decide +kernel

/-- A launch record of one core and three iterations, in memory at the base of h1's page. -/
def recBytes : List Byte := leBytes 16 0 ++ leBytes 8 (2 ^ 40 + 2 ^ 31) ++ leBytes 24 0 ++ leBytes 4 2 ++ leBytes 268 0

/-- A kernel of entry 0 in a given state on core 0, with a victim or none. -/
def entry (x : KState) (v : Option Victim) : KEntry :=
  { die := 0, entry := 0, id := 1, state := x, launch := readRec recBytes, aspace := 0, depth := 0, arrival := 0, dispatched := 0
    heldBy := [], nextT := 1, redo := [], retired := 0, cause := 0, endCode := 0, cores := [0], frames := [(0, 0, 0x40000)], images := []
    victim := v, cycles := 0, guard := false, owed := [] }

/-- That kernel and its core, with the record in memory and a save frame in hand; the started context runs for no kernel. -/
def sKern (x : KState) (v : Option Victim) : State :=
  { s1 with
    mem := memWrites [] 0x300000 recBytes, caps := BitVec.allOnes 64, kernels := [entry x v]
    sched := Vector.replicate 2 ⟨0, 0, false, 1, 0x40000, 0, 0⟩
    core := { s1.core with group := some 0, ctx := if x = .running then run1 else Context.blank 0 } }

/-- The owner's request at 0x2000 to launch that record in address space 0, status word at 0x2010. -/
def sLaunch : State :=
  { sKern .ended none with
    mem := memWrites (memWrites [] 0x300000 recBytes) 0x2000 (leBytes 8 0x300000), mgmt := { s0.mgmt with owner := 1, bdone := true } }

/-- n entries of die 0 taken. -/
def sFull (n : Nat) : State := { sKern .running none with kernels := (List.range n).map fun m => { entry .running none with entry := m } }

theorem taken_full (n : Nat) : takenEntries (sFull n) 0 = List.range n := by
  have h : ((List.range n).map fun m => ({ entry .running none with entry := m } : KEntry)).filter
      (fun k => decide (k.die = 0) && k.live) = (List.range n).map fun m => { entry .running none with entry := m } := by
    rw [List.filter_eq_self]
    intro k hk
    obtain ⟨m, -, rfl⟩ := List.mem_map.1 hk
    rfl
  simp only [takenEntries, sFull]
  rw [h, List.map_map]
  exact List.map_id _

/-- With every ordinary entry and the reserved one of its depth taken, no kernel is accepted. -/
theorem accept_full (n depth : Nat) (h : 65528 + depth < n) (r : LaunchRec) : accept (sFull n) 0 0 depth r = none := by
  have hf : freeEntry (sFull n) 0 depth = none := by
    have hn : ((List.range (min 65528 ((List.range n).length + 1))).find? fun m => !(List.range n).contains m) = none := by
      rw [List.find?_eq_none]
      intro x hx
      have hx := List.mem_range.1 hx
      have : x < n := by omega
      simp [this]
    simp only [freeEntry, taken_full]
    rw [hn]
    have : 65528 + depth ∈ List.range n := List.mem_range.2 h
    simp only [List.contains_iff_mem.2 this, if_true]
  simp only [accept, hf]

/-- The kernel that is being saved, with its context running on its core. -/
def sSaving : State := { sKern .saving none with core := { (sKern .saving none).core with ctx := run1 } }

/-- The least sound image: a running context, all else zero. -/
def sImage : State := { sKern .restoring none with mem := memWrites (memWrites [] 0x40000 (leBytes 4 0x60001)) 0x40010 [3] }

theorem witness_KernelInstructionsComplete :
    (let s := sKern .running none;
      fenceHeld s.core.ctx = false ∧ (accept s 0 0 1 (readRec recBytes)).isSome = true ∧ recAccess s page 0 = none ∧
      accessesDone s = true ∧ redHolds s 0x300000 320 = false ∧ (parseRec (rdBytes s 0 0x300000 320)).isSome = true ∧
      cbarAllotted s 0 0 (readRec recBytes) = true ∧ s.core.ctx.depth ≠ 7 ∧ ({ run with depth := 7 } : Context).depth = 7 ∧
      (accept s 0 0 1 (spawnRec s 0)).isSome = true ∧ 2 % 4 ≠ 0) ∧
    (parseRec (rdBytes s1 0 0x300000 320) = none ∧ (recAccess s1 Handle.invalid 0).isSome = true ∧
      cbarAllotted s1 0 0 { readRec recBytes with cbar := 0x90005 } = false ∧
      accessesDone s3 = false ∧ redHolds { s1 with reds := [{ pageRed with pa := some 0x300000 }] } 0x300000 320 = true) ∧
    (let s := sKern .running none;
      capsEth s = true ∧ PlainMemory s ∧ tierOf s 0x300000 = 0 ∧ tierOf s 0x30013F = 0 ∧ foreign s 0 0x300000 = false ∧
        s.arms.length < 4096 ∧
      loadBytes s 0x20000 0x300000 320 = .read (rdBytes s 0 0x300000 320)) ∧
    (kernelNamed s0 1 = none ∧ (kernelNamed (sKern .ended none) 1).map KEntry.over = some true ∧
      (kernelNamed (sKern .running none) 1).map (fun k => k.state) = some .running ∧ (sKern .running none).core.ctx.park = none ∧
      (1 : Word) ≠ (sKern .running none).core.ctx.kernelId) ∧
    ((kernelNamed (sKern .eligible none) 1).map (fun k => (k.state, k.over)) = some (.eligible, false) ∧ redsDone (sKern .eligible none) 1 = true ∧
      redsDone sRed 0 = false ∧ capsEth { s0 with caps := 0 } = false ∧ loadBytes s3 0x20000 0x300000 320 = .wait ∧
      (let s := { sKern .running none with arms := [⟨0, 1, 0, false, readRec recBytes⟩] };
        s.arms.find? (fun x => decide (x.tag = (sreg s 0).extractLsb' 0 32)) = some ⟨0, 1, 0, false, readRec recBytes⟩ ∧
          (1 : BitVec 12) ≠ s.core.ctx.aspace)) ∧
    (sLaunch.recovery = false ∧ sLaunch.mgmt.owner.toNat = 1 ∧ 0 < capsDies sLaunch ∧ sLaunch.mgmt.bdone = true ∧
      natBits 0x2000 51 5 * 32 = 0x2000 ∧ (hostLaunch sLaunch 0 0x2000).2 ≠ 0xFFFFFFFFFFFFFFFE ∧ backed sLaunch 0 = true) := by
  decide +kernel

theorem witness_GroupsRunTheirIterations :
    ((chosen (sKern .eligible none) 0).map (fun k => (shapeFrom [0, 1] k).isSome) = some true) ∧
    ((kernelAt (sKern .allocating none) 0 0).map (fun k => k.state) = some .allocating) ∧
    ((kernelAt (sKern .running none) 0 0).map (fun k => nextIter k) = some (some 1) ∧
      (emptySlot (sKern .running none) 0 [0]).isSome = true) ∧
    ((let s := sKern .ending none
      groupQuiet s (entry .ending none) && redsDone s 1 && !redsDone sRed 0 && (s.kernels.all fun x => !x.heldBy.contains 1)) = true) ∧
    (let c : Context := { Context.blank 1 with state := .loading };
      ([c].find? fun x => x.slot = 1 ∧ x.state = .loading).map (fun x => x.inputs) = some []) ∧
    ((let c : Context := { Context.blank 1 with state := .runnable, kernelId := 1 }
      let s := { sKern .running none with core := { (sKern .running none).core with ctx := Context.blank 0, shadows := [c] } }
      (earliestReady s.core.shadows).isSome && mayStart s s.core c) = true) ∧
    s0.core.stopping = false ∧ (st { run with state := .retired }).core.ctx.state = .retired ∧
    workLeft (st { run with state := .waiting, park := some .retire }) = false := by decide +kernel

theorem witness_KernelsEndAndScrub :
    (let s := modCore (sKern .allocating none) fun k => { k with scrubbing := true };
      (kernelAt s 0 0).map (fun k => (k.state, k.cores)) = some (.allocating, [0]) ∧ (getCore s 0 0).scrubbing = true) ∧
    (let k : KEntry := { entry .ending none with launch := { readRec recBytes with caddr := 0x20000 } };
      (caddrAt (kernelRelease (sKern .ending none) k) k).toOption.isNone = true) ∧
    (let k : KEntry := { entry .ending none with launch := { readRec recBytes with caddr := 0x40 } };
      let s := { State.reset.withFetchWord 32 0x64000000 with kernels := [k] };
      (match walk s 0 0 with
        | .ok l =>
          let s' := { s with mem := memWrites s.mem l.addr (leBytes 16 (l.desc ||| BitVec.ofNat 128 (2 ^ 55)).toNat) }
          (match caddrAt (kernelRelease s' k) k with
            | .ok pa => decide (l.addr + 16 ≤ pa ∨ pa + 16 ≤ l.addr)
            | .error _ => false)
        | .error _ => false) = true) ∧
    (let r : LaunchRec := { readRec recBytes with cbar := 0x90005 };
      let s := { sKern .ending none with allots := [(1, 5, 0)], netBars := [(⟨1, 0, 5⟩, { Barrier.freeAt 0 with kind := .phaser, sigcnt := 1 })] };
      r.cbarOn = true ∧ r.caddr = 0 ∧ allotted s (r.cbarKey 0) 0 = true ∧ (getBar s (r.cbarKey 0)).kind = .phaser) := by
  refine ⟨?_, ?_, ?_, ?_⟩ <;> decide +kernel

theorem witness_PreemptionStopsSavesAndRestores :
    (let s := { sKern .running none with mgmt := { s0.mgmt with owner := 1 } };
      s.recovery = false ∧ s.mgmt.owner.toNat = 1 ∧ 0 < capsDies s ∧
        (kernelAt s 0 0).map (fun k => (k.state, k.victim.isNone)) = some (.running, true)) ∧
    (let s := sKern .running (some ⟨0, none, none⟩);
      (kernelAt (sweepGroup s 0 0) 0 0).map (fun k => (k.state, k.victim.isSome)) = some (.running, true) ∧
        (chooseOption s ⟨0, none, none⟩ (optionsOf s (entry .running none) true)).isSome = true) ∧
    (groupQuiet (sKern .discarding none) (entry .discarding none) = true ∧ trappedCtx (sKern .running none) (entry .running none) = none ∧
      feedsQuiet (sKern .discarding none).core = true ∧ (sKern .discarding none).sched[0].savefree = 0x40000) ∧
    (groupQuiet (sKern .saving none) (entry .saving none) = true ∧ (entry .saving none).endCode ≠ 3 ∧
      feedsQuiet (sKern .saving none).core = true) ∧
    (groupQuiet sSaving (entry .saving none) = true ∧ feedsQuiet sSaving.core = true ∧ sSaving.core.ctx.state = .running ∧
      [0, 1, 2].all (fun b => Memory.wf (bufMem sSaving.core b) && (bufMem sSaving.core b).isEmpty) = true ∧
      sSaving.core.scaleQ.length ≤ 64 ∧ (∀ n, n < 5 → (queueOf sSaving.core n).length ≤ 8) ∧
      (entry .saving none).frames.map (fun f => f.2.2) = [0x40000] ∧ 0x40000 + imageSize ≤ 2 ^ 50) ∧
    (imageOk sImage 0x40000 = true ∧ natBits (imgNat sImage 0x40000 0x10 8) 3 0 = 3 ∧ (entry .restoring none).owed = [] ∧
      (entry .restoring none).cores.Nodup ∧ (entry .restoring none).frames.map (fun f => f.2.2) = [0x40000] ∧
      ∀ n, n < 5 → imgNat sImage 0x40000 (0x8D + n) 1 = 0) ∧
    ((entry .restoring none).frames.all fun f => imageOk (sKern .restoring none) f.2.2) = false := by decide +kernel

/-- A binding record at h1's base: 64 KiB from 0x40000000, four bytes of code at virtual 0, message entry 0 with budget 1. -/
def bindBytes (code : Nat) : List Byte :=
  leBytes 8 0x40000000 ++ leBytes 8 0x10000 ++ leBytes 8 code ++ leBytes 4 4 ++ leBytes 4 16 ++ leBytes 2 0xFFFF ++ leBytes 2 0xFFFF ++
    leBytes 2 0xFFFF ++ leBytes 2 0 ++ leBytes 2 0 ++ leBytes 2 0 ++ leBytes 2 0 ++ leBytes 2 1 ++ leBytes 16 0

def binding : Binding :=
  { die := 0, num := 2, aspace := 0, vbase := 0x40000000, vlen := 0x10000, code := leBytes 4 0, dataInit := [], dataLen := 16, codeAt := 0
    dataAt := 0, entries := [0xFFFF, 0xFFFF, 0xFFFF, 0], budgets := [0, 0, 0, 1], filter := [], drops := 0 }

/-- That record beside the mapped page 0; binding 2 stands, or none; an event of it runs in reeve 0, or none. -/
def sBind (code : Nat) (old busy : Bool) : State :=
  let s := State.reset.withFetchWord 32 0x64000000
  { s with
    mem := memWrites s.mem 0x300000 (bindBytes code), core := { s.core with ctx := { run1 with aspace := s.core.ctx.aspace } }
    linkCtl := Vector.replicate 2 ⟨0, BitVec.allOnes 48, 0, 0, 0⟩, bindings := if old then [binding] else []
    reeves := if busy then [{ getReeve s 0 0 with cur := some ⟨2, 3, false, 0, 0, 0⟩ }] else [] }

theorem witness_ReeveBindingsComplete :
    (let s := sBind 0 false false;
      fenceHeld s.core.ctx = false ∧ bindAccess s page 0 = none ∧ accessesDone s = true ∧
      redHolds s 0x300000 64 = false ∧ imageHeld s 0 4 = false ∧
      bindBad (rdBytes s 0 0x300000 64) = false ∧ imageBad s 0 4 = none ∧
      rangeTaken s 0 0x40000000 0x10000 = false ∧ (firstFit (codeTaken s 0) (windowBytes 4)).isSome = true ∧
      (firstFit (dataTaken s 0) (windowBytes 16)).isSome = true ∧ bindBad (leBytes 64 1) = true ∧ (imageBad s 0x80000000 4).isSome = true) ∧
    (let s := sBind 0 true false;
      rangeTaken s 0 0x40000000 0x10000 = true ∧ (bindAccess s page 1).isSome = true ∧ ownBinding s 0 = none ∧
      (ownBinding s 2).map (fun x => decide (x.entryOf 3 ≠ 0xFFFF) && reeveUsable s 0 0) = some true ∧
      handlerRuns (discardEvents s 0 2) 0 2 = false) ∧
    handlerRuns (discardEvents (sBind 0 true true) 0 2) 0 2 = true ∧ (getReeve (sBind 0 true false) 0 47).queue.length < 64 := by
  decide +kernel

/-- Reeve 0 runs a handler of binding 2 whose code is one word; x1 points at its data memory. -/
def sReeve (w : BitVec 32) (len : Nat) : State :=
  let s := sBind 0 true false
  { s with
    reeveNow := (0, 0)
    bindings := [{ binding with code := leBytes len w.toNat, entries := [0xFFFF, 0xFFFF, 0xFFFF, 0], budgets := [0, 0, 0, 100] }]
    reeves := [{ getReeve s 0 0 with cur := some ⟨2, 3, false, 0, 0, 0⟩, x := (getReeve s 0 0).x.set 1 0x8000 }] }

/-- What the fetched word of a running handler is. -/
def reeveOp (w : BitVec 32) : Option RvInstr :=
  match reeveBinding (sReeve w 4) with
  | some b => match reeveFetch b (reeveHere (sReeve w 4)).pc with
    | some (4, x) => rv32 x
    | some (_, x) => rv16 (x.extractLsb' 0 16)
    | none => none
  | none => none

theorem witness_ReevesRunHandlers :
    (let s := sBind 0 true false;
      let r := { getReeve s 0 47 with queue := [⟨2, 3, false, 0, 5, 6⟩] };
      r.cur.isNone = true ∧ reeveUsable s 0 47 = true ∧ (bindingAt s 0 2).isSome = true) ∧
    (match (reeveHere (sReeve 0x13 4)).cur, reeveBinding (sReeve 0x13 4) with
      | some e, some b => decide ((reeveHere (sReeve 0x13 4)).cycle + 2 ≤ budgetOf b e ∧ budgetOf b e = 100)
      | _, _ => false) = true ∧
    -- add, addi, clz, lui, auipc, jal, jalr, beq, fence, rdcycle, rdinstret, sd, ld of the RISC-V standard; c.addi; no instruction
    ([0x002081B3, 0x00500093, 0x60011093, 0x000010B7, 0x00001097, 0x008000EF, 0x000080E7, 0x00208463, 0x0FF0000F, 0xC00020F3,
      0xC02020F3, 0x0020B023, 0x0000B083, 0x00000085].all fun w => (reeveOp w).isSome) = true ∧
    (reeveOp 0xFFFFFFFF = none ∧ (match reeveBinding (sReeve 0 4) with | some b => (reeveFetch b 0x8000).isNone | none => false) = true) ∧
    (match reeveBinding (sReeve 0x13 4) with
      | some b => (dataAddr b 0x8000 8).isSome && (dataAddr b 0 8).isNone && (globalAddr (sReeve 0x13 4) b 0 8 false true).isNone &&
          (lineReached (sReeve 0x13 4) b 0x40000000).isNone && decide (b.entryOf 3 ≠ 0xFFFF) &&
          globalAddr (sReeve 0x13 4) b 0x10000 8 true true == some 0x110000
      | none => false) = true ∧
    (redHolds (sReeve 0x13 4) 0x110000 8 = false ∧
      redHolds { sReeve 0x13 4 with reds := [{ pageRed with pa := some 0x110000 }] } 0x110000 8 = true ∧ 99 + 1 = 100) := by decide +kernel

/-- Index 0 at 0x20000: VFMT .f16, 16 dimensions, degree 1, one passage, blocks of one unit, an empty graph and log, a pool of one
block; sequence 1 of sDir; the page directory of passage 0 in flash; a command of a kind at the head of the search queue. -/
def sIndex (kind : Nat) : State :=
  let put (m : Memory) (a n v : Nat) : Memory := memWrites m a (leBytes n v)
  let m := put (put (put (put (put (put (put sDir.mem 0x20000 8 (2 ^ 12 + 2 ^ 14 + 15 * 2 ^ 19 + 2 ^ 31)) 0x20008 8 (2 ^ 64 - 1)) 0x20018 4 1)
    0x2001C 2 1) 0x20020 8 0x21000) 0x20028 4 16) 0x20040 8 0x40000
  let m1 := put m 0x100000000008 4 1
  let b := if kind = 2 then body [(0, 8, 2), (80, 32, 1), (128, 16, 1), (464, 16, 0xFFFF)]
    else if kind = 3 then body [(0, 8, 3), (80, 16, 9), (144, 2, 1), (464, 16, 0xFFFF)]
    else if kind = 4 then body [(0, 8, 4), (464, 16, 0xFFFF)] else searchBody 1
  let s := withTmpl { sDir with mem := m1, caps := BitVec.allOnes 64, quesarBase := 0x20000 } 4 b
  issued s 4 ((if kind = 1 then seekCheck else if kind = 3 then sappendCheck else plainCheck) s 5 b)

/-- The command of sIndex as the Quesar die tracks it. -/
def sDrove (kind : Nat) : State :=
  match searchHead (sIndex kind) kind with
  | some c => searchStarted (sIndex kind) c
  | none => s0

/-- The drove that SEEK's start gives that command, with its query read. -/
def sSeek : Drove :=
  match searchHead (sIndex 1) 1 with
  | some c =>
    let x := settleCaps (sIndex 1) c
    { Drove.begin (sIndex 1) x with query := rdHome (sDrove 1) (x.src.base + seekQoff x.body) (queryBytes x.body) }
  | none => Drove.begin s0 (baseCommand s0 0 0)

/-- A started KFETCH one of whose pages' reads has failed eight times. -/
def sFetching : Drove :=
  match searchHead (sIndex 2) 2 with
  | some c => { Drove.begin (sIndex 2) c with awaited := [(0, 8)] }
  | none => Drove.begin s0 (baseCommand s0 0 0)

theorem witness_SearchesRunOnTheQuesarDie :
    (match readIndex (sDrove 1) 0 0 with
      | .ok ix =>
        let c := sSeek.cmd
        decide (searchIndex c.body = 0 ∧ redHolds (sIndex 1) (c.src.base + seekQoff c.body) (queryBytes c.body) = false) &&
          decide (resultHeld (sIndex 1) c = false ∧ notThere (sDrove 1) c.dst = false ∧ notThere (sDrove 1) c.src = false) &&
          (recordByte (sDrove 1) (resultPa c) (seekBytes c.body)).isNone && (queryBad (sDrove 1) sSeek ix).isNone &&
          decide (ix.entry = emptyRef) && (seekQuery sSeek ix).isSome && (logBad (sDrove 1) ix ix.head 0).isNone
      | .error _ => false) = true ∧
    ([2, 3, 4].all fun k => match searchHead (sIndex k) k, readIndex (sDrove k) 0 0 with
      | some c, .ok ix => decide (searchIndex c.body = 0) &&
          (if k = 2 then (kfetchBad (sDrove 2) c ix).isNone && decide (ix.kvpool ≠ 0 ∧ badAt (sDrove 2) ix.kvpool 8 = none) &&
              decide (redHolds (sDrove 2) ix.kvpool (256 * ix.blkb) = false) && kfetchPage (sDrove 2) sFetching 0 &&
              (linkBad (sDrove 2) c (rdDir (sDrove 2) (kfetchSeq c.body)) (kfetchLblk c.body)).isNone
            else if k = 3 then decide (sappendOp c.body = 1 ∧ (ix.tail + 2 ^ 32 - ix.head) % 2 ^ 32 ≠ ix.logCap) &&
              !bodyHeld (sIndex 3) (settleCaps (sIndex 3) c) && (sappendBad (sDrove 3) c ix).isNone
            else !mergeRuns (sDrove 4) (Drove.begin (sIndex 4) c) && (mergeDo (sDrove 4) (Drove.begin (sIndex 4) c) ix).2.isNone)
      | _, _ => false) = true ∧
    (match readIndex sDir 0 0 with | .ok _ => false | .error _ => true) = true ∧
    (match searchHead (sIndex 3) 3, readIndex (sDrove 2) 0 0 with
      | some c, .ok ix =>
        let x := { settleCaps (sIndex 3) c with body := putField c.body 144 2 0 }
        bodyHeld { sIndex 3 with reds := [{ pageRed with pa := some (x.src.base + seekQoff x.body) }] } x &&
          redHolds { sDrove 2 with reds := [{ pageRed with pa := some ix.kvpool }] } ix.kvpool (256 * ix.blkb) &&
          resultHeld { sIndex 1 with reds := [{ pageRed with pa := some (resultPa sSeek.cmd) }] } sSeek.cmd
      | _, _ => false) = true ∧
    (assocGet [(5, 8)] 5 = some 8 ∧ assocGet [(5, 7)] 5 = some 7) ∧ (sDrove 1).droves.length = 1 := by decide +kernel

/-- Both members of sColl's communicator have issued a collective of its count 0. -/
def sCollQ : State :=
  let s := sColl
  let b := patchBase s 3 5
  match collCheck s 5 b with
  | .ok c =>
    let t := withCommand s 3 c
    { t with others := [{ (getCore s 0 1) with q := vset (getCore s 0 1).q 3 [{ c with core := 1, gang := [1], gid := 77 }] }] }
  | .error _ => s0

theorem witness_CollectivesStartTogetherAndEnd :
    (match queueOf sCollQ.core 3, commMembers sCollQ (commEntry sCollQ 0 0) with
      | c :: _, some ms => (collReady sCollQ (collComm c.body) c.part (asMember sCollQ 0 0)).isSome &&
          decide (sCollQ.collGone.contains (collComm c.body, c.part) = false) && decide ms.Nodup &&
          (match collMatch sCollQ (collComm c.body) c.part ms with
          | some cs => (cs.zipIdx.all fun x => decide ((dstRange x.1.body x.2 ms.length).hi ≤
                bufSize (getCore sCollQ 0 x.2) (dstRange x.1.body x.2 ms.length).buf)) &&
              cs.all (fun x => !collBadFields x.body) && cs.all (fun a => cs.all fun b => collAgree a b)
          | none => false)
      | _, _ => false) = true ∧
    vget (runs sCollQ 3).core.run 3 [] ≠ [] := by decide +kernel

/-- The owner is function 1, link 18 is up or in a given state. -/
def sLink (x : BitVec 4) : State :=
  let l := getLink s0 18
  { s0 with
    caps := BitVec.allOnes 64, mgmt := { s0.mgmt with owner := 1 }, links := vset s0.links 18 { l with state := x, passed := true }
    arms := [⟨7, 0, 0, true, readRec recBytes⟩] }


/-- s0 with pod barrier 0 in a given state. -/
def sPod (B : Barrier) : State := putBar s0 ⟨4, 0, 0⟩ B

theorem no_port (die : Nat) : portFor s0 die 5 0 = none := by
  have h : ∀ p, portUp s0 p = false := fun p => by
    by_cases hp : p < 18
    · have h18 : ∀ q : Fin 18, portUp s0 q.val = false := by decide +kernel
      exact h18 ⟨p, hp⟩
    · have hk : (vget s0.linkCtl 0 ⟨0, 0, 0, 0, 0⟩).kolmap.getLsbD p = false := BitVec.getLsbD_of_ge _ _ (by omega)
      simp only [portUp, hk, Bool.false_and]
  simp [portFor, h]

theorem witness_LinksAndOutsideRequests :
    ((sLink 5).recovery = false ∧ (sLink 5).mgmt.owner.toNat = 1 ∧ (getLink (sLink 5) 18).passed = true ∧
      (getLink (sLink 5) 18).state = 5 ∧ (getLink (sLink 1) 18).state = 1 ∧ (getLink (sLink 3) 18).state = 3 ∧
        (sLink 5).mgmt.owner.toNat ≠ 2 ∧ enWrites (sLink 5) 18 = true ∧ enWrites (sLink 5) 22 = false ∧
        (getLink s0 20).state = 1 ∧ (getLink s0 21).state = 1 ∧ (getLink s0 22).state = 1 ∧ (getLink s0 19).passed = false) ∧
    (5 ≠ s0.pkgId.toNat ∧ storeTo s0 5 ⟨0, .write [(0x4000000000000 + 5 * 2 ^ 40, 0)] []⟩ = true ∧
      commandTo s0 5 { baseCommand s0 0 0 with src := { page with frame := 2 ^ 38 + 5 * 2 ^ 28 } } = true) ∧
    (capsDies (sLink 2) ≠ 1 ∧ capsQuesar (sLink 2) = true) ∧
    (s0.bindings = [] ∧ s0.badLines = [] ∧ hostReaches s0 0x1000 = true ∧ hostReaches s0 (2 ^ 60) = false ∧ isNear s0 0x1000 = true ∧
      isNear s0 0xFFFFFFFFFFFF = false ∧ isFar s0 0xFFFFFFFFFFFF = false ∧
      redHolds s0 0x1000 64 = false ∧ redHolds sRed 0x100080 4 = true) ∧
    (0 < barCount 4 ∧ s0.podParks = [] ∧ s0.podWaits = [] ∧ s0.oneCycle = false ∧ (getBar s0 ⟨4, 0, 0⟩).kind = .free ∧
      (getBar (sPod phaser) ⟨4, 0, 0⟩).kind = .phaser ∧ (sPod phaser).podParks = [] ∧ (sPod phaser).oneCycle = false ∧
      (let B : Barrier := { Barrier.freeAt 0 with kind := .future, sigcnt := 1 };
        (getBar (sPod B) ⟨4, 0, 0⟩).kind = .future ∧ B.full = false) ∧
      (let B : Barrier := { Barrier.freeAt 0 with kind := .lock, sigcnt := 1, held := true, holder := 7 };
        (getBar (sPod B) ⟨4, 0, 0⟩).kind = .lock ∧ B.holder = (7 : Word).extractLsb' 0 48 ∧ B.holder ≠ (8 : Word).extractLsb' 0 48)) ∧
    (streamBusy (sLink 2) 0 0 0 = false ∧ streamBusy sStalled 0 0 7 = true) ∧
    (∀ die, portFor s0 die 5 0 = none) ∧
    (capsEth (sLink 2) = true ∧ ethUp (sLink 2) 0 = true ∧
      ((netBytes (sPage 1 []) 0 true 0x100 20).map (netHeld (sPage 1 []))) = some false ∧
      ((sLink 2).arms.find? fun x => x.tag == 7 && x.aspace == 0).isSome = true ∧
      (armedLaunch (sLink 2) ⟨7, 0, 0, true, readRec recBytes⟩ 4 0).isSome = true ∧
        cbarAllotted (sLink 2) 0 0 (readRec recBytes) = true) := by
  refine ⟨?_, ?_, ?_, ?_, ?_, ?_, no_port, ?_⟩ <;> decide +kernel

/-- The reset state with the module owned by function 1, a link block offset, and its self-tests still to come. -/
def sOwned : State := { State.reset with mgmt := { State.reset.mgmt with owner := 1 } }

theorem witness_ManagementStepsComplete :
    (sOwned.recovery = false ∧ sOwned.mgmt.owner.toNat = 1 ∧ State.reset.mgmt.owner = 0 ∧ sOwned.mgmt.pkgw = 0 ∧
      (sOwned.mgmt.pkgw = 3 → sOwned.pkgId = sOwned.mgmt.pkgset)) ∧
    (0 < barCount 4 ∧ (∀ b ∈ sOwned.netBars, b.2.kind = .free) ∧ isNear sOwned 0x1000 = true ∧ isNear sOwned 0x40000000000000 = false ∧
      0 < capsDies sOwned ∧ (blockAt sOwned 0xC0 8).isSome = true ∧ (blockAt sOwned 0xFFF8 8).isNone = true) ∧
    (functionPresent .a 0 = true ∧ functionPresent .a 9 = true ∧ State.reset.mgmt.bdone = false ∧ State.reset.mgmt.ready = 0 ∧
      (let img : FwImage := ⟨State.reset.fuseKey, State.reset.fuseVersion, true⟩;
        img.signed_ = true ∧ img.key = State.reset.fuseKey ∧ State.reset.fuseVersion ≤ img.version) ∧
      (⟨State.reset.fuseKey, 0, false⟩ : FwImage).signed_ = false) ∧
    (0 < coreCount State.reset 0 ∧ 0x1FFFF < bufBytes 2 ∧ State.reset.badLines.contains 0x40 = false ∧
      lineAwaited State.reset 0x1000 = false) ∧ ({ State.reset with recovery := true } : State).recovery = true := by
  decide +kernel

/-- Right after reset an instruction placed where the fetch looks, or an event, or a handler's word, stands first. -/
theorem witness_StepRunsTheDecodedInstruction :
    (let s := State.reset.withFetchWord 32 0x04611000;
      s.held = false ∧ s.agenda = [.issue 0 0 false] ∧ s.oneCycle = false ∧
      (let u := focus { cycleOver { s with agenda := [] } with later := false } 0 0; mayIssue u u.core = true ∧
        (match fetchWord u with
          | .word t w =>
            let c := (withWord t w).core.ctx
            !waitsLoad c w && !waitsVector c w && !heldWord c w && !vectorPending c && decide (w = 0x04611000)
          | _ => false) = true)) ∧
    (waitsLoad { run with accessQ := [⟨0, .load 1 0x20000 0x300000 4⟩] } 0x04611000 = true ∧
      vectorPending (sVq 1 run 2).core.ctx = true ∧ heldWord (sVq 1 run 2).core.ctx 0x64600000 = true ∧
      heldWord (sVq 1 run 2).core.ctx 0x04611000 = false ∧ waitsVector (sVq 1 run 2).core.ctx 0x04611000 = false) ∧
    (({ State.reset with held := true } : State).held = true ∧ State.reset.agenda = [] ∧ State.reset.held = false ∧
      ownMoves State.reset = [] ∧ chooseMove (sGroup false) ≠ none) ∧
    (decodeReeve 0x0000002B).isSome = true ∧ (Instr.mma 5 5 0x3F).canonical = .mma 5 5 0x3F := by decide +kernel

theorem witness_WellFormedInstructionsRoundTrip :
    (Instr.loop 2 255 0x7FFF).isCoreWord = true ∧ (Instr.loop 2 255 0x7FFF).wf = true ∧ (Instr.slupd 7 1 31 31 31).isReeveWord = true ∧
      decode 0x04611000#32 = .ok (.add 3 1 2 0 0) ∧ decodeReeve 0x00C5850B#32 = some (.slpf 12 11 10) := ⟨rfl, rfl, rfl, rfl, rfl⟩

/-- Communicator 0 of sColl is valid and has a count. -/
theorem witness_CollectiveCountsStayValid :
    commValid (commEntry { sColl with collCounts := [(0, 0, 0, 1)] } 0 0) = true ∧
    (∀ x ∈ ({ sColl with collCounts := [(0, 0, 0, 1)] } : State).collCounts, commValid (commEntry sColl 0 x.1) = true) ∧
    ({ sColl with collCounts := [(0, 0, 0, 1)] } : State).collGone = [] := by decide +kernel

/-- A state with a byte of memory and bytes in each buffer of its core. -/
theorem witness_MemoryStaysCanonical :
    MemoryCanonical { sRed with
      mem := memWrite sRed.mem 0x40 7, core := { sRed.core with w := [(3, 1)], a := [(0, 2)], c := [(5, 1), (6, 9)] } } := by
  unfold MemoryCanonical
  decide +kernel

/-! One step of the spec's worked examples. -/

/-- The state after one word at s's pc: its instruction, or the trap of a word that is no instruction (R71). -/
def go (w : BitVec 32) (s : State) : Option State :=
  match decode w with
  | .ok i => match exec i (withWord s w) with
    | .next t => some t
    | _ => none
  | .error e => some (takeTrap (withWord s w) (decodeTrap s e))

/-- s0 with some scalar registers set. -/
def regs (l : List (Nat × Word)) : State := st { run with s := l.foldl (fun v x => vset v x.1 x.2) run.s }

/-- R111's examples: quotient of the overflow case, quotient and remainder by zero. -/
theorem test_div_rem :
    (go 0x048530A8 (regs [(5, 0x80000000), (6, 0xFFFFFFFF)])).map (fun t => sreg t 4) = some 0x80000000 ∧
    (go 0x048530A8 (regs [(5, 0x80000000)])).map (fun t => sreg t 4) = some 0xFFFFFFFF ∧
    (go 0x048530E8 (regs [(5, 0x80000000)])).map (fun t => sreg t 4) = some 0x80000000 := by decide +kernel

/-- R111's examples: BFX and BFI with position 12 and length 8. -/
theorem test_bfx_bfi :
    (go 0x04E84B00 (regs [(8, 0xABC123), (9, 0x80C)])).map (fun t => sreg t 7) = some 0xBC ∧
    (go 0x04EA4B20 (regs [(10, 0x5A), (9, 0x80C)])).map (fun t => sreg t 7) = some 0x5A000 := by decide +kernel

/-- R119's examples: FADD that is inexact, FCVT to E4M3 that overflows, and one that rounds to zero and is counted. -/
theorem test_fadd_fcvt :
    (go 0x0C853008 (regs [(5, 0x3F800000), (6, 0x33000000)])).map (fun t => (sreg t 4, t.core.ctx.vmode)) = some (0x3F800000, 0x400) ∧
    (go 0x0C850260 (regs [(5, 0x43FA0000)])).map (fun t => (sreg t 4, t.core.ctx.vmode)) = some (0x7F, 0x500) ∧
    (go 0x0C850260 (regs [(5, 0x3A800000)])).map (fun t => (sreg t 4, t.core.ctx.vmode)) = some (0, 0x100000600) := by decide +kernel

/-- R33's table: 1.0 and -2.5 in the five formats. -/
theorem test_formats :
    ([FFmt.f32, .f16, .bf16, .e4m3, .e5m2].map fun f => (convert (.flt .f32) (.flt f) ⟨.rne, false, false⟩ 0x3F800000).1) =
      [0x3F800000, 0x3C00, 0x3F80, 0x38, 0x3C] ∧
    ([FFmt.f32, .f16, .bf16, .e4m3, .e5m2].map fun f => (convert (.flt .f32) (.flt f) ⟨.rne, false, false⟩ 0xC0200000).1) =
      [0xC0200000, 0xC100, 0xC020, 0xC2, 0xC1] := by decide +kernel

/-- R49's example: the three BF16 parts of 0x3FAAAAAB. -/
theorem test_split3 : ((split3 0x3FAAAAAB).1, (split3 0x3FAAAAAB).2.1, (split3 0x3FAAAAAB).2.2.1) =
    (0x3FAB, 0xBB2B, 0x36AC) := by decide +kernel

/-- h3 of R125's example: a resident page of 4 KiB at 0x7F0000000000, readable; its word at 0x40 is 0x11223344. -/
def sLdg (valid : Bool) (off : Word) : State :=
  { st { run with h := run.h.set 3 ⟨0x7F0000000, 0, 0, false, true, true, valid, 0x300⟩, s := run.s.set 5 off } with
    mem := memWrites [] 0x300040 (leBytes 4 0x11223344) }

/-- R125's example: the loaded word, a revoked handle, a misaligned offset and one past the page. -/
theorem test_ldg :
    (go 0x34C74005 (sLdg true 0x40)).map (fun t => (sreg t 6, preg t 7)) = some (0x11223344, false) ∧
    (go 0x34C74005 (sLdg false 0x40)).map (fun t => (sreg t 6, preg t 7)) = some (0, true) ∧
    (go 0x34C74005 (sLdg true 0x42)).map (fun t => (t.core.ctx.tcause, t.core.ctx.taddr)) = some (0x04, 0x7F0000000042) ∧
    (go 0x34C74005 (sLdg false 0x42)).map (fun t => (t.core.ctx.tcause, t.core.ctx.taddr)) = some (0x04, 0x42) ∧
    (go 0x34C74005 (sLdg true 0x1000)).map (fun t => (t.core.ctx.tcause, t.core.ctx.taddr)) = some (0x09, 0x7F0000001000) := by
  decide +kernel

/-- R232's example: ATOM.add leaves 6 in memory and 7 in s5. -/
theorem test_atom :
    let s := st { run1 with h := run1.h.set 2 page, s := run1.s.set 5 0xFFFFFFFF |>.set 7 0 };
    (go 0x3CA4712C { s with mem := memWrites [] 0x300000 (leBytes 4 7) }).map (fun t => (rdHomeNat t 0x300000 4, sreg t 5)) =
      some (6, 7) := by decide +kernel

/-- R101's example: the loop of the three words from 0x203C with lc0 = 3, at its last word. -/
def sFix : State := st { run with pc := 0x2044, lc := run.lc.set 0 3, loops := run.loops.set 0 ⟨true, 0, 2, 0x203C⟩ }

/-- The reserved word traps; the handler's four words run; ERET takes the loop's step. -/
theorem test_trap_and_eret :
    (go 0x04611380 sFix).map (fun t => (t.core.ctx.tcause, t.core.ctx.tpc, t.core.ctx.tword, t.core.ctx.taddr, t.core.ctx.inTrap,
      t.core.ctx.pc)) =
      some (0x01, 0x2044, 0x04611380, 0, true, 0x8000) ∧
    ((go 0x04611380 sFix).bind fun t => (go 0x60048003 t).bind fun t => (go 0x11290004 t).bind fun t => (go 0x60148003 t).bind fun t =>
      (go 0x64200000 t).map fun t => (sreg t 9, t.core.ctx.inTrap, t.core.ctx.pc, vget t.core.ctx.lc 0 0)) =
      some (0x2048, false, 0x203C, 2) := by decide +kernel

/-- R139's example: mode 1 stores offset 0x190 at 0x1A0, and 0x10 at itself. -/
theorem test_swizzle : storedWith 1 0x190 = 0x1A0 ∧ storedWith 1 0x10 = 0x10 := by decide

/-- R67's example: a hold word, then the issue word amends KT; a word of another template traps and keeps the staging copy. -/
theorem test_patch :
    ((go 0xC4520040 (sTile 1)).bind fun t => (stagingOf t.core.ctx 0).map fun x => (x.1, bodyNat x.2 32 11)) = some (5, 0x40) ∧
    ((go 0xC4520040 (sTile 1)).bind fun t => (go 0xC055003F t).map fun t =>
      ((queueOf t.core 0).map fun c => (tileAcc c.body / 64, tileK c.body), (stagingOf t.core.ctx 0).isNone)) = some ([(0x40, 64)], true) ∧
    ((go 0xC4520040 (sTile 1)).bind fun t => (go 0xC065003F t).map fun t => ((stagingOf t.core.ctx 0).map Prod.fst, t.core.ctx.tpc)) =
      some (some 5, 4) := by decide +kernel

/-- R72's example: a search word of a part without the Quesar die. -/
theorem test_unit_absent :
    (go 0xE0120003 { s0 with caps := 0 }).map (fun t => (t.core.ctx.tcause, t.core.ctx.tword)) =
      some (0x02, 0xE0120003) := by decide +kernel

/-- R138's example: four FP32 elements to a saturating E4M3 bank, piece by piece, with one value counted as zero at the end. -/
theorem test_bcopy :
    let moved := commandWork (commandWork sConvert 1 0) 1 0;
    spRead moved.core 0 0x18000 4 = [0x38, 0x7E, 0x00, 0xC2] ∧ (vget moved.core.run 1 []).map (fun x => x.under) = [1] := by
  decide +kernel

/-- R410's example: function 0 owns, names HANDTO 4, and the I3C path takes the module over; a write by function 0 is then counted. -/
theorem test_claim :
    let owned (o t : BitVec 3) : State := { State.reset with mgmt := { State.reset.mgmt with owner := o, handto := t, nown := 1 } };
    let g (i : Instr) (s : State) := match exec i s with
      | .next t => some (t.mgmt.owner, t.mgmt.handto, t.mgmt.nown)
      | _ => none;
    g (.handover 1 4) (owned 1 0) = some (1, 4, 1) ∧ g (.claim 4 4 0) (owned 1 4) = some (4, 0, 1) ∧
      g (.launch 1 0 0) (owned 4 0) = some (4, 0, 2) := by decide +kernel

end Sys2Proof.Tests
end

/-! SUPPORT. Ownership, the management block's fields, the register space, bring-up, power, attestation and errors of
memories, for O54 (R4, R383, R408 to R416): first what each write makes of the registers, then the steps. -/

namespace Sys2Proof.Management

open Sys2Proof.Machine Sys2Proof.Laws

/-! Fields of a block after a write of a part of it (R4, R383). -/

/-- A field of a block, as the number that its bits give. -/
theorem regField_eq {x hi lo : Nat} {b : BitVec (hi + 1 - lo)} (h : natBits x hi lo = b.toNat) : regField x hi lo = b := by
  rw [regField, h, BitVec.ofNat_toNat, BitVec.setWidth_eq]

theorem natBits_merge_above (old v : Nat) {rel size lo : Nat} (hi : Nat) (h : 8 * (rel + size) ≤ lo) :
    natBits (merge old rel size v) hi lo = natBits old hi lo := by
  unfold natBits merge
  set k := 8 * (rel + size) with hk
  have low : old % 2 ^ (8 * rel) + v % 2 ^ (8 * size) * 2 ^ (8 * rel) < 2 ^ k := by
    have h1 : old % 2 ^ (8 * rel) < 2 ^ (8 * rel) := Nat.mod_lt _ (Nat.two_pow_pos _)
    have h2 : v % 2 ^ (8 * size) + 1 ≤ 2 ^ (8 * size) := Nat.mod_lt _ (Nat.two_pow_pos _)
    calc _ < (v % 2 ^ (8 * size) + 1) * 2 ^ (8 * rel) := by rw [Nat.add_mul]; omega
      _ ≤ 2 ^ (8 * size) * 2 ^ (8 * rel) := Nat.mul_le_mul_right _ h2
      _ = 2 ^ k := by rw [← Nat.pow_add, hk]; congr 1; omega
  obtain ⟨d, rfl⟩ := Nat.exists_eq_add_of_le h
  rw [Nat.pow_add, ← Nat.div_div_eq_div_mul, ← Nat.div_div_eq_div_mul, Nat.add_mul_div_right _ _ (Nat.two_pow_pos _),
    Nat.div_eq_of_lt low, Nat.zero_add]

/-- The fields of the management block lie beside one another: each is read where it stands. -/
theorem mgmtImage_fields (s : State) :
    natBits (mgmtImage s) 51 45 = s.mgmt.frlost.toNat ∧ natBits (mgmtImage s) 59 52 = s.mgmt.nown.toNat ∧
      natBits (mgmtImage s) 127 96 = s.mgmt.serr.toNat ∧ natBits (mgmtImage s) 191 128 = s.fringReg.toNat ∧
      natBits (mgmtImage s) 255 192 = s.allotReg.toNat := by
  have h1 := s.mgmt.frlost.isLt
  have h2 := s.mgmt.nown.isLt
  have h3 := s.mgmt.pkgset.isLt
  have h4 := s.mgmt.plimit.isLt
  have h5 := s.mgmt.serr.isLt
  have h6 := s.fringReg.isLt
  have h7 := s.allotReg.isLt
  simp only [natBits, mgmtImage]
  refine ⟨?_, ?_, ?_, ?_, ?_⟩ <;> omega

theorem pkgset_parts (x : BitVec 10) : x.extractLsb' 4 6 ++ x.extractLsb' 0 4 = x := by
  rw [BitVec.extractLsb'_append_extractLsb'_eq_extractLsb' (by rfl), BitVec.extractLsb'_eq_self]

theorem pkgWrite_neither (s : State) (v : BitVec 10) (hp : s.mgmt.pkgw = 3 → s.pkgId = s.mgmt.pkgset) :
    pkgWrite s false false v = s := by
  have id : (if s.mgmt.pkgw = 3 then s.mgmt.pkgset else s.pkgId) = s.pkgId := by
    split
    · exact (hp ‹_›).symm
    · rfl
  have w : s.mgmt.pkgw ||| 0 ||| 0 = s.mgmt.pkgw := by simp
  simp only [pkgWrite, Bool.false_and, Bool.false_eq_true, if_false, pkgset_parts, w, id]

/-- A management write of bits [31:0] reaches none of the fields beside CLAIM and HANDTO. -/
theorem mgmtFields_low (s : State) (v : Nat) (hp : s.mgmt.pkgw = 3 → s.pkgId = s.mgmt.pkgset) : mgmtFields s 0 4 v = s := by
  obtain ⟨frlost, nown, serr, fring, allot⟩ := mgmtImage_fields s
  have keep (hi lo : Nat) (h : 32 ≤ lo) (b : BitVec (hi + 1 - lo)) (hb : natBits (mgmtImage s) hi lo = b.toNat) :
      regField (merge (mgmtImage s) 0 4 v) hi lo = b :=
    regField_eq ((natBits_merge_above _ _ _ h).trans hb)
  have none (bit : Nat) (h : 32 ≤ bit) : covers 0 4 bit = false := by simp [covers]; omega
  simp only [mgmtFields, keep 51 45 (by decide) s.mgmt.frlost frlost, keep 59 52 (by decide) s.mgmt.nown nown,
    keep 127 96 (by decide) s.mgmt.serr serr, keep 191 128 (by decide) s.fringReg fring, keep 255 192 (by decide) s.allotReg allot,
    none 60 (by decide), none 64 (by decide), none 72 (by decide), none 191 (by decide), none 255 (by decide), Bool.false_eq_true,
    if_false, pkgWrite_neither s _ hp]

/-! Ownership (R410). -/

theorem putMgmt_mgmt (s : State) (g : Mgmt) : (putMgmt s g).mgmt = g := by
  simp only [putMgmt]
  split <;> rfl

theorem putMgmt_pkgId (s : State) (g : Mgmt) : (putMgmt s g).pkgId = s.pkgId := by
  simp only [putMgmt]
  split <;> rfl

theorem ownWrite_pkg (s : State) (m c h : BitVec 3) :
    (ownWrite s m c h).pkgId = s.pkgId ∧ (ownWrite s m c h).mgmt.pkgw = s.mgmt.pkgw ∧
      (ownWrite s m c h).mgmt.pkgset = s.mgmt.pkgset := by
  unfold ownWrite
  split
  · rw [putMgmt_pkgId, putMgmt_mgmt]
    exact ⟨rfl, rfl, rfl⟩
  · exact ⟨rfl, rfl, rfl⟩

/-- The write that CLAIM c and HANDTO h make holds c and h in their places. -/
theorem claimed_fields (c h : BitVec 3) :
    regField (c.toNat * 8 + h.toNat * 256) 5 3 = c ∧ regField (c.toNat * 8 + h.toNat * 256) 10 8 = h := by
  have hc := c.isLt
  have hh := h.isLt
  constructor <;> apply regField_eq <;> unfold natBits <;> omega

section OwnershipTable
variable {owner t m c h : BitVec 3}

theorem ownNext_release_owner (ho : owner = m) : ownNext owner t m 0 0 = some (0, 0) := by
  simp only [ownNext, ho, and_self, if_true]

theorem ownNext_release_other (ho : owner ≠ m) : ownNext owner t m 0 0 = none := by
  simp only [ownNext, ho, and_self, if_true, if_false]

theorem ownNext_handover_owner (ho : owner = m) (hh : h ≠ 0) : ownNext owner t m 0 h = some (owner, h) := by
  simp only [ownNext, ho, hh, and_false, if_true, if_false]

theorem ownNext_handover_other (ho : owner ≠ m) : ownNext owner t m 0 h = none := by
  simp only [ownNext, ho, if_true, if_false, ite_self]

theorem ownNext_claim_another (hc : c ≠ 0) (hm : c ≠ m) : ownNext owner t m c h = none := by
  simp only [ownNext, hc, hm, ne_eq, not_false_eq_true, false_and, if_true, if_false]

variable (hm : m ≠ 0)
include hm

theorem ownNext_claim_owner (ho : owner = m) : ownNext owner t m m h = some (m, h) := by
  simp only [ownNext, ho, hm, false_and, and_self, if_true, if_false]

theorem ownNext_claim_free (ho : owner = 0) : ownNext owner t m m h = some (m, t) := by
  simp only [ownNext, ho, hm, hm.symm, ne_eq, not_true, false_and, and_false, if_true, if_false]

theorem ownNext_claim_offered (ho : owner ≠ m) (taken : owner ≠ 0) (ht : t = m) : ownNext owner t m m h = some (m, 0) := by
  simp only [ownNext, ho, taken, ht, hm, ne_eq, not_true, false_and, and_false, if_true, if_false]

theorem ownNext_claim_refused (ho : owner ≠ m) (taken : owner ≠ 0) (ht : t ≠ m) : ownNext owner t m m h = none := by
  simp only [ownNext, ho, taken, ht, hm, ne_eq, not_true, false_and, and_false, if_false]

end OwnershipTable

theorem ownWrite_acts {s : State} {m c h o t : BitVec 3} (e : ownNext s.mgmt.owner s.mgmt.handto m c h = some (o, t)) :
    ownWrite s m c h = putMgmt s { s.mgmt with owner := o, handto := t } := by rw [ownWrite, e]

theorem ownWrite_counted {s : State} {m c h : BitVec 3} (e : ownNext s.mgmt.owner s.mgmt.handto m c h = none) :
    ownWrite s m c h = addNown s := by rw [ownWrite, e]

section Masters
variable {s : State} {m : Nat} (hr : s.recovery = false) (h1 : 1 ≤ m) (h4 : m ≤ 4)
  (hp : s.mgmt.pkgw = 3 → s.pkgId = s.mgmt.pkgset)
include hr h1 h4 hp

/-- A master's write of CLAIM and HANDTO does what R410 has it do to ownership, and nothing else. -/
theorem mastersWrite_low (v : Nat) :
    mastersWrite s m 0 4 v = .next (ownWrite s (BitVec.ofNat 3 m) (regField v 5 3) (regField v 10 8)) := by
  obtain ⟨id, w, set⟩ := ownWrite_pkg s (BitVec.ofNat 3 m) (regField v 5 3) (regField v 10 8)
  have hm : ¬ (s.recovery ∨ m = 0 ∨ 4 < m) := by simp [hr]; omega
  have fields := mgmtFields_low (ownWrite s (BitVec.ofNat 3 m) (regField v 5 3) (regField v 10 8)) v (by rw [id, w, set]; exact hp)
  simp [mastersWrite, hm, mgmtWrite, fields]

theorem happens_claim (c h : BitVec 3) : Happens (.claim m c h) s (ownWrite s (BitVec.ofNat 3 m) c h) := by
  obtain ⟨ec, eh⟩ := claimed_fields c h
  exact (mastersWrite_low hr h1 h4 hp _).trans (by rw [ec, eh])

theorem happens_handover (h : BitVec 3) : Happens (.handover m h) s (ownWrite s (BitVec.ofNat 3 m) 0 h) := by
  obtain ⟨ec, eh⟩ := claimed_fields 0 h
  have none : (0 : BitVec 3).toNat * 8 + h.toNat * 256 = h.toNat * 256 := Nat.zero_add _
  rw [none] at ec eh
  exact (mastersWrite_low hr h1 h4 hp _).trans (by rw [ec, eh])

theorem happens_release : Happens (.ownershipRelease m) s (ownWrite s (BitVec.ofNat 3 m) 0 0) :=
  happens_claim hr h1 h4 hp 0 0

/-- R410's table, case by case. -/
theorem ownership_writes (c h : BitVec 3) :
    let g := s.mgmt
    let me := g.owner.toNat = m
    let own (o t : BitVec 3) : State := putMgmt s { g with owner := o, handto := t }
    (me → Happens (.ownershipRelease m) s (own 0 0)) ∧ (¬ me → Happens (.ownershipRelease m) s (addNown s)) ∧
    (me → h ≠ 0 → Happens (.handover m h) s (own g.owner h)) ∧ (¬ me → Happens (.handover m h) s (addNown s)) ∧
    (c.toNat = m → (me → Happens (.claim m c h) s (own c h)) ∧ (g.owner = 0 → Happens (.claim m c h) s (own c g.handto)) ∧
      (¬ me → g.owner ≠ 0 → g.handto = c → Happens (.claim m c h) s (own c 0)) ∧
      (¬ me → g.owner ≠ 0 → g.handto ≠ c → Happens (.claim m c h) s (addNown s))) ∧
    (c ≠ 0 → c.toNat ≠ m → Happens (.claim m c h) s (addNown s)) := by
  have hrel := happens_release hr h1 h4 hp
  have hhand := happens_handover hr h1 h4 hp h
  have hclaim := happens_claim hr h1 h4 hp c h
  obtain ⟨k, rfl⟩ : ∃ k : BitVec 3, m = k.toNat := ⟨BitVec.ofNat 3 m, by rw [BitVec.toNat_ofNat]; omega⟩
  have hk : k ≠ 0 := by rintro rfl; exact absurd h1 (by decide)
  simp only [BitVec.ofNat_toNat, BitVec.setWidth_eq] at hrel hhand hclaim
  have eqk (x : BitVec 3) : (x.toNat = k.toNat) = (x = k) := propext BitVec.toNat_inj
  simp only [eqk]
  refine ⟨fun me => ?_, fun me => ?_, fun me hh => ?_, fun me => ?_, ?_, fun hc other => ?_⟩
  · rwa [ownWrite_acts (ownNext_release_owner me)] at hrel
  · rwa [ownWrite_counted (ownNext_release_other me)] at hrel
  · rwa [ownWrite_acts (ownNext_handover_owner me hh)] at hhand
  · rwa [ownWrite_counted (ownNext_handover_other me)] at hhand
  · rintro rfl
    refine ⟨fun me => ?_, fun free => ?_, fun me taken offered => ?_, fun me taken other => ?_⟩
    · rwa [ownWrite_acts (ownNext_claim_owner hk me)] at hclaim
    · rwa [ownWrite_acts (ownNext_claim_free hk free)] at hclaim
    · rwa [ownWrite_acts (ownNext_claim_offered hk me taken offered)] at hclaim
    · rwa [ownWrite_counted (ownNext_claim_refused hk me taken other)] at hclaim
  · rwa [ownWrite_counted (ownNext_claim_another hc fun e => other (by rw [e]))] at hclaim

end Masters

/-! What the owner writes: ALLOT, FRING, PKGSET and PLIMIT (R408, R411, R414). -/

theorem barCount_le (level : Nat) : barCount level ≤ 2048 := by
  unfold barCount
  split <;> decide

theorem allot_number {v : BitVec 64} {n : Nat} (h : v.extractLsb' 0 48 = BitVec.ofNat 48 n) (hn : n < 2048) :
    (v.extractLsb' 0 11).toNat = n ∧ v.extractLsb' 11 37 = 0 := by
  have e := congrArg BitVec.toNat h
  simp only [BitVec.extractLsb'_toNat, BitVec.toNat_ofNat, Nat.shiftRight_zero] at e
  constructor
  · simp only [BitVec.extractLsb'_toNat, Nat.shiftRight_zero]
    omega
  · apply BitVec.eq_of_toNat_eq
    rw [BitVec.extractLsb'_toNat, Nat.shiftRight_eq_div_pow, show (0 : BitVec 37).toNat = 0 from rfl]
    omega

/-- The table of allotments with barrier n of a level given to an address space, or to none. -/
def allotsWith (l : List (Nat × Nat × BitVec 12)) (level n : Nat) (asp : BitVec 12) (given : Bool) :
    List (Nat × Nat × BitVec 12) :=
  let rest := l.filter fun a => !decide (a.1 = level ∧ a.2.1 = n)
  if given then rest ++ [(level, n, asp)] else rest

theorem mem_allotsWith_same (l : List (Nat × Nat × BitVec 12)) (level n : Nat) (asp a : BitVec 12) (given : Bool) :
    (level, n, a) ∈ allotsWith l level n asp given ↔ (given = true ∧ a = asp) := by
  cases given <;> simp [allotsWith]

theorem mem_allotsWith_other (l : List (Nat × Nat × BitVec 12)) {level n : Nat} (asp : BitVec 12) (given : Bool)
    {x : Nat × Nat × BitVec 12} (h : x.1 ≠ level ∨ x.2.1 ≠ n) : x ∈ allotsWith l level n asp given ↔ x ∈ l := by
  have hx : ¬ (x.1 = level ∧ x.2.1 = n) := by tauto
  have hne : x ≠ (level, n, asp) := by rintro rfl; exact hx ⟨rfl, rfl⟩
  cases given <;> simp [allotsWith, hne] <;> tauto

/-- ALLOT of a barrier that no context uses: its entry goes, and a new one comes where bit 63 is set. -/
theorem allotWrite_acts {s : State} {level n : Nat} {v : Word} (h1 : 1 ≤ level) (h4 : level ≤ 4) (hn : n < barCount level)
    (free : ∀ b ∈ s.netBars, b.1.level = level → b.1.num = n → b.2.kind = .free)
    (en : v.extractLsb' 0 48 = BitVec.ofNat 48 n) (el : v.extractLsb' 60 3 = BitVec.ofNat 3 level) :
    allotWrite s v = { s with allots := allotsWith s.allots level n (v.extractLsb' 48 12) (v.getLsbD 63) } := by
  have lv : (v.extractLsb' 60 3).toNat = level := by rw [el, BitVec.toNat_ofNat]; omega
  obtain ⟨num, zero⟩ := allot_number en (hn.trans_le (barCount_le level))
  have used : (s.netBars.any fun b => decide (b.1.level = level) && decide (b.1.num = n) && b.2.kind != .free) = false := by
    simpa using free
  have ok : ¬ (v.extractLsb' 11 37 ≠ 0 ∨ level = 0 ∨ 4 < level ∨ barCount level ≤ n ∨ false = true) := by
    simp only [zero, ne_eq, not_true, false_or, Bool.false_eq_true, or_false]
    omega
  simp only [allotWrite, lv, num, used, if_neg ok, allotsWith]

theorem allotWrite_ignored {s : State} {v : Word} (h : v.extractLsb' 11 37 ≠ 0 ∨ v.extractLsb' 60 3 = 0) : allotWrite s v = s := by
  have bad : v.extractLsb' 11 37 ≠ 0 ∨ (v.extractLsb' 60 3).toNat = 0 := h.imp_right fun e => by rw [e]; rfl
  simp only [allotWrite]
  rw [if_pos (bad.imp_right .inl)]

section Assoc
variable {κ α : Type} [DecidableEq κ]

theorem assocGet_set_same (l : List (κ × α)) (k : κ) (x : α) : assocGet (assocSet l k x) k = some x := by
  unfold assocSet assocGet
  split
  · rename_i h
    induction l with
    | nil => simp at h
    | cons p l ih =>
      by_cases hp : p.1 = k
      · simp [hp]
      · simpa [hp] using ih (by simpa [hp] using h)
  · rename_i h
    have none : l.find? (fun p => decide (p.1 = k)) = none := by
      rw [List.find?_eq_none]
      intro p hp e
      exact h (List.any_eq_true.2 ⟨p, hp, e⟩)
    simp [none]

theorem assocGet_set_other (l : List (κ × α)) {k a : κ} (x : α) (h : a ≠ k) : assocGet (assocSet l k x) a = assocGet l a := by
  unfold assocSet assocGet
  split
  · clear * - h
    induction l with
    | nil => rfl
    | cons p l ih =>
      by_cases hp : p.1 = k
      · simpa [hp, h.symm] using ih
      · by_cases ha : p.1 = a
        · simp [ha, h]
        · simpa [hp, ha] using ih
  · simp [h.symm]

theorem assocGet_filter_same (l : List (κ × α)) (k : κ) : assocGet (l.filter fun p => !decide (p.1 = k)) k = none := by
  simp [assocGet]

theorem assocGet_filter_other (l : List (κ × α)) {k a : κ} (h : a ≠ k) :
    assocGet (l.filter fun p => !decide (p.1 = k)) a = assocGet l a := by
  unfold assocGet
  rw [List.find?_filter]
  congr 2
  funext p
  by_cases hp : p.1 = a <;> simp [hp, h]

end Assoc

theorem isNear_zero (s : State) : isNear s 0 = true := by
  unfold isNear
  split <;> decide

theorem pkgWrite_both {s : State} (v : BitVec 10) (h : s.mgmt.pkgw = 0) :
    pkgWrite s true true v = { s with mgmt := { s.mgmt with pkgset := v, pkgw := 3 }, pkgId := v } := by
  simp [pkgWrite, h, pkgset_parts]

theorem pkgWrite_low {s : State} (v : BitVec 10) (h : s.mgmt.pkgw = 0) :
    pkgWrite s true false v = { s with mgmt := { s.mgmt with
      pkgset := s.mgmt.pkgset.extractLsb' 4 6 ++ v.extractLsb' 0 4, pkgw := 1 } } := by
  simp [pkgWrite, h]

theorem pkgWrite_again {s : State} (low high : Bool) (v : BitVec 10) (h : s.mgmt.pkgw = 3) (hp : s.pkgId = s.mgmt.pkgset) :
    pkgWrite s low high v = s := by
  have w : ((3 : BitVec 2) ||| (if low then 1 else 0) ||| (if high then 2 else 0)) = 3 := by
    cases low <;> cases high <;> rfl
  have b0 : (3 : BitVec 2).getLsbD 0 = true := rfl
  have b1 : (3 : BitVec 2).getLsbD 1 = true := rfl
  simp only [pkgWrite, h, b0, b1, Bool.not_true, Bool.and_false, Bool.false_eq_true, if_false, if_true, pkgset_parts, w]
  rw [← h]
  exact (congrArg (fun p => { s with pkgId := p }) hp).symm

theorem clampLimit_eq (part : Part) (v : BitVec 12) :
    clampLimit part v = BitVec.ofNat 12 (max 400 (min v.toNat (if part = .a then 2800 else 1300))) := by
  apply BitVec.eq_of_toNat_eq
  have hv := v.isLt
  have least : (400 : BitVec 12).toNat = 400 := rfl
  have a : (2800 : BitVec 12).toNat = 2800 := rfl
  have b : (1300 : BitVec 12).toNat = 1300 := rfl
  cases part <;> simp only [clampLimit, reduceCtorEq, if_true, if_false, apply_ite BitVec.toNat,
    BitVec.toNat_ofNat, least, a, b] <;> split_ifs <;> omega

/-! The register space (R4, R383). -/

/-- A write of a whole register leaves nothing of what it held. -/
theorem merge_word (old v : Word) : merge old.toNat 0 8 v.toNat = v.toNat := by
  have ho := old.isLt
  have hv := v.isLt
  unfold merge
  omega

section DieBlocks
variable {s : State} {die o size : Nat} (hd : die < capsDies s) (h2 : die < 2)
include hd h2

theorem blockAt_launch : blockAt s (0x100000 * die + 0x40) 8 = some (.launch die, 0) := by
  have d : (0x100000 * die + 0x40) / 0x100000 = die := by omega
  have r : (0x100000 * die + 0x40) % 0x100000 = 0x40 := by omega
  have present : ¬ capsDies s ≤ die := by omega
  simp [blockAt, d, r, h2, present]

theorem blockAt_sched (lo : 0x80 ≤ o) (hi : o + size ≤ 0xA0) (pos : 0 < size) :
    blockAt s (0x100000 * die + o) size = some (.sched die, o - 0x80) := by
  have d : (0x100000 * die + o) / 0x100000 = die := by omega
  have r : (0x100000 * die + o) % 0x100000 = o := by omega
  simp only [blockAt, d, r]
  rw [if_pos h2, if_neg (by omega), if_neg (by omega), if_neg (by omega), if_pos ⟨lo, hi⟩]

theorem blockAt_linkCtl (lo : 0xC0 ≤ o) (hi : o + size ≤ 0x100) (pos : 0 < size) :
    blockAt s (0x100000 * die + o) size = some (.linkCtl die, o - 0xC0) := by
  have d : (0x100000 * die + o) / 0x100000 = die := by omega
  have r : (0x100000 * die + o) % 0x100000 = o := by omega
  simp only [blockAt, d, r]
  rw [if_pos h2, if_neg (by omega), if_neg (by omega), if_neg (by omega), if_neg (by omega), if_neg (by omega), if_pos ⟨lo, hi⟩]

end DieBlocks

theorem blockAt_quesar (s : State) : blockAt s 0x800000 8 = some (.quesar, 0) := by simp [blockAt]

theorem happens_registerWrite_refused {s : State} {off size : Nat} (m fn : Nat) (v : BitVec 64)
    (h : (size ≠ 4 ∧ size ≠ 8) ∨ off % size ≠ 0) : Happens (.registerWrite m fn off size v) s s := by
  change execRegisterWrite m fn off size v s = _
  rw [execRegisterWrite, if_pos h]

section OwnerWrites
variable {s : State} {m off size : Nat} (hs : size = 4 ∨ size = 8) (ha : off % size = 0)
include hs ha

theorem registerWrite_aligned : ¬ ((size ≠ 4 ∧ size ≠ 8) ∨ off % size ≠ 0) := by omega

theorem happens_registerWrite_block {b : Block} {rel : Nat} (v : BitVec 64) (hr : s.recovery = false) (hm : m ≠ 0)
    (ho : s.mgmt.owner.toNat = m) (hb : blockAt s off size = some (b, rel)) :
    Happens (.registerWrite m 0 off size v) s (blockWrite s b rel size v.toNat) := by
  change execRegisterWrite m 0 off size v s = _
  simp only [execRegisterWrite, if_neg (registerWrite_aligned hs ha), OfNat.zero_ne_ofNat, zero_ne_one, if_false, if_true, hb]
  exact ownedDo_owner hr hm ho _

theorem happens_registerWrite_noBlock (v : BitVec 64) (hb : blockAt s off size = none) :
    Happens (.registerWrite m 0 off size v) s s := by
  change execRegisterWrite m 0 off size v s = _
  simp only [execRegisterWrite, if_neg (registerWrite_aligned hs ha), zero_ne_one, if_false, if_true, hb]

end OwnerWrites

theorem quesarBase_bits (v : BitVec 64) : BitVec.ofNat 64 (natBits v.toNat 51 7 * 2 ^ 7) = v &&& 0xFFFFFFFFFFF80 := by
  have mask : ∀ i : Fin 64, (0xFFFFFFFFFFF80 : BitVec 64).getLsbD i = decide (7 ≤ i.val ∧ i.val < 52) := by decide
  apply BitVec.eq_of_getLsbD_eq
  intro i hi
  rw [BitVec.getLsbD_and, mask ⟨i, hi⟩, BitVec.getLsbD_ofNat, natBits, Nat.testBit_mul_two_pow, Nat.testBit_mod_two_pow,
    Nat.testBit_div_two_pow, BitVec.testBit_toNat]
  by_cases h7 : 7 ≤ i <;> by_cases h52 : i < 52 <;> simp [hi, h7, h52] <;> omega

theorem quesarBaseWrite_whole {s : State} (v : BitVec 64) (h : capsQuesar s = true) :
    quesarBaseWrite s 0 8 v.toNat = { s with quesarBase := v &&& 0xFFFFFFFFFFF80 } := by
  rw [quesarBaseWrite, if_pos h, merge_word, quesarBase_bits]

theorem launchReg_whole (s : State) (die : Nat) (v : BitVec 64) :
    blockWrite s (.launch die) 0 8 v.toNat = launchWrite { s with launchReg := vset s.launchReg die v } die v := by
  have c : covers 0 8 63 = true := rfl
  simp only [blockWrite, merge_word, BitVec.ofNat_toNat, BitVec.setWidth_eq, c, if_true]

/-- The writable words of a link control block, one after another. -/
def linkCtlWords (routebase commbase qpbase : Word) : Nat :=
  routebase.toNat + commbase.toNat * 2 ^ 64 + qpbase.toNat * 2 ^ 128

theorem linkCtlWrite_words {s : State} {die rel v : Nat} {r c q : Word}
    (h : let l := getLinkCtl s die
      merge (linkCtlWords l.routebase l.commbase l.qpbase) rel 8 v = linkCtlWords r c q) :
    linkCtlWrite s die rel 8 v = { s with linkCtl := vset s.linkCtl die { getLinkCtl s die with
      qpbase := q, commbase := c, routebase := r } } := by
  have hr := r.isLt
  have hc := c.isLt
  have hq := q.isLt
  unfold linkCtlWords at h
  simp only [linkCtlWrite, h]
  rw [regField_eq (b := q) (by unfold natBits; omega), regField_eq (b := c) (by unfold natBits; omega),
    regField_eq (b := r) (by unfold natBits; omega)]

section LinkControl
variable (r c q v : Word)

theorem linkCtlWords_routebase : merge (linkCtlWords r c q) 0 8 v.toNat = linkCtlWords v c q := by
  have hr := r.isLt
  have hv := v.isLt
  unfold merge linkCtlWords
  omega

theorem linkCtlWords_commbase : merge (linkCtlWords r c q) 8 8 v.toNat = linkCtlWords r v q := by
  have hr := r.isLt
  have hc := c.isLt
  have hv := v.isLt
  unfold merge linkCtlWords
  omega

theorem linkCtlWords_qpbase : merge (linkCtlWords r c q) 16 8 v.toNat = linkCtlWords r c v := by
  have hr := r.isLt
  have hc := c.isLt
  have hq := q.isLt
  have hv := v.isLt
  unfold merge linkCtlWords
  omega

end LinkControl

/-! Reads of the register space: write-only fields are zero (R4). -/

theorem registerRead_misaligned (s : State) (i3c : Bool) (fn : Nat) {off size : Nat} (h : (size ≠ 4 ∧ size ≠ 8) ∨ off % size ≠ 0) :
    registerRead s i3c fn off size = none := by
  rw [registerRead, if_pos (.inr h)]

theorem registerRead_recovery {s : State} (h : s.recovery = true) (fn off size : Nat) :
    registerRead s false fn off size = none := by
  rw [registerRead, if_pos (.inl ⟨h, rfl⟩)]

section Reads
variable {s : State} {i3c : Bool} {off : Nat} (hp : s.recovery = false ∨ i3c = true) (ha : off % 8 = 0)
include hp ha

theorem registerRead_answers : ¬ ((s.recovery ∧ i3c = false) ∨ (8 ≠ 4 ∧ 8 ≠ 8) ∨ off % 8 ≠ 0) := by
  rcases hp with h | h <;> simp [h, ha]

theorem registerRead_block {b : Block} {rel : Nat} (hb : blockAt s off 8 = some (b, rel)) :
    registerRead s i3c 0 off 8 = some (natBits (blockImage s b) (8 * (rel + 8) - 1) (8 * rel)) := by
  simp only [registerRead, if_neg (registerRead_answers hp ha), zero_ne_one, if_false, if_true, hb, Option.map_some]

theorem registerRead_mgmt (h : off + 8 ≤ 32) :
    registerRead s i3c 1 off 8 = some (natBits (mgmtRead s) (8 * (off + 8) - 1) (8 * off)) := by
  simp only [registerRead, if_neg (registerRead_answers hp ha), if_true, if_pos h]

end Reads

/-- FRING and ALLOT stand above all that the management block shows. -/
theorem mgmtRead_lt (s : State) : mgmtRead s < 2 ^ 128 := by
  have h1 := s.mgmt.owner.isLt
  have h2 := s.mgmt.handto.isLt
  have h3 := s.mgmt.ready.isLt
  have h4 := s.mgmt.failed.isLt
  have h5 := s.mgmt.frlost.isLt
  have h6 := s.mgmt.nown.isLt
  have h7 := s.mgmt.pkgset.isLt
  have h8 := s.mgmt.plimit.isLt
  have h9 := s.mgmt.pmeas.isLt
  have h10 := s.mgmt.serr.isLt
  simp only [mgmtRead]
  split_ifs <;> omega

theorem natBits_beyond {x lo : Nat} (hi : Nat) (h : x < 2 ^ lo) : natBits x hi lo = 0 := by
  rw [natBits, Nat.div_eq_of_lt h, Nat.zero_mod]

/-- PENTRY and PDEAD stand above all that a scheduler block shows. -/
theorem schedImage_lt (c : SchedCtl) : schedImage { c with pentry := 0, pdead := 0 } < 2 ^ 192 := by
  have h1 := c.savefree.isLt
  have h2 := c.savecnt.isLt
  have h3 := c.dline.isLt
  have h4 := c.dlprio.isLt
  have z1 : (0 : BitVec 16).toNat = 0 := rfl
  have z2 : (0 : BitVec 32).toNat = 0 := rfl
  simp only [schedImage, z1, z2]
  split_ifs <;> omega

theorem blockImage_routebase (s : State) (die : Nat) :
    natBits (blockImage s (.linkCtl die)) 63 0 = (getLinkCtl s die).routebase.toNat := by
  have h := (getLinkCtl s die).routebase.isLt
  simp only [natBits, blockImage]
  omega

/-! Bring-up (R409, R412). -/

/-- A part of bring-up that moves links, and raises vectors for them (R381, R393). -/
def LinksOnly (s t : State) : Prop := t = { s with links := t.links, msix := t.msix, msixPend := t.msixPend }

theorem LinksOnly.refl (s : State) : LinksOnly s s := rfl

theorem LinksOnly.trans {s t u : State} (h : LinksOnly s t) (k : LinksOnly t u) : LinksOnly s u := by
  unfold LinksOnly at *
  rw [h] at k
  exact k

theorem LinksOnly.mgmt {s t : State} (h : LinksOnly s t) : t.mgmt = s.mgmt := by rw [h]
theorem LinksOnly.part {s t : State} (h : LinksOnly s t) : t.part = s.part := by rw [h]
theorem LinksOnly.caps {s t : State} (h : LinksOnly s t) : t.caps = s.caps := by rw [h]
theorem LinksOnly.core {s t : State} (h : LinksOnly s t) : t.core = s.core := by rw [h]
theorem LinksOnly.mem {s t : State} (h : LinksOnly s t) : t.mem = s.mem := by rw [h]
theorem LinksOnly.recovery {s t : State} (h : LinksOnly s t) : t.recovery = s.recovery := by rw [h]

theorem putLink_linksOnly (s : State) (n : Nat) (l : Link) : LinksOnly s (putLink s n l) := by
  simp only [putLink]
  split <;> rfl

theorem linkTested_linksOnly (s : State) (n : Nat) (ok : Bool) : LinksOnly s (linkTested s n ok) := putLink_linksOnly _ _ _

theorem boundaryTested_linksOnly (s : State) : LinksOnly s (boundaryTested s) := by
  simp only [boundaryTested]
  split_ifs
  · exact .refl s
  · exact linkTested_linksOnly _ _ _
  · exact linkTested_linksOnly _ _ _
  · exact .refl s

theorem foldl_linkTested_linksOnly (l : List Nat) (num : Nat → Nat) (ok : Nat → Bool) (s : State) :
    LinksOnly s (l.foldl (fun t p => linkTested t (num p) (ok p)) s) := by
  induction l generalizing s with
  | nil => exact .refl s
  | cons p l ih => exact (linkTested_linksOnly s _ _).trans (ih _)

theorem linksTested_linksOnly (s : State) (f : Nat) (pass : Bool) (found : Nat) : LinksOnly s (linksTested s f pass found) := by
  simp only [linksTested]
  split
  · exact boundaryTested_linksOnly s
  · exact boundaryTested_linksOnly s
  · exact linkTested_linksOnly _ _ _
  · exact linkTested_linksOnly _ _ _
  · exact foldl_linkTested_linksOnly _ _ _ s
  · exact foldl_linkTested_linksOnly _ _ _ s
  · exact .refl s

/-- The management block with a function's READY or FAILED bit set. -/
def testedMgmt (g : Mgmt) (f : Nat) (ok : Bool) : Mgmt :=
  if ok then { g with ready := g.ready ||| BitVec.ofNat 10 (2 ^ f) } else { g with failed := g.failed ||| BitVec.ofNat 10 (2 ^ f) }

theorem getLsbD_setBit10 (x : BitVec 10) {f : Nat} (hf : f < 10) (j : Nat) :
    (x ||| BitVec.ofNat 10 (2 ^ f)).getLsbD j = true ↔ x.getLsbD j = true ∨ j = f := by
  rw [BitVec.getLsbD_or, BitVec.getLsbD_ofNat, Nat.testBit_two_pow, Bool.or_eq_true, Bool.and_eq_true, decide_eq_true_eq,
    decide_eq_true_eq]
  exact or_congr_right ⟨fun h => h.2.symm, fun h => ⟨h ▸ hf, h.symm⟩⟩

theorem testedMgmt_ready (g : Mgmt) {f : Nat} (hf : f < 10) (ok : Bool) (j : Nat) :
    (testedMgmt g f ok).ready.getLsbD j = true ↔ g.ready.getLsbD j = true ∨ (ok = true ∧ j = f) := by
  cases ok
  · simp [testedMgmt]
  · simpa only [testedMgmt, if_true, true_and] using getLsbD_setBit10 g.ready hf j

theorem testedMgmt_failed (g : Mgmt) {f : Nat} (hf : f < 10) (ok : Bool) (j : Nat) :
    (testedMgmt g f ok).failed.getLsbD j = true ↔ g.failed.getLsbD j = true ∨ (ok = false ∧ j = f) := by
  cases ok
  · simpa only [testedMgmt, Bool.false_eq_true, if_false, true_and] using getLsbD_setBit10 g.failed hf j
  · simp [testedMgmt]

theorem testedMgmt_bdone (g : Mgmt) (f : Nat) (ok : Bool) : (testedMgmt g f ok).bdone = g.bdone := by
  cases ok <;> rfl

theorem functionPresent_lt {part : Part} {f : Nat} (h : functionPresent part f = true) : f < 10 := by
  simp only [functionPresent, Bool.and_eq_true, decide_eq_true_eq] at h
  exact h.1

theorem allTested_iff (s : State) : allTested s = true ↔ ∀ j, j < 10 → functionPresent s.part j = true →
    s.mgmt.ready.getLsbD j = true ∨ s.mgmt.failed.getLsbD j = true := by
  simp only [allTested, List.all_eq_true, List.mem_range, Bool.or_eq_true, Bool.not_eq_true', or_assoc]
  refine forall₂_congr fun j _ => ?_
  cases functionPresent s.part j <;> simp

/-- What a self-test whose result is new leaves, apart from the links and what bring-up fixes as it ends. -/
theorem selfTest_outcome {s : State} {f : Nat} (test : SelfTest) (found : Nat) (hr : s.recovery = false)
    (hp : functionPresent s.part f = true) (hb : s.mgmt.bdone = false ∨ f = 0) (h1 : s.mgmt.ready.getLsbD f = false)
    (h2 : s.mgmt.failed.getLsbD f = false) :
    let taken := !hasImage f || imageAccepted s test.img
    let g := testedMgmt s.mgmt f (test.pass && taken)
    ∃ t u, Happens (.functionSelfTestDone f test found) s t ∧ u.mgmt = g ∧ u.part = s.part ∧
      t.mgmt = { g with bdone := s.mgmt.bdone || allTested u } ∧ t.recovery = (decide (f = 0) && !taken) ∧
      (t.mgmt.bdone = s.mgmt.bdone → t.caps = s.caps) ∧ t.core = s.core ∧ t.mem = s.mem := by
  intro taken g
  have new : (s.recovery || !functionPresent s.part f || (s.mgmt.bdone && f != 0) || s.mgmt.ready.getLsbD f ||
      s.mgmt.failed.getLsbD f) = false := by
    have early : (s.mgmt.bdone && f != 0) = false := by
      rcases hb with hb | rfl
      · rw [hb, Bool.false_and]
      · rw [bne_self_eq_false, Bool.and_false]
    rw [hr, hp, early, h1, h2]
    rfl
  let s1 : State := { s with
    mgmt := g, found := vset s.found f (if test.pass && taken then found else 0), recovery := decide (f = 0) && !taken }
  let u := linksTested s1 f (test.pass && taken) (if test.pass && taken then found else 0)
  have hu : LinksOnly s1 u := linksTested_linksOnly _ _ _ _
  have bd : g.bdone = s.mgmt.bdone := testedMgmt_bdone _ _ _
  refine ⟨raiseMsix (if allTested u && !s.mgmt.bdone then bringUpEnds u else u) 1 0, u, ?_, hu.mgmt, hu.part, ?_⟩
  · change execFunctionSelfTestDone f test found s = _
    simp only [execFunctionSelfTestDone, new, Bool.false_eq_true, if_false]
    rfl
  · cases ends : allTested u && !s.mgmt.bdone with
    | true =>
      rw [Bool.and_eq_true, Bool.not_eq_true'] at ends
      obtain ⟨all, undone⟩ := ends
      simp [bringUpEnds, hu.mgmt, hu.core, hu.mem, hu.recovery, all, undone, s1]
    | false =>
      have same : (s.mgmt.bdone || allTested u) = g.bdone := by
        rw [bd]
        cases h : s.mgmt.bdone <;> simp_all
      simp [hu.mgmt, hu.core, hu.mem, hu.recovery, hu.caps, same, s1]

/-! Power (R414). -/

theorem putMgmt_eq (s : State) (g : Mgmt) :
    putMgmt s g = { s with mgmt := g, msix := (putMgmt s g).msix, msixPend := (putMgmt s g).msixPend } := by
  simp only [putMgmt]
  split <;> rfl

/-! Attestation (R413). -/

theorem spdmReply_eq {s : State} (value : List Byte) (h : s.recovery = false) : ∃ i3c b,
    let t := { s with spdm := s.spdm ++ [(i3c, b ++ value)], fresh := s.fresh + 1 }
    spdmReply s value = .next (if i3c = true then t else raiseMsix t 1 1) :=
  ⟨Config.freeMiss s.fresh 10, Config.freeBytes s.fresh, by simp only [spdmReply, h, Bool.false_eq_true, if_false]; rfl⟩

/-! Errors of memories (R143, R144, R416). -/

theorem getCore_place (s : State) (die num : Nat) : (getCore s die num).die = die ∧ (getCore s die num).num = num := by
  unfold getCore
  split
  · assumption
  · cases h : s.others.find? fun k => decide (k.die = die ∧ k.num = num) with
    | none => exact ⟨rfl, rfl⟩
    | some k => simpa using List.find?_some h

theorem find_replaced {l : List Core} {k : Core} (h : ∃ o ∈ l, o.die = k.die ∧ o.num = k.num) :
    (l.map fun o => if o.die = k.die ∧ o.num = k.num then k else o).find?
      (fun o => decide (o.die = k.die ∧ o.num = k.num)) = some k := by
  induction l with
  | nil => simp at h
  | cons o l ih =>
    by_cases place : o.die = k.die ∧ o.num = k.num
    · simp [place]
    · have rest : ∃ o ∈ l, o.die = k.die ∧ o.num = k.num := by
        simpa only [List.exists_mem_cons_iff, place, false_or] using h
      rw [List.map_cons, if_neg place, List.find?_cons_of_neg (by simpa using place), ih rest]

/-- A core put back is found at its place. -/
theorem getCore_putCore (s : State) (k : Core) : getCore (putCore s k) k.die k.num = k := by
  unfold putCore
  split_ifs with here listed
  · simp [getCore]
  · simp only [List.any_eq_true, decide_eq_true_eq] at listed
    rw [getCore, if_neg here, find_replaced listed, Option.getD_some]
  · have none : s.others.find? (fun o => decide (o.die = k.die ∧ o.num = k.num)) = none := by
      simpa using listed
    rw [getCore, if_neg here, List.find?_append, none]
    simp

theorem wordError_place (k : Core) (w : BitVec 2 × Nat) (double : Bool) :
    (wordError k w double).die = k.die ∧ (wordError k w double).num = k.num := by
  unfold wordError
  split_ifs <;> exact ⟨rfl, rfl⟩

theorem putCore_mem (s : State) (k : Core) : (putCore s k).mem = s.mem := by
  unfold putCore
  split_ifs <;> rfl

theorem satAdd32_one (x : BitVec 32) : satAdd32 x 1 = if x = 0xFFFFFFFF then 0xFFFFFFFF else x + 1 := by
  have hx := x.isLt
  apply BitVec.eq_of_toNat_eq
  split
  · subst x
    rfl
  · rename_i h
    have : x.toNat ≠ 0xFFFFFFFF := fun e => h (BitVec.eq_of_toNat_eq e)
    rw [satAdd32, BitVec.toNat_ofNat, BitVec.toNat_add, Nat.min_eq_left (by omega), show (1 : BitVec 32).toNat = 1 from rfl]

/-- The near and far tiers are backed by memory, and are no flash. -/
theorem local_backed {s : State} {pa : Nat} (h : (isNear s pa || isFar s pa) = true) : (backed s pa && !isStore pa) = true := by
  have below : pa < 0x100000000000 := by
    simp only [isNear, isFar, Bool.or_eq_true, Bool.and_eq_true, decide_eq_true_eq] at h
    split_ifs at h <;> omega
  have store : isStore pa = false := by simp [isStore]; omega
  simp [backed, h, store]

theorem withheld_cleared (k : Core) (bank : Nat) :
    decide ((k.failedBanks.filter fun n => n != bank) ≠ []) = !(k.failedBanks.all fun n => n == bank) := by
  induction k.failedBanks with
  | nil => rfl
  | cons n l ih => by_cases h : n = bank <;> simp_all

/-! The steps, one statement for each group of clauses. -/

theorem functionLevelReset_acts (s : State) (m : Nat) :
    ((m = 1 ∨ m = 2 ∨ m = 4) → s.mgmt.owner.toNat = m →
      Happens (.functionLevelReset m) s (putMgmt s { s.mgmt with owner := 0, handto := 0 })) ∧
    (s.mgmt.owner.toNat ≠ m → Happens (.functionLevelReset m) s s) := by
  have e : exec (.functionLevelReset m) s = execFunctionLevelReset m s := rfl
  unfold Happens
  rw [e, execFunctionLevelReset]
  exact ⟨fun who me => by rw [if_pos ⟨who, me⟩], fun other => by rw [if_neg fun h => other h.2]⟩

section OwnerOnly
variable (s : State) (m : Nat)

theorem exec_allot (v : Word) : exec (.allot m v) s = ownedDo s m fun t => allotWrite { t with allotReg := v } v := rfl

theorem exec_fring (v : Word) : exec (.fring m v) s = ownedDo s m fun t => fringWrite { t with fringReg := v } v := rfl

theorem exec_pkgset (p : BitVec 2) (v : BitVec 10) :
    exec (.pkgset m p v) s = ownedDo s m fun t => pkgWrite t (p.getLsbD 0) (p.getLsbD 1) v := rfl

theorem exec_plimit (v : BitVec 12) : exec (.plimit m v) s = ownedDo s m fun t => limitWrite t v := rfl

end OwnerOnly

theorem otherMasters_counted {s : State} {m : Nat} {i : Instr} (hr : s.recovery = false) (other : s.mgmt.owner.toNat ≠ m)
    (h : (∃ v, i = .allot m v) ∨ (∃ v, i = .fring m v) ∨ (∃ p v, i = .pkgset m p v) ∨ (∃ v, i = .plimit m v)) :
    Happens i s (addNown s) := by
  rcases h with ⟨v, rfl⟩ | ⟨v, rfl⟩ | ⟨p, v, rfl⟩ | ⟨v, rfl⟩
  · exact (exec_allot s m v).trans (ownedDo_other hr other _)
  · exact (exec_fring s m v).trans (ownedDo_other hr other _)
  · exact (exec_pkgset s m p v).trans (ownedDo_other hr other _)
  · exact (exec_plimit s m v).trans (ownedDo_other hr other _)

section Owner
variable {s : State} {m : Nat} (hr : s.recovery = false) (hm : m ≠ 0) (ho : s.mgmt.owner.toNat = m)
include hr hm ho

theorem happens_allot (v : Word) : Happens (.allot m v) s (allotWrite { s with allotReg := v } v) :=
  (exec_allot s m v).trans (ownedDo_owner hr hm ho _)

theorem happens_fring (v : Word) : Happens (.fring m v) s (fringWrite { s with fringReg := v } v) :=
  (exec_fring s m v).trans (ownedDo_owner hr hm ho _)

theorem happens_pkgset (p : BitVec 2) (v : BitVec 10) : Happens (.pkgset m p v) s (pkgWrite s (p.getLsbD 0) (p.getLsbD 1) v) :=
  (exec_pkgset s m p v).trans (ownedDo_owner hr hm ho _)

theorem happens_plimit (v : BitVec 12) : Happens (.plimit m v) s (limitWrite s v) :=
  (exec_plimit s m v).trans (ownedDo_owner hr hm ho _)

theorem allot_acts {level n : Nat} {asp : BitVec 12} {v : Word} (h1 : 1 ≤ level) (h4 : level ≤ 4) (hn : n < barCount level)
    (free : ∀ b ∈ s.netBars, b.1.level = level → b.1.num = n → b.2.kind = .free)
    (en : v.extractLsb' 0 48 = BitVec.ofNat 48 n) (ea : v.extractLsb' 48 12 = asp)
    (el : v.extractLsb' 60 3 = BitVec.ofNat 3 level) :
    ∃ t, Happens (.allot m v) s t ∧ t = { s with allotReg := v, allots := t.allots } ∧
      (∀ a, (level, n, a) ∈ t.allots ↔ (v.getLsbD 63 = true ∧ a = asp)) ∧
      ∀ x, (x.1 ≠ level ∨ x.2.1 ≠ n) → (x ∈ t.allots ↔ x ∈ s.allots) := by
  have step := happens_allot hr hm ho v
  rw [allotWrite_acts (s := { s with allotReg := v }) h1 h4 hn free en el, ea] at step
  exact ⟨_, step, rfl, fun a => mem_allotsWith_same _ _ _ _ _ _, fun x hx => mem_allotsWith_other _ _ _ hx⟩

theorem fring_acts {v : Word} {pa : Nat} (e : pa = natBits v.toNat 51 6 * 64) :
    (isNear s pa = true → pa ≠ 0 → ∃ t, Happens (.fring m v) s t ∧ t = { s with fringReg := v, frings := t.frings } ∧
      assocGet t.frings (v.extractLsb' 52 12) = some pa ∧
      ∀ a, a ≠ v.extractLsb' 52 12 → assocGet t.frings a = assocGet s.frings a) ∧
    (pa = 0 → ∃ t, Happens (.fring m v) s t ∧ t = { s with fringReg := v, frings := t.frings } ∧
      assocGet t.frings (v.extractLsb' 52 12) = none ∧ ∀ a, a ≠ v.extractLsb' 52 12 → assocGet t.frings a = assocGet s.frings a) ∧
    (isNear s pa = false → Happens (.fring m v) s { s with fringReg := v }) := by
  have step := happens_fring hr hm ho v
  have tier : isNear { s with fringReg := v } pa = isNear s pa := rfl
  simp only [fringWrite, ← e, tier] at step
  refine ⟨fun near pos => ?_, fun zero => ?_, fun far => ?_⟩
  · rw [if_neg pos, if_pos near] at step
    exact ⟨_, step, rfl, assocGet_set_same _ _ _, fun a h => assocGet_set_other _ _ h⟩
  · rw [if_pos zero] at step
    exact ⟨_, step, rfl, assocGet_filter_same _ _, fun a h => assocGet_filter_other _ h⟩
  · have pos : pa ≠ 0 := by
      rintro rfl
      rw [isNear_zero] at far
      cases far
    rwa [if_neg pos, far, if_neg Bool.false_ne_true] at step

theorem dieRegisters_written {die : Nat} (v : Word) (hd : die < capsDies s) (h2 : die < 2) :
    Happens (.registerWrite m 0 (0x100000 * die + 0xC0) 8 v) s
      { s with linkCtl := vset s.linkCtl die { getLinkCtl s die with routebase := v } } ∧
    Happens (.registerWrite m 0 (0x100000 * die + 0xC8) 8 v) s
      { s with linkCtl := vset s.linkCtl die { getLinkCtl s die with commbase := v } } ∧
    Happens (.registerWrite m 0 (0x100000 * die + 0xD0) 8 v) s
      { s with linkCtl := vset s.linkCtl die { getLinkCtl s die with qpbase := v } } ∧
    Happens (.registerWrite m 0 (0x100000 * die + 0x40) 8 v) s
      (launchWrite { s with launchReg := vset s.launchReg die v } die v) := by
  have write {o : Nat} (lo : 0xC0 ≤ o) (hi : o + 8 ≤ 0x100) (ha : (0x100000 * die + o) % 8 = 0) :=
    happens_registerWrite_block (.inr rfl) ha v hr hm ho (blockAt_linkCtl hd h2 lo hi (by decide))
  refine ⟨?_, ?_, ?_, ?_⟩
  · rw [← linkCtlWrite_words (linkCtlWords_routebase _ _ _ v)]
    exact write (by decide) (by decide) (by omega)
  · rw [← linkCtlWrite_words (linkCtlWords_commbase _ _ _ v)]
    exact write (by decide) (by decide) (by omega)
  · rw [← linkCtlWrite_words (linkCtlWords_qpbase _ _ _ v)]
    exact write (by decide) (by decide) (by omega)
  · rw [← launchReg_whole]
    exact happens_registerWrite_block (.inr rfl) (by omega) v hr hm ho (blockAt_launch hd h2)

end Owner

theorem dieRegisters_read {s : State} {i3c : Bool} (hp : s.recovery = false ∨ i3c = true) {die : Nat} (hd : die < capsDies s)
    (h2 : die < 2) :
    registerRead s i3c 0 (0x100000 * die + 0x40) 8 = some 0 ∧ registerRead s i3c 0 (0x100000 * die + 0x98) 8 = some 0 ∧
      registerRead s i3c 0 (0x100000 * die + 0xC0) 8 = some (getLinkCtl s die).routebase.toNat := by
  refine ⟨?_, ?_, ?_⟩
  · rw [registerRead_block hp (by omega) (blockAt_launch hd h2)]
    exact congrArg some (natBits_beyond _ (Nat.two_pow_pos _))
  · rw [registerRead_block hp (by omega) (blockAt_sched hd h2 (by decide) (by decide) (by decide))]
    exact congrArg some (natBits_beyond _ (schedImage_lt _))
  · rw [registerRead_block hp (by omega) (blockAt_linkCtl hd h2 (by decide) (by decide) (by decide))]
    exact congrArg some (blockImage_routebase s die)

theorem imageAccepted_iff (s : State) (img : FwImage) :
    imageAccepted s img = true ↔ img.signed_ = true ∧ img.key = s.fuseKey ∧ s.fuseVersion ≤ img.version := by
  simp [imageAccepted, and_assoc]

theorem hasImage_iff (f : Nat) : hasImage f = true ↔ f = 0 ∨ f = 5 ∨ f = 6 := by
  simp [hasImage, or_assoc]

theorem selfTest_sets {s : State} {f : Nat} (pass : Bool) (img : FwImage) (found : Nat) (hr : s.recovery = false)
    (hp : functionPresent s.part f = true) (hb : s.mgmt.bdone = false ∨ f = 0) (h1 : s.mgmt.ready.getLsbD f = false)
    (h2 : s.mgmt.failed.getLsbD f = false) :
    let accepted : Prop := img.signed_ = true ∧ img.key = s.fuseKey ∧ s.fuseVersion ≤ img.version
    let runsImage : Prop := f = 0 ∨ f = 5 ∨ f = 6
    let ok : Prop := pass = true ∧ (runsImage → accepted)
    ∃ t, Happens (.functionSelfTestDone f ⟨pass, img⟩ found) s t ∧
      (∀ j, t.mgmt.ready.getLsbD j = true ↔ s.mgmt.ready.getLsbD j = true ∨ (ok ∧ j = f)) ∧
      (∀ j, j < 10 → (t.mgmt.failed.getLsbD j = true ↔ s.mgmt.failed.getLsbD j = true ∨ (¬ ok ∧ j = f))) ∧
      (t.mgmt.bdone = true ↔ s.mgmt.bdone = true ∨ ∀ j, j < 10 → functionPresent s.part j = true →
        t.mgmt.ready.getLsbD j = true ∨ t.mgmt.failed.getLsbD j = true) ∧
      (t.recovery = true ↔ f = 0 ∧ ¬ accepted) ∧ (t.mgmt.bdone = s.mgmt.bdone → t.caps = s.caps) ∧
      t.core = s.core ∧ t.mem = s.mem := by
  intro accepted runsImage ok
  have hf := functionPresent_lt hp
  obtain ⟨t, u, step, um, up, tm, tr, caps, core, mem⟩ := selfTest_outcome ⟨pass, img⟩ found hr hp hb h1 h2
  have acc : imageAccepted s img = true ↔ accepted := imageAccepted_iff s img
  have taken : (!hasImage f || imageAccepted s img) = true ↔ (runsImage → accepted) := by
    rw [Bool.or_eq_true, Bool.not_eq_true', ← Bool.not_eq_true, hasImage_iff, acc, ← imp_iff_not_or]
  have okb : (pass && (!hasImage f || imageAccepted s img)) = true ↔ ok := by rw [Bool.and_eq_true, taken]
  refine ⟨t, step, fun j => ?_, fun j _ => ?_, ?_, ?_, caps, core, mem⟩
  · rw [tm, ← okb]
    exact testedMgmt_ready _ hf _ j
  · rw [tm, ← okb, Bool.not_eq_true]
    exact testedMgmt_failed _ hf _ j
  · rw [tm, Bool.or_eq_true, allTested_iff, um, up]
  · rw [tr, Bool.and_eq_true, decide_eq_true_eq, Bool.not_eq_true', ← Bool.not_eq_true, taken]
    refine and_congr_right fun zero => not_congr ⟨fun h => h (.inl zero), fun h _ => h⟩

theorem power_acts (s : State) (w : BitVec 12) :
    ∃ t u, Happens (.throttle w) s t ∧ t = { s with mgmt := t.mgmt, msix := t.msix, msixPend := t.msixPend } ∧ t.mgmt.pmeas = w ∧
      (t.mgmt.throt = true ↔ s.mgmt.throt = true ∨ s.mgmt.plimit.toNat < w.toNat) ∧
      Happens (.clockRestore w) s u ∧ u = { s with mgmt := u.mgmt, msix := u.msix, msixPend := u.msixPend } ∧ u.mgmt.pmeas = w ∧
      (u.mgmt.throt = true ↔ s.mgmt.throt = true ∧ s.mgmt.plimit.toNat ≤ w.toNat) := by
  refine ⟨_, _, rfl, ?_, ?_, ?_, rfl, ?_, ?_, ?_⟩
  · rw [putMgmt_mgmt]
    exact putMgmt_eq _ _
  · rw [putMgmt_mgmt]
  · rw [putMgmt_mgmt, Bool.or_eq_true, decide_eq_true_eq]
  · rw [putMgmt_mgmt]
    exact putMgmt_eq _ _
  · rw [putMgmt_mgmt]
  · rw [putMgmt_mgmt, Bool.and_eq_true, Bool.not_eq_true', decide_eq_false_iff_not, Nat.not_lt]

theorem recoveryImage_acts {s : State} (img : FwImage) (hr : s.recovery = true) :
    let accepted : Prop := img.signed_ = true ∧ img.key = s.fuseKey ∧ s.fuseVersion ≤ img.version
    (accepted → ∃ t, Happens (.recoveryImage img) s t ∧ t.recovery = false ∧ t.mgmt.failed.getLsbD 0 = false) ∧
    (¬ accepted → Happens (.recoveryImage img) s s) := by
  intro accepted
  have acc : imageAccepted s img = true ↔ accepted := imageAccepted_iff s img
  have e : exec (.recoveryImage img) s = execRecoveryImage img s := rfl
  unfold Happens
  rw [e, execRecoveryImage, hr, Bool.true_and]
  refine ⟨fun h => ?_, fun h => ?_⟩
  · rw [if_pos (acc.2 h)]
    refine ⟨_, rfl, ?_, ?_⟩
    · rw [putMgmt_eq]
    · rw [putMgmt_mgmt]
      simp
  · rw [if_neg (mt acc.1 h)]

theorem execGetMeasurements_other {n : Nat} (h4 : n ≠ 4) (h5 : n ≠ 5) (s : State) : execGetMeasurements n s = spdmReply s [] := by
  unfold execGetMeasurements
  split
  · exact absurd rfl h4
  · exact absurd rfl h5
  · rfl

theorem scratchError_acts {s : State} {die core pa : Nat} {buf : BitVec 2} (double : Bool) (h3 : buf ≠ 3) (hd : die < capsDies s)
    (hc : core < coreCount s die) (hpa : pa < bufBytes buf) :
    let k := getCore s die core
    let w := (buf, pa / 8)
    ∃ t, Happens (.softError (.scratch die core buf) pa double) s t ∧ t.mem = s.mem ∧
      let k' := getCore t die core
      (k.bad.contains w = true → k' = k) ∧
      (k.bad.contains w = false → k.soft.contains w = false → double = false → k' = { k with soft := k.soft ++ [w] }) ∧
      (k.bad.contains w = false → (k.soft.contains w = true ∨ double = true) →
        k' = { k with bad := k.bad ++ [w], soft := k.soft.filter fun x => !decide (x = w) }) := by
  intro k w
  have e : exec (.softError (.scratch die core buf) pa double) s = execSoftError (.scratch die core buf) pa double s := rfl
  have place : (wordError k w double).die = die ∧ (wordError k w double).num = core := by
    rw [(wordError_place k w double).1, (wordError_place k w double).2]
    exact getCore_place s die core
  have found : getCore (putCore s (wordError k w double)) die core = wordError k w double := by
    have := getCore_putCore s (wordError k w double)
    rwa [place.1, place.2] at this
  refine ⟨putCore s (wordError k w double), ?_, putCore_mem _ _, ?_⟩
  · unfold Happens
    rw [e, execSoftError, if_pos ⟨h3, hd, hc, hpa⟩]
  · intro k'
    rw [show k' = wordError k w double from found]
    refine ⟨fun bad => ?_, fun bad soft single => ?_, fun bad second => ?_⟩
    · rw [wordError, if_pos bad]
    · rw [wordError, bad, soft, single]
      rfl
    · rw [wordError, bad, if_neg Bool.false_ne_true, if_pos (by rw [Bool.or_eq_true]; exact second.symm)]

theorem lineError_acts {s : State} {pa : Nat} (h : (isNear s pa || isFar s pa) = true) :
    Happens (.softError .mem pa false) s s ∧
    Happens (.softError .cache pa false) s { dropLines s (pa / 64 * 64) 64 with
      mgmt := { s.mgmt with serr := if s.mgmt.serr = 0xFFFFFFFF then 0xFFFFFFFF else s.mgmt.serr + 1 } } ∧
    (s.badLines.contains (pa / 64) = false → lineAwaited s pa = false →
      Happens (.softError .mem pa true) s { s with badLines := s.badLines ++ [pa / 64] }) := by
  have e (site : ErrSite) (double : Bool) : exec (.softError site pa double) s = execSoftError site pa double s := rfl
  unfold Happens
  simp only [e, execSoftError]
  refine ⟨?_, ?_, fun bad awaited => ?_⟩
  · rfl
  · rw [if_pos (local_backed h), satAdd32_one]
  · rw [h, bad, awaited]
    rfl

theorem bankFailed_acts (s : State) {bank : Nat} (h : bank < 24) :
    Happens (.bankFailed bank true) s (modCore s fun k => { k with
      failedBanks := (k.failedBanks.filter fun n => n != bank) ++ [bank], withheld := true }) ∧
    Happens (.bankFailed bank false) s (modCore s fun k => { k with
      failedBanks := k.failedBanks.filter fun n => n != bank, withheld := !(k.failedBanks.all fun n => n == bank) }) := by
  have e (failed : Bool) : exec (.bankFailed bank failed) s = execBankFailed bank failed s := rfl
  have here : ¬ 24 ≤ bank := by omega
  unfold Happens
  simp only [e, execBankFailed, if_neg here, if_true, Bool.false_eq_true, if_false, ← withheld_cleared]
  simp

/-- Settles O54: each clause by the lemma above that says what its steps do. -/
theorem managementStepsComplete : Obligations.ManagementStepsComplete := by
  unfold Obligations.ManagementStepsComplete
  refine ⟨?ownership, functionLevelReset_acts, ?others, ?owner, ?refused, ?reads, ?selfTest, ?steps⟩
  case ownership => exact fun s m c h hr h1 h4 hp => ownership_writes hr h1 h4 hp c h
  case others => exact fun s m i hr _ other h => otherMasters_counted hr other h
  case owner =>
    intro s m hr hm ho
    have pkgset := happens_pkgset hr hm ho
    refine ⟨?allot, ?allotIgnored, fun v pa e => fring_acts hr hm ho e, ?pkgset, ?pkgsetAgain, ?plimit, ?blocks, ?quesar,
      fun die v hd h2 => dieRegisters_written hr hm ho v hd h2⟩
    case allot => exact fun level n asp v h1 h4 hn free en ea el => allot_acts hr hm ho h1 h4 hn free en ea el
    case allotIgnored => exact fun v h => allotWrite_ignored (s := { s with allotReg := v }) h ▸ happens_allot hr hm ho v
    case pkgset => exact fun v h => ⟨pkgWrite_both v h ▸ pkgset 3 v, pkgWrite_low v h ▸ pkgset 1 v⟩
    case pkgsetAgain =>
      intro v p h hp
      have step := pkgset p v
      rwa [pkgWrite_again _ _ v h hp] at step
    case plimit =>
      intro v
      have step := happens_plimit hr hm ho v
      rwa [limitWrite, clampLimit_eq] at step
    case blocks =>
      intro fn off size v hs ha
      refine ⟨?_, ?_⟩
      · rintro rfl b rel hb
        exact happens_registerWrite_block hs ha v hr hm ho hb
      · rintro rfl hb
        exact happens_registerWrite_noBlock hs ha v hb
    case quesar =>
      intro v quesar
      rw [← quesarBaseWrite_whole v quesar]
      exact happens_registerWrite_block (.inr rfl) rfl v hr hm ho (blockAt_quesar s)
  case refused => exact fun s m fn off size v h => happens_registerWrite_refused m fn v h
  case reads =>
    intro s
    refine ⟨fun h fn off size => registerRead_recovery h fn off size, fun i3c hp => ⟨?_, ?_, ?_, ?_⟩⟩
    · rw [registerRead_mgmt hp rfl (by decide), natBits_beyond _ (mgmtRead_lt s)]
    · rw [registerRead_mgmt hp rfl (by decide), natBits_beyond _ ((mgmtRead_lt s).trans (by decide))]
    · exact fun fn off size h => registerRead_misaligned s i3c fn h
    · exact fun die hd h2 => dieRegisters_read hp hd h2
  case selfTest => exact fun s f pass img found hr hp hb h1 h2 => selfTest_sets pass img found hr hp hb h1 h2
  case steps =>
    intro s
    refine ⟨rfl, rfl, power_acts s, fun img hr => recoveryImage_acts img hr, ?spdm, ?scratch, fun pa h => lineError_acts h,
      fun bank h => bankFailed_acts s h⟩
    case spdm =>
      intro hr
      refine ⟨spdmReply_eq _ hr, spdmReply_eq _ hr, spdmReply_eq _ hr, spdmReply_eq _ hr, spdmReply_eq _ hr, spdmReply_eq _ hr,
        spdmReply_eq _ hr, spdmReply_eq _ hr, fun n h4 h5 => ?_⟩
      obtain ⟨i3c, b, reply⟩ := spdmReply_eq [] hr
      exact ⟨i3c, b, (execGetMeasurements_other h4 h5 s).trans reply⟩
    case scratch => exact fun die core pa buf double h3 hd hc hpa => scratchError_acts double h3 hd hc hpa

end Sys2Proof.Management

/-! SUPPORT. Rounding a value that a format represents, for O6 (R29, R37, R38): the value of a finite pattern lies on the
format's grid, and rounding keeps a value of the grid. -/

namespace Sys2Proof.Rounding

open Sys2Proof.Machine

/-! Numerators over 1: their logarithm, their scale and their rounding to an integer. -/

theorem ratLog2_one {m : Nat} (h : m ≠ 0) : ratLog2 m 1 = m.log2 := by
  have le : 1 <<< m.log2 ≤ m := by
    rw [Nat.one_shiftLeft]
    exact Nat.log2_self_le h
  have log2_one : Nat.log2 1 = 0 := Nat.log2_two_pow (n := 0)
  simp [ratLog2, log2_one, le]

theorem ratScale_zero (n d : Nat) : ratScale n d 0 = (n, d) := rfl

theorem quantize_one (mode : RMode) (neg : Bool) (n : Nat) : quantize mode neg n 1 = (n, false) := by
  cases mode <;> simp [quantize, Nat.mod_one]

/-! The grid of a format. -/

/-- m × 2^e is a value of the format with these magnitude bits: its last place has the weight that the format gives values of
its size, and the bits count the places. -/
def OnGrid (f : FFmt) (m : Nat) (e : Int) (mag : Nat) : Prop :=
  e + f.frac = max (m.log2 + e) f.emin ∧ m + (e + f.frac - f.emin).toNat * 2 ^ f.frac = mag

theorem onGrid_subnormal {f : FFmt} {fr : Nat} (h : fr < 2 ^ f.frac) : OnGrid f fr (f.emin - f.frac) fr := by
  have log : fr.log2 ≤ f.frac := by
    rcases eq_or_ne fr 0 with rfl | h0
    · simp
    · exact ((Nat.log2_lt h0).2 h).le
  refine ⟨by omega, ?_⟩
  simp

theorem onGrid_normal {f : FFmt} {ex fr : Nat} (hex : ex ≠ 0) (h : fr < 2 ^ f.frac) :
    OnGrid f (fr + 2 ^ f.frac) (f.emin - f.frac + ((ex : Int) - 1)) (2 ^ f.frac * ex + fr) := by
  have log : (fr + 2 ^ f.frac).log2 = f.frac := (Nat.log2_eq_iff (by omega)).2 ⟨by omega, by omega⟩
  obtain ⟨k, rfl⟩ := Nat.exists_eq_succ_of_ne_zero hex
  refine ⟨by omega, ?_⟩
  rw [show (f.emin - f.frac + (((k.succ : Nat) : Int) - 1) + f.frac - f.emin).toNat = k by omega, Nat.succ_eq_add_one]
  ring

/-- The value of a finite pattern is on the grid, at the pattern's own magnitude bits (R29). -/
theorem val_onGrid {f : FFmt} {bits : Nat} (h : bits % f.signBit ≤ f.maxMag) :
    ∃ m e, f.val bits = .fin (decide (bits / f.signBit % 2 = 1)) m e ∧ OnGrid f m e (bits % f.signBit) := by
  set mag := bits % f.signBit with hmag
  have fraction : mag % 2 ^ f.frac < 2 ^ f.frac := Nat.mod_lt _ (Nat.two_pow_pos _)
  have parts := Nat.div_add_mod mag (2 ^ f.frac)
  simp only [FFmt.val, ← hmag, if_neg (Nat.not_lt.2 h)]
  by_cases hex : mag / 2 ^ f.frac = 0
  · rw [hex, Nat.mul_zero, Nat.zero_add] at parts
    have grid := onGrid_subnormal fraction
    refine ⟨_, _, if_pos hex, ?_⟩
    rwa [parts] at grid ⊢
  · have grid := onGrid_normal hex fraction
    rw [parts] at grid
    exact ⟨_, _, if_neg hex, grid⟩

/-- A value of the grid rounds to its own magnitude bits, exactly: the quotient that is rounded is the numerator. -/
theorem roundRat_onGrid {f : FFmt} {m mag : Nat} {e : Int} (mode : RMode) (sat neg : Bool) (hm : m ≠ 0) (grid : OnGrid f m e mag)
    (h : mag ≤ f.maxMag) : roundRat f ⟨mode, sat, false⟩ neg m 1 e = (withSign f neg mag, {}) := by
  obtain ⟨place, count⟩ := grid
  have scale : e - (max (m.log2 + e) f.emin - f.frac) = 0 := by omega
  rw [place] at count
  have hmag : mag ≠ 0 := by omega
  simp [roundRat, ratLog2_one hm, scale, ratScale_zero, quantize_one, count, Nat.not_lt.2 h, hmag]

theorem onGrid_zero {f : FFmt} {e : Int} {mag : Nat} (grid : OnGrid f 0 e mag) : mag = 0 := by
  obtain ⟨place, count⟩ := grid
  have frac : 0 < f.frac := by cases f <;> decide
  rw [Nat.log2_zero] at place
  have smallest : (e + f.frac - f.emin).toNat = 0 := by omega
  rw [← count, smallest, Nat.zero_add, Nat.zero_mul]

theorem roundTo_onGrid {f : FFmt} {m mag : Nat} {e : Int} (mode : RMode) (sat neg : Bool) (grid : OnGrid f m e mag)
    (h : mag ≤ f.maxMag) : roundTo f ⟨mode, sat, false⟩ (.fin neg m e) = (withSign f neg mag, {}) := by
  rw [roundTo]
  split
  case isTrue hm =>
    subst hm
    rw [onGrid_zero grid]
  case isFalse hm => exact roundRat_onGrid mode sat neg hm grid h

/-- The magnitude bits of a finite value are no NaN's, so its sign stays. -/
theorem withSign_finite {f : FFmt} {mag : Nat} (neg : Bool) (h : mag ≤ f.maxMag) :
    withSign f neg mag = if neg then f.signBit + mag else mag := by
  refine if_neg ?_
  rintro ⟨rfl, rfl⟩
  exact absurd h (by decide)

theorem signBit_add_mag {f : FFmt} {bits : Nat} (h : bits < 2 ^ f.width) :
    (if decide (bits / f.signBit % 2 = 1) then f.signBit + bits % f.signBit else bits % f.signBit) = bits := by
  have twice : 2 ^ f.width = f.signBit * 2 := by cases f <;> rfl
  have sign : bits / f.signBit < 2 := Nat.div_lt_of_lt_mul (twice ▸ h)
  have parts := Nat.div_add_mod bits f.signBit
  interval_cases bits / f.signBit <;> simpa using parts

/-- Settles O6: the pattern's value is on the grid, so it rounds to its own magnitude, and the sign bit comes back beside it. -/
theorem representableValuesRoundToThemselves : Obligations.RepresentableValuesRoundToThemselves := by
  unfold Obligations.RepresentableValuesRoundToThemselves
  intro f mode sat bits width finite
  obtain ⟨m, e, value, grid⟩ := val_onGrid finite
  rw [value, roundTo_onGrid mode sat _ grid finite, withSign_finite _ finite, signBit_add_mag width]

end Sys2Proof.Rounding

/-! SUPPORT. The encoding (R53 to R65), for O57: known bits of a word and its fields, the encoder's words read back by the decoder, and
the decoder's instructions written again. -/

namespace Sys2Proof.Encoding

open BitVec

-- One theorem after another: each evaluates on its own stack, and many at a time would need too much memory.
set_option Elab.async false

/-! Bits of a vector that are known. -/

/-- The bits of a vector under a mask. -/
def Known {n : Nat} (x : BitVec n) (mask bits : Nat) : Prop := x.toNat &&& mask = bits

theorem known_zero_mask {n : Nat} (x : BitVec n) : Known x 0 0 := Nat.and_zero _

theorem known_ofNat {n v mask bits : Nat} : Known (BitVec.ofNat n v) mask bits ↔ v % 2 ^ n &&& mask = bits := by
  rw [Known, toNat_ofNat]

theorem known_append_iff {m n : Nat} (x : BitVec m) (y : BitVec n) (mask : Nat) :
    Known (x ++ y) mask 0 ↔ Known x (mask >>> n) 0 ∧ Known y (mask % 2 ^ n) 0 := by
  have split : (x ++ y).toNat &&& mask = (x.toNat &&& mask >>> n) <<< n ||| (y.toNat &&& mask % 2 ^ n) := by
    apply Nat.eq_of_testBit_eq
    intro j
    simp only [toNat_append, Nat.testBit_and, Nat.testBit_or, Nat.testBit_shiftLeft, Nat.testBit_shiftRight, Nat.testBit_mod_two_pow]
    by_cases hj : n ≤ j
    · have hy : y.toNat.testBit j = false := Nat.testBit_lt_two_pow (y.isLt.trans_le (Nat.pow_le_pow_right (by omega) hj))
      simp [hj, hy, Nat.add_sub_cancel' hj]
    · simp [hj, Nat.lt_of_not_le hj]
  rw [Known, split, Nat.or_eq_zero_iff, Known, Known, Nat.shiftLeft_eq_zero_iff]

section

variable {w : BitVec 32} {i j : Instr} {u : Option Unit'}

theorem fld_toNat (lo len : Nat) : (fld w lo len).toNat = w.toNat >>> lo % 2 ^ len := extractLsb'_toNat ..

theorem getLsbD_eq_fld (k : Nat) : w.getLsbD k = decide (fld w k 1 = 1#1) := by
  have h : (fld w k 1).getLsbD 0 = w.getLsbD k := by simp
  rw [← h]
  generalize fld w k 1 = x
  decide +revert

theorem Known.or {M M' K K' : Nat} (h : Known w M K) (h' : Known w M' K') : Known w (M ||| M') (K ||| K') := by
  rw [Known, Nat.and_or_distrib_left, h, h']

/-- A code that the decoder finds in a word. -/
theorem Known.code {lo len v : Nat} (h : (fld w lo len).toNat = v) : Known w ((2 ^ len - 1) <<< lo) (v <<< lo) := by
  rw [fld_toNat] at h
  apply Nat.eq_of_testBit_eq
  intro k
  rw [← h]
  simp only [Nat.testBit_and, Nat.testBit_shiftLeft, Nat.testBit_two_pow_sub_one, Nat.testBit_mod_two_pow, Nat.testBit_shiftRight]
  by_cases hk : lo ≤ k
  · simp [hk, Nat.add_sub_cancel' hk, Bool.and_comm]
  · simp [hk]

/-- A code bit that is set. -/
theorem Known.bit {k : Nat} (h : w.getLsbD k = true) : Known w ((2 ^ 1 - 1) <<< k) (1 <<< k) := by
  rw [getLsbD_eq_fld, decide_eq_true_eq] at h
  exact .code (by rw [h]; rfl)

/-- A code bit that is clear. -/
theorem Known.noBit {k : Nat} (h : ¬ w.getLsbD k = true) : Known w ((2 ^ 1 - 1) <<< k) (0 <<< k) := by
  rw [getLsbD_eq_fld, decide_eq_true_eq] at h
  exact .code (by generalize fld w k 1 = x at h; decide +revert)

/-- What the decoder checks behind an assigned code (R71): the reserved bits are clear and the operand limits hold. -/
theorem checked_ok {m : BitVec 32} : checked w m u i = .ok j ↔ (Known w m.toNat 0 ∧ i.wf = true) ∧ i = j := by
  have clear : w &&& m = 0#32 ↔ Known w m.toNat 0 := by rw [Known, ← toNat_and, ← toNat_inj, toNat_ofNat, Nat.zero_mod]
  unfold checked
  rw [← clear]
  split <;> simp_all

/-! Fields of a word that an instruction's word is made of. -/

/-- A vector stands in a word from a bit on. -/
def StandsAt {n : Nat} (x : BitVec n) (w : BitVec 32) (lo : Nat) : Prop := x = fld w lo n

theorem standsAt_fld (lo len : Nat) : StandsAt (fld w lo len) w lo := rfl

theorem fld_eq_append (lo m n : Nat) : fld w lo (m + n) = fld w (lo + n) m ++ fld w lo n :=
  (extractLsb'_append_extractLsb'_eq_extractLsb' rfl).symm

theorem standsAt_append_iff {m n : Nat} (x : BitVec m) (y : BitVec n) (lo : Nat) :
    StandsAt (x ++ y) w lo ↔ StandsAt x w (lo + n) ∧ StandsAt y w lo := by
  simp only [StandsAt, fld_eq_append lo m n]
  refine ⟨fun h => ⟨?_, ?_⟩, fun ⟨hx, hy⟩ => by rw [hx, hy]⟩
  · simpa only [extractLsb'_append_eq_left] using congrArg (extractLsb' n m) h
  · simpa only [extractLsb'_append_eq_right] using congrArg (extractLsb' 0 n) h

/-- A constant stands where the word's bits are known to be its own. -/
theorem standsAt_ofNat_iff {M K lo n c : Nat} (known : Known w M K) (hM : M >>> lo % 2 ^ n = 2 ^ n - 1) :
    StandsAt (BitVec.ofNat n c) w lo ↔ c % 2 ^ n = K >>> lo % 2 ^ n := by
  rw [StandsAt, ← toNat_inj, fld_toNat, toNat_ofNat, ← known, Nat.shiftRight_and_distrib, Nat.and_mod_two_pow, hM,
    Nat.and_two_pow_sub_one_eq_mod, Nat.mod_mod]

/-! The decoder goes by the major opcode (R57). -/

theorem decode_major01 (h : (fld w 26 6).toNat = 0x01) : decode w = decodeMajor01 w := by simp only [decode, h]
theorem decode_major02 (h : (fld w 26 6).toNat = 0x02) : decode w = decodeMajor02 w := by simp only [decode, h]
theorem decode_major03 (h : (fld w 26 6).toNat = 0x03) : decode w = decodeMajor03 w := by simp only [decode, h]
theorem decode_major04 (h : (fld w 26 6).toNat = 0x04) : decode w = decodeMajor04 w := by simp only [decode, h]
theorem decode_major05 (h : (fld w 26 6).toNat = 0x05) : decode w = decodeMajor05 w := by simp only [decode, h]
theorem decode_major06 (h : (fld w 26 6).toNat = 0x06) : decode w = decodeMajor06 w := by simp only [decode, h]
theorem decode_major07 (h : (fld w 26 6).toNat = 0x07) : decode w = decodeMajor07 w := by simp only [decode, h]
theorem decode_major08 (h : (fld w 26 6).toNat = 0x08) : decode w = decodeMajor08 w := by simp only [decode, h]
theorem decode_major09 (h : (fld w 26 6).toNat = 0x09) : decode w = decodeMajor09 w := by simp only [decode, h]
theorem decode_major0A (h : (fld w 26 6).toNat = 0x0A) : decode w = decodeMajor0A w := by simp only [decode, h]
theorem decode_major0B (h : (fld w 26 6).toNat = 0x0B) : decode w = decodeMajor0B w := by simp only [decode, h]
theorem decode_major0C (h : (fld w 26 6).toNat = 0x0C) : decode w = decodeMajor0C w := by simp only [decode, h]
theorem decode_major0D (h : (fld w 26 6).toNat = 0x0D) : decode w = decodeMajor0D w := by simp only [decode, h]
theorem decode_major0E (h : (fld w 26 6).toNat = 0x0E) : decode w = decodeMajor0E w := by simp only [decode, h]
theorem decode_major0F (h : (fld w 26 6).toNat = 0x0F) : decode w = decodeMajor0F w := by simp only [decode, h]
theorem decode_major10 (h : (fld w 26 6).toNat = 0x10) : decode w = decodeMajor10 w := by simp only [decode, h]
theorem decode_major11 (h : (fld w 26 6).toNat = 0x11) : decode w = decodeMajor11 w := by simp only [decode, h]
theorem decode_major12 (h : (fld w 26 6).toNat = 0x12) : decode w = decodeMajor12 w := by simp only [decode, h]
theorem decode_major13 (h : (fld w 26 6).toNat = 0x13) : decode w = decodeMajor13 w := by simp only [decode, h]
theorem decode_major14 (h : (fld w 26 6).toNat = 0x14) : decode w = decodeMajor14 w := by simp only [decode, h]
theorem decode_major15 (h : (fld w 26 6).toNat = 0x15) : decode w = decodeMajor15 w := by simp only [decode, h]
theorem decode_major16 (h : (fld w 26 6).toNat = 0x16) : decode w = decodeMajor16 w := by simp only [decode, h]
theorem decode_major17 (h : (fld w 26 6).toNat = 0x17) : decode w = decodeMajor17 w := by simp only [decode, h]
theorem decode_major18 (h : (fld w 26 6).toNat = 0x18) : decode w = decodeMajor18 w := by simp only [decode, h]
theorem decode_major19 (h : (fld w 26 6).toNat = 0x19) : decode w = decodeMajor19 w := by simp only [decode, h]
theorem decode_major1A (h : (fld w 26 6).toNat = 0x1A) : decode w = decodeMajor1A w := by simp only [decode, h]
theorem decode_major20 (h : (fld w 26 6).toNat = 0x20) : decode w = decodeMajor20 w := by simp only [decode, h]
theorem decode_major21 (h : (fld w 26 6).toNat = 0x21) : decode w = decodeMajor21 w := by simp only [decode, h]
theorem decode_major22 (h : (fld w 26 6).toNat = 0x22) : decode w = decodeMajor22 w := by simp only [decode, h]
theorem decode_major23 (h : (fld w 26 6).toNat = 0x23) : decode w = decodeMajor23 w := by simp only [decode, h]
theorem decode_major24 (h : (fld w 26 6).toNat = 0x24) : decode w = decodeMajor24 w := by simp only [decode, h]
theorem decode_major25 (h : (fld w 26 6).toNat = 0x25) : decode w = decodeMajor25 w := by simp only [decode, h]
theorem decode_major26 (h : (fld w 26 6).toNat = 0x26) : decode w = decodeMajor26 w := by simp only [decode, h]
theorem decode_major27 (h : (fld w 26 6).toNat = 0x27) : decode w = decodeMajor27 w := by simp only [decode, h]
theorem decode_major28 (h : (fld w 26 6).toNat = 0x28) : decode w = decodeMajor28 w := by simp only [decode, h]
theorem decode_major29 (h : (fld w 26 6).toNat = 0x29) : decode w = decodeMajor29 w := by simp only [decode, h]
theorem decode_major2A (h : (fld w 26 6).toNat = 0x2A) : decode w = decodeMajor2A w := by simp only [decode, h]
theorem decode_major2B (h : (fld w 26 6).toNat = 0x2B) : decode w = decodeMajor2B w := by simp only [decode, h]
theorem decode_major2C (h : (fld w 26 6).toNat = 0x2C) : decode w = decodeMajor2C w := by simp only [decode, h]
theorem decode_major30 (h : (fld w 26 6).toNat = 0x30) : decode w = decodeMajor30 w := by simp only [decode, h]
theorem decode_major31 (h : (fld w 26 6).toNat = 0x31) : decode w = decodeMajor31 w := by simp only [decode, h]
theorem decode_major32 (h : (fld w 26 6).toNat = 0x32) : decode w = decodeMajor32 w := by simp only [decode, h]
theorem decode_major33 (h : (fld w 26 6).toNat = 0x33) : decode w = decodeMajor33 w := by simp only [decode, h]
theorem decode_major34 (h : (fld w 26 6).toNat = 0x34) : decode w = decodeMajor34 w := by simp only [decode, h]
theorem decode_major35 (h : (fld w 26 6).toNat = 0x35) : decode w = decodeMajor35 w := by simp only [decode, h]
theorem decode_major36 (h : (fld w 26 6).toNat = 0x36) : decode w = decodeMajor36 w := by simp only [decode, h]
theorem decode_major37 (h : (fld w 26 6).toNat = 0x37) : decode w = decodeMajor37 w := by simp only [decode, h]
theorem decode_major38 (h : (fld w 26 6).toNat = 0x38) : decode w = decodeMajor38 w := by simp only [decode, h]
theorem decode_major39 (h : (fld w 26 6).toNat = 0x39) : decode w = decodeMajor39 w := by simp only [decode, h]
theorem decode_major3A (h : (fld w 26 6).toNat = 0x3A) : decode w = decodeMajor3A w := by simp only [decode, h]
theorem decode_major3B (h : (fld w 26 6).toNat = 0x3B) : decode w = decodeMajor3B w := by simp only [decode, h]
theorem decode_major3C (h : (fld w 26 6).toNat = 0x3C) : decode w = decodeMajor3C w := by simp only [decode, h]
theorem decode_major3D (h : (fld w 26 6).toNat = 0x3D) : decode w = decodeMajor3D w := by simp only [decode, h]
theorem decode_major3E (h : (fld w 26 6).toNat = 0x3E) : decode w = decodeMajor3E w := by simp only [decode, h]

end

/-! From an instruction to its word and back. -/

/-- A well-formed instruction has a word, and the core's decoder reads it as the instruction. -/
def Reads (i : Instr) : Prop := i.wf = true → ∃ w, encode i = some w ∧ decode w = .ok i.canonical

section

variable {i : Instr} {w : BitVec 32} {D : BitVec 32 → Except DecodeError Instr} {major : Nat}

/-- A patch word is read as its class's first command (R67). -/
theorem reads_as (j : Instr) (decodes : ∀ {w : BitVec 32}, (fld w 26 6).toNat = major → decode w = D w) (word : encode i = some w)
    (class_ : i.canonical = j) (wf : i.wf = true → j.wf = true)
    (h : (fld w 26 6).toNat = major ∧ (j.wf = true → D w = .ok j)) : Reads i :=
  fun iwf => ⟨w, word, by rw [class_, decodes h.1, h.2 (wf iwf)]⟩

/-- Any other instruction is read as itself, by the decoder of its word's major opcode. -/
theorem reads_at (decodes : ∀ {w : BitVec 32}, (fld w 26 6).toNat = major → decode w = D w) (word : encode i = some w)
    (self : i.canonical = i) (h : (fld w 26 6).toNat = major ∧ (i.wf = true → D w = .ok i)) : Reads i :=
  reads_as i decodes word self id h

end

/-- FCVT's fn is 16 or more, beyond the members that compute in one format (R59). -/
theorem reads_fcvt (d a s : BitVec 5) (t : BitVec 4) (g : BitVec 3) : Reads (.fcvt d a s t g) := by
  intro wf
  obtain ⟨-, ht⟩ : s.toNat ≤ 12 ∧ t.toNat ≤ 12 := by
    simpa only [Bool.and_eq_true, decide_eq_true_eq] using show (decide (s.toNat ≤ 12) && decide (t.toNat ≤ 12)) = true from wf
  have fn : (fld (0x3#6 ++ d ++ a ++ s ++ 0x1#2 ++ t ++ 0x0#2 ++ g) 5 6).toNat = 16 + t.toNat := by
    refine .trans (congrArg (a₂ := 0x1#2 ++ t) BitVec.toNat ?_)
      ((toNat_append ..).trans (Nat.shiftLeft_add_eq_or_of_lt t.isLt 1).symm)
    refine (fld_eq_append 5 2 4).trans (show fld _ 9 2 ++ fld _ 5 4 = _ from ?_)
    simp only [extractLsb'_append_eq_of_le, extractLsb'_append_eq_of_add_le, extractLsb'_eq_self, Nat.reduceLeDiff, Nat.reduceSub]
  refine reads_at @decode_major03 rfl rfl ⟨?_, fun wf => ?_⟩ wf
  · simp only [extractLsb'_append_eq_of_le, extractLsb'_eq_self, Nat.reduceLeDiff, Nat.reduceSub, reduceToNat]
  · unfold decodeMajor03
    rw [fn]
    split
    case h_8 =>
      simp only [extractLsb'_append_eq_of_le, extractLsb'_append_eq_of_add_le, extractLsb'_eq_self, checked_ok, known_append_iff,
        known_ofNat, known_zero_mask, reduceToNat, reduceEq, reduceIte, Nat.reduceLeDiff, Nat.reduceSub, Nat.reducePow,
        Nat.reduceMod, Nat.reduceShiftRight, Nat.reduceAnd, and_true, ht, wf]
    all_goals omega

/-- The gather words: one that amends nothing reads as TSCORE (R67). -/
theorem reads_gather {i : Instr} {t : BitVec 6} {f : BitVec 4} {v : BitVec 16} (word : encode i = some (0x34#6 ++ t ++ f ++ v))
    (class_ : i.canonical = if f = 15 ∧ v = 0 then .tscore t else .tgather t f v) : Reads i := by
  have rest : fld (0x34#6 ++ t ++ f ++ v) 0 20 = 0xF0000#20 ↔ f = 15 ∧ v = 0 := by
    have fields : fld (0x34#6 ++ t ++ f ++ v) 0 20 = f ++ v := by
      refine (fld_eq_append 0 4 16).trans (show fld _ 16 4 ++ fld _ 0 16 = _ from ?_)
      simp only [extractLsb'_append_eq_of_le, extractLsb'_append_eq_of_add_le, extractLsb'_eq_self, Nat.reduceLeDiff, Nat.reduceSub]
    rw [fields]
    exact standsAt_append_iff (w := 0xF0000#32) f v 0
  by_cases bare : f = 15 ∧ v = 0
  · rw [if_pos bare] at class_
    refine reads_as (.tscore t) @decode_major34 word class_ (fun _ => rfl) ?_
    simp only [decodeMajor34, rest.2 bare, extractLsb'_append_eq_of_le, extractLsb'_append_eq_of_add_le, extractLsb'_eq_self,
      checked_ok, reduceToNat, reduceIte, Nat.reduceLeDiff, Nat.reduceSub, known_zero_mask, true_and, and_true, imp_self]
  · rw [if_neg bare] at class_
    refine reads_as (.tgather t f v) @decode_major34 word class_ (fun _ => rfl) ?_
    simp only [decodeMajor34, rest, bare, extractLsb'_append_eq_of_le, extractLsb'_append_eq_of_add_le, extractLsb'_eq_self,
      checked_ok, reduceToNat, reduceIte, Nat.reduceLeDiff, Nat.reduceSub, known_zero_mask, true_and, and_true, imp_self]

/-- TMPL of a class (R202): the bank format and the reserved classes have words of their own. -/
theorem reads_tmpl (a : BitVec 5) (b : BitVec 2) (c : BitVec 3) (t : BitVec 6) : Reads (.tmpl a b c t) := by
  intro wf
  obtain ⟨hc, hb⟩ : c.toNat ≤ 4 ∧ b ≠ 3 := by
    simpa only [Bool.and_eq_true, decide_eq_true_eq, bne_iff_ne] using show (decide (c.toNat ≤ 4) && b != 3) = true from wf
  have format : c ≠ 5 := by rintro rfl; exact absurd hc (by decide)
  refine reads_at @decode_major3A rfl rfl ?_ wf
  simp only [decodeMajor3A, extractLsb'_append_eq_of_le, extractLsb'_append_eq_of_add_le, extractLsb'_eq_self, checked_ok,
    known_append_iff, known_ofNat, known_zero_mask, reduceToNat, reduceIte, Nat.reduceLeDiff, Nat.reduceSub, Nat.reducePow,
    Nat.reduceMod, Nat.reduceShiftRight, Nat.reduceAnd, true_and, and_true, format, hb, false_or,
    Nat.not_lt.2 (hc.trans (by decide : 4 ≤ 5)), imp_self]

theorem reads_notify (a : BitVec 5) (l : BitVec 3) (c : BitVec 6) : Reads (.notify a l c) := by
  intro wf
  obtain ⟨⟨hl, -⟩, -⟩ : (l.toNat ≤ 5 ∧ (c != 0) = true) ∧ (l != 5 || a == 0) = true := by
    simpa only [Bool.and_eq_true, decide_eq_true_eq] using show (decide (l.toNat ≤ 5) && c != 0 && (l != 5 || a == 0)) = true from wf
  refine reads_at @decode_major3A rfl rfl ?_ wf
  simp only [decodeMajor3A, extractLsb'_append_eq_of_le, extractLsb'_append_eq_of_add_le, extractLsb'_eq_self, checked_ok,
    known_append_iff, known_ofNat, known_zero_mask, reduceToNat, reduceIte, Nat.reduceLeDiff, Nat.reduceSub, Nat.reducePow,
    Nat.reduceMod, Nat.reduceShiftRight, Nat.reduceAnd, true_and, and_true, Nat.not_lt.2 hl, imp_self]

/-- The reductions of R160 are three. -/
theorem reduction_of_wf {t o : BitVec 2} (wf : (t != 3 && o != 3) = true) : o = 0 ∨ o = 1 ∨ o = 2 := by
  decide +revert

/-- A well-formed word of a core decodes to its instruction: below its major, each decoder's fields are the operands. -/
theorem reads_of_isCoreWord {i : Instr} (core : i.isCoreWord = true) : Reads i := by
  cases i <;> cases core
  case fcvt => exact reads_fcvt _ _ _ _ _
  case tgather | tscatter => exact reads_gather rfl rfl
  case tmpl => exact reads_tmpl _ _ _ _
  case notify => exact reads_notify _ _ _
  case' mmas t f v | mmag t f v | mzero t f v | mstore t f v => refine reads_as (.mma t f v) @decode_major30 rfl rfl (fun _ => rfl) ?_
  case' tfill t f v | bcopy t f v => refine reads_as (.tcopy t f v) @decode_major32 rfl rfl (fun _ => rfl) ?_
  case' kfetch t f v | sappend t f v | smerge t f v => refine reads_as (.seek t f v) @decode_major38 rfl rfl (fun _ => rfl) ?_
  case' vredr _ _ _ o _ _ =>
    intro wf
    obtain rfl | rfl | rfl := reduction_of_wf wf
    all_goals refine reads_at @decode_major25 rfl rfl ?_ wf
  case' vredc _ _ _ o _ _ =>
    intro wf
    obtain rfl | rfl | rfl := reduction_of_wf wf
    all_goals refine reads_at @decode_major26 rfl rfl ?_ wf
  case' add | sub | mul | mulh | mulhn | div | divn | rem | remn | and | or | xor | andn | shl | shr | sar | rol | min | max |
      minn | maxn | popc | clz | ctz | bfx | bfi | sel | mov =>
    refine reads_at @decode_major01 rfl rfl ?_
  case' cmp => refine reads_at @decode_major02 rfl rfl ?_
  case' fadd | fsub | fmul | ffma | fmin | fmax | fcmp => refine reads_at @decode_major03 rfl rfl ?_
  case' addi => refine reads_at @decode_major04 rfl rfl ?_
  case' andi => refine reads_at @decode_major05 rfl rfl ?_
  case' ori => refine reads_at @decode_major06 rfl rfl ?_
  case' xori => refine reads_at @decode_major07 rfl rfl ?_
  case' shli | shri | sari => refine reads_at @decode_major08 rfl rfl ?_
  case' movi => refine reads_at @decode_major09 rfl rfl ?_
  case' movk => refine reads_at @decode_major0A rfl rfl ?_
  case' lds => refine reads_at @decode_major0B rfl rfl ?_
  case' sts => refine reads_at @decode_major0C rfl rfl ?_
  case' ldg => refine reads_at @decode_major0D rfl rfl ?_
  case' stg => refine reads_at @decode_major0E rfl rfl ?_
  case' atom => refine reads_at @decode_major0F rfl rfl ?_
  case' red => refine reads_at @decode_major10 rfl rfl ?_
  case' xlate | hdrop | hstat => refine reads_at @decode_major11 rfl rfl ?_
  case' fenceAcq | fenceRel | fenceFull | lsmark => refine reads_at @decode_major12 rfl rfl ?_
  case' br => refine reads_at @decode_major13 rfl rfl ?_
  case' j | call => refine reads_at @decode_major14 rfl rfl ?_
  case' jr | callr | ret => refine reads_at @decode_major15 rfl rfl ?_
  case' loop | loopReg => refine reads_at @decode_major16 rfl rfl ?_
  case' pand | por | pxor | pnot | pmov => refine reads_at @decode_major17 rfl rfl ?_
  case' getsr | setsr => refine reads_at @decode_major18 rfl rfl ?_
  case' nop | trap | eret | bkpt | halt | done | yield => refine reads_at @decode_major19 rfl rfl ?_
  case' cas => refine reads_at @decode_major1A rfl rfl ?_
  case' vadd | vsub | vmul | vfma | vfms | vmin | vmax | vabs | vneg | vcpys => refine reads_at @decode_major20 rfl rfl ?_
  case' viadd | visub | vimul | vand | vor | vxor | vshl | vshr | vsar | vimin | vimax | viminN32 | vimaxN32 =>
    refine reads_at @decode_major21 rfl rfl ?_
  case' vcmp => refine reads_at @decode_major22 rfl rfl ?_
  case' vcvt | vsplit | vpack | vunpk => refine reads_at @decode_major23 rfl rfl ?_
  case' vsfu => refine reads_at @decode_major24 rfl rfl ?_
  case' vrotr | vbcr | vredrC | vscanr => refine reads_at @decode_major25 rfl rfl ?_
  case' vrotc | vbcc | vredcC | vscanc => refine reads_at @decode_major26 rfl rfl ?_
  case' vperm | vsel | vmov | viota | vins | vext => refine reads_at @decode_major27 rfl rfl ?_
  case' vld | vst => refine reads_at @decode_major28 rfl rfl ?_
  case' vldg | vstg => refine reads_at @decode_major29 rfl rfl ?_
  case' vpop | vpush => refine reads_at @decode_major2A rfl rfl ?_
  case' mand | mor | mxor | mnot | mpopc | mtest => refine reads_at @decode_major2B rfl rfl ?_
  case' vdopen | vdacc | vdthr | vdclose | vdtest | vdtestAny | topki | bscore => refine reads_at @decode_major2C rfl rfl ?_
  case' mma => refine reads_at @decode_major30 rfl rfl ?_
  case' matrixHold => refine reads_at @decode_major31 rfl rfl ?_
  case' tcopy => refine reads_at @decode_major32 rfl rfl ?_
  case' copyHold => refine reads_at @decode_major33 rfl rfl ?_
  case' tscore => refine reads_at @decode_major34 rfl rfl ?_
  case' gatherHold => refine reads_at @decode_major35 rfl rfl ?_
  case' tcoll => refine reads_at @decode_major36 rfl rfl ?_
  case' collectiveHold => refine reads_at @decode_major37 rfl rfl ?_
  case' seek => refine reads_at @decode_major38 rfl rfl ?_
  case' searchHold => refine reads_at @decode_major39 rfl rfl ?_
  case' tmplBfmt | qdrain | ringsetCfg | ringsetAdv | feedbind | feedstop | sqld | ztest | wpwait =>
    refine reads_at @decode_major3A rfl rfl ?_
  case' bjoin | bdrop | barr | bwait | barw | bexp | btest | fset | fget | lwait | lrel =>
    refine reads_at @decode_major3B rfl rfl ?_
  case' enq | spawn | karm | kdisarm | klaunch | kcancel | shwait => refine reads_at @decode_major3C rfl rfl ?_
  case' preq | pcancel | pharv | btfork | btmap | btunmap | wopen | wcommit | wabort | wstat =>
    refine reads_at @decode_major3D rfl rfl ?_
  case' hpin | hunpin | hsave | hevict | hdlbind | hdlunb | hdlmsg => refine reads_at @decode_major3E rfl rfl ?_
  all_goals simp only [decodeMajor01, decodeMajor02, decodeMajor03, decodeMajor04, decodeMajor05, decodeMajor06, decodeMajor07,
    decodeMajor08, decodeMajor09, decodeMajor0A, decodeMajor0B, decodeMajor0C, decodeMajor0D, decodeMajor0E, decodeMajor0F,
    decodeMajor10, decodeMajor11, decodeMajor12, decodeMajor13, decodeMajor14, decodeMajor15, decodeMajor16, decodeMajor17,
    decodeMajor18, decodeMajor19, decodeMajor1A, decodeMajor20, decodeMajor21, decodeMajor22, decodeMajor23, decodeMajor24,
    decodeMajor25, decodeMajor26, decodeMajor27, decodeMajor28, decodeMajor29, decodeMajor2A, decodeMajor2B, decodeMajor2C,
    decodeMajor30, decodeMajor31, decodeMajor32, decodeMajor33, decodeMajor34, decodeMajor35, decodeMajor36, decodeMajor37,
    decodeMajor38, decodeMajor39, decodeMajor3A, decodeMajor3B, decodeMajor3C, decodeMajor3D, decodeMajor3E,
   
    extractLsb'_append_eq_of_le, extractLsb'_append_eq_of_add_le, extractLsb'_eq_self, getLsbD_eq_fld, checked_ok,
    known_append_iff,
    known_ofNat, known_zero_mask, reduceExtractLsb', reduceToNat, reduceEq, reduceIte, Bool.false_eq_true,
    Nat.reduceLeDiff,
    Nat.reduceSub, Nat.reducePow, Nat.reduceMod, Nat.reduceShiftRight, Nat.reduceAnd, decide_true,
    decide_false, true_and, and_true,
    imp_self]

/-! From a word to its instruction and back. -/

/-- The instruction is one of a core, well-formed and read as itself, and its word is this one. -/
def IsWordOf (i : Instr) (w : BitVec 32) : Prop := i.isCoreWord = true ∧ i.wf = true ∧ encode i = some w ∧ i.canonical = i

/-- A word whose codes are known, and whose reserved bits are clear, is put together again from its codes and its fields. -/
theorem isWordOf_of_checked {w m W : BitVec 32} {i j : Instr} {u : Option Unit'} {M K : Nat} (h : checked w m u i = .ok j)
    (known : Known w M K) (core : i.isCoreWord = true) (self : i.canonical = i) (word : encode i = some W)
    (fields : Known w (M ||| m.toNat) K → StandsAt W w 0) : IsWordOf j w := by
  obtain ⟨⟨clear, wf⟩, rfl⟩ := checked_ok.1 h
  have same : W = w := (fields (Nat.or_zero K ▸ known.or clear)).trans extractLsb'_eq_self
  exact ⟨core, wf, same ▸ word, self⟩

section

variable {w : BitVec 32} {i : Instr}

/-- Major 0x03: FCVT's code is the top of its fn (R59). -/
theorem isWordOf_of_decodeMajor03 (major : (fld w 26 6).toNat = 0x03) (h : decodeMajor03 w = .ok i) : IsWordOf i w := by
  unfold decodeMajor03 at h
  split at h
  case h_8 =>
    split at h
    · next codes =>
      refine isWordOf_of_checked h (.or (.code major) (.code (congrArg BitVec.toNat codes.1))) rfl rfl rfl fun known => ?_
      simp [↓standsAt_append_iff, standsAt_fld, standsAt_ofNat_iff known]
    · cases h
  all_goals
    rename_i code
    refine isWordOf_of_checked h (.or (.code major) (.code code)) rfl rfl rfl fun known => ?_
    simp [↓standsAt_append_iff, standsAt_fld, standsAt_ofNat_iff known]

/-- Major 0x12: the fences have a second code. -/
theorem isWordOf_of_decodeMajor12 (major : (fld w 26 6).toNat = 0x12) (h : decodeMajor12 w = .ok i) : IsWordOf i w := by
  unfold decodeMajor12 at h
  split at h
  case h_5 => cases h
  case' h_4 code => refine isWordOf_of_checked h (.or (.code major) (.code code)) rfl rfl rfl fun known => ?_
  case' h_1 code code' | h_2 code code' | h_3 code code' =>
    refine isWordOf_of_checked h (.or (.or (.code major) (.code code)) (.code code')) rfl rfl rfl fun known => ?_
  all_goals simp [↓standsAt_append_iff, standsAt_fld, standsAt_ofNat_iff known]

/-- Major 0x25: the reduction of VREDR_C is a code of its own (R160). -/
theorem isWordOf_of_decodeMajor25 (major : (fld w 26 6).toNat = 0x25) (h : decodeMajor25 w = .ok i) : IsWordOf i w := by
  unfold decodeMajor25 at h
  split at h
  case h_6 => cases h
  all_goals rename (fld w 8 3).toNat = _ => code
  case' h_3 code' =>
    refine isWordOf_of_checked h (.or (.or (.code major) (.code code)) (.code code')) rfl rfl rfl fun known => ?_
  case' h_1 | h_2 | h_4 | h_5 => refine isWordOf_of_checked h (.or (.code major) (.code code)) rfl rfl rfl fun known => ?_
  all_goals simp [↓standsAt_append_iff, standsAt_fld, standsAt_ofNat_iff known]

/-- Major 0x26: the reduction of VREDC_C is a code of its own (R160). -/
theorem isWordOf_of_decodeMajor26 (major : (fld w 26 6).toNat = 0x26) (h : decodeMajor26 w = .ok i) : IsWordOf i w := by
  unfold decodeMajor26 at h
  split at h
  case h_6 => cases h
  all_goals rename (fld w 8 3).toNat = _ => code
  case' h_3 code' =>
    refine isWordOf_of_checked h (.or (.or (.code major) (.code code)) (.code code')) rfl rfl rfl fun known => ?_
  case' h_1 | h_2 | h_4 | h_5 => refine isWordOf_of_checked h (.or (.code major) (.code code)) rfl rfl rfl fun known => ?_
  all_goals simp [↓standsAt_append_iff, standsAt_fld, standsAt_ofNat_iff known]

/-- Major 0x2C: VDTEST and VDTEST_ANY differ in a bit (R60). -/
theorem isWordOf_of_decodeMajor2C (major : (fld w 26 6).toNat = 0x2C) (h : decodeMajor2C w = .ok i) : IsWordOf i w := by
  unfold decodeMajor2C at h
  split at h
  case h_8 => cases h
  all_goals rename_i code
  case' h_5 =>
    split at h
    all_goals rename_i any
    case' isTrue => refine isWordOf_of_checked h (.or (.or (.code major) (.code code)) (.bit any)) rfl rfl rfl fun known => ?_
    case' isFalse => refine isWordOf_of_checked h (.or (.or (.code major) (.code code)) (.noBit any)) rfl rfl rfl fun known => ?_
  case' h_1 | h_2 | h_3 | h_4 | h_6 | h_7 =>
    refine isWordOf_of_checked h (.or (.code major) (.code code)) rfl rfl rfl fun known => ?_
  all_goals simp [↓standsAt_append_iff, standsAt_fld, standsAt_ofNat_iff known]

/-- Major 0x34: the word that amends nothing is TSCORE's (R67). -/
theorem isWordOf_of_decodeMajor34 (major : (fld w 26 6).toNat = 0x34) (h : decodeMajor34 w = .ok i) : IsWordOf i w := by
  unfold decodeMajor34 at h
  split at h
  case' isTrue code =>
    refine isWordOf_of_checked h (.or (.code major) (.code (congrArg BitVec.toNat code))) rfl rfl rfl fun known => ?_
  case' isFalse amends =>
    have other : ¬ (fld w 16 4 = 15 ∧ fld w 0 16 = 0) := fun bare => amends (by
      rw [fld_eq_append 0 4 16]
      exact congrArg₂ (· ++ ·) bare.1 bare.2)
    refine isWordOf_of_checked h (.code major) rfl (if_neg other) rfl fun known => ?_
  all_goals simp [↓standsAt_append_iff, standsAt_fld, standsAt_ofNat_iff known]

/-- Major 0x3A: beneath TMPL, NOTIFY and RINGSET stand further codes (R63). -/
theorem isWordOf_of_decodeMajor3A (major : (fld w 26 6).toNat = 0x3A) (h : decodeMajor3A w = .ok i) : IsWordOf i w := by
  unfold decodeMajor3A at h
  split at h
  case h_10 => cases h
  all_goals rename_i code
  case' h_3 | h_5 | h_6 | h_7 | h_8 | h_9 =>
    refine isWordOf_of_checked h (.or (.code major) (.code code)) rfl rfl rfl fun known => ?_
  case' h_1 =>
    split at h
    case' isTrue format =>
      refine isWordOf_of_checked h (.or (.or (.code major) (.code code)) (.code (congrArg BitVec.toNat format))) rfl rfl rfl
        fun known => ?_
    case' isFalse =>
      split at h
      case isTrue => cases h
      refine isWordOf_of_checked h (.or (.code major) (.code code)) rfl rfl rfl fun known => ?_
  case' h_2 =>
    split at h
    case isTrue => cases h
    refine isWordOf_of_checked h (.or (.code major) (.code code)) rfl rfl rfl fun known => ?_
  case' h_4 =>
    split at h
    case' isFalse =>
      split at h
      case isFalse => cases h
    all_goals
      rename_i op
      refine isWordOf_of_checked h (.or (.or (.code major) (.code code)) (.code (congrArg BitVec.toNat op))) rfl rfl rfl
        fun known => ?_
  all_goals simp [↓standsAt_append_iff, standsAt_fld, standsAt_ofNat_iff known]

end


theorem isWordOf_of_decode {w : BitVec 32} {i : Instr} (h : decode w = .ok i) : IsWordOf i w := by
  unfold decode at h
  split at h
  case h_55 => cases h
  all_goals rename_i major
  case h_3 => exact isWordOf_of_decodeMajor03 major h
  case h_18 => exact isWordOf_of_decodeMajor12 major h
  case h_32 => exact isWordOf_of_decodeMajor25 major h
  case h_33 => exact isWordOf_of_decodeMajor26 major h
  case h_39 => exact isWordOf_of_decodeMajor2C major h
  case h_44 => exact isWordOf_of_decodeMajor34 major h
  case h_50 => exact isWordOf_of_decodeMajor3A major h
  case' h_20 | h_22 | h_35 | h_36 =>
    simp only [decodeMajor14, decodeMajor16, decodeMajor28, decodeMajor29] at h
    split at h
    all_goals rename_i code
    case' isTrue => refine isWordOf_of_checked h (.or (.code major) (.bit code)) rfl rfl rfl fun known => ?_
    case' isFalse => refine isWordOf_of_checked h (.or (.code major) (.noBit code)) rfl rfl rfl fun known => ?_
  case' h_2 | h_4 | h_5 | h_6 | h_7 | h_9 | h_10 | h_11 | h_12 | h_13 | h_14 | h_15 | h_16 | h_19 | h_26 | h_29 | h_31 | h_40 |
      h_41 | h_42 | h_43 | h_45 | h_46 | h_47 | h_48 | h_49 =>
    simp only [decodeMajor02, decodeMajor04, decodeMajor05, decodeMajor06, decodeMajor07, decodeMajor09, decodeMajor0A,
      decodeMajor0B, decodeMajor0C, decodeMajor0D, decodeMajor0E, decodeMajor0F, decodeMajor10, decodeMajor13, decodeMajor1A,
      decodeMajor22, decodeMajor24, decodeMajor30, decodeMajor31, decodeMajor32, decodeMajor33, decodeMajor35, decodeMajor36,
      decodeMajor37, decodeMajor38, decodeMajor39] at h
    refine isWordOf_of_checked h (.code major) rfl rfl rfl fun known => ?_
  case' h_1 | h_8 | h_17 | h_21 | h_23 | h_24 | h_25 | h_27 | h_28 | h_30 | h_34 | h_37 | h_38 | h_51 | h_52 | h_53 | h_54 =>
    simp only [decodeMajor01, decodeMajor08, decodeMajor11, decodeMajor15, decodeMajor17, decodeMajor18, decodeMajor19,
      decodeMajor20, decodeMajor21, decodeMajor23, decodeMajor27, decodeMajor2A, decodeMajor2B, decodeMajor3B, decodeMajor3C,
      decodeMajor3D, decodeMajor3E] at h
    split at h
    on_goal -1 => cases h
    all_goals
      rename_i code
      refine isWordOf_of_checked h (.or (.code major) (.code code)) rfl rfl rfl fun known => ?_
  all_goals simp only [↓standsAt_append_iff, standsAt_fld, standsAt_ofNat_iff known, toNat_ofNat, Nat.reduceSub, Nat.reduceShiftLeft,
    Nat.reduceShiftRight, Nat.reduceMod, Nat.reducePow, Nat.reduceOr, Nat.reduceAdd, and_true]

/-! The words of a reeve (R65). -/

/-- A word of a reeve decodes to its instruction. -/
theorem decodeReeve_of_isReeveWord {i : Instr} (reeve : i.isReeveWord = true) : ∃ w, encode i = some w ∧ decodeReeve w = some i := by
  cases i <;> cases reeve
  case sldef => exact ⟨_, rfl, rfl⟩
  all_goals
    refine ⟨_, rfl, ?_⟩
    simp only [decodeReeve, extractLsb'_append_eq_of_le, extractLsb'_append_eq_of_add_le, extractLsb'_eq_self, reduceExtractLsb',
      reduceToNat, Nat.reduceLeDiff, Nat.reduceSub]
    rfl

/-- A word whose codes are known is put together again from its codes and its fields. -/
theorem isReeveWord_of_known {w W : BitVec 32} {i : Instr} {M K : Nat} (known : Known w M K) (reeve : i.isReeveWord = true)
    (word : encode i = some W) (fields : Known w M K → StandsAt W w 0) : i.isReeveWord = true ∧ encode i = some w :=
  ⟨reeve, (fields known).trans extractLsb'_eq_self ▸ word⟩

/-- A word that a reeve's decoder reads is the word of its instruction. -/
theorem isReeveWord_of_decodeReeve {w : BitVec 32} {i : Instr} (h : decodeReeve w = some i) :
    i.isReeveWord = true ∧ encode i = some w := by
  unfold decodeReeve at h
  split at h
  case h_7 => cases h
  all_goals
    rename_i op fn
    split at h
    on_goal -1 => cases h
    rename_i zero
    cases h
  case' h_1 | h_2 | h_3 | h_4 =>
    refine isReeveWord_of_known (((Known.code op).or (.code fn)).or (.code (congrArg BitVec.toNat zero))) rfl rfl fun known => ?_
  case' h_5 | h_6 =>
    refine isReeveWord_of_known ((((Known.code op).or (.code fn)).or (.code (congrArg BitVec.toNat zero.1))).or
      (.code (congrArg BitVec.toNat zero.2))) rfl rfl fun known => ?_
  all_goals simp [↓standsAt_append_iff, standsAt_fld, standsAt_ofNat_iff known]

/-- Settles O57: the encoder's word is taken apart by the decoder into the codes and fields it was put together from, and a word that
decodes is put together again from them. -/
theorem wellFormedInstructionsRoundTrip : Obligations.WellFormedInstructionsRoundTrip := by
  unfold Obligations.WellFormedInstructionsRoundTrip
  exact ⟨fun _ => reads_of_isCoreWord, fun _ => decodeReeve_of_isReeveWord, fun _ _ => isWordOf_of_decode,
    fun _ _ => isReeveWord_of_decodeReeve⟩

/-- Settles O56, by evaluation: each word is a closed term. -/
theorem wordsDecodeAsWritten : Obligations.WordsDecodeAsWritten := by
  unfold Obligations.WordsDecodeAsWritten
  exact ⟨rfl, rfl, rfl, rfl, rfl, rfl, rfl, rfl, rfl, rfl, rfl, rfl, rfl, rfl, rfl, rfl, rfl, rfl, rfl, rfl, rfl, rfl⟩

end Sys2Proof.Encoding

/-! SUPPORT. A field of a 512-bit record, and what a hold word amends (R67 to R69), for O27. -/

namespace Sys2Proof.HoldWords

open Sys2Proof.Machine Sys2Proof.Laws

/-! A field of a record. -/

theorem getLsbD_putField {lo len v n : Nat} (b : BitVec 512) (hv : v < 2 ^ len) (hn : n < 512) :
    (putField b lo len v).getLsbD n = if lo ≤ n ∧ n < lo + len then v.testBit (n - lo) else b.getLsbD n := by
  simp only [putField, Nat.mod_eq_of_lt hv, BitVec.getLsbD_or, BitVec.getLsbD_and, BitVec.getLsbD_not, BitVec.getLsbD_ofNat, hn,
    Nat.testBit_mul_two_pow, Nat.testBit_two_pow_sub_one, decide_true, Bool.true_and]
  by_cases low : lo ≤ n <;> by_cases high : n < lo + len
  · simp [low, high, show n - lo < len by omega]
  · have out : v.testBit (n - lo) = false := Nat.testBit_lt_two_pow (hv.trans_le (Nat.pow_le_pow_right (by omega) (by omega)))
    simp [low, high, show ¬ n - lo < len by omega, out]
  · simp [low]
  · simp [low]

theorem getLsbD_putField_of_out {lo len v n : Nat} (b : BitVec 512) (hv : v < 2 ^ len) (out : n < lo ∨ lo + len ≤ n) :
    (putField b lo len v).getLsbD n = b.getLsbD n := by
  by_cases hn : n < 512
  · rw [getLsbD_putField b hv hn, if_neg (by omega)]
  · rw [BitVec.getLsbD_of_ge _ _ (Nat.le_of_not_lt hn), BitVec.getLsbD_of_ge _ _ (Nat.le_of_not_lt hn)]

theorem extractLsb'_putField {lo len v : Nat} (b : BitVec 512) (hv : v < 2 ^ len) (fits : lo + len ≤ 512) :
    ((putField b lo len v).extractLsb' lo len).toNat = v := by
  have same : (putField b lo len v).extractLsb' lo len = BitVec.ofNat len v := by
    apply BitVec.eq_of_getLsbD_eq
    intro n hn
    rw [BitVec.getLsbD_extractLsb', getLsbD_putField b hv (by omega), if_pos (by omega), BitVec.getLsbD_ofNat, Nat.add_sub_cancel_left]
  rw [same, BitVec.toNat_ofNat, Nat.mod_eq_of_lt hv]

/-- Every field lies in its record (R69). -/
theorem fieldAt_fits {cls k f lo len : Nat} (h : fieldAt cls k f = some (lo, len)) : lo + len ≤ 512 := by
  simp only [fieldAt] at h
  split at h
  all_goals grind

/-! The body that a patch word amends. -/

section

variable {s : State} {cls : Nat} {t : BitVec 6} {f : BitVec 4} {v : BitVec 16}

/-- A staging register of another template (R67). -/
theorem patched_of_other {n : BitVec 6} {b : BitVec 512} (h : stagingOf s.core.ctx cls = some (n, b)) (hn : n ≠ t) :
    patched s cls t f v = .error (Trap.of .patchSequence) := by
  simp [patched, h, hn]

/-- A staging register that a patch word of a template may amend: empty, or of that template (R67). -/
def Open (s : State) (cls : Nat) (t : BitVec 6) : Prop :=
  stagingOf s.core.ctx cls = none ∨ ∃ b, stagingOf s.core.ctx cls = some (t, b)

theorem open_of_same (same : ∀ n b, stagingOf s.core.ctx cls = some (n, b) → n = t) : Open s cls t := by
  cases staged : stagingOf s.core.ctx cls with
  | none => exact .inl staged
  | some x => exact .inr ⟨x.2, by rw [staged, ← same x.1 x.2 staged]⟩

variable (ready : Open s cls t)

include ready

theorem patched_of_not_kindOk (kind : kindOk cls (bodyKind (patchBase s cls t)) = false) :
    patched s cls t f v = .error (Trap.of .templateKind) := by
  obtain staged | ⟨b, staged⟩ := ready <;> simp [patched, staged, kind]

theorem patched_bare (kind : kindOk cls (bodyKind (patchBase s cls t)) = true) :
    patched s cls t 15 0 = .ok (patchBase s cls t) := by
  obtain staged | ⟨b, staged⟩ := ready <;> simp [patched, staged, kind]

variable (kind : kindOk cls (bodyKind (patchBase s cls t)) = true) (hf : f ≠ 15#4)

include kind hf

theorem patched_of_reserved (field : fieldAt cls (bodyKind (patchBase s cls t)) f.toNat = none) :
    patched s cls t f v = .error (Trap.of .illegalInstruction) := by
  obtain staged | ⟨b, staged⟩ := ready <;> simp [patched, staged, kind, hf, field]

theorem patched_of_wide {lo len : Nat} (field : fieldAt cls (bodyKind (patchBase s cls t)) f.toNat = some (lo, len))
    (wide : 2 ^ len ≤ v.toNat) : patched s cls t f v = .error (Trap.of .illegalInstruction) := by
  obtain staged | ⟨b, staged⟩ := ready <;> simp [patched, staged, kind, hf, field, wide]

theorem patched_of_fits {lo len : Nat} (field : fieldAt cls (bodyKind (patchBase s cls t)) f.toNat = some (lo, len))
    (fits : v.toNat < 2 ^ len) : patched s cls t f v = .ok (putField (patchBase s cls t) lo len v.toNat) := by
  obtain staged | ⟨b, staged⟩ := ready <;> simp [patched, staged, kind, hf, field, Nat.not_le.2 fits]

end

section

variable {s : State} {cls : Nat} {t : BitVec 6} {f : BitVec 4} {v : BitVec 16} {i : Instr}
  (hold : exec i s = holdWord cls t f v s) (die : cls ≠ 4 ∨ capsQuesar s = true)

include hold die

theorem completes_of_patched {b : BitVec 512} (h : patched s cls t f v = .ok b) :
    Completes i s (modCtx s fun c => { c with staging := vset c.staging cls (some (t, b)) }) :=
  completes_of_retire (hold.trans (holdWord_ok (fun four => die.resolve_left (· four)) h))

theorem traps_of_patched {x : Trap} (h : patched s cls t f v = .error x) : Traps i s x := by
  have present : ¬ (cls = 4 ∧ capsQuesar s = false) := fun ⟨four, absent⟩ => by simp [four, absent] at die
  rw [Traps, hold, holdWord, if_neg present, h, inLine_trap]

end

/-- Settles O27: a hold word stages the patched body, and each outcome of the patch is one of the checks of R67 and R69. -/
theorem patchWordsStageTheirTemplates : Obligations.PatchWordsStageTheirTemplates := by
  unfold Obligations.PatchWordsStageTheirTemplates
  intro s t f v holds
  have stage : ∀ i cls, exec i s = holdWord cls t f v s → holds i cls := by
    intro i cls hold
    dsimp only [holds]
    intro die
    refine ⟨fun same => ?_, fun n b staged other => traps_of_patched hold die (patched_of_other staged other)⟩
    have ready := open_of_same same
    refine ⟨fun assigned => ⟨?_, ?_, ?_, ?_⟩, fun bad => traps_of_patched hold die (patched_of_not_kindOk ready bad)⟩
    · rintro rfl rfl
      exact completes_of_patched hold die (patched_bare ready assigned)
    · intro lo len hf field fits
      exact ⟨_, completes_of_patched hold die (patched_of_fits ready assigned hf field fits),
        extractLsb'_putField _ fits (fieldAt_fits field), fun _ out => getLsbD_putField_of_out _ fits out⟩
    · intro lo len hf field wide
      exact traps_of_patched hold die (patched_of_wide ready assigned hf field wide)
    · intro hf field
      exact traps_of_patched hold die (patched_of_reserved ready assigned hf field)
  refine ⟨stage _ 0 rfl, stage _ 1 rfl, stage _ 2 rfl, stage _ 3 rfl, stage _ 4 rfl, fun absent => ?_⟩
  have refused : exec (.searchHold t f v) s = holdWord 4 t f v s := rfl
  rw [Traps, refused, holdWord, if_pos ⟨rfl, absent⟩, inLine_trap]

end Sys2Proof.HoldWords

/-! SUPPORT. Commands that enter their queues (R67, R195), and the queues of a gang (R188), for O29. -/

namespace Sys2Proof.IssueWords

open Sys2Proof.Machine Sys2Proof.Laws Sys2Proof.Management

/-! An effect that a performance counter counts. -/

/-- A context with other performance counters. -/
def withPerf (c : Context) (p : Vector Word 8) : Context := { c with perf := p }

@[simp] theorem loopAt_withPerf (c : Context) (p : Vector Word 8) (n : Nat) : loopAt (withPerf c p) n = loopAt c n := rfl

@[simp] theorem levelAtPos_withPerf (c : Context) (p : Vector Word 8) (n : Nat) : levelAtPos (withPerf c p) n = levelAtPos c n := rfl

@[simp] theorem lc_withPerf (c : Context) (p : Vector Word 8) : (withPerf c p).lc = c.lc := rfl

theorem endLevel_withPerf (c : Context) (p : Vector Word 8) (n : Nat) : endLevel (withPerf c p) n = withPerf (endLevel c n) p := by
  unfold endLevel
  by_cases active : (loopAt c n).active = true
  · simp only [loopAt_withPerf, active, reduceIte]
    rfl
  · simp only [loopAt_withPerf, active]
    rfl

theorem loopEndFrom_withPerf (a : Word) (p : Vector Word 8) (n : Nat) (c : Context) :
    loopEndFrom a n (withPerf c p) = withPerf (loopEndFrom a n c) p := by
  induction n generalizing c with
  | zero => rfl
  | succ n ih =>
    unfold loopEndFrom
    simp only [levelAtPos_withPerf, loopAt_withPerf, lc_withPerf]
    cases levelAtPos c n with
    | none => exact ih c
    | some m =>
      have ended := (congrArg (loopEndFrom a n) (endLevel_withPerf { c with lc := vset c.lc m 0 } p m)).trans (ih _)
      by_cases last : (loopAt c m).last = a
      · by_cases more : (vget c.lc m 0).toNat > 1
        · simp only [last, more, reduceIte]
          rfl
        · simp only [last, more, reduceIte]
          exact ended
      · simp only [last, reduceIte]
        exact ih c

/-- The counters have no part in what follows an instruction. -/
theorem pastInstr_withPerf (c : Context) (p : Vector Word 8) : pastInstr (withPerf c p) = withPerf (pastInstr c) p := by
  have inTrap : (withPerf c p).inTrap = c.inTrap := rfl
  unfold pastInstr
  simp only [inTrap]
  split
  · rfl
  · exact loopEndFrom_withPerf c.pc p 3 { c with pc := c.pc + 4 }

/-- An instruction that counts what it did and then moves on in line completes. -/
theorem completes_of_counted {i : Instr} {s u : State} {n x : Nat}
    (h : exec i s = .next (retire (modCtx u fun c => addPerf c n x))) : Completes i s u := by
  obtain ⟨t, ran, sequenced, pc, lc, loops⟩ := completes_of_retire h
  have past : pastInstr (addPerf u.core.ctx n x) = withPerf (pastInstr u.core.ctx) (addPerf u.core.ctx n x).perf :=
    pastInstr_withPerf u.core.ctx _
  refine ⟨t, ran, Sequenced.trans (v := modCtx u fun c => addPerf c n x) (sequenced_modCtx u _ rfl) sequenced, pc.trans ?_, lc.trans ?_,
    loops.trans ?_⟩
  · exact (congrArg Context.pc past :)
  · exact (congrArg Context.lc past :)
  · exact (congrArg Context.loops past :)

/-! A command of its core alone. -/

/-- The command is of the core that moves. -/
def Own (s : State) (c : Command) : Prop := c.die = s.core.die ∧ c.core = s.core.num

/-- The command is of the core that moves, and of no other. -/
def Alone (s : State) (c : Command) : Prop := Own s c ∧ c.gang = [s.core.num]

section

variable {s : State} {t : BitVec 6} {b : BitVec 512} {c : Command}

theorem alone_of_copyCheck (h : copyCheck s t b = .ok c) : Alone s c := by
  simp only [copyCheck] at h
  split at h
  · cases h
  · cases h; exact ⟨⟨rfl, rfl⟩, rfl⟩

theorem alone_of_gatherCheck {scatter : Bool} (h : gatherCheck scatter s t b = .ok c) : Alone s c := by
  simp only [gatherCheck] at h
  split at h
  · cases h
  · cases h; cases scatter <;> exact ⟨⟨rfl, rfl⟩, rfl⟩

theorem alone_of_scoreCheck (h : scoreCheck s t b = .ok c) : Alone s c := by
  simp only [scoreCheck] at h
  split at h
  · cases h
  · cases h; exact ⟨⟨rfl, rfl⟩, rfl⟩

theorem alone_of_collWith {ms : List Member} (h : collWith s t b ms = .ok c) : Alone s c ∧ c.body = b := by
  simp only [collWith] at h
  split at h
  · cases h
  · split at h
    · cases h
    · cases h
      exact ⟨⟨⟨rfl, rfl⟩, rfl⟩, rfl⟩

theorem alone_of_collCheck (h : collCheck s t b = .ok c) : Alone s c ∧ c.body = b := by
  simp only [collCheck] at h
  split at h
  · cases h
  · split at h
    · cases h
    · split at h
      · cases h
      · exact alone_of_collWith h

theorem alone_of_seekCheck (h : seekCheck s t b = .ok c) : Alone s c := by
  simp only [seekCheck] at h
  split at h
  · cases h
  · cases h; exact ⟨⟨rfl, rfl⟩, rfl⟩

theorem alone_of_plainCheck (h : plainCheck s t b = .ok c) : Alone s c := by
  simp only [plainCheck] at h
  split at h
  · cases h
  · cases h; exact ⟨⟨rfl, rfl⟩, rfl⟩

theorem alone_of_sappendCheck (h : sappendCheck s t b = .ok c) : Alone s c := by
  simp only [sappendCheck] at h
  split at h
  · cases h
  · cases h; exact ⟨⟨rfl, rfl⟩, rfl⟩

/-- What a tile command carries of its word, whatever its kind. -/
def OfWord (s : State) (b : BitVec 512) (c : Command) : Prop := Own s c ∧ c.body = b ∧ c.gid = s.order

/-- The participants of a tile command (R187). -/
def gangOf (s : State) (b : BitVec 512) : List Nat :=
  if bodyKind b = 3 then (gangPositions b).map fun p => s.core.num / 4 * 4 + p else [s.core.num]

theorem ofWord_of_mulCommand {base : Command} (word : OfWord s b base) (h : mulCommand s.core b base = .ok c) :
    OfWord s b c ∧ c.gang = gangOf s b := by
  simp only [mulCommand] at h
  split at h
  · cases h
  · cases h
    exact ⟨word, rfl⟩

theorem passed_of_firstTrap {l : List (Option Trap)} {x : Option Trap} (h : firstTrap l = none) (hx : x ∈ l) : x = none :=
  List.findSome?_eq_none_iff.1 h x hx

theorem gangCheck_of_tileCheck (h : tileCheck s t b = .ok c) : gangCheck s.core b = none := by
  simp only [tileCheck] at h
  split at h
  · cases h
  · next passed => exact passed_of_firstTrap passed (by simp only [List.mem_cons, true_or, or_true])

theorem ofWord_of_tileCheck (h : tileCheck s t b = .ok c) : OfWord s b c ∧ c.gang = gangOf s b := by
  have base : OfWord s b { baseCommand s t b with noEffect := predicateOff s b } := ⟨⟨rfl, rfl⟩, rfl, rfl⟩
  have other (kind : bodyKind b ≠ 3) : gangOf s b = [s.core.num] := if_neg kind
  simp only [tileCheck] at h
  split at h
  · cases h
  · split at h
    · exact ofWord_of_mulCommand base h
    · next plain =>
      have kind : bodyKind b ≠ 3 := by
        simp only [tileMul, decide_eq_true_eq] at plain
        omega
      rw [other kind]
      split at h
      · split at h
        · cases h
        · cases h
          exact ⟨base, rfl⟩
      · cases h
        exact ⟨base, rfl⟩

theorem alone_of_tileCheck (kind : bodyKind b ≠ 3) (h : tileCheck s t b = .ok c) : Alone s c := by
  obtain ⟨⟨own, -⟩, gang⟩ := ofWord_of_tileCheck h
  exact ⟨own, gang.trans (if_neg kind)⟩

/-- The issuer is a participant of its gang, and a core is one once (R187). -/
theorem gang_of_tileCheck (kind : bodyKind b = 3) (h : tileCheck s t b = .ok c) : s.core.num ∈ c.gang ∧ c.gang.Nodup := by
  have passed := gangCheck_of_tileCheck h
  rw [(ofWord_of_tileCheck h).2, gangOf, if_pos kind]
  constructor
  · have own : s.core.num % 4 ∈ gangPositions b := by
      by_contra out
      simp [gangCheck, kind, out] at passed
    exact List.mem_map.2 ⟨_, own, by omega⟩
  · rw [gangPositions, if_pos kind]
    exact (List.nodup_range.filter _).map fun _ _ => Nat.add_left_cancel

end

/-! The entry into the queue. -/

section

variable {s : State} {c : Command}

theorem getCore_self (s : State) : getCore s s.core.die s.core.num = s.core := if_pos ⟨rfl, rfl⟩

theorem gangFree_of_alone {cls : Nat} (alone : Alone s c) (room : queueFree s.core cls = true) : gangFree s cls c = true := by
  obtain ⟨⟨die, -⟩, gang⟩ := alone
  rw [gangFree, gang, die, List.all_cons, getCore_self, room]
  rfl

/-- One participant's entry (R188). -/
def enterOne (cls : Nat) (c : Command) (own : Nat → Command → Command) (t : State) (x : Nat × Nat) : State :=
  putCore t (pushCommand (getCore t c.die x.1) cls (own x.1 { c with part := x.2 }))

theorem enterQueues_eq (s : State) (cls : Nat) (c : Command) (own : Nat → Command → Command) :
    enterQueues s cls c own =
      { c.gang.zipIdx.foldl (enterOne cls c own) s with order := (c.gang.zipIdx.foldl (enterOne cls c own) s).order + 1 } := rfl

/-- A command of one core enters that core's queue. -/
theorem enterQueues_of_alone {cls : Nat} {own : Nat → Command → Command} (alone : Alone s c)
    (id : own s.core.num { c with part := 0 } = { c with part := 0 }) :
    setStaging (enterQueues s cls c own) cls none = withCommand s cls c := by
  obtain ⟨⟨die, -⟩, gang⟩ := alone
  have here : getCore s c.die s.core.num = s.core := by rw [die, getCore_self]
  have one : enterOne cls c own s (s.core.num, 0) = { s with core := pushCommand s.core cls { c with part := 0 } } := by
    rw [enterOne, id, here]
    exact if_pos ⟨rfl, rfl⟩
  rw [enterQueues_eq, gang, List.zipIdx_singleton, List.foldl_cons, List.foldl_nil, one]
  rfl

theorem markDest_core (s : State) (c : Command) : (markDest s c).core = s.core := by
  have clear (s : State) (l : List Nat) : (clearBad s l).core = s.core := by
    unfold clearBad
    split <;> rfl
  unfold markDest
  split
  · unfold setDirty
    split
    · rfl
    · exact clear _ _
  · rfl

theorem claimRings_keeps (k : Core) (c : Command) :
    (claimRings k c).die = k.die ∧ (claimRings k c).num = k.num ∧ (claimRings k c).q = k.q := by
  simp only [claimRings]
  split <;> exact ⟨rfl, rfl, rfl⟩

/-- Another state whose core has its place has the command too. -/
theorem Alone.congr {u : State} (alone : Alone s c) (die : u.core.die = s.core.die) (num : u.core.num = s.core.num) : Alone u c := by
  rw [Alone, Own, die, num]
  exact alone

end

/-! The cores of a gang. -/

section

variable {s : State} {d n : Nat}

theorem find_unreplaced {l : List Core} {k : Core} (other : ¬ (k.die = d ∧ k.num = n)) :
    (l.map fun o => if o.die = k.die ∧ o.num = k.num then k else o).find? (fun o => decide (o.die = d ∧ o.num = n)) =
      l.find? fun o => decide (o.die = d ∧ o.num = n) := by
  induction l with
  | nil => rfl
  | cons o l ih =>
    rw [List.map_cons, List.find?_cons, List.find?_cons, ih]
    by_cases place : o.die = k.die ∧ o.num = k.num
    · have out : ¬ (o.die = d ∧ o.num = n) := by rwa [place.1, place.2]
      rw [if_pos place, decide_eq_false other, decide_eq_false out]
    · rw [if_neg place]

/-- A core put back is found at its place only. -/
theorem getCore_putCore_other (k : Core) (other : ¬ (k.die = d ∧ k.num = n)) : getCore (putCore s k) d n = getCore s d n := by
  unfold putCore
  split_ifs with here listed
  · rw [getCore, getCore, if_neg other, if_neg (by rwa [here.1, here.2])]
  · simp only [getCore, find_unreplaced other]
  · have last : List.find? (fun o => decide (o.die = d ∧ o.num = n)) [k] = none := by simpa using other
    simp only [getCore, List.find?_append, last, Option.or_none]

theorem putCore_place (k : Core) : (putCore s k).core.die = s.core.die ∧ (putCore s k).core.num = s.core.num := by
  unfold putCore
  split_ifs with here
  · exact ⟨here.1.symm, here.2.symm⟩
  · exact ⟨rfl, rfl⟩
  · exact ⟨rfl, rfl⟩

/-- A core that keeps its place is found changed, every other as it was. -/
theorem getCore_modCore {g : Core → Core} (place : (g s.core).die = s.core.die ∧ (g s.core).num = s.core.num) :
    getCore (modCore s g) d n = if s.core.die = d ∧ s.core.num = n then g s.core else getCore s d n := by
  have cores : (modCore s g).core = g s.core := rfl
  rw [getCore, cores, place.1, place.2]
  split
  · rfl
  · next out => exact (if_neg out).symm

variable {cls : Nat} {c : Command} {own : Nat → Command → Command} {l : List (Nat × Nat)}

theorem getCore_enterOne_self (x : Nat × Nat) :
    getCore (enterOne cls c own s x) c.die x.1 = pushCommand (getCore s c.die x.1) cls (own x.1 { c with part := x.2 }) := by
  obtain ⟨die, num⟩ := getCore_place s c.die x.1
  have found := getCore_putCore s (pushCommand (getCore s c.die x.1) cls (own x.1 { c with part := x.2 }))
  rwa [show (pushCommand (getCore s c.die x.1) cls (own x.1 { c with part := x.2 })).die = c.die from die,
    show (pushCommand (getCore s c.die x.1) cls (own x.1 { c with part := x.2 })).num = x.1 from num] at found

theorem getCore_enterOne_other {x : Nat × Nat} (out : ¬ (c.die = d ∧ x.1 = n)) :
    getCore (enterOne cls c own s x) d n = getCore s d n := by
  obtain ⟨die, num⟩ := getCore_place s c.die x.1
  refine getCore_putCore_other _ fun ⟨here, there⟩ => out ⟨?_, ?_⟩
  · exact die.symm.trans here
  · exact num.symm.trans there

theorem entered_place : (l.foldl (enterOne cls c own) s).core.die = s.core.die ∧
    (l.foldl (enterOne cls c own) s).core.num = s.core.num := by
  induction l generalizing s with
  | nil => exact ⟨rfl, rfl⟩
  | cons x l ih => exact ⟨ih.1.trans (putCore_place _).1, ih.2.trans (putCore_place _).2⟩

theorem getCore_entered_other (out : ∀ x ∈ l, ¬ (c.die = d ∧ x.1 = n)) :
    getCore (l.foldl (enterOne cls c own) s) d n = getCore s d n := by
  induction l generalizing s with
  | nil => rfl
  | cons x l ih =>
    rw [List.foldl_cons, ih fun y hy => out y (List.mem_cons_of_mem _ hy), getCore_enterOne_other (out x List.mem_cons_self)]

/-- Each participant's queue gains its own entry, and no more. -/
theorem getCore_entered {x : Nat × Nat} (once : (l.map Prod.fst).Nodup) (hx : x ∈ l) :
    getCore (l.foldl (enterOne cls c own) s) c.die x.1 =
      pushCommand (getCore s c.die x.1) cls (own x.1 { c with part := x.2 }) := by
  induction l generalizing s with
  | nil => cases hx
  | cons y l ih =>
    rw [List.map_cons, List.nodup_cons] at once
    obtain ⟨fresh, once⟩ := once
    rw [List.foldl_cons]
    obtain rfl | hx := List.mem_cons.1 hx
    · rw [getCore_entered_other fun z hz same => fresh (List.mem_map.2 ⟨z, hz, same.2⟩), getCore_enterOne_self]
    · rw [ih once hx, getCore_enterOne_other fun same => fresh (List.mem_map.2 ⟨x, hx, same.2.symm⟩)]

end

/-! The issue words. -/

section

variable {s u : State} {i : Instr} {cls kind : Nat} {t : BitVec 6} {f : BitVec 4} {v : BitVec 16} {b : BitVec 512} {c : Command}

/-- What the obligation asks of a word: its body has the word's kind and sets no reserved bit, and its class's queue has room. -/
def Accepted (s : State) (cls kind : Nat) (t : BitVec 6) (f : BitVec 4) (v : BitVec 16) (b : BitVec 512) : Prop :=
  patched s cls t f v = .ok b ∧ bodyKind b = kind ∧ reservedSet cls kind b = false ∧ queueFree s.core cls = true

/-- An issue word whose body is accepted and checked, and whose command finds room, completes with the command entered. -/
theorem completes_of_issue {check : State → BitVec 6 → BitVec 512 → Except Trap Command} {enter : State → Command → State}
    (issue : exec i s = issueWord cls kind t f v check enter s) (die : cls = 4 → capsQuesar s = true)
    (fence : fenceHeld s.core.ctx = false) (accepted : Accepted s cls kind t f v b) (checked : check s t b = .ok c)
    (room : gangFree s cls c = true) (entered : setStaging (enter s c) cls none = u) : Completes i s u := by
  obtain ⟨patch, sort, reserved, -⟩ := accepted
  subst entered
  exact completes_of_counted (issue.trans (issueWord_ok die fence patch sort (sort ▸ reserved) checked room))

variable (fence : fenceHeld s.core.ctx = false) (accepted : Accepted s cls kind t f v b)

include fence accepted

theorem completes_of_tile (issue : exec i s = issueWord 0 kind t f v tileCheck enterTile s) (cls0 : cls = 0) (single : kind ≠ 3)
    (checked : tileCheck s t b = .ok c) : Completes i s (withCommand (modCore s fun k => claimRings k c) 0 c) := by
  subst cls0
  have alone := alone_of_tileCheck (accepted.2.1 ▸ single) checked
  refine completes_of_issue issue (by simp) fence accepted checked (gangFree_of_alone alone accepted.2.2.2) ?_
  obtain ⟨die, num, -⟩ := claimRings_keeps s.core c
  exact enterQueues_of_alone (alone.congr die num) (if_pos (num.trans alone.1.2.symm))

theorem completes_of_marked {check : State → BitVec 6 → BitVec 512 → Except Trap Command}
    (issue : exec i s = issueWord cls kind t f v check (fun s c => enterPlain cls (markDest s c) c) s) (die : cls ≠ 4)
    (checked : check s t b = .ok c) (alone : Alone s c) : Completes i s (withCommand (markDest s c) cls c) := by
  refine completes_of_issue issue (fun four => absurd four die) fence accepted checked (gangFree_of_alone alone accepted.2.2.2) ?_
  exact enterQueues_of_alone (alone.congr (by rw [markDest_core]) (by rw [markDest_core])) rfl

theorem completes_of_plain {check : State → BitVec 6 → BitVec 512 → Except Trap Command}
    (issue : exec i s = issueWord cls kind t f v check (enterPlain cls) s) (die : cls = 4 → capsQuesar s = true)
    (checked : check s t b = .ok c) (alone : Alone s c) : Completes i s (withCommand s cls c) :=
  completes_of_issue issue die fence accepted checked (gangFree_of_alone alone accepted.2.2.2) (enterQueues_of_alone alone rfl)

end

/-! The ganged command (R188). -/

/-- What a participant's entry is made of: a partner's carries only its accumulator (R187). -/
def share (c : Command) (n : Nat) (x : Command) : Command :=
  if n = c.core then x else { x with reads := accReads c.body, need := 0 }

theorem share_keeps (c : Command) (n : Nat) (x : Command) :
    (share c n x).gid = x.gid ∧ (share c n x).body = x.body ∧ (share c n x).gang = x.gang := by
  unfold share
  split <;> exact ⟨rfl, rfl, rfl⟩

section

variable {s : State} {t : BitVec 6} {b : BitVec 512} {c : Command} {d n : Nat}

theorem queueOf_pushCommand (k : Core) (x : Command) : queueOf (pushCommand k 0 x) 0 = queueOf k 0 ++ [{ x with seq := k.seq }] :=
  vget_vset_same _ _ _ _ (by decide)

theorem getCore_setStaging (cls : Nat) (x : Option (BitVec 6 × BitVec 512)) : getCore (setStaging s cls x) d n =
    if s.core.die = d ∧ s.core.num = n then { s.core with ctx := { s.core.ctx with staging := vset s.core.ctx.staging cls x } }
    else getCore s d n :=
  getCore_modCore (g := fun k => { k with ctx := { k.ctx with staging := vset k.ctx.staging cls x } }) ⟨rfl, rfl⟩

theorem queueOf_setStaging (cls m : Nat) (x : Option (BitVec 6 × BitVec 512)) :
    queueOf (getCore (setStaging s cls x) d n) m = queueOf (getCore s d n) m := by
  rw [getCore_setStaging]
  split
  · next here => rw [getCore, if_pos here]; rfl
  · rfl

theorem queueOf_claimed : queueOf (getCore (modCore s fun k => claimRings k c) d n) 0 = queueOf (getCore s d n) 0 := by
  obtain ⟨die, num, q⟩ := claimRings_keeps s.core c
  rw [getCore_modCore (g := fun k => claimRings k c) ⟨die, num⟩]
  split
  · next here => rw [getCore, if_pos here, queueOf, q]; rfl
  · rfl

theorem getCore_claimed_other (out : ¬ (s.core.die = d ∧ s.core.num = n)) :
    getCore (modCore s fun k => claimRings k c) d n = getCore s d n := by
  obtain ⟨die, num, -⟩ := claimRings_keeps s.core c
  rw [getCore_modCore (g := fun k => claimRings k c) ⟨die, num⟩, if_neg out]

theorem enterTile_place : (enterTile s c).core.die = s.core.die ∧ (enterTile s c).core.num = s.core.num := by
  obtain ⟨die, num⟩ := entered_place (cls := 0) (c := c) (own := share c) (l := c.gang.zipIdx) (s := modCore s fun k => claimRings k c)
  obtain ⟨die', num', -⟩ := claimRings_keeps s.core c
  exact ⟨die.trans die', num.trans num'⟩

theorem getCore_enterTile_other (out : ¬ (c.die = d ∧ n ∈ c.gang)) :
    getCore (enterTile s c) d n = getCore (modCore s fun k => claimRings k c) d n :=
  getCore_entered_other (own := share c) fun _ hx same => out ⟨same.1, same.2 ▸ List.fst_mem_of_mem_zipIdx hx⟩

theorem getCore_enterTile (once : c.gang.Nodup) (hn : n ∈ c.gang) : ∃ i, getCore (enterTile s c) c.die n =
    pushCommand (getCore (modCore s fun k => claimRings k c) c.die n) 0 (share c n { c with part := i }) := by
  have positions : c.gang.zipIdx.map Prod.fst = c.gang := List.zipIdx_map_fst ..
  obtain ⟨x, hx, rfl⟩ := List.mem_map.1 (positions.symm ▸ hn)
  exact ⟨x.2, getCore_entered (own := share c) (positions.symm ▸ once) hx⟩

/-- The command has entered the queues of its participants, and no other core has changed. -/
theorem gang_entered (kind : bodyKind b = 3) (checked : tileCheck s t b = .ok c) :
    (∀ n ∈ c.gang, ∃ x, queueOf (getCore (setStaging (enterTile s c) 0 none) s.core.die n) 0 =
      queueOf (getCore s s.core.die n) 0 ++ [x] ∧ x.gid = s.order ∧ x.body = b ∧ x.gang = c.gang) ∧
    ∀ d n, (d ≠ s.core.die ∨ n ∉ c.gang) → getCore (setStaging (enterTile s c) 0 none) d n = getCore s d n := by
  obtain ⟨issuer, once⟩ := gang_of_tileCheck kind checked
  obtain ⟨⟨⟨die, -⟩, body, gid⟩, -⟩ := ofWord_of_tileCheck checked
  obtain ⟨placeDie, placeNum⟩ := enterTile_place (s := s) (c := c)
  constructor
  · intro n hn
    obtain ⟨i, found⟩ := getCore_enterTile (s := s) once hn
    obtain ⟨gid', body', gang'⟩ := share_keeps c n { c with part := i }
    refine ⟨{ share c n { c with part := i } with seq := (getCore (modCore s fun k => claimRings k c) c.die n).seq }, ?_,
      gid'.trans gid, body'.trans body, gang'⟩
    rw [queueOf_setStaging, ← die, found, queueOf_pushCommand, queueOf_claimed]
  · intro d n out
    have other : ¬ (s.core.die = d ∧ s.core.num = n) := by
      rintro ⟨rfl, rfl⟩
      exact out.elim (· rfl) (· issuer)
    rw [getCore_setStaging, placeDie, placeNum, if_neg other, getCore_enterTile_other, getCore_claimed_other other]
    rw [die]
    exact fun ⟨same, member⟩ => out.elim (· same.symm) (· member)

end

theorem staging_setStaging (s : State) {cls : Nat} (x : Option (BitVec 6 × BitVec 512)) (h : cls < 5) :
    vget (setStaging s cls x).core.ctx.staging cls none = x := vget_vset_same _ _ _ _ h

/-- Settles O29: each word is an issue word of its class, and its command enters the queues of its participants: its own core's, or for
MMAG those of the gang. -/
theorem engineCommandsEnterTheirQueues : Obligations.EngineCommandsEnterTheirQueues := by
  unfold Obligations.EngineCommandsEnterTheirQueues
  intro s t f v b c fence word tile copy search
  refine ⟨fun a => completes_of_tile fence a rfl rfl (by decide), fun a => completes_of_tile fence a rfl rfl (by decide),
    fun a => completes_of_tile fence a rfl rfl (by decide), fun a => completes_of_tile fence a rfl rfl (by decide), ?_,
    fun a h => completes_of_marked fence a rfl (by decide) h (alone_of_copyCheck h),
    fun a h => completes_of_marked fence a rfl (by decide) h (alone_of_copyCheck h),
    fun a h => completes_of_marked fence a rfl (by decide) h (alone_of_copyCheck h),
    fun a h => completes_of_marked fence a rfl (by decide) h (alone_of_gatherCheck h),
    fun a h => completes_of_marked fence a rfl (by decide) h (alone_of_gatherCheck h),
    fun a h => completes_of_marked fence a rfl (by decide) h (alone_of_scoreCheck h), ?_,
    fun die a h => completes_of_plain fence a rfl (fun _ => die) h (alone_of_seekCheck h),
    fun die a h => completes_of_plain fence a rfl (fun _ => die) h (alone_of_plainCheck h),
    fun die a h => completes_of_plain fence a rfl (fun _ => die) h (alone_of_sappendCheck h),
    fun die a h => completes_of_plain fence a rfl (fun _ => die) h (alone_of_plainCheck h)⟩
  · intro accepted checked room
    obtain ⟨queues, others⟩ := gang_entered accepted.2.1 checked
    exact ⟨_, completes_of_issue (enter := enterTile) rfl (by simp) fence accepted checked room rfl,
      staging_setStaging _ _ (by decide), queues, others⟩
  · intro accepted checked
    obtain ⟨alone, rfl⟩ := alone_of_collCheck checked
    refine ⟨(pushCommand s.core 3 c).q, completes_of_issue (enter := enterColl) rfl (by simp) fence accepted checked
      (gangFree_of_alone alone accepted.2.2.2) rfl, vget_vset_same _ _ _ _ (by decide), fun n hn => vget_vset_other _ _ _ _ _ hn.symm⟩

end Sys2Proof.IssueWords

/-! SUPPORT. A context whose registers read what a changed image gave (R106), for O15. -/

namespace Sys2Proof.ShownNames

open Sys2Proof.Machine Sys2Proof.Laws

theorem sreg_of_sequenced {u t : State} (h : Sequenced u t) (r : BitVec 5) : sreg t r = sreg u r := by
  have regs : t.core.ctx.s = u.core.ctx.s := congrArg (·.core.ctx.s) h
  rw [sreg, sreg, regs]

/-- An instruction that completes leaves the scalar registers of its effect. -/
theorem sreg_of_completes {i : Instr} {s u t : State} (h : Completes i s u) (ran : exec i s = .next t) (r : BitVec 5) :
    sreg t r = sreg u r := by
  obtain ⟨t', ran', sequenced, -⟩ := h
  obtain rfl : t = t' := by simpa using ran.symm.trans ran'
  exact sreg_of_sequenced sequenced r

/-- A context of group 0 that was restored from an image with GROUP_ID 1 (R106, log entry 82). -/
def regrouped : State := modCtx State.reset fun c => { c with shown := some (0, 0, 1) }

/-- Its GROUP_ID reads the image's. -/
theorem getsr_group_of_regrouped : exec (.getsr 1 0x0D) regrouped = .next (retire (setS regrouped 1 1)) := rfl

/-- Refutes O15: a context that a changed image gave another GROUP_ID reads that one (R106, log entry 82), and GETSR does not write the
context's own, which the obligation asks for. -/
theorem not_systemRegistersAreReadAndWritten : ¬ Obligations.SystemRegistersAreReadAndWritten := by
  unfold Obligations.SystemRegistersAreReadAndWritten
  intro h
  obtain ⟨-, -, -, -, -, -, -, -, -, -, -, -, -, group, -⟩ := h regrouped 1 0
  have own := sreg_of_completes group getsr_group_of_regrouped 1
  rw [sreg_of_sequenced (retire_sequenced _), sreg_setS_same _ _ _ (by decide), sreg_setS_same _ _ _ (by decide)] at own
  exact absurd own (by decide)

end Sys2Proof.ShownNames

/-! SUPPORT. The hardware loops (R98, R128), for O14: a step that no active level ends, the step of the one active level, and a
level that is ended. -/

namespace Sys2Proof.HardwareLoops

open Sys2Proof.Machine Sys2Proof.Laws

section

variable {c : Context} {a : Word} {n : Nat}

/-- Level `n` is the one active level, started before any other. -/
def OnlyLevel (c : Context) (n : Nat) : Prop :=
  n < 3 ∧ (loopAt c n).active = true ∧ (loopAt c n).pos = 0 ∧ ∀ m, m < 3 → m ≠ n → (loopAt c m).active = false

theorem of_levelAtPos {pos : Nat} (h : levelAtPos c pos = some n) :
    n < 3 ∧ (loopAt c n).active = true ∧ (loopAt c n).pos = pos := by
  have listed := List.mem_range.1 (List.mem_of_find?_eq_some h)
  have found := List.find?_some h
  simp only [Bool.and_eq_true, decide_eq_true_eq] at found
  exact ⟨listed, found⟩

/-- At an address where no active level ends, the loop-end step does nothing. -/
theorem loopEndFrom_of_no_last (away : ∀ m, m < 3 → (loopAt c m).active = true → (loopAt c m).last ≠ a) (pos : Nat) :
    loopEndFrom a pos c = c := by
  induction pos with
  | zero => rfl
  | succ pos ih =>
    unfold loopEndFrom
    split
    · exact ih
    · next m found =>
      obtain ⟨listed, active, -⟩ := of_levelAtPos found
      simp only [if_neg (away m listed active), ih]

theorem OnlyLevel.levelAtPos_eq (only : OnlyLevel c n) (pos : Nat) : levelAtPos c pos = if pos = 0 then some n else none := by
  obtain ⟨listed, active, first, others⟩ := only
  have unique : ∀ m, levelAtPos c pos = some m → m = n := fun m found => by
    by_contra other
    obtain ⟨hm, on, -⟩ := of_levelAtPos found
    simp [others m hm other] at on
  cases found : levelAtPos c pos with
  | some m =>
    obtain rfl := unique m found
    rw [if_pos ((of_levelAtPos found).2.2.symm.trans first)]
  | none =>
    have off := List.find?_eq_none.1 found n (List.mem_range.2 listed)
    rw [if_neg fun zero => off (by simp [active, first, zero])]

/-- At the last address of the one active level the loop-end step is that level's. -/
theorem OnlyLevel.loopEndFrom_eq (only : OnlyLevel c n) (last : (loopAt c n).last = a) :
    loopEndFrom a 3 c =
      if 1 < (vget c.lc n 0).toNat then { c with lc := vset c.lc n (vget c.lc n 0 - 1), pc := (loopAt c n).start }
      else endLevel { c with lc := vset c.lc n 0 } n := by
  simp [loopEndFrom, only.levelAtPos_eq, last]

/-- A level that was ended is not active: its place holds no loop, whatever moved up. -/
theorem active_endLevel (listed : n < 3) : (loopAt (endLevel c n) n).active = false := by
  cases active : (loopAt c n).active with
  | true =>
    simp only [endLevel, active, if_true]
    simp [loopAt, vget, vset, listed, LoopLevel.off]
  | false => simp [endLevel, active]

theorem endLevel_lc : (endLevel c n).lc = c.lc := by
  unfold endLevel
  dsimp only
  split <;> rfl

theorem endLevel_pc : (endLevel c n).pc = c.pc := by
  unfold endLevel
  dsimp only
  split <;> rfl

theorem pastInstr_of_inTrap (h : c.inTrap = true) : pastInstr c = { c with pc := c.pc + 4 } := by
  simp [pastInstr, h]

theorem pastInstr_of_not_inTrap (h : c.inTrap = false) : pastInstr c = loopEndFrom c.pc 3 { c with pc := c.pc + 4 } := by
  simp [pastInstr, h]

theorem pastInstr_of_no_last (away : ∀ m, m < 3 → (loopAt c m).active = true → (loopAt c m).last ≠ c.pc) :
    pastInstr c = { c with pc := c.pc + 4 } := by
  by_cases inTrap : c.inTrap = true
  · exact pastInstr_of_inTrap inTrap
  · rw [Bool.not_eq_true] at inTrap
    exact (pastInstr_of_not_inTrap inTrap).trans (loopEndFrom_of_no_last (c := { c with pc := c.pc + 4 }) away 3)

theorem OnlyLevel.pastInstr_eq (only : OnlyLevel c n) (inTrap : c.inTrap = false) (last : (loopAt c n).last = c.pc) :
    pastInstr c =
      if 1 < (vget c.lc n 0).toNat then { c with lc := vset c.lc n (vget c.lc n 0 - 1), pc := (loopAt c n).start }
      else endLevel { c with pc := c.pc + 4, lc := vset c.lc n 0 } n :=
  (pastInstr_of_not_inTrap inTrap).trans (OnlyLevel.loopEndFrom_eq (c := { c with pc := c.pc + 4 }) only last)

end

section

variable {s : State} {i : Instr} {l : BitVec 2} {len : BitVec 8} {cnt : Nat}

theorem level_lt (h : l ≠ 3) : l.toNat < 3 := by
  have bound := l.isLt
  have other : l.toNat ≠ 3 := fun e => h (BitVec.eq_of_toNat_eq e)
  omega

theorem endLevel_sequenced (n : Nat) : Sequenced s (modCtx s fun c => endLevel c n) := by
  refine sequenced_modCtx s _ ?_
  simp only
  rw [endLevel_withSeq]
  rfl

/-- A LOOP that is legal is not refused. -/
theorem startLoop_legal (inTrap : s.core.ctx.inTrap = false) (level : l ≠ 3) : ¬ (s.core.ctx.inTrap || decide (l = 3)) = true := by
  rw [inTrap, decide_eq_false level]
  exact Bool.false_ne_true

/-- With a count the level starts over the words that follow, in line. -/
theorem completes_of_startLoop (runs : exec i s = startLoop s l len cnt) (inTrap : s.core.ctx.inTrap = false) (level : l ≠ 3)
    (counted : cnt ≠ 0) :
    Completes i s (modCtx s fun c =>
      { c with
        lc := vset c.lc l.toNat (BitVec.ofNat 32 cnt)
        loops := vset c.loops l.toNat
          ⟨true, if (loopAt s.core.ctx l.toNat).active then (loopAt s.core.ctx l.toNat).pos else otherActive s.core.ctx l.toNat, len,
            c.pc + 4⟩ }) := by
  refine completes_of_retire (runs.trans ?_)
  rw [startLoop, if_neg (startLoop_legal inTrap level), if_neg counted]

/-- With count 0 the body is skipped and the level ended, its counter as it was. -/
theorem skips_of_startLoop (runs : exec i s = startLoop s l len cnt) (inTrap : s.core.ctx.inTrap = false) (level : l ≠ 3)
    (empty : cnt = 0) :
    ∃ t, exec i s = .next t ∧ Sequenced s t ∧ t.core.ctx.pc = s.core.ctx.pc + 4 + BitVec.ofNat 64 (4 * (len.toNat + 1)) ∧
      (loopAt t.core.ctx l.toNat).active = false ∧ t.core.ctx.lc = s.core.ctx.lc := by
  rw [startLoop, if_neg (startLoop_legal inTrap level), if_pos empty] at runs
  refine ⟨_, runs, Sequenced.trans (endLevel_sequenced l.toNat) (jump_sequenced _ _), jump_pc _ _, ?_, (tick_lc _).trans endLevel_lc⟩
  rw [loopAt, retireJump, tick_loops]
  exact active_endLevel (level_lt level)

theorem traps_of_startLoop (runs : exec i s = startLoop s l len cnt) (illegal : s.core.ctx.inTrap = true ∨ l = 3) :
    Traps i s (Trap.of .illegalInstruction) := by
  refine runs.trans ?_
  rw [startLoop, if_pos (by simpa using illegal)]
  rfl

end

/-- Settles O14: a LOOP is one of `startLoop`'s three cases, and what follows an instruction is the step of the level that ends there. -/
theorem loopsStartAndEnd : Obligations.LoopsStartAndEnd := by
  unfold Obligations.LoopsStartAndEnd
  refine ⟨fun s l len n a => ⟨⟨completes_of_startLoop rfl, skips_of_startLoop rfl, traps_of_startLoop rfl⟩,
    ⟨completes_of_startLoop rfl, skips_of_startLoop rfl, traps_of_startLoop rfl⟩⟩,
    fun c n => ⟨pastInstr_of_inTrap, pastInstr_of_no_last, ?_⟩⟩
  intro inTrap listed active first last others
  have past := OnlyLevel.pastInstr_eq ⟨listed, active, first, others⟩ inTrap last
  refine ⟨fun more => ?_, fun done => ?_⟩
  · rw [past, if_pos more]
  · rw [past, if_neg (Nat.not_lt.2 done)]
    exact ⟨endLevel_pc, endLevel_lc, active_endLevel listed⟩

end Sys2Proof.HardwareLoops

/-! SUPPORT. The return from a handler, the end of a context and YIELD (R95, R96, R101, R304), for O17. -/

namespace Sys2Proof.HandlerReturns

open Sys2Proof.Machine Sys2Proof.Laws Sys2Proof.HardwareLoops

section

variable {s u v : State} {i : Instr} {c : Context}

/-- An instruction that answers the tick of a state that the sequencer alone has changed completes there. -/
theorem completesTo_of_tick (runs : exec i s = .next (tick v)) (moved : Sequenced u v) (lc : v.core.ctx.lc = u.core.ctx.lc) :
    CompletesTo i s u v.core.ctx.pc v.core.ctx.loops :=
  ⟨_, runs, Sequenced.trans moved (tick_sequenced v), tick_pc v, (tick_lc v).trans lc, tick_loops v⟩

/-- A context back from its handler, before the loops are looked at. -/
def returned (c : Context) : Context := { c with inTrap := false, pc := c.tpc }

/-- Leaving loops changes the levels only. -/
theorem leaveLoops_eq (c : Context) (a : Word) : leaveLoops c a = { c with loops := (leaveLoops c a).loops } := by
  unfold leaveLoops
  split <;> rfl

/-- The trap was taken on the last word of an active loop and TPC names the next word. -/
def endsBody (c : Context) : Bool :=
  (List.range 3).any fun n => (loopAt c n).active && (loopAt c n).last == c.trapAt && c.tpc == c.trapAt + 4

theorem endsBody_iff : endsBody c = true ↔
    ∃ n, n < 3 ∧ (loopAt c n).active = true ∧ (loopAt c n).last = c.trapAt ∧ c.tpc = c.trapAt + 4 := by
  simp only [endsBody, List.any_eq_true, List.mem_range, Bool.and_eq_true, beq_iff_eq, and_assoc]

/-- In the handler ERET takes the loop-end step of a body that ends there, and else leaves the loops that do not hold TPC. -/
theorem eret_inside (inside : s.core.ctx.inTrap = true) :
    exec .eret s = .next (tick (modCtx s fun c =>
      addPerf (if endsBody c then loopEndFrom c.trapAt 3 (returned c) else leaveLoops (returned c) c.tpc) 1 1)) := by
  have enters : exec .eret s = finish s (returnFromTrap s) := rfl
  simp only [enters, returnFromTrap, inside]
  rfl

theorem eret_outside (outside : s.core.ctx.inTrap = false) : Traps .eret s (Trap.of .illegalInstruction) := by
  have refused : returnFromTrap s = .trap (Trap.of .illegalInstruction) := by simp [returnFromTrap, outside]
  exact congrArg (finish s) refused

theorem eret_leaves (inside : s.core.ctx.inTrap = true)
    (away : ∀ n, n < 3 → (loopAt s.core.ctx n).active = true → (loopAt s.core.ctx n).last = s.core.ctx.trapAt →
      s.core.ctx.tpc ≠ s.core.ctx.trapAt + 4) :
    CompletesTo .eret s (modCtx s fun c => { c with inTrap := false }) s.core.ctx.tpc
      (leaveLoops { s.core.ctx with inTrap := false } s.core.ctx.tpc).loops := by
  have ends : ¬ endsBody s.core.ctx = true := fun h => by
    obtain ⟨n, listed, active, last, next⟩ := endsBody_iff.1 h
    exact away n listed active last next
  have left : leaveLoops (returned s.core.ctx) s.core.ctx.tpc = { s.core.ctx with
      inTrap := false, pc := s.core.ctx.tpc, loops := (leaveLoops { s.core.ctx with inTrap := false } s.core.ctx.tpc).loops } :=
    leaveLoops_eq (returned s.core.ctx) s.core.ctx.tpc
  have runs := eret_inside inside
  simp only [modCtx, if_neg ends, left] at runs
  exact completesTo_of_tick runs rfl rfl

theorem eret_next_pass (inside : s.core.ctx.inTrap = true) (next : s.core.ctx.tpc = s.core.ctx.trapAt + 4) {n : Nat}
    (only : OnlyLevel s.core.ctx n) (last : (loopAt s.core.ctx n).last = s.core.ctx.trapAt) (more : 1 < (vget s.core.ctx.lc n 0).toNat) :
    CompletesTo .eret s (modCtx s fun c => { c with inTrap := false, lc := vset c.lc n (vget c.lc n 0 - 1) })
      (loopAt s.core.ctx n).start s.core.ctx.loops := by
  have ends : endsBody s.core.ctx = true := endsBody_iff.2 ⟨n, only.1, only.2.1, last, next⟩
  have step : loopEndFrom s.core.ctx.trapAt 3 (returned s.core.ctx) = { s.core.ctx with
      inTrap := false, lc := vset s.core.ctx.lc n (vget s.core.ctx.lc n 0 - 1), pc := (loopAt s.core.ctx n).start } :=
    (OnlyLevel.loopEndFrom_eq (c := returned s.core.ctx) only last).trans (if_pos more)
  have runs := eret_inside inside
  simp only [modCtx, if_pos ends, step] at runs
  exact completesTo_of_tick runs rfl rfl

/-- DONE with nothing outstanding retires the context. -/
theorem done_retires (idle : workLeft s = false) :
    ∃ t, Happens .done s t ∧ Sequenced (modCtx s fun c => { c with state := .retired }) t := by
  refine ⟨_, rfl, Sequenced.trans ?_ (tick_sequenced _)⟩
  simp only [idle]
  rfl

/-- DONE with work outstanding waits for it. -/
theorem done_waits (busy : workLeft s = true) :
    ∃ t, Happens .done s t ∧
      Sequenced (modCtx s fun c => { c with state := .waiting, wait := .done, park := some .retire }) t := by
  refine ⟨_, rfl, Sequenced.trans ?_ (tick_sequenced _)⟩
  simp only [busy]
  rfl

/-- A request against a group and the retirement of a word do not meet. -/
theorem retire_modKernel (s : State) (id : Word) (f : KEntry → KEntry) : retire (modKernel s id f) = modKernel (retire s) id f := rfl

variable {g k : KEntry}

theorem yield_ungrouped (none : kernelById s s.core.ctx.kernelId = none) : Completes .yield s s := by
  have runs : execYield s = .next (retire s) := by simp only [execYield, none, Option.filter_none]
  exact completes_of_retire runs

theorem yield_unanswered (own : kernelById s s.core.ctx.kernelId = some g) (fit : victimFit g = true) (none : yieldTo s g = none) :
    Completes .yield s s := by
  have runs : execYield s = .next (retire s) := by simp only [execYield, own, Option.filter_some, fit, if_true, none]
  exact completes_of_retire runs

theorem yield_requests (own : kernelById s s.core.ctx.kernelId = some g) (fit : victimFit g = true) (found : yieldTo s g = some k) :
    Completes .yield s (modKernel s g.id fun e => { e with victim := some ⟨0, some s.core.ctx.ctxId, some k.id⟩ }) := by
  have runs : execYield s =
      .next (retire (modKernel s g.id fun e => { e with victim := some ⟨0, some s.core.ctx.ctxId, some k.id⟩ })) := by
    simp only [execYield, own, Option.filter_some, fit, if_true, found, retire_modKernel]
  exact completes_of_retire runs

end

/-- Settles O17: ERET in its two ways and its refusal, then NOP, DONE's two ends and YIELD's three answers. -/
theorem handlerReturnsAndContextsEnd : Obligations.HandlerReturnsAndContextsEnd := by
  unfold Obligations.HandlerReturnsAndContextsEnd
  intro s g k
  refine ⟨eret_leaves, ?_, eret_outside, completes_of_retire rfl, done_retires, done_waits, yield_ungrouped, yield_unanswered,
    yield_requests⟩
  intro inside next n listed active first last more others
  exact eret_next_pass inside next ⟨listed, active, first, others⟩ last more

end Sys2Proof.HandlerReturns

/-! SUPPORT. A context that a trap stops (R100, R401), for O16: what its group's abort does leaves a context that waits for nothing
as it is, but for the mark of a window instruction. -/

namespace Sys2Proof.TrapStops

open Sys2Proof.Machine Sys2Proof.Laws Sys2Proof.Management

/-! What never reaches the context of the core that moves. -/

section

variable (s : State)

@[simp] theorem clearBad_core (l : List Nat) : (clearBad s l).core = s.core := by
  unfold clearBad
  split <;> rfl

@[simp] theorem wrHomeNat_core (pa n v : Nat) : (wrHomeNat s pa n v).core = s.core := clearBad_core _ _

@[simp] theorem wrHomeBytes_core (pa : Nat) (bytes : List Byte) : (wrHomeBytes s pa bytes).core = s.core := clearBad_core _ _

@[simp] theorem writeRecord_core (aspace : BitVec 12) (r : Rec) : (writeRecord s aspace r).core = s.core := by
  unfold writeRecord
  split
  · rfl
  · simp only
    split_ifs <;> simp

@[simp] theorem returnToStored_core (p : Promotion) : (returnToStored s p).core = s.core := by
  unfold returnToStored
  split
  · simp only [wrDesc]
    split <;> simp
  · rfl

@[simp] theorem podWoken_core (key : BarKey) (f : Option (BitVec 32) → Option Word) : (podWoken s key f).core = s.core := by
  simp only [podWoken]
  split <;> rfl

@[simp] theorem podGranted_core (order : Nat) (v : Word) : (podGranted s order v).core = s.core := by
  unfold podGranted
  split <;> rfl

/-- A core put back changes the one that moves where it is that one. -/
theorem putCore_core {k : Core} {d n : Nat} (place : k.die = d ∧ k.num = n) :
    (putCore s k).core = if s.core.die = d ∧ s.core.num = n then k else s.core := by
  obtain ⟨rfl, rfl⟩ := place
  unfold putCore
  split_ifs <;> rfl

/-- A core of which all but the context was changed leaves the context that moves. -/
theorem putCore_ctx {k : Core} {d n : Nat} (place : k.die = d ∧ k.num = n) (same : k.ctx = (getCore s d n).ctx) :
    (putCore s k).core.ctx = s.core.ctx := by
  rw [putCore_core s place]
  split
  · next here => rw [same, getCore, if_pos here]
  · rfl

@[simp] theorem putBar_ctx (key : BarKey) (b : Barrier) : (putBar s key b).core.ctx = s.core.ctx := by
  unfold putBar
  split
  · exact putCore_ctx s (getCore_place s _ _) rfl
  · rfl

end

/-! What wakes parked contexts leaves one that waits for nothing. -/

section

variable {c : Context} {s : State}

/-- A fold of steps that each leave the context leaves it. -/
theorem foldl_ctx {α : Type} {f : State → α → State} (keeps : ∀ t x, t.core.ctx = c → (f t x).core.ctx = c) (l : List α)
    (h : s.core.ctx = c) : (l.foldl f s).core.ctx = c :=
  List.foldlRecOn (motive := fun t : State => t.core.ctx = c) l f h fun t ht x _ => keeps t x ht

variable (idle : c.park = none)

include idle

theorem wakePhase_ctx (key : BarKey) (b : Barrier) (h : s.core.ctx = c) : (wakePhase s key b).core.ctx = c := by
  simp [wakePhase, h, idle]

theorem settle_ctx (key : BarKey) (b : Barrier) (zeroed : Bool) (h : s.core.ctx = c) : (settle s key b zeroed).core.ctx = c := by
  unfold settle settleNow
  split_ifs
  · simpa using h
  · exact wakePhase_ctx idle _ _ (by simpa using h)
  · simpa using h

theorem signal_ctx (q : Charge) (key : BarKey) (fault ginc : Bool) (h : s.core.ctx = c) : (signal s q key fault ginc).core.ctx = c := by
  unfold signal
  split
  · exact settle_ctx idle _ _ _ h
  · simpa [discardSignal] using h

theorem signalHome_ctx (q : Charge) (n : Nat) (fault : Bool) (h : s.core.ctx = c) : (signalHome s q n fault).core.ctx = c := by
  unfold signalHome
  split
  · split
    · exact signal_ctx idle _ _ _ _ h
    · exact h
  · split_ifs
    · simpa using h
    · exact signal_ctx idle _ _ _ _ h
    · exact h

theorem signalReqs_ctx (p : Promotion) (reqs : List Request) (fault : Bool) (h : s.core.ctx = c) :
    (signalReqs s p reqs fault).core.ctx = c := by
  refine foldl_ctx (fun t r ht => ?_) reqs h
  split
  · exact signalHome_ctx idle _ _ _ ht
  · exact ht

theorem cancelReq_ctx (p : Promotion) (id : Word) (h : s.core.ctx = c) : (cancelReq s p id).core.ctx = c := by
  simp only [cancelReq]
  split_ifs
  · exact h
  · exact signalReqs_ctx idle _ _ _ (by simpa [reaskReds] using h)
  · exact signalReqs_ctx idle _ _ _ h

theorem cancelReqs_ctx (sel : Promotion → Bool) (id : Word) (h : s.core.ctx = c) : (cancelReqs s sel id).core.ctx = c :=
  foldl_ctx (fun _ p => cancelReq_ctx idle p id) _ h

theorem lockRelease_ctx (key : BarKey) (abandoned : Bool) (h : s.core.ctx = c) : (lockRelease s key abandoned).core.ctx = c := by
  simp only [lockRelease]
  split
  · simpa using h
  · simp [h, idle]

theorem releaseGroupLocks_ctx (die entry : Nat) (h : s.core.ctx = c) : (releaseGroupLocks s die entry).core.ctx = c := by
  refine foldl_ctx (fun t key ht => ?_) _ h
  simp only
  split
  · exact lockRelease_ctx idle _ _ ht
  · exact ht

theorem relendOnce_ctx (h : s.core.ctx = c) : (relendOnce s).core.ctx = c := by
  have lent : ((listedBars s).foldl (fun t key =>
      let b := getBar t key
      if b.kind = .lock ∧ b.held = true then putBar t key { b with lent := topPrio (lockWaiters t key) } else t) s).core.ctx = c := by
    refine foldl_ctx (fun t key ht => ?_) _ h
    simp only
    split
    · simpa using ht
    · exact ht
  simp [relendOnce, lent, idle]

theorem leaveLocks_ctx (die entry : Nat) (h : s.core.ctx = c) : (leaveLocks s die entry).core.ctx = c :=
  foldl_ctx (fun _ _ => relendOnce_ctx idle) _ (releaseGroupLocks_ctx idle die entry h)

end

/-! The group's end: its cores stop, and a context that is trapped already keeps all but the mark of a window instruction. -/

section

variable {c : Context} {s : State}

@[simp] theorem returnFrame_core (die frame : Nat) : (returnFrame s die frame).core = s.core := by
  simp [returnFrame]

theorem dropImages_ctx (k : KEntry) (h : s.core.ctx = c) : (dropImages s k).core.ctx = c := by
  simp only [dropImages, returnFrames, modKernel_core]
  exact foldl_ctx (fun t f ht => by rwa [returnFrame_core]) k.frames h

/-- A context with another mark of a window instruction. -/
def withWindow (c : Context) (b : Bool) : Context := { c with inWindow := b }

theorem stopCtx_of_trapped (trapped : c.state = .trapped) : stopCtx c = withWindow c false := by
  simp [stopCtx, trapped, withWindow]

theorem sweepRetired_ctx (live : s.core.ctx.state ≠ .retired) (die num : Nat) (count : KEntry → Nat → KEntry) :
    (sweepRetired s die num count).core.ctx = s.core.ctx := by
  unfold sweepRetired
  simp only
  split
  · next retired =>
    have elsewhere : ¬ (s.core.die = die ∧ s.core.num = num) := fun here => live (by rwa [getCore, if_pos here] at retired)
    rw [modKernel_core, putCore_core (d := die) (n := num), if_neg elsewhere]
    exact getCore_place s die num
  · rfl

/-- A core that stops is the one that moves, whose context stops, or another. -/
theorem stopCore_ctx (live : s.core.ctx.state ≠ .retired) (die num : Nat) :
    (stopCore s die num).core.ctx = s.core.ctx ∨ (stopCore s die num).core.ctx = stopCtx s.core.ctx := by
  rw [← sweepRetired_ctx live die num fun e cyc => { e with retired := e.retired + 1, cycles := e.cycles + cyc }]
  unfold stopCore
  generalize sweepRetired s die num _ = u
  simp only [dropUnstarted]
  rw [putCore_core (d := die) (n := num)]
  · split
    · next here => exact .inr (by rw [getCore, if_pos here])
    · exact .inl rfl
  · exact getCore_place u die num

theorem stopGroup_ctx (trapped : c.state = .trapped) (die : Nat) (cores : List Nat) (h : s.core.ctx = c) :
    ∃ b, (stopGroup s die cores).core.ctx = withWindow c b := by
  refine List.foldlRecOn (motive := fun t : State => ∃ b, t.core.ctx = withWindow c b) cores _ ⟨c.inWindow, h⟩ ?_
  intro t ⟨b, ht⟩ num _
  have state : t.core.ctx.state = .trapped := (congrArg Context.state ht).trans trapped
  rcases stopCore_ctx (s := t) (by simp [state]) die num with same | stopped
  · exact ⟨b, same.trans ht⟩
  · exact ⟨false, by rw [stopped, stopCtx_of_trapped state, ht]; rfl⟩

/-- A group's abort leaves the trapped context that brought it about. -/
theorem abortGroup_ctx (idle : c.park = none) (trapped : c.state = .trapped) (id : Word) (cause : Cause) (h : s.core.ctx = c) :
    ∃ b, (abortGroup s id cause).core.ctx = withWindow c b := by
  unfold abortGroup
  split
  · exact ⟨c.inWindow, h⟩
  · next k _ =>
    split
    · exact ⟨c.inWindow, h⟩
    · obtain ⟨b, stopped⟩ := stopGroup_ctx trapped k.die k.cores h
      have left := leaveLocks_ctx (c := withWindow c b) idle k.die k.entry
        (cancelReqs_ctx (c := withWindow c b) idle (fun _ => true) id stopped)
      refine ⟨b, ?_⟩
      simp only [chargeCause, modKernel_core]
      split
      · exact dropImages_ctx k left
      · exact left

end

/-! The trap. -/

/-- TCAUSE holds the cause's code in its low byte and the information from bit 16 on (R93). -/
theorem tcauseOf_eq (t : Trap) : tcauseOf t = BitVec.ofNat 64 (t.info.toNat * 2 ^ 16 + t.cause.code) := by
  have code : t.cause.code < 2 ^ 8 := by cases t.cause <;> decide
  have info := t.info.isLt
  apply BitVec.eq_of_toNat_eq
  rw [tcauseOf, BitVec.toNat_append, BitVec.toNat_ofNat, BitVec.toNat_ofNat, Nat.mod_eq_of_lt code,
    ← Nat.shiftLeft_add_eq_or_of_lt code]
  simp only [BitVec.toNat_append, BitVec.ofNat_eq_ofNat, BitVec.toNat_zero, Nat.zero_mul, Nat.zero_or, Nat.or_zero, Nat.shiftLeft_eq]
  omega

/-- The context of a core that a trap without a handler stops. -/
def stopped (c : Context) (t : Trap) (pc : Word) (w : BitVec 32) : Context := { trapRegs c t pc w with state := .trapped }

/-- A context that a trap stops holds the trap registers and is trapped; of the rest only the mark of a window instruction may go. -/
theorem takeTrapAt_stopped {s : State} {t : Trap} {pc : Word} {w : BitVec 32} (idle : s.core.ctx.park = none)
    (unhandled : s.core.ctx.inTrap = true ∨ s.core.ctx.handler = 0 ∨ t.cause = .halt) :
    ∃ b, (takeTrapAt s t pc w).core.ctx = withWindow (stopped s.core.ctx t pc w) b := by
  have recorded (aspace : BitVec 12) (r : Rec) :
      (writeRecord (modCtx s fun _ => stopped s.core.ctx t pc w) aspace r).core.ctx = stopped s.core.ctx t pc w := by
    rw [writeRecord_core]
    rfl
  rw [takeTrapAt_stops s t pc w unhandled]
  simp only
  split_ifs
  · exact ⟨s.core.ctx.inWindow, recorded _ _⟩
  · exact ⟨s.core.ctx.inWindow, recorded _ _⟩
  · exact abortGroup_ctx (c := stopped s.core.ctx t pc w) idle rfl _ _ (recorded _ _)

/-- Settles O16: TRAP, BKPT and HALT answer the trap of their cause, and a trap enters the handler or stops the context. -/
theorem trapsEnterTheHandlerOrStop : Obligations.TrapsEnterTheHandlerOrStop := by
  unfold Obligations.TrapsEnterTheHandlerOrStop
  intro s i t
  simp only [← tcauseOf_eq]
  refine ⟨takeTrapAt_handled s t _ _, fun idle unhandled => ?_, rfl, rfl, rfl⟩
  obtain ⟨b, ends⟩ := takeTrapAt_stopped (pc := s.core.ctx.pc) (w := s.core.ctx.ir) idle unhandled
  rw [takeTrap, ends]
  exact ⟨rfl, rfl, rfl, rfl, rfl, rfl, rfl, rfl⟩

end Sys2Proof.TrapStops

/-! SUPPORT. The two-source members of the integer ALU (R111), for O1: each value of the model's table is the operation's on bit vectors
of the width. -/

namespace Sys2Proof.IntegerMembers

open Sys2Proof.Machine Sys2Proof.Laws

/-! Widths and sources. -/

theorem widthOf_eq (w : BitVec 2) : widthOf w = aluWidth w := by
  revert w
  decide

theorem aluWidth_pos (w : BitVec 2) : 0 < aluWidth w := by
  revert w
  decide

theorem aluWidth_le (w : BitVec 2) : aluWidth w ≤ 64 := by
  revert w
  decide

theorem srcW_eq (s : State) (r : BitVec 5) (W : Nat) : srcW s r W = (low s r W).toNat := by
  simp [srcW, low]

section

variable {W : Nat} {x y : BitVec W}

theorem two_pow_half (pos : 0 < W) : 2 ^ W = 2 * 2 ^ (W - 1) := by
  rw [← Nat.pow_succ', Nat.succ_eq_add_one, Nat.sub_add_cancel pos]

theorem signedOf_toNat (pos : 0 < W) (x : BitVec W) : signedOf W x.toNat = x.toInt := by
  have half := two_pow_half pos
  have below : x.toNat < 2 ^ (W - 1) ↔ 2 * x.toNat < 2 ^ W := by omega
  simp only [signedOf, below, BitVec.toInt_eq_toNat_cond]

theorem wrap_eq (W : Nat) (i : Int) : wrap W i = (BitVec.ofInt W i).toNat := by
  rw [wrap, BitVec.toNat_ofInt]

theorem ofInt_eq_of_toInt {i : Int} (h : x.toInt = i.bmod (2 ^ W)) : BitVec.ofInt W i = x :=
  BitVec.eq_of_toInt_eq (by rw [BitVec.toInt_ofInt, h])

theorem wrap_toInt (x : BitVec W) : wrap W x.toInt = x.toNat := by
  rw [wrap_eq, BitVec.ofInt_toInt]

/-! The members whose value in the model is not the operation's definition. -/

theorem aluRes_sub : aluRes .sub W x.toNat y.toNat = (x - y).toNat := by
  have hx := x.isLt
  have hy := y.isLt
  rw [BitVec.toNat_sub]
  simp only [aluRes]
  congr 1
  omega

theorem aluRes_mulh (pos : 0 < W) :
    aluRes .mulh W x.toNat y.toNat = (BitVec.ofInt W ((x.toInt * y.toInt) / 2 ^ W)).toNat := by
  have power : ((2 ^ W : Nat) : Int) = 2 ^ W := by push_cast; rfl
  simp only [aluRes, signedOf_toNat pos, wrap_eq]
  rw [Int.fdiv_eq_ediv_of_nonneg _ (Int.natCast_nonneg _), power]

theorem aluRes_mulhn : aluRes .mulhn W x.toNat y.toNat = (BitVec.ofNat W ((x.toNat * y.toNat) / 2 ^ W)).toNat := by
  have small : x.toNat * y.toNat / 2 ^ W < 2 ^ W :=
    Nat.div_lt_of_lt_mul (Nat.mul_lt_mul'' x.isLt y.isLt)
  rw [BitVec.toNat_ofNat, Nat.mod_eq_of_lt small]
  rfl

theorem toNat_eq_zero_iff : y.toNat = 0 ↔ y = 0 := ⟨fun h => BitVec.eq_of_toNat_eq h, fun h => h ▸ rfl⟩

theorem wrap_tdiv (x y : BitVec W) : wrap W (x.toInt.tdiv y.toInt) = (x.sdiv y).toNat := by
  rw [wrap_eq, ofInt_eq_of_toInt (BitVec.toInt_sdiv x y)]

/-- The one quotient that does not fit is 2^(W - 1), which is its own wrap. -/
theorem wrap_overflow (pos : 0 < W) : wrap W (Int.tdiv (-(2 ^ (W - 1) : Nat)) (-1)) = 2 ^ (W - 1) := by
  have half := two_pow_half pos
  have one := Nat.two_pow_pos (W - 1)
  have fits : 2 ^ (W - 1) < 2 ^ W := by omega
  rw [Int.tdiv_neg, Int.tdiv_one, Int.neg_neg, wrap, ← Int.natCast_emod, Nat.mod_eq_of_lt fits]
  rfl

theorem aluRes_div (pos : 0 < W) :
    aluRes .div W x.toNat y.toNat = (if y = 0 then BitVec.allOnes W else x.sdiv y).toNat := by
  simp only [aluRes, signedOf_toNat pos, toNat_eq_zero_iff]
  split
  · rw [BitVec.toNat_allOnes]
  · split
    · next h => rw [← wrap_tdiv, h.1, h.2, wrap_overflow pos]
    · exact wrap_tdiv x y

theorem aluRes_rem (pos : 0 < W) : aluRes .rem W x.toNat y.toNat = (if y = 0 then x else x.srem y).toNat := by
  have rest : x.toInt - y.toInt * x.toInt.tdiv y.toInt = (x.srem y).toInt := by
    rw [BitVec.toInt_srem, Int.tmod_def]
  simp only [aluRes, signedOf_toNat pos, toNat_eq_zero_iff, rest, wrap_toInt]
  split
  · rfl
  · split
    · next h =>
      have zero : (x.srem y).toInt = 0 := by rw [BitVec.toInt_srem, h.2, Int.tmod_neg, Int.tmod_one]
      rw [← wrap_toInt, zero, wrap, Int.zero_emod]
      rfl
    · rfl

theorem aluRes_divn : aluRes .divn W x.toNat y.toNat = (if y = 0 then BitVec.allOnes W else x.udiv y).toNat := by
  simp only [aluRes, toNat_eq_zero_iff]
  split
  · rw [BitVec.toNat_allOnes]
  · rw [BitVec.udiv_eq, BitVec.toNat_udiv]

theorem aluRes_remn : aluRes .remn W x.toNat y.toNat = (if y = 0 then x else x.umod y).toNat := by
  simp only [aluRes, toNat_eq_zero_iff]
  split
  · rfl
  · rw [BitVec.umod_eq, BitVec.toNat_umod]

theorem aluRes_andn : aluRes .andn W x.toNat y.toNat = (x &&& ~~~y).toNat := by
  rw [BitVec.toNat_and, BitVec.toNat_not]
  rfl

theorem aluRes_shl : aluRes .shl W x.toNat y.toNat = (x <<< (y.toNat % W)).toNat := by
  rw [BitVec.toNat_shiftLeft, Nat.shiftLeft_eq]
  rfl

theorem aluRes_shr : aluRes .shr W x.toNat y.toNat = (x >>> (y.toNat % W)).toNat := by
  rw [BitVec.toNat_ushiftRight, Nat.shiftRight_eq_div_pow]
  rfl

theorem aluRes_sar (pos : 0 < W) : aluRes .sar W x.toNat y.toNat = (x.sshiftRight (y.toNat % W)).toNat := by
  rw [BitVec.sshiftRight_eq, Int.shiftRight_eq_div_pow]
  simp only [aluRes, signedOf_toNat pos, wrap_eq, Int.fdiv_eq_ediv_of_nonneg _ (Int.natCast_nonneg _)]

/-- The bits that leave at the top come back below the ones that stay: their sum is their union. -/
theorem rotate_eq {x k : Nat} (small : x < 2 ^ W) (within : k < W) :
    (x * 2 ^ k + x / 2 ^ (W - k)) % 2 ^ W = (x * 2 ^ k % 2 ^ W) ||| (x / 2 ^ (W - k)) := by
  have power : 2 ^ W = 2 ^ (W - k) * 2 ^ k := by rw [← Nat.pow_add, Nat.sub_add_cancel within.le]
  have low : x / 2 ^ (W - k) < 2 ^ k := Nat.div_lt_of_lt_mul (power ▸ small)
  have high : x * 2 ^ k % 2 ^ W = (x % 2 ^ (W - k)) * 2 ^ k := by rw [power, Nat.mul_mod_mul_right]
  have fits : (x % 2 ^ (W - k)) * 2 ^ k + x / 2 ^ (W - k) < 2 ^ W := by
    have below : x % 2 ^ (W - k) + 1 ≤ 2 ^ (W - k) := Nat.mod_lt _ (Nat.two_pow_pos _)
    calc (x % 2 ^ (W - k)) * 2 ^ k + x / 2 ^ (W - k) < (x % 2 ^ (W - k) + 1) * 2 ^ k := by rw [Nat.succ_mul]; omega
      _ ≤ 2 ^ W := power ▸ Nat.mul_le_mul_right _ below
  rw [Nat.add_mod, Nat.mod_eq_of_lt (low.trans (Nat.pow_lt_pow_right (by omega) within)), high, Nat.mod_eq_of_lt fits,
    ← Nat.shiftLeft_eq, Nat.shiftLeft_add_eq_or_of_lt low]

theorem aluRes_rol (pos : 0 < W) : aluRes .rol W x.toNat y.toNat = (x.rotateLeft (y.toNat % W)).toNat := by
  have within : y.toNat % W < W := Nat.mod_lt _ pos
  rw [BitVec.toNat_rotateLeft, Nat.mod_mod, Nat.shiftLeft_eq, Nat.shiftRight_eq_div_pow]
  exact rotate_eq x.isLt within

theorem aluRes_min (pos : 0 < W) : aluRes .min W x.toNat y.toNat = (if x.sle y then x else y).toNat := by
  simp only [aluRes, signedOf_toNat pos, BitVec.sle_iff_toInt_le]
  split <;> rfl

theorem aluRes_max (pos : 0 < W) : aluRes .max W x.toNat y.toNat = (if x.sle y then y else x).toNat := by
  simp only [aluRes, signedOf_toNat pos, BitVec.sle_iff_toInt_le]
  split <;> rfl

theorem aluRes_minn : aluRes .minn W x.toNat y.toNat = (if x.ule y then x else y).toNat := by
  simp only [aluRes, BitVec.ule_iff_toNat_le]
  split <;> rfl

theorem aluRes_maxn : aluRes .maxn W x.toNat y.toNat = (if x.ule y then y else x).toNat := by
  simp only [aluRes, BitVec.ule_iff_toNat_le]
  split <;> rfl

end

/-- An instruction that is a two-source member of the model has the result that its entry in the member table has. -/
theorem binaryMember_of_aluRes {mk : BitVec 5 → BitVec 5 → BitVec 5 → BitVec 2 → BitVec 3 → Instr}
    {f : (W : Nat) → BitVec W → BitVec W → BitVec W} (op : AluOp)
    (runs : ∀ s d a b w g, exec (mk d a b w g) s = aluInstr op d a b w g s)
    (res : ∀ {W} {x y : BitVec W}, 0 < W → aluRes op W x.toNat y.toNat = (f W x y).toNat) : BinaryMember mk f := by
  intro s d a b w g
  have member : exec (mk d a b w g) s =
      guarded s g (.ok (setS s d ((f (aluWidth w) (low s a (aluWidth w)) (low s b (aluWidth w))).setWidth 64))) := by
    rw [runs, aluInstr]
    simp only [widthOf_eq, srcW_eq, res (aluWidth_pos w), BitVec.ofNat_toNat]
  exact ⟨fun on => completes_of_retire (member.trans (guarded_true on _)),
    fun off => completes_of_retire (member.trans (guarded_false off _))⟩

/-- Settles O1: each member is `aluInstr` of its operation, whose value is the table's at every width. -/
theorem integerMembersCompleteWithTheirResults : Obligations.IntegerMembersCompleteWithTheirResults := by
  unfold Obligations.IntegerMembersCompleteWithTheirResults
  have member := @binaryMember_of_aluRes
  exact ⟨member .add (fun _ _ _ _ _ _ => rfl) fun _ => (BitVec.toNat_add _ _).symm,
    member .sub (fun _ _ _ _ _ _ => rfl) fun _ => aluRes_sub,
    member .mul (fun _ _ _ _ _ _ => rfl) fun _ => (BitVec.toNat_mul _ _).symm,
    member .mulh (fun _ _ _ _ _ _ => rfl) aluRes_mulh,
    member .mulhn (fun _ _ _ _ _ _ => rfl) fun _ => aluRes_mulhn,
    member .div (fun _ _ _ _ _ _ => rfl) aluRes_div,
    member .divn (fun _ _ _ _ _ _ => rfl) fun _ => aluRes_divn,
    member .rem (fun _ _ _ _ _ _ => rfl) aluRes_rem,
    member .remn (fun _ _ _ _ _ _ => rfl) fun _ => aluRes_remn,
    member .and (fun _ _ _ _ _ _ => rfl) fun _ => (BitVec.toNat_and _ _).symm,
    member .or (fun _ _ _ _ _ _ => rfl) fun _ => (BitVec.toNat_or _ _).symm,
    member .xor (fun _ _ _ _ _ _ => rfl) fun _ => (BitVec.toNat_xor _ _).symm,
    member .andn (fun _ _ _ _ _ _ => rfl) fun _ => aluRes_andn,
    member .shl (fun _ _ _ _ _ _ => rfl) fun _ => aluRes_shl,
    member .shr (fun _ _ _ _ _ _ => rfl) fun _ => aluRes_shr,
    member .sar (fun _ _ _ _ _ _ => rfl) aluRes_sar,
    member .rol (fun _ _ _ _ _ _ => rfl) aluRes_rol,
    member .min (fun _ _ _ _ _ _ => rfl) aluRes_min,
    member .max (fun _ _ _ _ _ _ => rfl) aluRes_max,
    member .minn (fun _ _ _ _ _ _ => rfl) fun _ => aluRes_minn,
    member .maxn (fun _ _ _ _ _ _ => rfl) fun _ => aluRes_maxn⟩

end Sys2Proof.IntegerMembers

/-! SUPPORT. Comparisons and the logic of predicates (R113, R114), for O3. -/

namespace Sys2Proof.Comparisons

open Sys2Proof.Machine Sys2Proof.Laws Sys2Proof.IntegerMembers

/-- An instruction under a guard whose effect is complete: it takes effect under a true guard only. -/
theorem completes_of_guarded {i : Instr} {s u : State} {g : BitVec 3} (runs : exec i s = guarded s g (.ok u)) :
    (preg s g = true → Completes i s u) ∧ (preg s g = false → Completes i s s) :=
  ⟨fun on => completes_of_retire (runs.trans (guarded_true on _)), fun off => completes_of_retire (runs.trans (guarded_false off _))⟩

section

variable {W : Nat} (u v : BitVec W)

/-- The comparison that the statement names for each condition code. -/
def condition (c : Nat) : Bool :=
  match c with
  | 0 => u == v
  | 1 => u != v
  | 2 => u.slt v
  | 3 => u.sle v
  | 4 => v.slt u
  | 5 => v.sle u
  | 6 => u.ult v
  | 7 => u.ule v
  | 8 => v.ult u
  | _ => v.ule u

theorem cmpHolds_eq (pos : 0 < W) (c : Nat) : cmpHolds c W u.toNat v.toNat = condition u v c := by
  unfold cmpHolds
  simp only [signedOf_toNat pos]
  match c with
  | 0 => exact Bool.eq_iff_iff.2 (by simp [condition, BitVec.toInt_inj])
  | 1 => exact Bool.eq_iff_iff.2 (by simp [condition, BitVec.toInt_inj])
  | 2 | 3 | 4 | 5 | 6 | 7 | 8 => rfl
  | n + 9 => rfl

end

/-- A guarded instruction whose effect writes a predicate. -/
theorem execCmp_assigned {p : BitVec 3} {a b : BitVec 5} {c : BitVec 6} {w : BitVec 2} {g : BitVec 3} {s : State} (assigned : c.toNat ≤ 9) :
    execCmp p a b c w g s =
      guarded s g (.ok (setP s p (condition (low s a (aluWidth w)) (low s b (aluWidth w)) c.toNat))) := by
  unfold execCmp
  rw [if_neg (Nat.not_lt.2 assigned)]
  simp only [widthOf_eq, srcW_eq, cmpHolds_eq _ _ (aluWidth_pos w)]

/-- Settles O3: a comparison and each operation of predicates is guarded and writes one predicate. -/
theorem comparisonAndPredicateLogicComplete : Obligations.ComparisonAndPredicateLogicComplete := by
  unfold Obligations.ComparisonAndPredicateLogicComplete
  intro s p a b c w x y g
  have cmp (assigned : c.toNat ≤ 9) := completes_of_guarded (i := .cmp p a b c w g) (execCmp_assigned (s := s) assigned)
  have and_ := completes_of_guarded (i := .pand p x y g) (s := s) rfl
  have or_ := completes_of_guarded (i := .por p x y g) (s := s) rfl
  have xor_ := completes_of_guarded (i := .pxor p x y g) (s := s) rfl
  have not_ := completes_of_guarded (i := .pnot p x g) (s := s) rfl
  have mov := completes_of_guarded (i := .pmov p x g) (s := s) rfl
  exact ⟨fun on => ⟨fun assigned => (cmp assigned).1 on, and_.1 on, or_.1 on, xor_.1 on, not_.1 on, mov.1 on⟩,
    fun off => ⟨fun assigned => (cmp assigned).2 off, and_.2 off, or_.2 off, xor_.2 off, not_.2 off, mov.2 off⟩,
    fun reserved => if_pos reserved⟩

end Sys2Proof.Comparisons

/-! SUPPORT. Counts of bits, and fields extracted and replaced (R111, R112), for O2. -/

namespace Sys2Proof.CountsAndFields

open Sys2Proof.Machine Sys2Proof.Laws Sys2Proof.IntegerMembers Sys2Proof.Comparisons

/-! The counts. -/

theorem popcount_eq (x n : Nat) : popcount x n = (List.range n).countP fun i => x.testBit i := by
  induction n with
  | zero => rfl
  | succ n ih =>
    rw [popcount, ih, List.range_succ, List.countP_append, List.countP_singleton, Nat.add_comm]

/-- The zero bits above the highest one among the low n. -/
theorem leadingZeros_spec (x n : Nat) :
    leadingZeros x n ≤ n ∧ (∀ i, n - leadingZeros x n ≤ i → i < n → x.testBit i = false) ∧
      (leadingZeros x n < n → x.testBit (n - 1 - leadingZeros x n) = true) := by
  induction n with
  | zero => exact ⟨Nat.le_refl 0, fun i _ none => absurd none (Nat.not_lt_zero i), fun none => absurd none (Nat.lt_irrefl 0)⟩
  | succ n ih =>
    obtain ⟨bound, zeros, one⟩ := ih
    unfold leadingZeros
    by_cases top : x.testBit n = true
    · rw [if_pos top]
      exact ⟨Nat.zero_le _, fun i above below => by omega, fun _ => top⟩
    · rw [if_neg top]
      refine ⟨by omega, fun i above below => ?_, fun more => ?_⟩
      · by_cases last : i = n
        · rw [last]
          exact Bool.eq_false_iff.2 top
        · exact zeros i (by omega) (by omega)
      · have place : n + 1 - 1 - (1 + leadingZeros x n) = n - 1 - leadingZeros x n := by omega
        rw [place]
        exact one (by omega)

/-- The zero bits below the lowest one among n from bit i up. -/
theorem trailingZerosFrom_spec (x n i : Nat) :
    trailingZerosFrom x n i ≤ n ∧ (∀ j, j < trailingZerosFrom x n i → x.testBit (i + j) = false) ∧
      (trailingZerosFrom x n i < n → x.testBit (i + trailingZerosFrom x n i) = true) := by
  induction n generalizing i with
  | zero => exact ⟨Nat.le_refl 0, fun j none => absurd none (Nat.not_lt_zero j), fun none => absurd none (Nat.lt_irrefl 0)⟩
  | succ n ih =>
    obtain ⟨bound, zeros, one⟩ := ih (i + 1)
    unfold trailingZerosFrom
    by_cases here : x.testBit i = true
    · rw [if_pos here]
      exact ⟨Nat.zero_le _, fun j none => absurd none (Nat.not_lt_zero j), fun _ => here⟩
    · rw [if_neg here]
      refine ⟨by omega, fun j below => ?_, fun more => ?_⟩
      · cases j with
        | zero => exact Bool.eq_false_iff.2 here
        | succ j =>
          rw [Nat.add_comm j, ← Nat.add_assoc]
          exact zeros j (by omega)
      · rw [← Nat.add_assoc]
        exact one (by omega)

/-! The fields (R112). -/

section

variable {W : Nat} (b : Word)

/-- Position and length of the field, as the statement gives them. -/
theorem fieldOf_eq :
    fieldOf W b = ((b.extractLsb' 0 6).toNat,
      if W ≤ (b.extractLsb' 0 6).toNat then 0 else min (b.extractLsb' 8 7).toNat (W - (b.extractLsb' 0 6).toNat)) := by
  unfold fieldOf
  simp only [ge_iff_le, gt_iff_lt]
  congr 1
  split
  · rfl
  · split
    · omega
    · omega

/-- A field cut to the width lies within it. -/
theorem field_within {W pos len i : Nat} (h : i < if W ≤ pos then 0 else min len (W - pos)) : pos + i < W := by
  split at h <;> omega

theorem testBit_field (x pos len i : Nat) : (x / 2 ^ pos % 2 ^ len).testBit i = (decide (i < len) && x.testBit (pos + i)) := by
  rw [Nat.testBit_mod_two_pow, Nat.testBit_div_two_pow, Nat.add_comm]

/-- A field replaced: its bits are the other's low ones, and every other bit stays. -/
theorem testBit_replaceField (d x pos len i : Nat) :
    (d - d / 2 ^ pos % 2 ^ len * 2 ^ pos + x % 2 ^ len * 2 ^ pos).testBit i =
      if pos ≤ i ∧ i < pos + len then x.testBit (i - pos) else d.testBit i := by
  have low : d % 2 ^ pos < 2 ^ pos := Nat.mod_lt _ (Nat.two_pow_pos _)
  have field : x % 2 ^ len < 2 ^ len := Nat.mod_lt _ (Nat.two_pow_pos _)
  have parts : 2 ^ pos * (d / 2 ^ pos) + d % 2 ^ pos = d := Nat.div_add_mod _ _
  have high : 2 ^ pos * (2 ^ len * (d / 2 ^ pos / 2 ^ len)) + d / 2 ^ pos % 2 ^ len * 2 ^ pos = 2 ^ pos * (d / 2 ^ pos) := by
    rw [Nat.mul_comm (_ % _), ← Nat.mul_add, Nat.div_add_mod]
  have joined : d - d / 2 ^ pos % 2 ^ len * 2 ^ pos + x % 2 ^ len * 2 ^ pos =
      2 ^ pos * (2 ^ len * (d / 2 ^ pos / 2 ^ len) + x % 2 ^ len) + d % 2 ^ pos := by
    rw [Nat.mul_add, Nat.mul_comm (2 ^ pos) (x % 2 ^ len)]
    omega
  rw [joined, Nat.testBit_two_pow_mul_add _ low, Nat.testBit_two_pow_mul_add _ field]
  by_cases below : i < pos
  · simp [below]
  · by_cases within : i - pos < len
    · have inside : pos ≤ i ∧ i < pos + len := by omega
      simp [below, within, inside]
    · have outside : ¬ (pos ≤ i ∧ i < pos + len) := by omega
      have place : i - pos - len + len + pos = i := by omega
      simp [below, within, outside, Nat.testBit_div_two_pow, place]

end

/-- Settles O2: each member is guarded and writes one register; SEL always executes. -/
theorem countsMovesAndFieldsComplete : Obligations.CountsMovesAndFieldsComplete := by
  unfold Obligations.CountsMovesAndFieldsComplete
  intro s d a b w g W x pos len old inField
  have member (op : UnOp) {i : Instr} (runs : exec i s = unInstr op d a w g s) :
      (preg s g = true → Completes i s (setS s d (BitVec.ofNat 64 (unRes op W x.toNat)))) ∧ (preg s g = false → Completes i s s) := by
    refine completes_of_guarded (runs.trans ?_)
    simp only [unInstr, widthOf_eq, srcW_eq]
    rfl
  have popc := member .popc (i := .popc d a w g) rfl
  have clz := member .clz (i := .clz d a w g) rfl
  have ctz := member .ctz (i := .ctz d a w g) rfl
  have mov := member .mov (i := .mov d a w g) rfl
  have bfx := completes_of_guarded (i := .bfx d a b w g) (s := s) rfl
  have bfi := completes_of_guarded (i := .bfi d a b w g) (s := s) rfl
  simp only [widthOf_eq, srcW_eq, bfxRes, bfiRes, fieldOf_eq] at bfx bfi
  have width : W ≤ 64 := aluWidth_le w
  refine ⟨fun on => ⟨?_, ?_, ?_, ?_, ?_, ?_⟩, fun off => ⟨popc.2 off, clz.2 off, ctz.2 off, mov.2 off, bfx.2 off, bfi.2 off⟩, ?_⟩
  · exact popcount_eq x.toNat W ▸ popc.1 on
  · obtain ⟨bound, zeros, one⟩ := leadingZeros_spec x.toNat W
    refine ⟨_, bound, fun i above => ?_, one, clz.1 on⟩
    by_cases below : i < W
    · exact zeros i above below
    · exact BitVec.getLsbD_of_ge _ _ (Nat.le_of_not_lt below)
  · obtain ⟨bound, zeros, one⟩ := trailingZerosFrom_spec x.toNat W 0
    simp only [Nat.zero_add] at zeros one
    exact ⟨_, bound, zeros, one, ctz.1 on⟩
  · exact BitVec.ofNat_toNat 64 x ▸ mov.1 on
  · refine ⟨_, fun i => ?_, bfx.1 on⟩
    rw [BitVec.getLsbD_ofNat, testBit_field]
    by_cases within : i < len
    · have inside : pos + i < W := field_within within
      rw [decide_eq_true (show i < 64 by omega), Bool.true_and]
      rfl
    · show (decide (i < 64) && (decide (i < len) && x.toNat.testBit (pos + i))) = (decide (i < len) && x.getLsbD (pos + i))
      rw [decide_eq_false within, Bool.false_and, Bool.false_and, Bool.and_false]
  · refine ⟨_, fun i => ?_, bfi.1 on⟩
    rw [BitVec.getLsbD_ofNat, testBit_replaceField]
    by_cases field : pos ≤ i ∧ i < pos + len
    · have inside : pos + (i - pos) < W := field_within (show i - pos < len by omega)
      rw [decide_eq_true (show i < 64 by omega), Bool.true_and, if_pos field, if_pos]
      · rfl
      · simpa [inField] using field
    · rw [if_neg field, if_neg]
      · by_cases word : i < 64
        · rw [decide_eq_true word, Bool.true_and]
          rfl
        · rw [decide_eq_false word, Bool.false_and, BitVec.getLsbD_of_ge _ _ (width.trans (Nat.le_of_not_lt word))]
      · simpa [inField] using field
  · have runs : exec (.sel d a b w g) s = inLine s (.ok (setS s d ((if preg s g then low s a W else low s b W).setWidth 64))) := by
      show execSel d a b w g s = _
      simp only [execSel, widthOf_eq, srcW_eq, ← BitVec.ofNat_toNat 64]
      split <;> rfl
    exact completes_of_retire (runs.trans (inLine_ok s _))

end Sys2Proof.CountsAndFields

/-! SUPPORT. Immediates and constants (R115, R116), for O4. -/

namespace Sys2Proof.Immediates

open Sys2Proof.Machine Sys2Proof.Laws

theorem add_signExtend (x : Word) (i : BitVec 16) : x + i.signExtend 64 = BitVec.ofInt 64 (x.toNat + i.toInt) := by
  rw [BitVec.ofInt_add, BitVec.ofInt_natCast, BitVec.ofNat_toNat, BitVec.setWidth_eq]
  rfl

/-- A constant in a halfword, with every other bit zero (R116). -/
theorem halfword_eq (i : BitVec 16) (hw : BitVec 2) :
    i.zeroExtend 64 <<< (16 * hw.toNat) = BitVec.ofNat 64 (i.toNat * 2 ^ (16 * hw.toNat)) := by
  apply BitVec.eq_of_toNat_eq
  simp [Nat.shiftLeft_eq]

/-- A halfword replaced, and every other bit kept (R116). -/
theorem getLsbD_replaceHalfword (x : Word) (i : BitVec 16) {n : Nat} (inside : n + 16 ≤ 64) (k : Nat) :
    ((x &&& ~~~((0xFFFF : Word) <<< n)) ||| (i.zeroExtend 64 <<< n)).getLsbD k =
      if n ≤ k ∧ k < n + 16 then i.getLsbD (k - n) else x.getLsbD k := by
  have ones (j : Nat) : (0xFFFF : Word).getLsbD j = decide (j < 16) := by
    show ((BitVec.allOnes 16).setWidth 64).getLsbD j = _
    rw [BitVec.getLsbD_setWidth, BitVec.getLsbD_allOnes, ← Bool.decide_and]
    exact decide_eq_decide.2 (by omega)
  simp only [BitVec.getLsbD_or, BitVec.getLsbD_and, BitVec.getLsbD_not, BitVec.getLsbD_shiftLeft, BitVec.truncate_eq_setWidth,
    BitVec.getLsbD_setWidth, ones]
  by_cases above : k < 64
  · by_cases below : k < n
    · have outside : ¬ (n ≤ k ∧ k < n + 16) := by omega
      simp only [above, below, outside, decide_true, Bool.not_true, Bool.and_false, Bool.false_and, Bool.not_false, Bool.and_true,
        Bool.or_false, if_false]
    · by_cases field : k - n < 16
      · have here : n ≤ k ∧ k < n + 16 := by omega
        have word : k - n < 64 := by omega
        simp only [above, below, field, here, word, decide_true, decide_false, Bool.not_true, Bool.not_false, Bool.and_false,
          Bool.true_and, Bool.false_or, and_self, if_true]
      · have outside : ¬ (n ≤ k ∧ k < n + 16) := by omega
        have clear : i.getLsbD (k - n) = false := BitVec.getLsbD_of_ge _ _ (Nat.le_of_not_lt field)
        simp only [above, below, field, outside, clear, decide_true, decide_false, Bool.not_false, Bool.and_false, Bool.and_true,
          Bool.or_false, if_false]
  · have outside : ¬ (n ≤ k ∧ k < n + 16) := by omega
    have beyond : x.getLsbD k = false := BitVec.getLsbD_of_ge _ _ (Nat.le_of_not_lt above)
    simp only [above, outside, decide_false, Bool.false_and, Bool.and_false, Bool.or_false, if_false, beyond]

/-- Settles O4: each member writes its value and retires. -/
theorem immediatesAndConstantsComplete : Obligations.ImmediatesAndConstantsComplete := by
  unfold Obligations.ImmediatesAndConstantsComplete
  intro s d a i n hw
  have inside : 16 * hw.toNat + 16 ≤ 64 := by have := hw.isLt; omega
  rw [← add_signExtend, ← halfword_eq]
  exact ⟨completes_of_retire rfl, completes_of_retire rfl, completes_of_retire rfl, completes_of_retire rfl, completes_of_retire rfl,
    completes_of_retire rfl, completes_of_retire rfl, completes_of_retire rfl, _, getLsbD_replaceHalfword (sreg s d) i inside,
    completes_of_retire rfl⟩

end Sys2Proof.Immediates

/-! SUPPORT. The scalar float instructions (R117 to R120), for O5: their one shape, MIN and MAX, and the conversion by two codes. -/

namespace Sys2Proof.ScalarFloats

open Sys2Proof.Machine Sys2Proof.Laws

section

variable {s : State} {i : Instr} {f : FFmt} {w : BitVec 2} {g : BitVec 3} {srcs : List (BitVec 5)} {e : FFmt → Eff}

/-- The sources of a scalar float instruction hold a verdict word (R118). -/
def AnyVerdict (f : FFmt) (s : State) (srcs : List (BitVec 5)) : Prop :=
  ∃ r ∈ srcs, f = .f32 ∧ isVerdict ((sreg s r).extractLsb' 0 32) = true

theorem any_verdictSrc_iff : srcs.any (verdictSrc f s) = true ↔ AnyVerdict f s srcs := by
  simp [AnyVerdict, verdictSrc]

/-- In an assigned format an instruction whose sources hold no verdict word has its effect, under a true guard. -/
theorem completes_of_floatInstr {u : State} (runs : exec i s = floatInstr s w g srcs e) (fmt : scalarFmt w = some f)
    (on : preg s g = true) (sound : ¬ AnyVerdict f s srcs) (effect : e f = .ok u) : Completes i s u := by
  refine completes_of_retire (runs.trans ?_)
  simp only [floatInstr, fmt, guarded_true on, if_neg (mt any_verdictSrc_iff.1 sound), effect, inLine_ok]

theorem completes_of_floatInstr_off (runs : exec i s = floatInstr s w g srcs e) (fmt : scalarFmt w = some f) (off : preg s g = false) :
    Completes i s s := by
  refine completes_of_retire (runs.trans ?_)
  simp only [floatInstr, fmt, guarded_false off]

theorem traps_of_floatInstr_verdict (runs : exec i s = floatInstr s w g srcs e) (fmt : scalarFmt w = some f) (on : preg s g = true)
    (verdict : AnyVerdict f s srcs) : Traps i s (Trap.of .verdictOperand) := by
  refine runs.trans ?_
  simp only [floatInstr, fmt, guarded_true on, if_pos (any_verdictSrc_iff.2 verdict), inLine_trap]

end

/-! The smaller and the larger of two values (R119). -/

section

variable (f : FFmt) (x y : Nat)

theorem readSrc_kept : readSrc f false x = (f.val x, { nv := f.snan x }) := rfl

/-- u comes before v, with -0 below +0. -/
def before (u v : Nat) : Bool :=
  decide (cmpV (f.val u) (f.val v) < 0) || (decide (cmpV (f.val u) (f.val v) = 0) && decide (f.signBit ≤ u) && decide (v < f.signBit))

theorem fMinMax_eq (isMax : Bool) :
    fMinMax f isMax false x y =
      (if (f.val x).isNan && (f.val y).isNan then f.nan else if (f.val x).isNan then y else if (f.val y).isNan then x
        else if before f x y then (if isMax then y else x) else (if isMax then x else y), { nv := f.snan x || f.snan y }) := by
  have flags : Fl.join { nv := f.snan x } { nv := f.snan y } = { nv := f.snan x || f.snan y } := rfl
  simp only [fMinMax, readSrc, flags, FFmt.flushSrc, Bool.false_and, Bool.false_eq_true, if_false]
  cases (f.val x).isNan with
  | true => cases (f.val y).isNan <;> rfl
  | false =>
    cases (f.val y).isNan with
    | true => rfl
    | false =>
      show (if before f x y != isMax then x else y, _) = (if before f x y then _ else _, _)
      cases before f x y <;> cases isMax <;> rfl

end

/-! The conversion (R120). -/

section

variable {s : State} {d a sv : BitVec 5} {t : BitVec 4} {g : BitVec 3}

/-- The codes up to 12 name a format. -/
theorem numFmt_assigned {code : Nat} (h : code ≤ 12) : ∃ fmt, numFmt code = some fmt := by
  interval_cases code <;> exact ⟨_, rfl⟩

/-- It is not Q4E. -/
theorem numFmt_ne_q4e {code : Nat} {fmt : NumFmt} (h : code ≤ 12) (named : numFmt code = some fmt) : fmt ≠ .q4e := by
  rintro rfl
  interval_cases code <;> exact absurd named (by decide)

theorem execFcvt_assigned {src dst : NumFmt} (hs : sv.toNat ≤ 12) (ht : t.toNat ≤ 12) (hsrc : numFmt sv.toNat = some src)
    (hdst : numFmt t.toNat = some dst) :
    exec (.fcvt d a sv t g) s =
      guarded s g
        (if decide (sv = 0) && isVerdict ((sreg s a).extractLsb' 0 32) then .trap (Trap.of .verdictOperand)
          else putFloat s d (convert src dst ⟨.rne, vmodeSAT s.core.ctx.vmode, false⟩ (snat s a % 2 ^ src.width))) := by
  show execFcvt d a sv t g s = _
  unfold execFcvt
  rw [hsrc, hdst]
  cases src with
  | q4e => exact absurd rfl (numFmt_ne_q4e hs hsrc)
  | _ =>
    cases dst with
    | q4e => exact absurd rfl (numFmt_ne_q4e ht hdst)
    | _ => rfl

/-- A code above 12 names no format of FCVT. -/
theorem traps_of_fcvt_reserved (reserved : 12 < sv.toNat ∨ 12 < t.toNat) : Traps (.fcvt d a sv t g) s (Trap.of .illegalInstruction) := by
  have above {code : Nat} (h : 12 < code) : numFmt code = some .q4e ∨ numFmt code = none := by
    match code with
    | 13 => exact .inl rfl
    | n + 14 => exact .inr rfl
  show execFcvt d a sv t g s = finish s (.trap (Trap.of .illegalInstruction))
  unfold execFcvt
  rcases reserved with h | h
  · rcases above h with e | e <;> rw [e]
    cases numFmt t.toNat with
    | none => rfl
    | some dst => cases dst <;> rfl
  · cases numFmt sv.toNat with
    | none => rcases above h with e | e <;> rw [e]
    | some src => cases src <;> rcases above h with e | e <;> rw [e]

end

/-- Settles O5: the float members share one shape, `floatInstr`; FCVT goes by its two codes. -/
theorem scalarFloatMembersComplete : Obligations.ScalarFloatMembersComplete := by
  unfold Obligations.ScalarFloatMembersComplete
  intro s d a b g p w c sv t f named x y z verdict put sn below pick un
  have fmt : scalarFmt w = some f := by
    rcases named with ⟨rfl, rfl⟩ | ⟨rfl, rfl⟩ | ⟨rfl, rfl⟩ <;> rfl
  have pair : AnyVerdict f s [a, b] ↔ verdict a ∨ verdict b := by simp [AnyVerdict, verdict]
  have triple : AnyVerdict f s [a, b, d] ↔ verdict a ∨ verdict b ∨ verdict d := by simp [AnyVerdict, verdict]
  refine ⟨fun on va vb => ?_, fun src dst hs ht hsrc hdst on plain => ?_, fun off => ?_, fun on some => ?_, fun on vd => ?_,
    fun on ht va => ?_, rfl, rfl, rfl, rfl, rfl, rfl, rfl, traps_of_fcvt_reserved⟩
  · have sound : ¬ AnyVerdict f s [a, b] := fun h => (pair.1 h).elim va vb
    refine ⟨completes_of_floatInstr rfl fmt on sound rfl, completes_of_floatInstr rfl fmt on sound rfl,
      completes_of_floatInstr rfl fmt on sound rfl, fun vd => ?_, ?_, ?_, ?_⟩
    · exact completes_of_floatInstr rfl fmt on (fun h => (triple.1 h).elim va fun h => h.elim vb vd) rfl
    · refine completes_of_floatInstr rfl fmt on sound (congrArg (putFloat s d) ((fMinMax_eq f x y false).trans ?_))
      simp only [pick, Nat.add_sub_cancel_left]
      rfl
    · refine completes_of_floatInstr rfl fmt on sound (congrArg (putFloat s d) ((fMinMax_eq f x y true).trans ?_))
      simp only [pick, Nat.add_sub_cancel]
      rfl
    · refine ⟨fCompare f c.toNat x y, completes_of_floatInstr rfl fmt on sound rfl, ?_, ?_, ?_, ?_⟩ <;> rintro rfl <;> rfl
  · refine completes_of_retire ((execFcvt_assigned hs ht hsrc hdst).trans ?_)
    rw [guarded_true on, if_neg (by simpa using plain)]
    rfl
  · refine ⟨completes_of_floatInstr_off rfl fmt off, completes_of_floatInstr_off rfl fmt off, completes_of_floatInstr_off rfl fmt off,
      completes_of_floatInstr_off rfl fmt off, completes_of_floatInstr_off rfl fmt off, completes_of_floatInstr_off rfl fmt off,
      completes_of_floatInstr_off rfl fmt off, fun hs ht => ?_⟩
    obtain ⟨src, hsrc⟩ := numFmt_assigned hs
    obtain ⟨dst, hdst⟩ := numFmt_assigned ht
    exact completes_of_retire ((execFcvt_assigned hs ht hsrc hdst).trans (guarded_false off _))
  · have two := pair.2 some
    have three := triple.2 (some.elim .inl fun h => .inr (.inl h))
    exact ⟨traps_of_floatInstr_verdict rfl fmt on two, traps_of_floatInstr_verdict rfl fmt on two,
      traps_of_floatInstr_verdict rfl fmt on two, traps_of_floatInstr_verdict rfl fmt on three,
      traps_of_floatInstr_verdict rfl fmt on two, traps_of_floatInstr_verdict rfl fmt on two,
      traps_of_floatInstr_verdict rfl fmt on two⟩
  · exact traps_of_floatInstr_verdict rfl fmt on (triple.2 (.inr (.inr vd)))
  · obtain ⟨dst, hdst⟩ := numFmt_assigned ht
    refine (execFcvt_assigned (sv := 0) (Nat.zero_le _) ht rfl hdst).trans ?_
    rw [guarded_true on, if_pos (by simpa using va)]
    rfl

end Sys2Proof.ScalarFloats

/-! SUPPORT. Control transfer (R98, R124 to R126), for O13. -/

namespace Sys2Proof.Transfers

open Sys2Proof.Machine Sys2Proof.Laws Sys2Proof.HandlerReturns

section

variable {s u : State} {i : Instr} {a : Word}

/-- An instruction that answers a jump goes to its target; the loops are those of the state that it leaves. -/
theorem completesTo_of_retireJump (runs : exec i s = .next (retireJump u a)) : CompletesTo i s u a u.core.ctx.loops :=
  completesTo_of_tick runs (sequenced_modCtx u _ rfl) rfl

theorem leaveLoops_eq (c : Context) (a : Word) : leaveLoops c a = { c with loops := (leaveLoops c a).loops } := by
  unfold leaveLoops
  split <;> rfl

theorem leaveLoops_sequenced (s : State) (a : Word) : Sequenced s (modCtx s fun c => leaveLoops c a) := by
  refine sequenced_modCtx s _ ?_
  rw [leaveLoops_eq]

/-- An instruction that jumps out of the loops goes to its target and leaves the loops whose bodies do not hold it. -/
theorem completesTo_of_jumpOut (runs : exec i s = .next (jumpOut s a)) : CompletesTo i s s a (leaveLoops s.core.ctx a).loops := by
  obtain ⟨t, ends, moved, pc, lc, loops⟩ := completesTo_of_retireJump runs
  have kept : (leaveLoops s.core.ctx a).lc = s.core.ctx.lc := by rw [leaveLoops_eq]
  exact ⟨t, ends, Sequenced.trans (leaveLoops_sequenced s a) moved, pc, lc.trans kept, loops⟩

/-- A word offset is four times its sign extension (R124, R125). -/
theorem relTarget_eq (s : State) {n : Nat} (o : BitVec n) : relTarget s o = s.core.ctx.pc + 4 * o.signExtend 64 := by
  have shift : ∀ x : Word, x <<< 2 = 4 * x := fun x => by bv_omega
  rw [relTarget, shift]

theorem aligned_iff (t : Word) : t.extractLsb' 0 2 = 0 ↔ t.toNat % 4 = 0 := by
  rw [← BitVec.toNat_inj]
  simp [BitVec.extractLsb'_toNat]

theorem regTarget_aligned {t : Word} (e : State) (h : t.toNat % 4 = 0) : regTarget s t e = .next e :=
  if_pos ((aligned_iff t).2 h)

theorem traps_of_regTarget {t : Word} {e : State} (runs : exec i s = regTarget s t e) (h : t.toNat % 4 ≠ 0) :
    Traps i s (Trap.of .misalignedTarget) :=
  runs.trans (if_neg (mt (aligned_iff t).1 h))

end

/-- A BR jumps where its predicate differs from its n bit. -/
theorem execBr_taken {n : BitVec 1} {p : BitVec 3} (o : BitVec 22) {s : State} (h : preg s p = (n == 0)) :
    execBr n p o s = .next (jumpOut s (relTarget s o)) := by
  unfold execBr
  have differs : ∀ n : BitVec 1, ((n == 0) != (n == 1)) = true := by decide
  rw [h, if_pos (differs n)]

theorem execBr_passed {n : BitVec 1} {p : BitVec 3} (o : BitVec 22) {s : State} (h : preg s p ≠ (n == 0)) :
    execBr n p o s = .next (retire s) := by
  unfold execBr
  have same : ∀ (n : BitVec 1) (b : Bool), b ≠ (n == 0) → ¬ (b != (n == 1)) = true := by decide
  rw [if_neg (same n _ h)]

/-- Settles O13: a transfer is a jump to its target, with the loops it leaves or as they stand. -/
theorem transfersReachTheirTargets : Obligations.TransfersReachTheirTargets := by
  unfold Obligations.TransfersReachTheirTargets
  intro s n p o q a
  simp only [← relTarget_eq]
  refine ⟨fun taken => completesTo_of_jumpOut (execBr_taken o taken), fun passed => completes_of_retire (execBr_passed o passed),
    completesTo_of_jumpOut rfl, ?_, fun aligned => ⟨completesTo_of_jumpOut (regTarget_aligned _ aligned), ?_⟩,
    fun aligned => completesTo_of_retireJump (regTarget_aligned _ aligned),
    fun odd => ⟨traps_of_regTarget rfl odd, traps_of_regTarget rfl odd⟩, traps_of_regTarget rfl⟩
  · exact completesTo_of_retireJump (u := setS s 31 (s.core.ctx.pc + 4)) rfl
  · exact completesTo_of_retireJump (u := setS s 31 (s.core.ctx.pc + 4)) (regTarget_aligned _ aligned)

end Sys2Proof.Transfers

/-! SUPPORT. LDS and STS (R121, R144), for O7: bytes of a word, cells at consecutive addresses, and the guard bank's columns. -/

namespace Sys2Proof.ScratchpadAccesses

open Sys2Proof.Machine Sys2Proof.Laws

/-- An access that spends cycles on its data completes as one that does not (R130). -/
theorem completes_of_inLineData {i : Instr} {s u : State} (runs : exec i s = inLineData s (.ok u)) : Completes i s u :=
  ⟨_, runs, Sequenced.trans (retire_sequenced u) (sequenced_modCtx _ _ rfl), retire_pastWord u⟩

/-! Bytes of a word. -/

theorem leBytes_getD {n i : Nat} (v : Nat) (h : i < n) : (leBytes n v).getD i 0 = BitVec.ofNat 8 (v / 256 ^ i) := by
  induction n generalizing v i with
  | zero => exact absurd h (Nat.not_lt_zero i)
  | succ n ih =>
    cases i with
    | zero => simp [leBytes]
    | succ i =>
      rw [leBytes, List.getD_cons_succ, ih _ (Nat.lt_of_succ_lt_succ h), Nat.div_div_eq_div_mul, ← Nat.pow_succ']

theorem extractByte_eq (x : Word) (i : Nat) : x.extractLsb' (8 * i) 8 = BitVec.ofNat 8 (x.toNat / 256 ^ i) := by
  have power : 2 ^ (8 * i) = 256 ^ i := by rw [Nat.pow_mul]
  rw [BitVec.extractLsb', Nat.shiftRight_eq_div_pow, power]

/-- Cells at consecutive addresses: the one at an address, looked for from the last written. -/
theorem find_cells (addr n x : Nat) (f : Nat → Byte) :
    ((((List.range n).map fun i => (addr + i, f i)).reverse.find? fun c => c.1 = x).map Prod.snd) =
      if addr ≤ x ∧ x < addr + n then some (f (x - addr)) else none := by
  induction n with
  | zero => rw [if_neg (by omega)]; rfl
  | succ n ih =>
    rw [List.range_succ, List.map_append, List.reverse_append, List.map_singleton, List.reverse_singleton, List.singleton_append,
      List.find?_cons]
    by_cases last : addr + n = x
    · rw [if_pos (by omega)]
      simp [← last]
    · simp only [last, decide_false]
      rw [ih]
      exact if_congr (by omega) rfl rfl

/-! The guard bank (R144). -/

section

variable {b : BitVec 2} {cells : List Host.Cell} {m : Memory} {x : Nat}

theorem memRead_guardedWrites_other (off : ∀ c ∈ cells, x ≠ c.1 ∧ x ≠ guardOff b c.1) :
    memRead (cells.foldl (guardedWrite b) m) x = memRead m x := by
  induction cells generalizing m with
  | nil => rfl
  | cons c cells ih =>
    obtain ⟨cell, guard⟩ := off c List.mem_cons_self
    rw [List.foldl_cons, ih fun d h => off d (List.mem_cons_of_mem _ h), guardedWrite, memRead_write_other _ _ _ _ guard,
      memRead_write_other _ _ _ _ cell]

/-- Cells below the guard bank and in columns of their own: each guard byte follows its one cell. -/
theorem memRead_guardedWrites_guard (below : ∀ c ∈ cells, c.1 < 0x8000 * (bufBanks b - 1))
    (columns : cells.Pairwise fun c d => guardOff b c.1 ≠ guardOff b d.1) {c : Host.Cell} (listed : c ∈ cells) :
    memRead (cells.foldl (guardedWrite b) m) (guardOff b c.1) = memRead m (guardOff b c.1) ^^^ memRead m c.1 ^^^ c.2 := by
  have above (d e : Host.Cell) (h : d.1 < 0x8000 * (bufBanks b - 1)) : guardOff b e.1 ≠ d.1 := by unfold guardOff; omega
  induction cells generalizing m with
  | nil => exact absurd listed List.not_mem_nil
  | cons d cells ih =>
    obtain ⟨apart, columns⟩ := List.pairwise_cons.1 columns
    have tail : ∀ e ∈ cells, e.1 < 0x8000 * (bufBanks b - 1) := fun e h => below e (List.mem_cons_of_mem _ h)
    rw [List.foldl_cons]
    rcases List.mem_cons.1 listed with rfl | later
    · rw [memRead_guardedWrites_other fun e h => ⟨above e c (tail e h), apart e h⟩, guardedWrite, memRead_write_same]
    · have column : guardOff b c.1 ≠ guardOff b d.1 := (apart c later).symm
      have cell : c.1 ≠ d.1 := fun e => column (congrArg _ e)
      rw [ih tail columns later, guardedWrite, memRead_write_other _ _ _ _ column,
        memRead_write_other _ _ _ _ (above d c (below d List.mem_cons_self)), memRead_write_other _ _ _ _ (above c d (tail c later)).symm,
        memRead_write_other _ _ _ _ cell]

end

/-! A write of scratchpad bytes. -/

/-- In guard mode a buffer ends below its guard bank. -/
theorem bufSize_of_guardMode {k : Core} {b : BitVec 2} (mode : k.guardMode = true) : bufSize k b = 0x8000 * (bufBanks b - 1) := by
  rw [bufSize, mode, if_pos rfl]

section

variable (k : Core) (b : BitVec 2) (cells : List Host.Cell)

/-- Buffers of different codes share no byte. -/
theorem spByte_spPut_buffer {q : BitVec 2} (x : Nat) (named : b ≠ 3) (namedq : q ≠ 3) (other : q ≠ b) :
    spByte (spPut k b cells) q x = spByte k q x := by
  refine spByte_spPut_other k b q cells x ?_
  revert b q
  decide

/-- A write changes a core's buffers and the marks of its errors only. -/
theorem spPut_eq :
    spPut k b cells = { k with
      w := (spPut k b cells).w, a := (spPut k b cells).a, c := (spPut k b cells).c, bad := (spPut k b cells).bad,
      soft := (spPut k b cells).soft } := by
  have buffers (m : Memory) : setBufMem k b m = { k with w := (setBufMem k b m).w, a := (setBufMem k b m).a, c := (setBufMem k b m).c } := by
    unfold setBufMem
    split
    · rfl
    · split <;> rfl
  unfold spPut
  rw [buffers]
  dsimp only
  split <;> rfl

end

/-! The checks that LDS and STS share (R121). -/

section

variable {s : State} {a : BitVec 5} {b : BitVec 2} {o : BitVec 14}

theorem spAccess_misaligned (store : Bool) (named : b ≠ 3) (h : (snat s a + 8 * o.toNat) % 8 ≠ 0) :
    spAccess s a b o store = .error (some (Trap.at .misalignedAccess (spAddr b (snat s a + 8 * o.toNat)))) := by
  unfold spAccess
  rw [if_neg named, if_pos h]

theorem spAccess_beyond (store : Bool) (named : b ≠ 3) (aligned : (snat s a + 8 * o.toNat) % 8 = 0)
    (h : bufSize s.core b < snat s a + 8 * o.toNat + 8) :
    spAccess s a b o store = .error (some (Trap.at .scratchpadRange (spAddr b (snat s a + 8 * o.toNat)))) := by
  unfold spAccess
  rw [if_neg named, if_neg (not_not.2 aligned), if_pos h]

/-- Within its buffer an access waits where an earlier one is in its way. -/
theorem spAccess_within (store : Bool) (named : b ≠ 3) (aligned : (snat s a + 8 * o.toNat) % 8 = 0)
    (within : snat s a + 8 * o.toNat + 8 ≤ bufSize s.core b) :
    spAccess s a b o store =
      let here := [Range.of b (snat s a + 8 * o.toNat) 8]
      if mustWait s.core (if store then [] else here) (if store then here else []) then .error none
      else .ok (snat s a + 8 * o.toNat) := by
  unfold spAccess
  rw [if_neg named, if_neg (not_not.2 aligned), if_neg (Nat.not_lt.2 within)]

/-- What STS writes: the eight bytes of a register from an offset up. -/
def wordCells (addr : Nat) (v : Word) : List Host.Cell := (List.range 8).map fun i => (addr + i, (leBytes 8 v.toNat).getD i 0)

/-- An access that does not go on: it traps, or waits. -/
def heldEff : Option Trap → Eff
  | some t => .trap t
  | none => .stall

theorem execLds_of_spAccess_error {d : BitVec 5} {e : Option Trap} (h : spAccess s a b o false = .error e) :
    execLds d a b o s = finish s (heldEff e) := by
  unfold execLds
  rw [h]
  cases e <;> rfl

theorem execSts_of_spAccess_error {d : BitVec 5} {e : Option Trap} (h : spAccess s a b o true = .error e) :
    execSts d a b o s = finish s (heldEff e) := by
  unfold execSts
  rw [h]
  cases e <;> rfl

theorem execLds_of_spAccess_ok {d : BitVec 5} {addr : Nat} (h : spAccess s a b o false = .ok addr)
    (sound : badWord s.core b (addr / 8) = false) :
    execLds d a b o s = inLineData s
      (.ok (setS (correctWords s s.core.die s.core.num fun w => w.1 == b && decide (w.2 = addr / 8)) d
        (BitVec.ofNat 64 (leNat ((List.range 8).map fun i => spByte s.core b (addr + i)))))) := by
  unfold execLds
  rw [h]
  simp only [sound, Bool.false_eq_true, if_false]

theorem execSts_of_spAccess_ok {d : BitVec 5} {addr : Nat} (h : spAccess s a b o true = .ok addr) :
    execSts d a b o s = inLine s (.ok (modCore s fun k => spPut k b (wordCells addr (sreg s d)))) := by
  unfold execSts
  rw [h]
  rfl

end

section

variable (k : Core) {b : BitVec 2} {addr : Nat} (v : Word)

theorem spByte_wordCells {x : Nat} (reached : Reached k b x) :
    spByte (spPut k b (wordCells addr v)) b x = if addr ≤ x ∧ x < addr + 8 then v.extractLsb' (8 * (x - addr)) 8 else spByte k b x := by
  rw [spByte_spPut k b _ x reached, wordCells, find_cells]
  split
  · next inside => rw [extractByte_eq, Option.getD_some, leBytes_getD _ (by omega)]
  · rfl

/-- In guard mode the guard bytes of an aligned word's columns take the XOR of what changed. -/
theorem spByte_wordCells_guard (mode : k.guardMode = true) (aligned : addr % 8 = 0) (within : addr + 8 ≤ bufSize k b) {i : Nat}
    (hi : i < 8) :
    spByte (spPut k b (wordCells addr v)) b (guardOff b (addr + i)) =
      spByte k b (guardOff b (addr + i)) ^^^ spByte k b (addr + i) ^^^ v.extractLsb' (8 * i) 8 := by
  rw [bufSize_of_guardMode mode] at within
  have below : ∀ c ∈ wordCells addr v, c.1 < 0x8000 * (bufBanks b - 1) := by
    simp only [wordCells, List.mem_map, List.mem_range]
    rintro c ⟨j, hj, rfl⟩
    omega
  have columns : (wordCells addr v).Pairwise fun c d => guardOff b c.1 ≠ guardOff b d.1 := by
    rw [wordCells, List.pairwise_map]
    refine List.Pairwise.imp_of_mem ?_ (List.pairwise_lt_range (n := 8))
    intro i j hi hj less
    simp only [List.mem_range] at hi hj
    unfold guardOff
    omega
  have listed : (addr + i, v.extractLsb' (8 * i) 8) ∈ wordCells addr v := by
    rw [extractByte_eq, ← leBytes_getD _ hi]
    exact List.mem_map.2 ⟨i, List.mem_range.2 hi, rfl⟩
  have written := memRead_guardedWrites_guard (m := bufMem k b) below columns listed
  unfold spByte
  rw [bufMem_spPut, spByte_setBufMem_same, bufCells, if_pos mode]
  exact written

end

/-- Settles O7: the two share their checks; what STS writes is eight cells, read back by address and by column. -/
theorem scratchpadAccessesComplete : Obligations.ScratchpadAccessesComplete := by
  unfold Obligations.ScratchpadAccessesComplete
  intro s d a b o addr here
  refine ⟨fun named aligned within => ?_, fun named odd => ?_, fun named aligned beyond => ?_⟩
  · have lds := spAccess_within false named aligned within
    have sts := spAccess_within true named aligned within
    refine ⟨fun waits => waits_of_stall ?_, fun waits => waits_of_stall ?_, fun free sound => ?_, fun free => ?_⟩
    · exact execSts_of_spAccess_error (sts.trans (if_pos waits))
    · exact execLds_of_spAccess_error (lds.trans (if_pos waits))
    · exact completes_of_inLineData (execLds_of_spAccess_ok (lds.trans (if_neg (Bool.eq_false_iff.1 free))) sound)
    · refine ⟨_, completes_of_retire (execSts_of_spAccess_ok (sts.trans (if_neg (Bool.eq_false_iff.1 free)))), fun i hi => ?_,
        fun q x namedq apart => ?_, fun mode i hi => spByte_wordCells_guard s.core (sreg s d) mode aligned within hi, ?_⟩
      · have reached : Reached s.core b (addr + i) := by
          intro mode
          rw [bufSize_of_guardMode mode] at within
          omega
        have written := spByte_wordCells (addr := addr) s.core (sreg s d) reached
        rwa [if_pos ⟨by omega, by omega⟩, Nat.add_sub_cancel_left] at written
      · by_cases same : q = b
        · subst same
          obtain ⟨outside, below⟩ := apart.resolve_left (not_not.2 rfl)
          exact (spByte_wordCells (addr := addr) s.core (sreg s d) below).trans (if_neg (by omega))
        · exact spByte_spPut_buffer s.core b _ x named namedq same
      · exact congrArg (fun k => { s with core := k }) (spPut_eq s.core b _)
  · exact ⟨execLds_of_spAccess_error (spAccess_misaligned false named odd), execSts_of_spAccess_error (spAccess_misaligned true named odd)⟩
  · exact ⟨execLds_of_spAccess_error (spAccess_beyond false named aligned beyond),
      execSts_of_spAccess_error (spAccess_beyond true named aligned beyond)⟩

end Sys2Proof.ScratchpadAccesses

/-! SUPPORT. LDG and STG (R122, R223, R224), for O8: the checks in their order, and what follows each of their answers. -/

namespace Sys2Proof.GlobalAccesses

open Sys2Proof.Machine Sys2Proof.Laws Sys2Proof.IssueWords Sys2Proof.ScratchpadAccesses

/-! The checks of LDG and STG, in R122's order. -/

section

variable {s : State} {h : BitVec 4} {n : BitVec 3} {o : BitVec 12} {size : Nat} {store : Bool}

/-- The right that an access needs: the write right of a store, the read right of a load. -/
def rightOf (H : Handle) (store : Bool) : Bool := if store then H.w else H.r

theorem pageChecks_denied {H : Handle} {off : Nat} (within : off + size ≤ H.pageSize) (denied : rightOf H store = false) :
    pageChecks H off size (!store) store = some (Trap.at .permission (H.vbase + off)) := by
  unfold pageChecks
  rw [if_neg (Nat.not_lt.2 within), if_pos]
  cases store with
  | true => simpa [rightOf] using denied
  | false => simpa [rightOf] using denied

theorem pageChecks_passed {H : Handle} {off : Nat} (within : off + size ≤ H.pageSize) (right : rightOf H store = true) :
    pageChecks H off size (!store) store = none := by
  unfold pageChecks
  rw [if_neg (Nat.not_lt.2 within), if_neg]
  cases store with
  | true => simpa [rightOf] using right
  | false => simpa [rightOf] using right

theorem pageAccess_misaligned (odd : pageOff s n o size % size ≠ 0) :
    pageAccess s h n o size store =
      .trap (Trap.at .misalignedAccess (if (hreg s h).valid then (hreg s h).vbase + pageOff s n o size else pageOff s n o size)) :=
  if_pos odd

theorem pageAccess_invalid (aligned : pageOff s n o size % size = 0) (invalid : (hreg s h).valid = false) :
    pageAccess s h n o size store = .flagged := by
  simp [pageAccess, aligned, invalid]

theorem pageAccess_beyond (aligned : pageOff s n o size % size = 0) (valid : (hreg s h).valid = true)
    (beyond : (hreg s h).pageSize < pageOff s n o size + size) :
    pageAccess s h n o size store = .trap (Trap.at .handleRange ((hreg s h).vbase + pageOff s n o size)) := by
  simp [pageAccess, aligned, valid, pageChecks, beyond]

theorem pageAccess_denied (aligned : pageOff s n o size % size = 0) (valid : (hreg s h).valid = true)
    (within : pageOff s n o size + size ≤ (hreg s h).pageSize) (denied : rightOf (hreg s h) store = false) :
    pageAccess s h n o size store = .trap (Trap.at .permission ((hreg s h).vbase + pageOff s n o size)) := by
  simp [pageAccess, aligned, valid, pageChecks_denied within denied]

/-- With the right, residency and the path decide. -/
theorem pageAccess_allowed (aligned : pageOff s n o size % size = 0) (valid : (hreg s h).valid = true)
    (within : pageOff s n o size + size ≤ (hreg s h).pageSize) (right : rightOf (hreg s h) store = true) :
    pageAccess s h n o size store =
      if (hreg s h).res && pathUp s ((hreg s h).base + pageOff s n o size) then .go (pageOff s n o size) else .flagged := by
  simp [pageAccess, aligned, valid, pageChecks_passed within right]

end

/-! What LDG and STG do with what they find. -/

section

variable {s : State} {d : BitVec 5} {h : BitVec 4} {z : BitVec 2} {n : BitVec 3} {o : BitVec 12} {off : Nat}

theorem execLdg_trap {t : Trap} (hint : hintOk n o = true) (found : pageAccess s h n o (2 ^ z.toNat) false = .trap t) :
    execLdg d h z n o s = .next (takeTrap s t) := by
  simp [execLdg, hint, found, finish]

theorem execStg_trap {t : Trap} (hint : hintOk n o = true) (found : pageAccess s h n o (2 ^ z.toNat) true = .trap t) :
    execStg d h z n o s = .next (takeTrap s t) := by
  simp [execStg, hint, found, finish]

theorem ldg_flagged (hint : hintOk n o = true) (found : pageAccess s h n o (2 ^ z.toNat) false = .flagged) :
    Completes (.ldg d h z n o) s (setP (setS s d 0) 7 true) := by
  refine completes_of_counted (n := 6) (x := 1) ?_
  show execLdg d h z n o s = _
  simp only [execLdg, hint, found, Bool.true_eq_false, if_false, inLine_ok, flagged]

theorem stg_flagged (hint : hintOk n o = true) (found : pageAccess s h n o (2 ^ z.toNat) true = .flagged) :
    Completes (.stg d h z n o) s (setP s 7 true) := by
  refine completes_of_counted (n := 6) (x := 1) ?_
  show execStg d h z n o s = _
  simp only [execStg, hint, found, Bool.true_eq_false, if_false, inLine_ok, flagged]

/-- The load as it enters the load queue. -/
def queuedLoad (s : State) (d : BitVec 5) (H : Handle) (off size : Nat) : State :=
  enqueueAccess (setP s 7 false) (.load d (H.vbase + off) (H.base + off) size)

/-- The register and p7 as a load leaves them that takes its bytes. -/
def loaded (s : State) (d : BitVec 5) (bytes : List Byte) : State := setP (setS s d (BitVec.ofNat 64 (leNat bytes))) 7 false

theorem execLdg_wait (hint : hintOk n o = true) (found : pageAccess s h n o (2 ^ z.toNat) false = .go off)
    (finds : loadBytes s ((hreg s h).vbase + off) ((hreg s h).base + off) (2 ^ z.toNat) = .wait) :
    execLdg d h z n o s =
      if (badByte s ((hreg s h).base + off) (2 ^ z.toNat)).isSome then finish s .stall
      else inLine s (.ok (queuedLoad s d (hreg s h) off (2 ^ z.toNat))) := by
  simp only [execLdg, hint, found, finds, Bool.true_eq_false, if_false]
  rfl

theorem execLdg_forwarded {bytes : List Byte} (hint : hintOk n o = true) (found : pageAccess s h n o (2 ^ z.toNat) false = .go off)
    (finds : loadBytes s ((hreg s h).vbase + off) ((hreg s h).base + off) (2 ^ z.toNat) = .forwarded bytes) :
    execLdg d h z n o s = inLine s
      (.ok (if s.later && !(badByte s ((hreg s h).base + off) (2 ^ z.toNat)).isSome then queuedLoad s d (hreg s h) off (2 ^ z.toNat)
        else loaded s d bytes)) := by
  simp only [execLdg, hint, found, finds, Bool.true_eq_false, if_false]
  rfl

theorem execLdg_read {bytes : List Byte} (hint : hintOk n o = true) (found : pageAccess s h n o (2 ^ z.toNat) false = .go off)
    (finds : loadBytes s ((hreg s h).vbase + off) ((hreg s h).base + off) (2 ^ z.toNat) = .read bytes) :
    execLdg d h z n o s =
      if (badByte s ((hreg s h).base + off) (2 ^ z.toNat)).isSome then
        finish s (.trap (Trap.at .storageError ((hreg s h).vbase + off)))
      else if s.later then inLine s (.ok (queuedLoad s d (hreg s h) off (2 ^ z.toNat)))
      else inLineData s (.ok (touchLine (loaded s d bytes) (hreg s h) off)) := by
  simp only [execLdg, hint, found, finds, Bool.true_eq_false, if_false]
  rfl

/-- STG's cells: the low bytes of its register at consecutive addresses. -/
theorem cellsFrom_leBytes (pa size : Nat) (v : Word) :
    cellsFrom pa (leBytes size v.toNat) = (List.range size).map fun i => (pa + i, v.extractLsb' (8 * i) 8) := by
  unfold cellsFrom
  rw [leBytes_length]
  refine List.map_congr_left fun i listed => ?_
  rw [extractByte_eq, leBytes_getD _ (List.mem_range.1 listed)]

theorem execStg_go (hint : hintOk n o = true) (found : pageAccess s h n o (2 ^ z.toNat) true = .go off) :
    execStg d h z n o s = inLine s
      (if inWindowRecord s ((hreg s h).base + off) (2 ^ z.toNat) then .trap (Trap.at .permission ((hreg s h).vbase + off))
        else .ok (enqueueAccess (setP s 7 false)
          (.write ((List.range (2 ^ z.toNat)).map fun i => (canonPa s ((hreg s h).base + off) + i, (sreg s d).extractLsb' (8 * i) 8))
            [((hreg s h).vbase + off, (hreg s h).base + off)]))) := by
  simp only [execStg, hint, found, Bool.true_eq_false, if_false, windowChecks, cellsFrom_leBytes]
  cases inWindowRecord s ((hreg s h).base + off) (2 ^ z.toNat) <;> rfl

end

/-- With nothing queued and no RED outstanding, a load takes what its die reads. -/
theorem loadBytes_idle {s : State} (queue : s.core.ctx.accessQ = []) (reds : s.reds = []) (va pa n : Nat) :
    loadBytes s va pa n = .read (rdBytes s s.core.die pa n) := by
  simp [loadBytes, loadFinds, queue, reds, loadsHeld, redPending, redHolds, queuedCells, rdBytes]

/-- Settles O8: the checks give a trap, the flag or an address, and each outcome of LDG and STG follows. -/
theorem globalLoadsAndStoresComplete : Obligations.GlobalLoadsAndStoresComplete := by
  unfold Obligations.GlobalLoadsAndStoresComplete
  intro s d h z n o H size off va pa enter hint
  refine ⟨fun aligned valid within right res path => ?_, fun aligned valid within right res path => ?_, fun aligned invalid => ?_,
    fun aligned valid within away => ?_, fun aligned valid beyond => ?_, fun aligned valid within => ?_, fun odd valid => ?_,
    fun odd invalid => ?_, fun queue reds => loadBytes_idle queue reds va pa size⟩
  · have found : pageAccess s h n o size false = .go off :=
      (pageAccess_allowed (store := false) aligned valid within right).trans (if_pos (by rw [Bool.and_eq_true]; exact ⟨res, path⟩))
    have failing {x : Option Nat} (bad : x ≠ none) : x.isSome = true := Option.isSome_iff_ne_none.2 bad
    refine ⟨fun bytes now finds sound => ?_, fun bytes taken finds => ?_, fun finds bad => ?_, fun queued sound => ?_, fun finds bad => ?_⟩
    · refine completes_of_inLineData ((execLdg_read hint found finds).trans ?_)
      rw [sound, now]
      rfl
    · refine completes_of_retire ((execLdg_forwarded hint found finds).trans (congrArg (fun u => inLine s (.ok u)) (if_neg ?_)))
      rcases taken with now | bad
      · simp [now]
      · exact fun held => absurd bad (by simpa using ((Bool.and_eq_true _ _).mp held).2)
    · obtain ⟨bytes, finds⟩ := finds
      exact (execLdg_read hint found finds).trans (if_pos (failing bad))
    · refine completes_of_retire (u := queuedLoad s d H off size) ?_
      cases finds : loadBytes s va pa size with
      | wait =>
        refine (execLdg_wait hint found finds).trans ?_
        rw [sound]
        rfl
      | forwarded bytes =>
        refine (execLdg_forwarded hint found finds).trans ?_
        rw [sound, queued.resolve_right (by simp [finds])]
        rfl
      | read bytes =>
        refine (execLdg_read hint found finds).trans ?_
        rw [sound, queued.resolve_right (by simp [finds])]
        rfl
    · exact waits_of_stall ((execLdg_wait hint found finds).trans (if_pos (failing bad)))
  · have found : pageAccess s h n o size true = .go off :=
      (pageAccess_allowed (store := true) aligned valid within right).trans (if_pos (by rw [Bool.and_eq_true]; exact ⟨res, path⟩))
    have runs := execStg_go (d := d) hint found
    exact ⟨fun outside => completes_of_retire (runs.trans (congrArg (inLine s) (if_neg (Bool.eq_false_iff.1 outside)))),
      fun inside => runs.trans (congrArg (inLine s) (if_pos inside))⟩
  · exact ⟨ldg_flagged hint (pageAccess_invalid aligned invalid), stg_flagged hint (pageAccess_invalid aligned invalid)⟩
  · have lost : ¬ (H.res && pathUp s pa) = true := by
      rcases away with away | away <;> simp [away]
    exact ⟨fun right => ldg_flagged hint ((pageAccess_allowed (store := false) aligned valid within right).trans (if_neg lost)),
      fun right => stg_flagged hint ((pageAccess_allowed (store := true) aligned valid within right).trans (if_neg lost))⟩
  · exact ⟨execLdg_trap hint (pageAccess_beyond aligned valid beyond), execStg_trap hint (pageAccess_beyond aligned valid beyond)⟩
  · exact ⟨fun denied => execLdg_trap hint (pageAccess_denied aligned valid within denied),
      fun denied => execStg_trap hint (pageAccess_denied aligned valid within denied)⟩
  · have found (store : Bool) : pageAccess s h n o size store = .trap (Trap.at .misalignedAccess va) :=
      (pageAccess_misaligned odd).trans (congrArg (fun x => PageAccess.trap (Trap.at .misalignedAccess x)) (if_pos valid))
    exact ⟨execLdg_trap hint (found false), execStg_trap hint (found true)⟩
  · have found (store : Bool) : pageAccess s h n o size store = .trap (Trap.at .misalignedAccess off) :=
      (pageAccess_misaligned odd).trans (congrArg (fun x => PageAccess.trap (Trap.at .misalignedAccess x)) (if_neg (Bool.eq_false_iff.1 invalid)))
    exact ⟨execLdg_trap hint (found false), execStg_trap hint (found true)⟩

end Sys2Proof.GlobalAccesses

/-! SUPPORT. The canonical form of the memories, function by function in the order of the model: `f_canonical` says that `f`
takes canonical states to canonical results. -/

namespace Sys2Proof.Canonical

open Sys2Proof.Machine Sys2Proof.Laws

/-- A core whose three buffers are canonical. -/
def CoreCanonical (k : Core) : Prop := k.w.wf = true ∧ k.a.wf = true ∧ k.c.wf = true

/-- A reeve whose data memory is canonical. -/
def ReeveCanonical (r : Reeve) : Prop := r.data.wf = true

/-- `MemoryCanonical` with the core that moves apart from the others. -/
def StateCanonical (s : State) : Prop :=
  s.mem.wf = true ∧ CoreCanonical s.core ∧ (∀ k ∈ s.others, CoreCanonical k) ∧ ∀ r ∈ s.reeves, ReeveCanonical r

/-- An effect that leaves a canonical state. -/
inductive EffCanonical : Eff → Prop
  | ok {t : State} (ht : StateCanonical t) : EffCanonical (.ok t)
  | trap {x : Trap} : EffCanonical (.trap x)
  | stall : EffCanonical .stall

/-- An outcome whose next state is canonical. -/
inductive OutCanonical : Out → Prop
  | next {t : State} (ht : StateCanonical t) : OutCanonical (.next t)
  | fault {f : Fault} : OutCanonical (.fault f)
  | refused {r : Refusal} : OutCanonical (.refused r)

/-- An optional result, canonical where there is one. -/
inductive OptionCanonical {α : Type} (P : α → Prop) : Option α → Prop
  | some {a : α} (ha : P a) : OptionCanonical P (Option.some a)
  | none : OptionCanonical P Option.none

/-- A result or an error, canonical where it is a result. -/
inductive ExceptCanonical {ε α : Type} (P : α → Prop) : Except ε α → Prop
  | ok {a : α} (ha : P a) : ExceptCanonical P (.ok a)
  | error {x : ε} : ExceptCanonical P (.error x)

/-- What a pin of a slot comes to, with a canonical state. -/
inductive PinCanonical : Pin → Prop
  | done {t : State} {v : Nat} (ht : StateCanonical t) : PinCanonical (.done t v)
  | wait {t : State} (ht : StateCanonical t) : PinCanonical (.wait t)

/-- What an operation on a stream's entry comes to, with a canonical state. -/
inductive AtHomeCanonical : AtHome → Prop
  | done {t : State} {v : Word} (ht : StateCanonical t) : AtHomeCanonical (.done t v)
  | trap {x : Trap} : AtHomeCanonical (.trap x)
  | wait {t : State} {begun : Bool} (ht : StateCanonical t) : AtHomeCanonical (.wait t begun)

/-- What a piece of a command comes to, with a canonical state. -/
inductive PieceCanonical : Piece → Prop
  | wait {t : State} (ht : StateCanonical t) : PieceCanonical (.wait t)
  | did {t : State} {n under : Nat} {fault : Option (Cause × Nat)} (ht : StateCanonical t) : PieceCanonical (.did t n under fault)

/-- What an input finds at a page of its source, with a canonical state. -/
inductive InputPageCanonical : InputPage → Prop
  | fault {t : State} {c : Cause} (ht : StateCanonical t) : InputPageCanonical (.fault t c)
  | wait {t : State} (ht : StateCanonical t) : InputPageCanonical (.wait t)
  | at {pa : Nat} : InputPageCanonical (.at pa)

/-- What a fetch comes to, with a canonical state. -/
inductive FetchedCanonical : Fetched → Prop
  | word {t : State} {w : BitVec 32} (ht : StateCanonical t) : FetchedCanonical (.word t w)
  | wait {t : State} (ht : StateCanonical t) : FetchedCanonical (.wait t)
  | trap {t : State} {x : Trap} (ht : StateCanonical t) : FetchedCanonical (.trap t x)

/-- A wait that completes with a canonical effect or parks a context of a canonical state. -/
inductive WaitCanonical : Except Eff State → Prop
  | ok {t : State} (ht : StateCanonical t) : WaitCanonical (.ok t)
  | error {x : Eff} (hx : EffCanonical x) : WaitCanonical (.error x)

/-- The progress of a scoring, in a canonical state. -/
abbrev ScoringCanonical (x : Scoring) : Prop := StateCanonical x.s

/-- What an instruction of a reeve makes of the machine and of the reeve. -/
abbrev ReeveEffCanonical (x : ReeveEff) : Prop := StateCanonical x.s ∧ ∀ r, ReeveCanonical r → ReeveCanonical (x.upd r)

/-- A state that comes with something else, canonical. A goal of this form keeps the pair whole. -/
def FstCanonical {α : Type} (x : State × α) : Prop := StateCanonical x.1

section

variable {s t : State} {k : Core} {e : Eff} {o : Out}

theorem stateCanonical_iff : StateCanonical s ↔ MemoryCanonical s := by
  simp only [StateCanonical, MemoryCanonical, allCores, List.forall_mem_cons, and_assoc, CoreCanonical, ReeveCanonical]

theorem mem_canonical (hs : StateCanonical s) : s.mem.wf = true := hs.1

theorem core_canonical (hs : StateCanonical s) : CoreCanonical s.core := hs.2.1

theorem others_canonical (hs : StateCanonical s) : ∀ k ∈ s.others, CoreCanonical k := hs.2.2.1

theorem reeves_canonical (hs : StateCanonical s) : ∀ r ∈ s.reeves, ReeveCanonical r := hs.2.2.2

/-- A change of anything but the memories. -/
theorem StateCanonical.frame (hs : StateCanonical s)
    (h : (t.mem, t.core.w, t.core.a, t.core.c, t.others, t.reeves) = (s.mem, s.core.w, s.core.a, s.core.c, s.others, s.reeves)) :
    StateCanonical t := by
  obtain ⟨mem, w, a, c, others, reeves⟩ : t.mem = s.mem ∧ t.core.w = s.core.w ∧ t.core.a = s.core.a ∧ t.core.c = s.core.c ∧
      t.others = s.others ∧ t.reeves = s.reeves := by simpa only [Prod.mk.injEq] using h
  simpa only [StateCanonical, CoreCanonical, mem, w, a, c, others, reeves] using hs

/-- A change of anything but the buffers. -/
theorem CoreCanonical.frame {k' : Core} (hk : CoreCanonical k) (h : (k'.w, k'.a, k'.c) = (k.w, k.a, k.c)) : CoreCanonical k' := by
  obtain ⟨w, a, c⟩ : k'.w = k.w ∧ k'.a = k.a ∧ k'.c = k.c := by simpa only [Prod.mk.injEq] using h
  simpa only [CoreCanonical, w, a, c] using hk

/-- A change of anything but the data memory. -/
theorem ReeveCanonical.frame {r r' : Reeve} (hr : ReeveCanonical r) (data : r'.data = r.data) : ReeveCanonical r' := by
  simpa only [ReeveCanonical, data] using hr

/-- A state with another main memory. -/
theorem canonical_setMem {m : Memory} (hs : StateCanonical s) (hm : m.wf = true) : StateCanonical { s with mem := m } :=
  ⟨hm, hs.2⟩

/-- A state with another core that moves. -/
theorem canonical_setCore (hs : StateCanonical s) (hk : CoreCanonical k) : StateCanonical { s with core := k } :=
  ⟨hs.1, hk, hs.2.2⟩

theorem canonical_setOthers {l : List Core} (hs : StateCanonical s) (hl : ∀ k ∈ l, CoreCanonical k) :
    StateCanonical { s with others := l } :=
  ⟨hs.1, hs.2.1, hl, hs.2.2.2⟩

theorem canonical_setReeves {l : List Reeve} (hs : StateCanonical s) (hl : ∀ r ∈ l, ReeveCanonical r) :
    StateCanonical { s with reeves := l } :=
  ⟨hs.1, hs.2.1, hs.2.2.1, hl⟩

theorem canonical_fst {α : Type} {p : State × α} {a : α} (hp : StateCanonical p.1) (h : p = (t, a)) : StateCanonical t := by
  subst h
  exact hp

theorem canonical_fstCore {α : Type} {p : Core × α} {a : α} (hp : CoreCanonical p.1) (h : p = (k, a)) : CoreCanonical k := by
  subst h
  exact hp

theorem EffCanonical.of_ok {x : Eff} (hx : EffCanonical x) (h : x = .ok t) : StateCanonical t := by
  subst h
  cases hx with
  | ok ht => exact ht

theorem OutCanonical.of_next {x : Out} (hx : OutCanonical x) (h : x = .next t) : StateCanonical t := by
  subst h
  cases hx with
  | next ht => exact ht

theorem PinCanonical.of_done {v : Nat} {x : Pin} (hx : PinCanonical x) (h : x = .done t v) : StateCanonical t := by
  subst h
  cases hx with
  | done ht => exact ht

theorem PinCanonical.of_wait {x : Pin} (hx : PinCanonical x) (h : x = .wait t) : StateCanonical t := by
  subst h
  cases hx with
  | wait ht => exact ht

theorem AtHomeCanonical.of_done {v : Word} {x : AtHome} (hx : AtHomeCanonical x) (h : x = .done t v) : StateCanonical t := by
  subst h
  cases hx with
  | done ht => exact ht

theorem AtHomeCanonical.of_wait {b : Bool} {x : AtHome} (hx : AtHomeCanonical x) (h : x = .wait t b) : StateCanonical t := by
  subst h
  cases hx with
  | wait ht => exact ht

theorem PieceCanonical.of_wait {x : Piece} (hx : PieceCanonical x) (h : x = .wait t) : StateCanonical t := by
  subst h
  cases hx with
  | wait ht => exact ht

theorem PieceCanonical.of_did {n under : Nat} {f : Option (Cause × Nat)} {x : Piece} (hx : PieceCanonical x)
    (h : x = .did t n under f) : StateCanonical t := by
  subst h
  cases hx with
  | did ht => exact ht

theorem InputPageCanonical.of_fault {c : Cause} {x : InputPage} (hx : InputPageCanonical x) (h : x = .fault t c) : StateCanonical t := by
  subst h
  cases hx with
  | fault ht => exact ht

theorem InputPageCanonical.of_wait {x : InputPage} (hx : InputPageCanonical x) (h : x = .wait t) : StateCanonical t := by
  subst h
  cases hx with
  | wait ht => exact ht

theorem FetchedCanonical.of_word {w : BitVec 32} {x : Fetched} (hx : FetchedCanonical x) (h : x = .word t w) : StateCanonical t := by
  subst h
  cases hx with
  | word ht => exact ht

theorem FetchedCanonical.of_wait {x : Fetched} (hx : FetchedCanonical x) (h : x = .wait t) : StateCanonical t := by
  subst h
  cases hx with
  | wait ht => exact ht

theorem FetchedCanonical.of_trap {y : Trap} {x : Fetched} (hx : FetchedCanonical x) (h : x = .trap t y) : StateCanonical t := by
  subst h
  cases hx with
  | trap ht => exact ht

theorem WaitCanonical.of_ok {x : Except Eff State} (hx : WaitCanonical x) (h : x = .ok t) : StateCanonical t := by
  subst h
  cases hx with
  | ok ht => exact ht

theorem OptionCanonical.of_some {α : Type} {P : α → Prop} {x : Option α} {a : α} (hx : OptionCanonical P x)
    (h : x = Option.some a) : P a := by
  subst h
  cases hx with
  | some ha => exact ha

theorem ExceptCanonical.of_ok {ε α : Type} {P : α → Prop} {x : Except ε α} {a : α} (hx : ExceptCanonical P x)
    (h : x = .ok a) : P a := by
  subst h
  cases hx with
  | ok ha => exact ha

/-! Control. -/

section

variable {c : Prop} [Decidable c]

theorem canonical_ite {a b : State} (ha : c → StateCanonical a) (hb : ¬ c → StateCanonical b) :
    StateCanonical (if c then a else b) := by
  split
  · next h => exact ha h
  · next h => exact hb h

theorem canonical_iteCore {a b : Core} (ha : c → CoreCanonical a) (hb : ¬ c → CoreCanonical b) :
    CoreCanonical (if c then a else b) := by
  split
  · next h => exact ha h
  · next h => exact hb h

theorem canonical_iteEff {a b : Eff} (ha : c → EffCanonical a) (hb : ¬ c → EffCanonical b) :
    EffCanonical (if c then a else b) := by
  split
  · next h => exact ha h
  · next h => exact hb h

theorem canonical_iteOut {a b : Out} (ha : c → OutCanonical a) (hb : ¬ c → OutCanonical b) :
    OutCanonical (if c then a else b) := by
  split
  · next h => exact ha h
  · next h => exact hb h

theorem canonical_itePiece {a b : Piece} (ha : c → PieceCanonical a) (hb : ¬ c → PieceCanonical b) :
    PieceCanonical (if c then a else b) := by
  split
  · next h => exact ha h
  · next h => exact hb h

/-- A change made under a condition only. -/
theorem canonical_when {a b : State} (hb : StateCanonical b) (ha : StateCanonical b → StateCanonical a) :
    StateCanonical (if c then a else b) :=
  canonical_ite (fun _ => ha hb) fun _ => hb

/-- A change made but under a condition. -/
theorem canonical_unless {a b : State} (ha : StateCanonical a) (hb : StateCanonical a → StateCanonical b) :
    StateCanonical (if c then a else b) :=
  canonical_ite (fun _ => ha) fun _ => hb ha

end

/-- A check that answers with an error. -/
theorem ExceptCanonical.guard {ε α : Type} {P : α → Prop} {c : Prop} [Decidable c] {x : ε} {a : Except ε α}
    (ha : ExceptCanonical P a) : ExceptCanonical P (if c then .error x else a) := by
  split
  · exact .error
  · exact ha

theorem OptionCanonical.getD {α : Type} {P : α → Prop} {x : Option α} {a : α} (hx : OptionCanonical P x) (ha : P a) :
    P (x.getD a) := by
  cases hx with
  | some hb => exact hb
  | none => exact ha

theorem OptionCanonical.map {α β : Type} {P : α → Prop} {f : β → α} {x : Option β} (hf : ∀ b, P (f b)) :
    OptionCanonical P (x.map f) := by
  cases x with
  | none => exact .none
  | some b => exact .some (hf b)

theorem OptionCanonical.bind {α β : Type} {P : α → Prop} {f : β → Option α} {x : Option β} (hf : ∀ b, OptionCanonical P (f b)) :
    OptionCanonical P (x.bind f) := by
  cases x with
  | none => exact .none
  | some b => exact hf b

section

variable {α β : Type} {l : List β}

theorem canonical_foldl {f : State → β → State} (hs : StateCanonical s) (step : ∀ {t} y, StateCanonical t → StateCanonical (f t y)) :
    StateCanonical (l.foldl f s) :=
  List.foldlRecOn l f hs fun _ ht y _ => step y ht

/-- A fold over elements that a fact is known about. -/
theorem canonical_foldlMem {f : State → β → State} (hs : StateCanonical s)
    (step : ∀ {t} y, y ∈ l → StateCanonical t → StateCanonical (f t y)) : StateCanonical (l.foldl f s) :=
  List.foldlRecOn l f hs fun _ ht y hy => step y hy ht

theorem canonical_foldlCore {f : Core → β → Core} (hk : CoreCanonical k) (step : ∀ {t} y, CoreCanonical t → CoreCanonical (f t y)) :
    CoreCanonical (l.foldl f k) :=
  List.foldlRecOn l f hk fun _ ht y _ => step y ht

/-- A fold that carries more than the state. -/
theorem canonical_foldlFst {f : State × α → β → State × α} {a : State × α} (ha : StateCanonical a.1)
    (step : ∀ {x} y, StateCanonical x.1 → StateCanonical (f x y).1) : StateCanonical (l.foldl f a).1 :=
  List.foldlRecOn (motive := fun x => StateCanonical x.1) l f ha fun _ hx y _ => step y hx

theorem canonical_foldlReeve {f : Reeve → β → Reeve} {r : Reeve} (hr : ReeveCanonical r)
    (step : ∀ {x} y, ReeveCanonical x → ReeveCanonical (f x y)) : ReeveCanonical (l.foldl f r) :=
  List.foldlRecOn l f hr fun _ ht y _ => step y ht

theorem canonical_foldlScoring {f : Scoring → β → Scoring} {x : Scoring} (hx : ScoringCanonical x)
    (step : ∀ {x} y, ScoringCanonical x → ScoringCanonical (f x y)) : ScoringCanonical (l.foldl f x) :=
  List.foldlRecOn l f hx fun _ ht y _ => step y ht

end

end

section

variable {s : State}

/-! State. -/

theorem core_reset_canonical {die num : Nat} : CoreCanonical (Core.reset die num) :=
  ⟨rfl, rfl, rfl⟩

theorem state_resetOf_canonical {part : Part} : StateCanonical (State.resetOf part) :=
  ⟨rfl, core_reset_canonical, List.forall_mem_nil _, List.forall_mem_nil _⟩

/-! Access. -/

theorem getCore_canonical {die num : Nat} (hs : StateCanonical s) : CoreCanonical (getCore s die num) := by
  unfold getCore
  split
  · exact core_canonical hs
  · cases h : s.others.find? fun k => k.die = die ∧ k.num = num with
    | none => exact core_reset_canonical
    | some k => exact others_canonical hs k (List.mem_of_find?_eq_some h)

theorem putCore_canonical {k : Core} (hs : StateCanonical s) (hk : CoreCanonical k) : StateCanonical (putCore s k) := by
  unfold putCore
  split
  · exact canonical_setCore hs hk
  · split
    · refine canonical_setOthers hs (List.forall_mem_map.2 fun o ho => ?_)
      exact canonical_iteCore (fun _ => hk) fun _ => others_canonical hs o ho
    · exact canonical_setOthers hs (List.forall_mem_append.2 ⟨others_canonical hs, List.forall_mem_singleton.2 hk⟩)

theorem focus_canonical {die num : Nat} (hs : StateCanonical s) : StateCanonical (focus s die num) := by
  unfold focus
  split
  · exact hs
  · exact canonical_setOthers (canonical_setCore hs (getCore_canonical hs))
      (List.forall_mem_cons.2 ⟨core_canonical hs, fun k hk => others_canonical hs k (List.mem_of_mem_filter hk)⟩)

theorem mapCores_canonical {f : Core → Core} (hs : StateCanonical s) (hf : ∀ k, CoreCanonical k → CoreCanonical (f k)) :
    StateCanonical (mapCores s f) :=
  canonical_setOthers (canonical_setCore hs (hf _ (core_canonical hs)))
    (List.forall_mem_map.2 fun k hk => hf k (others_canonical hs k hk))

theorem modCore_canonical {f : Core → Core} (hs : StateCanonical s) (hf : ∀ a, CoreCanonical a → CoreCanonical (f a)) :
    StateCanonical (modCore s f) :=
  canonical_setCore hs (hf _ (core_canonical hs))

theorem modCtx_canonical {f : Context → Context} (hs : StateCanonical s) : StateCanonical (modCtx s f) :=
  hs.frame rfl

theorem setS_canonical {r : BitVec 5} {v : Word} (hs : StateCanonical s) : StateCanonical (setS s r v) :=
  canonical_unless hs modCtx_canonical

theorem setP_canonical {p : BitVec 3} {v : Bool} (hs : StateCanonical s) : StateCanonical (setP s p v) :=
  canonical_unless hs modCtx_canonical

theorem setH_canonical {h : BitVec 4} {v : Handle} (hs : StateCanonical s) : StateCanonical (setH s h v) :=
  modCtx_canonical hs

theorem bufMem_wf {k : Core} (hk : CoreCanonical k) (b : BitVec 2) : (bufMem k b).wf = true := by
  obtain ⟨hw, ha, hc⟩ := hk
  unfold bufMem
  split
  · exact hw
  · split
    · exact ha
    · exact hc

theorem setBufMem_canonical {k : Core} {b : BitVec 2} {m : Memory} (hk : CoreCanonical k) (hm : m.wf = true) :
    CoreCanonical (setBufMem k b m) := by
  obtain ⟨hw, ha, hc⟩ := hk
  unfold setBufMem
  split
  · exact ⟨hm, ha, hc⟩
  · split
    · exact ⟨hw, hm, hc⟩
    · exact ⟨hw, ha, hm⟩

theorem enterGuard_canonical {k : Core} (hk : CoreCanonical k) : CoreCanonical (enterGuard k) := by
  obtain ⟨hw, ha, hc⟩ := hk
  exact ⟨wf_guardFilled 0 _ hw, wf_guardFilled 1 _ ha, wf_guardFilled 2 _ hc⟩

theorem spPut_canonical {k : Core} {b : BitVec 2} {cells : List Host.Cell} (hk : CoreCanonical k) :
    CoreCanonical (spPut k b cells) := by
  have h : CoreCanonical (setBufMem k b (bufCells k b cells)) := setBufMem_canonical hk (wf_bufCells k b cells (bufMem_wf hk b))
  exact canonical_iteCore (fun _ => h) fun _ => h.frame rfl

theorem spWrite_canonical {k : Core} {b : BitVec 2} {o : Nat} {bytes : List Byte} (hk : CoreCanonical k) :
    CoreCanonical (spWrite k b o bytes) :=
  spPut_canonical hk

theorem clearBad_canonical {cells : List Nat} (hs : StateCanonical s) : StateCanonical (clearBad s cells) :=
  canonical_ite (fun _ => hs) fun _ => hs.frame rfl

theorem wrHome_canonical {cells : List Host.Cell} (hs : StateCanonical s) : StateCanonical (wrHome s cells) :=
  clearBad_canonical (canonical_setMem hs (wf_cells _ _ (mem_canonical hs)))

theorem wrHomeBytes_canonical {pa : Nat} {bytes : List Byte} (hs : StateCanonical s) : StateCanonical (wrHomeBytes s pa bytes) :=
  wrHome_canonical hs

theorem wrHomeNat_canonical {pa n v : Nat} (hs : StateCanonical s) : StateCanonical (wrHomeNat s pa n v) :=
  wrHomeBytes_canonical hs

theorem wrByte_canonical {die : Nat} {c : Host.Cell} (hs : StateCanonical s) : StateCanonical (wrByte s die c) :=
  canonical_ite (fun _ => hs.frame rfl) fun _ => (canonical_setMem hs (wf_write _ _ _ (mem_canonical hs))).frame rfl

theorem wrDie_canonical {die : Nat} {cells : List Host.Cell} (hs : StateCanonical s) : StateCanonical (wrDie s die cells) :=
  clearBad_canonical (canonical_foldl hs fun _ ht => wrByte_canonical ht)

theorem flushHeld_canonical {die lo n : Nat} (hs : StateCanonical s) : StateCanonical (flushHeld s die lo n) :=
  (canonical_setMem hs (wf_cells _ _ (mem_canonical hs))).frame rfl

theorem flushDie_canonical {die : Nat} (hs : StateCanonical s) : StateCanonical (flushDie s die) :=
  (canonical_setMem hs (wf_cells _ _ (mem_canonical hs))).frame rfl

theorem fetchLine_canonical {die pa : Nat} (hs : StateCanonical s) : StateCanonical (fetchLine s die pa) :=
  canonical_ite (fun _ => hs) fun _ => hs.frame rfl

theorem dropCopies_canonical {die : Nat} (hs : StateCanonical s) : StateCanonical (dropCopies s die) :=
  hs.frame rfl

theorem dropLines_canonical {pa n : Nat} (hs : StateCanonical s) : StateCanonical (dropLines s pa n) :=
  hs.frame rfl

theorem wrDesc_canonical {addr : Nat} {d : BitVec 128} (hs : StateCanonical s) : StateCanonical (wrDesc s addr d) :=
  wrHomeNat_canonical hs

/-! Ops. -/

theorem modKernel_canonical {id : Word} {f : KEntry → KEntry} (hs : StateCanonical s) : StateCanonical (modKernel s id f) :=
  hs.frame rfl

theorem bumpFresh_canonical (hs : StateCanonical s) : StateCanonical (bumpFresh s) :=
  hs.frame rfl

theorem raiseMsix_canonical {fn vec : Nat} (hs : StateCanonical s) : StateCanonical (raiseMsix s fn vec) :=
  hs.frame rfl

theorem writeRecord_canonical {aspace : BitVec 12} {r : Rec} (hs : StateCanonical s) : StateCanonical (writeRecord s aspace r) := by
  unfold writeRecord
  split
  · exact hs.frame rfl
  · exact canonical_ite (fun _ => raiseMsix_canonical (wrHomeNat_canonical (wrHomeBytes_canonical hs))) fun _ => canonical_ite
      (fun _ => raiseMsix_canonical (wrHomeNat_canonical hs)) fun _ => hs

theorem chargeCause_canonical {id : Word} {c : Cause} (hs : StateCanonical s) : StateCanonical (chargeCause s id c) :=
  modKernel_canonical hs

theorem putBar_canonical {k : BarKey} {b : Barrier} (hs : StateCanonical s) : StateCanonical (putBar s k b) := by
  unfold putBar
  split
  · extract_lets +onlyGivenNames c_1
    have hc_1 : CoreCanonical c_1 := getCore_canonical hs
    exact putCore_canonical hs (hc_1.frame rfl)
  · exact hs.frame rfl

theorem podWoken_canonical {key : BarKey} {f : Option (BitVec 32) → Option Word} (hs : StateCanonical s) :
    StateCanonical (podWoken s key f) := by
  unfold podWoken
  extract_lets +onlyGivenNames hit
  split
  · exact hs
  · exact hs.frame rfl

theorem wakePhase_canonical {key : BarKey} {b : Barrier} (hs : StateCanonical s) : StateCanonical (wakePhase s key b) := by
  unfold wakePhase
  extract_lets +onlyGivenNames t
  refine mapCores_canonical (podWoken_canonical hs) ?_
  intro k h
  split
  · exact canonical_iteCore (fun _ => h.frame rfl) fun _ => h
  · exact h

theorem wakeFuture_canonical {key : BarKey} {v : Word} (hs : StateCanonical s) : StateCanonical (wakeFuture s key v) := by
  unfold wakeFuture
  refine mapCores_canonical (podWoken_canonical hs) ?_
  intro k h
  split
  · exact canonical_iteCore (fun _ => h.frame rfl) fun _ => h
  · exact h

theorem settleNow_canonical {key : BarKey} {b : Barrier} {zeroed : Bool} (hs : StateCanonical s) :
    StateCanonical (settleNow s key b zeroed) := by
  unfold settleNow
  split
  · exact wakePhase_canonical (putBar_canonical hs)
  · exact putBar_canonical hs

theorem settle_canonical {key : BarKey} {b : Barrier} {zeroed : Bool} (hs : StateCanonical s) :
    StateCanonical (settle s key b zeroed) := by
  unfold settle
  split
  · extract_lets +onlyGivenNames t
    have ht : StateCanonical t := putBar_canonical hs
    exact ht.frame rfl
  · exact settleNow_canonical hs

theorem testBar_canonical {key : BarKey} (hs : StateCanonical s) : StateCanonical (testBar s key) := by
  unfold testBar
  split
  · exact hs
  · split
    · exact hs
    · exact canonical_when (hs.frame rfl) settleNow_canonical

theorem endCycle_canonical (hs : StateCanonical s) : StateCanonical (endCycle s) := by
  unfold endCycle
  split
  · extract_lets +onlyGivenNames t
    have ht : StateCanonical t := canonical_foldl hs fun _ ht => testBar_canonical ht
    exact ht.frame rfl
  · exact hs

theorem arrive_canonical {key : BarKey} {fault ginc : Bool} (hs : StateCanonical s) : StateCanonical (arrive s key fault ginc) :=
  settle_canonical hs

theorem discardSignal_canonical {q : Charge} {c : Cause} (hs : StateCanonical s) : StateCanonical (discardSignal s q c) :=
  writeRecord_canonical hs

theorem signal_canonical {q : Charge} {key : BarKey} {fault ginc : Bool} (hs : StateCanonical s) :
    StateCanonical (signal s q key fault ginc) := by
  unfold signal
  split
  · exact arrive_canonical hs
  · exact discardSignal_canonical hs

theorem takeBytes_canonical {key : BarKey} {n : Nat} {fault : Bool} (hs : StateCanonical s) :
    StateCanonical (takeBytes s key n fault) := by
  unfold takeBytes
  extract_lets +onlyGivenNames b b1 s1
  have hs1 : StateCanonical s1 := settle_canonical hs
  exact canonical_when hs1 putBar_canonical

theorem subtractBytes_canonical {q : Charge} {key : BarKey} {n : Nat} {fault : Bool} (hs : StateCanonical s) :
    StateCanonical (subtractBytes s q key n fault) := by
  unfold subtractBytes
  split
  · exact takeBytes_canonical hs
  · exact discardSignal_canonical hs

theorem podGranted_canonical {order : Nat} {v : Word} (hs : StateCanonical s) : StateCanonical (podGranted s order v) :=
  canonical_ite (fun _ => hs.frame rfl) fun _ => hs

theorem lockRelease_canonical {key : BarKey} {abandoned : Bool} (hs : StateCanonical s) :
    StateCanonical (lockRelease s key abandoned) := by
  unfold lockRelease
  extract_lets +onlyGivenNames b ws
  split
  · exact putBar_canonical hs
  · extract_lets +onlyGivenNames v_1 b'
    refine mapCores_canonical (podGranted_canonical (putBar_canonical hs)) ?_
    intro k h
    split
    · exact canonical_iteCore (fun _ => h.frame rfl) fun _ => h
    · exact h

theorem releaseGroupLocks_canonical {die entry : Nat} (hs : StateCanonical s) : StateCanonical (releaseGroupLocks s die entry) :=
  canonical_foldl hs fun _ ht => canonical_when ht lockRelease_canonical

theorem relendOnce_canonical (hs : StateCanonical s) : StateCanonical (relendOnce s) := by
  unfold relendOnce
  extract_lets +onlyGivenNames s1
  have hs1 : StateCanonical s1 := canonical_foldl hs fun _ ht => canonical_when ht putBar_canonical
  refine mapCores_canonical hs1 ?_
  intro k h
  split
  · exact h.frame rfl
  · exact h

theorem relend_canonical (hs : StateCanonical s) : StateCanonical (relend s) :=
  canonical_foldl hs fun _ ht => relendOnce_canonical ht

theorem leaveLocks_canonical {die entry : Nat} (hs : StateCanonical s) : StateCanonical (leaveLocks s die entry) :=
  relend_canonical (releaseGroupLocks_canonical hs)

theorem correctWords_canonical {die num : Nat} {hit : BitVec 2 × Nat → Bool} (hs : StateCanonical s) :
    StateCanonical (correctWords s die num hit) := by
  unfold correctWords
  extract_lets +onlyGivenNames k
  have hk : CoreCanonical k := getCore_canonical hs
  extract_lets +onlyGivenNames n
  split
  · exact hs
  · extract_lets +onlyGivenNames s1
    have hs1 : StateCanonical s1 := putCore_canonical hs (hk.frame rfl)
    exact hs1.frame rfl

theorem correctSoft_canonical {die num : Nat} {rs : List Range} (hs : StateCanonical s) :
    StateCanonical (correctSoft s die num rs) := by
  unfold correctSoft
  extract_lets +onlyGivenNames k
  have hk : CoreCanonical k := getCore_canonical hs
  exact correctWords_canonical hs

theorem returnToStored_canonical {p : Promotion} (hs : StateCanonical s) : StateCanonical (returnToStored s p) := by
  unfold returnToStored
  split
  · exact canonical_when hs wrDesc_canonical
  · exact hs

theorem signalHome_canonical {q : Charge} {n : Nat} {fault : Bool} (hs : StateCanonical s) :
    StateCanonical (signalHome s q n fault) := by
  unfold signalHome
  split
  · exact canonical_when hs signal_canonical
  · exact canonical_ite (fun _ => modKernel_canonical hs) fun _ => canonical_when hs signal_canonical

theorem signalReqs_canonical {p : Promotion} {reqs : List Request} {fault : Bool} (hs : StateCanonical s) :
    StateCanonical (signalReqs s p reqs fault) := by
  unfold signalReqs
  refine canonical_foldl hs ?_
  intro _ _ ht
  split
  · exact signalHome_canonical ht
  · exact ht

theorem reaskReds_canonical {p : Promotion} {id : Word} (hs : StateCanonical s) : StateCanonical (reaskReds s p id) :=
  hs.frame rfl

theorem cancelReq_canonical {p : Promotion} {id : Word} (hs : StateCanonical s) : StateCanonical (cancelReq s p id) := by
  unfold cancelReq
  extract_lets +onlyGivenNames gone rest
  split
  · exact hs
  · split
    · extract_lets +onlyGivenNames t
      have ht : StateCanonical t := reaskReds_canonical (returnToStored_canonical hs)
      exact signalReqs_canonical (ht.frame rfl)
    · exact signalReqs_canonical (reaskReds_canonical (hs.frame rfl))

theorem cancelReqs_canonical {sel : Promotion → Bool} {id : Word} (hs : StateCanonical s) : StateCanonical (cancelReqs s sel id) :=
  canonical_foldl hs fun _ ht => cancelReq_canonical ht

theorem dropUnstarted_canonical {k : Core} (hs : StateCanonical s) : StateCanonical (dropUnstarted s k).1 :=
  hs.frame rfl

theorem dropUnstarted_core_canonical {k : Core} (hk : CoreCanonical k) : CoreCanonical (dropUnstarted s k).2 :=
  hk.frame rfl

theorem sweepRetired_canonical {die num : Nat} {count : KEntry → Nat → KEntry} (hs : StateCanonical s) :
    StateCanonical (sweepRetired s die num count) := by
  unfold sweepRetired
  extract_lets +onlyGivenNames k
  have hk : CoreCanonical k := getCore_canonical hs
  exact canonical_ite (fun _ => modKernel_canonical (putCore_canonical hs (hk.frame rfl))) fun _ => hs

theorem stopCore_canonical {die num : Nat} (hs : StateCanonical s) : StateCanonical (stopCore s die num) := by
  unfold stopCore
  extract_lets +onlyGivenNames s0
  have hs0 : StateCanonical s0 := sweepRetired_canonical hs
  exact putCore_canonical (dropUnstarted_canonical hs0) ((dropUnstarted_core_canonical (s := s0) (getCore_canonical hs0)).frame rfl)

theorem stopGroup_canonical {die : Nat} {cores : List Nat} (hs : StateCanonical s) : StateCanonical (stopGroup s die cores) :=
  canonical_foldl hs fun _ ht => stopCore_canonical ht

theorem returnFrame_canonical {die frame : Nat} (hs : StateCanonical s) : StateCanonical (returnFrame s die frame) := by
  unfold returnFrame
  extract_lets +onlyGivenNames c s1
  have hs1 : StateCanonical s1 := wrHomeNat_canonical hs
  exact hs1.frame rfl

theorem returnFrames_canonical {k : KEntry} (hs : StateCanonical s) : StateCanonical (returnFrames s k) :=
  modKernel_canonical (canonical_foldl hs fun _ ht => returnFrame_canonical ht)

theorem dropImages_canonical {k : KEntry} (hs : StateCanonical s) : StateCanonical (dropImages s k) :=
  returnFrames_canonical (hs.frame rfl)

theorem abortGroup_canonical {id : Word} {c : Cause} (hs : StateCanonical s) : StateCanonical (abortGroup s id c) := by
  unfold abortGroup
  split
  · exact hs
  · split
    · exact chargeCause_canonical hs
    · extract_lets +onlyGivenNames s1 s2 s3
      have hs3 : StateCanonical s3 := leaveLocks_canonical (cancelReqs_canonical (stopGroup_canonical hs))
      exact modKernel_canonical (chargeCause_canonical (canonical_when hs3 dropImages_canonical))

theorem takeTrapAt_canonical {t : Trap} {pc : Word} {word : BitVec 32} (hs : StateCanonical s) :
    StateCanonical (takeTrapAt s t pc word) := by
  unfold takeTrapAt
  extract_lets +onlyGivenNames c
  split
  · extract_lets +onlyGivenNames s1 s2
    have hs2 : StateCanonical s2 := writeRecord_canonical (modCtx_canonical hs)
    exact canonical_ite (fun _ => hs2) fun _ => canonical_ite (fun _ => hs2.frame rfl) fun _ => abortGroup_canonical hs2
  · exact modCtx_canonical hs

theorem takeTrap_canonical {t : Trap} (hs : StateCanonical s) : StateCanonical (takeTrap s t) :=
  takeTrapAt_canonical hs

theorem tick_canonical (hs : StateCanonical s) : StateCanonical (tick s) :=
  modCtx_canonical (hs.frame rfl)

theorem retire_canonical (hs : StateCanonical s) : StateCanonical (retire s) :=
  tick_canonical (modCtx_canonical hs)

theorem retireJump_canonical {target : Word} (hs : StateCanonical s) : StateCanonical (retireJump s target) :=
  tick_canonical (modCtx_canonical hs)

theorem stallStep_canonical (hs : StateCanonical s) : StateCanonical (stallStep s) :=
  tick_canonical hs

theorem stallFull_canonical (hs : StateCanonical s) : StateCanonical (stallFull s) :=
  modCtx_canonical (stallStep_canonical hs)

theorem stallData_canonical (hs : StateCanonical s) : StateCanonical (stallData s) :=
  modCtx_canonical (stallStep_canonical hs)

theorem eff_counted_canonical {n : Nat} {e : Eff} (he : EffCanonical e) : EffCanonical (Eff.counted n e) := by
  unfold Eff.counted
  split
  · exact .ok (modCtx_canonical (he.of_ok rfl))
  · exact he

theorem finish_canonical {e : Eff} (hs : StateCanonical s) (he : EffCanonical e) : OutCanonical (finish s e) := by
  unfold finish
  split
  · exact .next (he.of_ok rfl)
  · exact .next (takeTrap_canonical hs)
  · exact .next (stallStep_canonical hs)

theorem inLine_canonical {e : Eff} (hs : StateCanonical s) (he : EffCanonical e) : OutCanonical (inLine s e) := by
  unfold inLine
  split
  · exact .next (retire_canonical (he.of_ok rfl))
  · exact .next (takeTrap_canonical hs)
  · exact .next (stallStep_canonical hs)

theorem inLineData_canonical {e : Eff} (hs : StateCanonical s) (he : EffCanonical e) : OutCanonical (inLineData s e) := by
  unfold inLineData
  split
  · exact .next (modCtx_canonical (retire_canonical (he.of_ok rfl)))
  · exact inLine_canonical hs he

theorem returnFromTrap_canonical (hs : StateCanonical s) : EffCanonical (returnFromTrap s) :=
  canonical_iteEff (fun _ => .trap) fun _ => .ok (tick_canonical (modCtx_canonical hs))

/-! Flags. -/

theorem raiseFlags_canonical {f : Fl} (hs : StateCanonical s) : StateCanonical (raiseFlags s f) :=
  modCtx_canonical hs

/-! Operands. -/

theorem guarded_canonical {g : BitVec 3} {e : Eff} (hs : StateCanonical s) (he : EffCanonical e) : OutCanonical (guarded s g e) :=
  canonical_iteOut (fun _ => inLine_canonical hs he) fun _ => .next (retire_canonical hs)

theorem appendNotify_canonical {die : Nat} {aspace : BitVec 12} {cause size vpage : Nat} (hs : StateCanonical s) :
    StateCanonical (appendNotify s die aspace cause size vpage).1 := by
  unfold appendNotify
  extract_lets +onlyGivenNames p len tail
  split
  · exact raiseMsix_canonical (hs.frame rfl)
  · extract_lets +onlyGivenNames phase rec128 s1
    have hs1 : StateCanonical s1 := wrHomeNat_canonical hs
    exact raiseMsix_canonical (hs1.frame rfl)

theorem notifyPage_canonical {die : Nat} {aspace : BitVec 12} {l : Leaf} {va cause : Nat} (hs : StateCanonical s) :
    StateCanonical (notifyPage s die aspace l va cause) := by
  unfold notifyPage
  split
  · exact hs
  · split
    · next e =>
        exact wrDesc_canonical (canonical_fst (appendNotify_canonical hs) e)

theorem countLine_canonical {die : Nat} {aspace : BitVec 12} {va : Nat} (hs : StateCanonical s) :
    StateCanonical (countLine s die aspace va) := by
  unfold countLine
  split
  · exact hs
  · split
    · extract_lets +onlyGivenNames n
      split
      · exact hs
      · extract_lets +onlyGivenNames d s1
        have hs1 : StateCanonical s1 := wrDesc_canonical hs
        exact canonical_when hs1 notifyPage_canonical
    · exact hs

theorem setDirty_canonical {aspace : BitVec 12} {va : Nat} (hs : StateCanonical s) : StateCanonical (setDirty s aspace va) := by
  unfold setDirty
  split
  · exact hs
  · exact wrDesc_canonical hs

theorem flushTlb_canonical {die num : Nat} (hs : StateCanonical s) : StateCanonical (flushTlb s die num) := by
  unfold flushTlb
  extract_lets +onlyGivenNames k s1
  have hs1 : StateCanonical s1 := canonical_foldl hs fun _ ht => setDirty_canonical ht
  extract_lets +onlyGivenNames k1
  have hk1 : CoreCanonical k1 := getCore_canonical hs1
  exact putCore_canonical hs1 (hk1.frame rfl)

theorem markDirty_canonical {aspace : BitVec 12} {va : Nat} (hs : StateCanonical s) : StateCanonical (markDirty s aspace va) := by
  unfold markDirty
  split
  · exact setDirty_canonical hs
  · extract_lets +onlyGivenNames page k marks s1
    have hs1 : StateCanonical s1 := modCore_canonical hs fun _ h => h.frame rfl
    exact canonical_when hs1 flushTlb_canonical

/-! Slice. -/

theorem reeve_blank_canonical {die slice : Nat} : ReeveCanonical (Reeve.blank die slice) :=
  rfl

theorem getReeve_canonical {die slice : Nat} (hs : StateCanonical s) : ReeveCanonical (getReeve s die slice) := by
  unfold getReeve
  cases h : s.reeves.find? fun r => r.die = die ∧ r.slice = slice with
  | none => exact reeve_blank_canonical
  | some r => exact reeves_canonical hs r (List.mem_of_find?_eq_some h)

theorem putReeve_canonical {r : Reeve} (hs : StateCanonical s) (hr : ReeveCanonical r) : StateCanonical (putReeve s r) := by
  unfold putReeve
  split
  · refine canonical_setReeves hs (List.forall_mem_map.2 fun q hq => ?_)
    split
    · exact hr
    · exact reeves_canonical hs q hq
  · exact canonical_setReeves hs (List.forall_mem_append.2 ⟨reeves_canonical hs, List.forall_mem_singleton.2 hr⟩)

theorem modBinding_canonical {die num : Nat} {f : Binding → Binding} (hs : StateCanonical s) :
    StateCanonical (modBinding s die num f) :=
  hs.frame rfl

theorem queueEvent_canonical {die slice : Nat} {e : ReeveEvent} (hs : StateCanonical s) :
    StateCanonical (queueEvent s die slice e).1 := by
  unfold queueEvent
  extract_lets +onlyGivenNames r
  split
  · exact putReeve_canonical hs ((getReeve_canonical hs).frame rfl)
  · exact modBinding_canonical hs

theorem raiseEvent_canonical {b : Binding} {slice kind : Nat} {dirty : Bool} {line : Word} (hs : StateCanonical s) :
    StateCanonical (raiseEvent s b slice kind dirty line) :=
  canonical_unless hs queueEvent_canonical

theorem lineLeaves_canonical {die pa : Nat} {dirty : Bool} (hs : StateCanonical s) :
    StateCanonical (lineLeaves s die pa dirty) := by
  unfold lineLeaves
  split
  · exact raiseEvent_canonical hs
  · exact hs

theorem lineOut_canonical {die pa : Nat} {dirty : Bool} (hs : StateCanonical s) : StateCanonical (lineOut s die pa dirty) := by
  unfold lineOut
  extract_lets +onlyGivenNames lo held t
  have ht : StateCanonical t := flushHeld_canonical hs
  exact lineLeaves_canonical (ht.frame rfl)

theorem evictSome_canonical {die slice n : Nat} (hs : StateCanonical s) : StateCanonical (evictSome s die slice n) := by
  unfold evictSome
  extract_lets +onlyGivenNames offered s1 frames lines pick
  clear_value offered
  clear_value pick
  split
  · exact canonical_unless (hs.frame rfl) lineOut_canonical
  · exact hs.frame rfl

theorem fillLine_canonical {die slice : Nat} (hs : StateCanonical s) : StateCanonical (fillLine s die slice) :=
  bumpFresh_canonical (canonical_when hs evictSome_canonical)

theorem demandAt_canonical {at_ p : Nat} (hs : StateCanonical s) : StateCanonical (demandAt s at_ p).1 := by
  unfold demandAt
  split
  · extract_lets +onlyGivenNames s1
    have hs1 : StateCanonical s1 := by
      unfold s1
      split
      · exact raiseEvent_canonical (raiseEvent_canonical hs)
      · exact hs
    exact fillLine_canonical hs1
  · exact bumpFresh_canonical hs

theorem demandAccess_canonical {die pa : Nat} (hs : StateCanonical s) : StateCanonical (demandAccess s die pa) := by
  unfold demandAccess
  extract_lets +onlyGivenNames p
  split
  · exact hs
  · split
    · next e =>
        split
        · exact canonical_when (canonical_fst (demandAt_canonical hs) e) demandAt_canonical
        · exact canonical_fst (demandAt_canonical hs) e

theorem seenAt_canonical {pa : Nat} (hs : StateCanonical s) : StateCanonical (seenAt s pa) := by
  unfold seenAt
  split
  · exact demandAccess_canonical hs
  · exact hs

theorem seenLines_canonical {pa n : Nat} (hs : StateCanonical s) : StateCanonical (seenLines s pa n) :=
  canonical_ite (fun _ => hs) fun _ => canonical_foldl hs fun _ ht => seenAt_canonical ht

/-! ScalarMem. -/

theorem execLds_canonical {d a : BitVec 5} {b : BitVec 2} {o : BitVec 14} (hs : StateCanonical s) :
    OutCanonical (execLds d a b o s) := by
  unfold execLds
  split
  · exact finish_canonical hs .trap
  · exact finish_canonical hs .stall
  · exact inLineData_canonical hs (canonical_iteEff (fun _ => .trap) fun _ => .ok (setS_canonical (correctWords_canonical hs)))

theorem execSts_canonical {d a : BitVec 5} {b : BitVec 2} {o : BitVec 14} (hs : StateCanonical s) :
    OutCanonical (execSts d a b o s) := by
  unfold execSts
  split
  · exact finish_canonical hs .trap
  · exact finish_canonical hs .stall
  · exact inLine_canonical hs (.ok (modCore_canonical hs fun _ h => spPut_canonical h))

theorem touchAt_canonical {aspace : BitVec 12} {die va pa : Nat} (hs : StateCanonical s) :
    StateCanonical (touchAt s aspace die va pa) := by
  unfold touchAt
  extract_lets +onlyGivenNames s1
  have hs1 : StateCanonical s1 := fetchLine_canonical hs
  exact demandAccess_canonical (canonical_unless hs1 countLine_canonical)

theorem touchLine_canonical {H : Handle} {off : Nat} (hs : StateCanonical s) : StateCanonical (touchLine s H off) :=
  touchAt_canonical hs

theorem flagged_canonical (hs : StateCanonical s) : StateCanonical (flagged s) :=
  modCtx_canonical (setP_canonical hs)

theorem enqueueAccess_canonical {k : AccessKind} (hs : StateCanonical s) : StateCanonical (enqueueAccess s k) :=
  modCore_canonical hs fun _ h => h.frame rfl

theorem execLdg_canonical {d : BitVec 5} {h : BitVec 4} {z : BitVec 2} {n : BitVec 3} {o : BitVec 12} (hs : StateCanonical s) :
    OutCanonical (execLdg d h z n o s) := by
  unfold execLdg
  extract_lets +onlyGivenNames size H
  split
  · exact finish_canonical hs .trap
  · split
    · exact finish_canonical hs .trap
    · exact inLine_canonical hs (.ok (flagged_canonical (setS_canonical hs)))
    · extract_lets +onlyGivenNames bad queued
      have hqueued : StateCanonical queued := enqueueAccess_canonical (setP_canonical hs)
      split
      · exact canonical_iteOut (fun _ => finish_canonical hs .stall) fun _ => inLine_canonical hs (.ok hqueued)
      · exact inLine_canonical hs (.ok (canonical_ite (fun _ => hqueued) fun _ => setP_canonical (setS_canonical hs)))
      · exact canonical_iteOut (fun _ => finish_canonical hs .trap) fun _ => canonical_iteOut
          (fun _ => inLine_canonical hs (.ok hqueued)) fun _ => inLineData_canonical hs
            (.ok (touchLine_canonical (setP_canonical (setS_canonical hs))))

theorem execStg_canonical {d : BitVec 5} {h : BitVec 4} {z : BitVec 2} {n : BitVec 3} {o : BitVec 12} (hs : StateCanonical s) :
    OutCanonical (execStg d h z n o s) := by
  unfold execStg
  extract_lets +onlyGivenNames size H
  split
  · exact finish_canonical hs .trap
  · split
    · exact finish_canonical hs .trap
    · exact inLine_canonical hs (.ok (flagged_canonical hs))
    · refine inLine_canonical hs ?_
      split
      · exact .trap
      · exact .ok (enqueueAccess_canonical (setP_canonical hs))

theorem releaseAt_canonical {wide : Bool} (hs : StateCanonical s) : StateCanonical (releaseAt s wide) :=
  canonical_when hs flushDie_canonical

theorem acquireAt_canonical {wide : Bool} (hs : StateCanonical s) : StateCanonical (acquireAt s wide) :=
  canonical_when hs dropCopies_canonical

theorem atomOrder_canonical {ord : BitVec 2} {sc : BitVec 4} {pa size : Nat} (hs : StateCanonical s) :
    StateCanonical (atomOrder s ord sc pa size) :=
  dropLines_canonical (acquireAt_canonical (releaseAt_canonical (flushHeld_canonical hs)))

theorem atomPerform_canonical {d : BitVec 5} {h : BitVec 4} {x : BitVec 5} {size : Nat} {ord : BitVec 2} {sc : BitVec 4}
    {upd : Nat → Option Nat} (hs : StateCanonical s) : OutCanonical (atomPerform s d h x size ord sc upd) := by
  unfold atomPerform
  extract_lets +onlyGivenNames H
  split
  · exact finish_canonical hs .trap
  · extract_lets +onlyGivenNames pa va
    split
    · exact finish_canonical hs .stall
    · split
      · exact finish_canonical hs .trap
      · extract_lets +onlyGivenNames s1
        have hs1 : StateCanonical s1 := atomOrder_canonical hs
        extract_lets +onlyGivenNames old s2
        have hs2 : StateCanonical s2 := by
          unfold s2
          split
          · exact wrHomeNat_canonical (markDirty_canonical hs1)
          · exact canonical_unless hs1 markDirty_canonical
        exact inLine_canonical hs (.ok (touchLine_canonical (setS_canonical hs2)))

theorem execAtom_canonical {d : BitVec 5} {h : BitVec 4} {x : BitVec 5} {o : BitVec 4} {z : BitVec 1} {r : BitVec 2}
    {sc : BitVec 4} (hs : StateCanonical s) : OutCanonical (execAtom d h x o z r sc s) :=
  canonical_iteOut (fun _ => atomPerform_canonical hs) fun _ => finish_canonical hs .trap

theorem execCas_canonical {d : BitVec 5} {h : BitVec 4} {x b : BitVec 5} {z : BitVec 1} {r : BitVec 2} {sc : BitVec 4}
    (hs : StateCanonical s) : OutCanonical (execCas d h x b z r sc s) :=
  canonical_iteOut (fun _ => atomPerform_canonical hs) fun _ => finish_canonical hs .trap

theorem execRed_canonical {b : BitVec 5} {h : BitVec 4} {x : BitVec 5} {o : BitVec 4} {z r : BitVec 1} {sc : BitVec 4}
    (hs : StateCanonical s) : OutCanonical (execRed b h x o z r sc s) := by
  unfold execRed
  extract_lets +onlyGivenNames size off H c
  split
  · exact finish_canonical hs .trap
  · refine inLine_canonical hs ?_
    split
    · exact .trap
    · split
      · exact .trap
      · exact .ok (enqueueAccess_canonical hs)

theorem placeMark_canonical {k : MarkKind} {sc : BitVec 4} (hs : StateCanonical s) : OutCanonical (placeMark k sc s) :=
  canonical_iteOut (fun _ => inLine_canonical hs (.ok (enqueueAccess_canonical hs))) fun _ => finish_canonical hs .trap

theorem execXlate_canonical {a : BitVec 5} {h : BitVec 4} (hs : StateCanonical s) : OutCanonical (execXlate a h s) := by
  unfold execXlate
  extract_lets +onlyGivenNames c va
  refine inLine_canonical hs ?_
  split
  · exact .trap
  · exact .ok (setH_canonical hs)

/-! Page. -/

theorem behindFence_canonical {e : Eff} (hs : StateCanonical s) (he : EffCanonical e) : OutCanonical (behindFence s e) :=
  canonical_iteOut (fun _ => finish_canonical hs .stall) fun _ => inLine_canonical hs he

theorem requestPage_canonical {aspace : BitVec 12} {va : Nat} {l : Leaf} {q : Request} (hs : StateCanonical s) :
    StateCanonical (requestPage s aspace va l q).1 := by
  unfold requestPage
  split
  · exact hs
  · split
    · exact hs
    · split
      · exact hs
      · exact wrDesc_canonical (hs.frame rfl)
  · split
    · exact hs
    · exact hs.frame rfl
  · exact notifyPage_canonical hs

theorem awaitPage_canonical {aspace : BitVec 12} {va : Nat} {l : Leaf} {q : Request} (hs : StateCanonical s) :
    StateCanonical (awaitPage s aspace va l q).1 := by
  unfold awaitPage
  split
  · exact hs
  · exact requestPage_canonical hs

theorem execPreq_canonical {a b : BitVec 5} {e : BitVec 1} {n : BitVec 5} (hs : StateCanonical s) :
    OutCanonical (execPreq a b e n s) := by
  unfold execPreq
  extract_lets +onlyGivenNames c va
  split
  · exact finish_canonical hs .trap
  · refine behindFence_canonical hs ?_
    split
    · exact .trap
    · split
      · exact .trap
      · extract_lets +onlyGivenNames bar
        split
        · next e2 =>
            exact .ok (setS_canonical (canonical_when (canonical_fst (requestPage_canonical hs) e2) signal_canonical))

theorem flushMarks_canonical {sel : BitVec 12 × BitVec 52 → Bool} (hs : StateCanonical s) : StateCanonical (flushMarks s sel) :=
  mapCores_canonical (canonical_foldl hs fun _ ht => setDirty_canonical ht) fun _ h => h.frame rfl

theorem harvest_canonical {die : Nat} {aspace : BitVec 12} {va : Nat} {l : Leaf} (hs : StateCanonical s) :
    StateCanonical (harvest s die aspace va l).1 := by
  unfold harvest
  extract_lets +onlyGivenNames d
  split
  · split
    · exact hs
    · exact wrDesc_canonical (appendNotify_canonical hs)
  · exact hs

theorem execPharv_canonical {a b : BitVec 5} (hs : StateCanonical s) : OutCanonical (execPharv a b s) := by
  unfold execPharv
  extract_lets +onlyGivenNames c len lo hi inRange s1
  have hs1 : StateCanonical s1 := flushMarks_canonical hs
  extract_lets +onlyGivenNames r
  refine behindFence_canonical hs ?_
  refine .ok ?_
  refine setS_canonical ?_
  refine canonical_foldlFst hs1 ?_
  intro _ _ ht
  split
  · split
    · split
      · next e =>
          exact canonical_fst (harvest_canonical ht) e

theorem shootPage_canonical {aspace : BitVec 12} {vpage : BitVec 52} {size : BitVec 4} {bySystem : Bool} (hs : StateCanonical s) :
    StateCanonical (shootPage s aspace vpage size bySystem) := by
  unfold shootPage
  extract_lets +onlyGivenNames s1 s2
  have hs2 : StateCanonical s2 := flushMarks_canonical (mapCores_canonical hs fun _ h => h.frame rfl)
  exact hs2.frame rfl

theorem execShootDownComplete_canonical {k : Nat} (hs : StateCanonical s) : OutCanonical (execShootDownComplete k s) := by
  unfold execShootDownComplete
  split
  · exact .next hs
  · split
    · extract_lets +onlyGivenNames s1
      have hs1 : StateCanonical s1 := canonical_foldl (hs.frame rfl) fun _ ht => flushTlb_canonical ht
      exact .next (canonical_ite (fun _ => raiseMsix_canonical (hs1.frame rfl)) fun _ => hs1)
    · exact .next hs

theorem clearLines_canonical {pa n : Nat} (hs : StateCanonical s) : StateCanonical (clearLines s pa n) :=
  hs.frame rfl

theorem dropPromo_canonical {p : Promotion} (hs : StateCanonical s) : StateCanonical (dropPromo s p) :=
  hs.frame rfl

theorem lateFault_canonical {r : Red} {c : Cause} (hs : StateCanonical s) : StateCanonical (lateFault s r c) :=
  modKernel_canonical (chargeCause_canonical (writeRecord_canonical hs))

theorem releaseReds_canonical {p : Promotion} {frame : Nat} (hs : StateCanonical s) : StateCanonical (releaseReds s p frame) :=
  hs.frame rfl

theorem execPromotionComplete_canonical {k : Nat} (hs : StateCanonical s) : OutCanonical (execPromotionComplete k s) := by
  unfold execPromotionComplete
  split
  · exact .next hs
  · split
    · exact .next (hs.frame rfl)
    · split
      · exact .next (signalReqs_canonical (dropPromo_canonical hs))
      · extract_lets +onlyGivenNames d n moved d1 s1 s2
        have hs2 : StateCanonical s2 := releaseReds_canonical
          (signalReqs_canonical (shootPage_canonical
            (wrDesc_canonical (dropPromo_canonical
              (clearLines_canonical (canonical_setMem hs (wf_memMove _ _ _ _ (mem_canonical hs))))))))
        exact .next (canonical_ite (fun _ => hs2.frame rfl) fun _ => hs2)

theorem execPromotionFailed_canonical {k : Nat} (hs : StateCanonical s) : OutCanonical (execPromotionFailed k s) := by
  unfold execPromotionFailed
  split
  · exact .next hs
  · split
    · exact .next hs
    · extract_lets +onlyGivenNames s1
      have hs1 : StateCanonical s1 := signalReqs_canonical (dropPromo_canonical (returnToStored_canonical hs))
      extract_lets +onlyGivenNames die s2
      have hs2 : StateCanonical s2 := by
        unfold s2
        split
        · exact notifyPage_canonical hs1
        · exact hs1
      exact .next (canonical_foldl hs2 fun _ ht => lateFault_canonical (ht.frame rfl))

/-! MemSide. -/

theorem markDone_canonical {kind : MarkKind} {wide : Bool} (hs : StateCanonical s) : StateCanonical (markDone s kind wide) := by
  unfold markDone
  split
  · exact acquireAt_canonical hs
  · exact releaseAt_canonical hs
  · exact acquireAt_canonical (releaseAt_canonical hs)
  · exact acquireAt_canonical (releaseAt_canonical hs)

theorem markLines_canonical {lines : List (Nat × Nat)} (hs : StateCanonical s) : StateCanonical (markLines s lines) :=
  canonical_foldl hs fun _ ht => markDirty_canonical ht

theorem leaveQueue_canonical {a : Access} (hs : StateCanonical s) : StateCanonical (leaveQueue s a) := by
  unfold leaveQueue
  split
  · exact hs
  · exact canonical_foldl (wrDie_canonical (markLines_canonical hs)) fun _ ht => touchAt_canonical ht
  · extract_lets +onlyGivenNames t
    have ht : StateCanonical t := canonical_unless hs markDirty_canonical
    exact ht.frame rfl
  · exact markDone_canonical hs

theorem setAccessQ_canonical {q : List Access} (hs : StateCanonical s) : StateCanonical (setAccessQ s q) :=
  modCtx_canonical hs

theorem storePerformed_canonical (hs : StateCanonical s) : StateCanonical (storePerformed s) := by
  unfold storePerformed
  split
  · exact hs
  · exact canonical_ite (fun _ => setAccessQ_canonical (leaveQueue_canonical hs)) fun _ => hs

theorem arriveS_canonical {seq : Nat} {d : BitVec 5} {v : Word} (hs : StateCanonical s) : StateCanonical (arriveS s seq d v) :=
  modCtx_canonical (setS_canonical hs)

theorem loadPerformed_canonical (hs : StateCanonical s) : StateCanonical (loadPerformed s) := by
  unfold loadPerformed
  split
  · extract_lets +onlyGivenNames done
    split
    · exact hs
    · exact setAccessQ_canonical (arriveS_canonical hs)
    · exact canonical_ite (fun _ => touchAt_canonical (setAccessQ_canonical (arriveS_canonical hs))) fun _ => hs
  · exact canonical_ite (fun _ => hs) fun _ => setAccessQ_canonical (markDone_canonical hs)
  · exact hs

theorem execAccessPerformed_canonical {k : Nat} (hs : StateCanonical s) : OutCanonical (execAccessPerformed k s) := by
  unfold execAccessPerformed
  split
  · exact .next (storePerformed_canonical hs)
  · exact .next (loadPerformed_canonical hs)
  · split
    · exact .next (canonical_unless hs lineOut_canonical)
    · split
      · exact .next (canonical_unless hs lineOut_canonical)
      · exact .next hs

theorem setRed_canonical {k : Nat} {r : Red} (hs : StateCanonical s) : StateCanonical (setRed s k r) :=
  hs.frame rfl

theorem dropRed_canonical {k : Nat} (hs : StateCanonical s) : StateCanonical (dropRed s k) :=
  hs.frame rfl

theorem redAway_canonical {k : Nat} {r : Red} {l : Leaf} (hs : StateCanonical s) : StateCanonical (redAway s k r l) := by
  unfold redAway
  split
  · exact canonical_ite (fun _ => lateFault_canonical (dropRed_canonical hs)) fun _ => hs
  · split
    · exact setRed_canonical hs
    · split
      · next e =>
          exact canonical_ite (fun _ => lateFault_canonical (dropRed_canonical (canonical_fst (requestPage_canonical hs) e)))
            fun _ => setRed_canonical (canonical_fst (requestPage_canonical hs) e)

theorem execRedTranslation_canonical {k : Nat} (hs : StateCanonical s) : OutCanonical (execRedTranslation k s) := by
  unfold execRedTranslation
  split
  · exact .next hs
  · split
    · exact .next hs
    · split
      · exact .next (lateFault_canonical (dropRed_canonical hs))
      · exact canonical_iteOut (fun _ => .next (lateFault_canonical (dropRed_canonical hs))) fun _ => canonical_iteOut
          (fun _ => .next (lateFault_canonical (dropRed_canonical hs))) fun _ => canonical_iteOut
            (fun _ => canonical_iteOut (fun _ => .next (lateFault_canonical (dropRed_canonical hs))) fun _ => .next
              (setRed_canonical hs)) fun _ => .next (redAway_canonical hs)

theorem execRedPerformed_canonical {k : Nat} (hs : StateCanonical s) : OutCanonical (execRedPerformed k s) := by
  unfold execRedPerformed
  split
  · exact .next hs
  · split
    · exact .next hs
    · split
      · exact .next hs
      · extract_lets +onlyGivenNames n s1
        have hs1 : StateCanonical s1 := dropRed_canonical hs
        split
        · exact .next (lateFault_canonical hs1)
        · extract_lets +onlyGivenNames s2
          have hs2 : StateCanonical s2 := canonical_ite (fun _ => flushDie_canonical hs1) fun _ => flushHeld_canonical hs1
          extract_lets +onlyGivenNames s3
          have hs3 : StateCanonical s3 := canonical_when hs2 setDirty_canonical
          extract_lets +onlyGivenNames new s4
          have hs4 : StateCanonical s4 := dropLines_canonical (wrHomeNat_canonical hs3)
          exact .next (canonical_unless hs4 touchAt_canonical)

/-! Barrier. -/

theorem atBarrier_canonical {l : BitVec 3} {n : BitVec 5} {e : BarKey → Eff} (hs : StateCanonical s)
    (he : ∀ (a : BarKey), EffCanonical (e a)) : OutCanonical (atBarrier s l n e) := by
  unfold atBarrier
  refine behindFence_canonical hs ?_
  split
  · exact .trap
  · exact canonical_iteEff (fun _ => he _) fun _ => .stall

theorem afterRelease_canonical {level : Nat} {e : State → Eff} (hs : StateCanonical s)
    (he : ∀ a, StateCanonical a → EffCanonical (e a)) : EffCanonical (afterRelease s level e) :=
  canonical_iteEff (fun _ => he _ (releaseAt_canonical hs)) fun _ => .stall

theorem barState_canonical : EffCanonical barState :=
  .trap

theorem execBjoin_canonical {k : BitVec 2} {b : BitVec 5} {l : BitVec 3} {m : BitVec 2} {n : BitVec 5} (hs : StateCanonical s) :
    OutCanonical (execBjoin k b l m n s) := by
  unfold execBjoin
  split
  · exact finish_canonical hs .trap
  · refine atBarrier_canonical hs ?_
    intro a
    extract_lets +onlyGivenNames t
    have ht : StateCanonical t := testBar_canonical hs
    split
    · exact .trap
    · exact .ok (setS_canonical (putBar_canonical ht))

theorem dropMember_canonical {key : BarKey} {b : Barrier} {mode : BitVec 2} (hs : StateCanonical s) :
    StateCanonical (dropMember s key b mode) := by
  unfold dropMember
  extract_lets +onlyGivenNames b1
  split
  · extract_lets +onlyGivenNames s1
    have hs1 : StateCanonical s1 := canonical_when hs settle_canonical
    exact putBar_canonical hs1
  · exact canonical_ite (fun _ => settle_canonical hs) fun _ => putBar_canonical hs

theorem execBdrop_canonical {l : BitVec 3} {m : BitVec 2} {n : BitVec 5} (hs : StateCanonical s) :
    OutCanonical (execBdrop l m n s) :=
  canonical_iteOut (fun _ => finish_canonical hs .trap) fun _ => atBarrier_canonical hs fun _ => canonical_iteEff
    (fun _ => .ok (dropMember_canonical hs)) fun _ => barState_canonical

theorem execBarr_canonical {b : BitVec 5} {l : BitVec 3} {n : BitVec 5} (hs : StateCanonical s) : OutCanonical (execBarr b l n s) :=
  atBarrier_canonical hs fun _ => canonical_iteEff (fun _ => barState_canonical) fun _ => afterRelease_canonical hs fun _ h => .ok
    (setS_canonical (arrive_canonical h))

theorem parkCtx_canonical {w : Wait} {p : Park} (hs : StateCanonical s) : StateCanonical (parkCtx s w p) :=
  tick_canonical (modCtx_canonical hs)

theorem waitOr_canonical {l : BitVec 3} {n : BitVec 5} {e : BarKey → Except Eff State} (hs : StateCanonical s)
    (he : ∀ key, WaitCanonical (e key)) : OutCanonical (waitOr s l n e) := by
  unfold waitOr
  split
  · exact finish_canonical hs .stall
  · split
    · exact finish_canonical hs .trap
    · split
      · exact finish_canonical hs .stall
      · next key _ _ =>
          have h := he key
          split
          · next x hx =>
              rw [hx] at h
              cases h with
              | error hx => exact inLine_canonical hs hx
          · next t ht =>
              rw [ht] at h
              cases h with
              | ok ht => exact .next ht

theorem waitPhase_canonical {key : BarKey} {t : BitVec 32} {src dst : BitVec 5} {isBarw : Bool} (hs : StateCanonical s) :
    WaitCanonical (waitPhase s key t src dst isBarw) := by
  unfold waitPhase
  extract_lets +onlyGivenNames b
  split
  · exact .error (.ok (acquireAt_canonical (setS_canonical hs)))
  · exact .ok (parkCtx_canonical (canonical_when hs setS_canonical))

theorem execBwait_canonical {a b : BitVec 5} {l : BitVec 3} {n : BitVec 5} (hs : StateCanonical s) :
    OutCanonical (execBwait a b l n s) := by
  unfold execBwait
  refine waitOr_canonical hs ?_
  intro key
  split
  · exact .error barState_canonical
  · exact waitPhase_canonical (testBar_canonical hs)

theorem execBarw_canonical {b : BitVec 5} {l : BitVec 3} {n : BitVec 5} (hs : StateCanonical s) :
    OutCanonical (execBarw b l n s) := by
  unfold execBarw
  refine waitOr_canonical hs ?_
  intro key
  extract_lets +onlyGivenNames phase
  split
  · exact .error barState_canonical
  · split
    · exact waitPhase_canonical (arrive_canonical (releaseAt_canonical hs))
    · exact .error .stall

theorem execBexp_canonical {a : BitVec 5} {l : BitVec 3} {n : BitVec 5} (hs : StateCanonical s) : OutCanonical (execBexp a l n s) :=
  atBarrier_canonical hs fun _ => canonical_iteEff (fun _ => barState_canonical) fun _ => .ok (putBar_canonical hs)

theorem execBtest_canonical {b : BitVec 5} {l : BitVec 3} {n : BitVec 5} (hs : StateCanonical s) :
    OutCanonical (execBtest b l n s) := by
  unfold execBtest
  refine atBarrier_canonical hs ?_
  intro a
  extract_lets +onlyGivenNames t
  have ht : StateCanonical t := testBar_canonical hs
  exact canonical_iteEff (fun _ => barState_canonical) fun _ => .ok (setS_canonical ht)

theorem execFset_canonical {a : BitVec 5} {l : BitVec 3} {n : BitVec 5} (hs : StateCanonical s) : OutCanonical (execFset a l n s) :=
  atBarrier_canonical hs fun _ => canonical_iteEff (fun _ => barState_canonical) fun _ => afterRelease_canonical hs fun _ h => .ok
    (wakeFuture_canonical (putBar_canonical h))

theorem execFget_canonical {b : BitVec 5} {l : BitVec 3} {n : BitVec 5} (hs : StateCanonical s) :
    OutCanonical (execFget b l n s) := by
  unfold execFget
  refine waitOr_canonical hs ?_
  intro key
  extract_lets +onlyGivenNames f
  split
  · exact .error barState_canonical
  · split
    · exact .error (.ok (acquireAt_canonical (setS_canonical hs)))
    · exact .ok (parkCtx_canonical hs)

theorem lendOn_canonical {p : BitVec 8} {fuel : Nat} {key : BarKey} (hs : StateCanonical s) :
    StateCanonical (lendOn s p fuel key) := by
  induction fuel generalizing s key with
  | zero => exact hs
  | succ fuel ih =>
    unfold lendOn
    extract_lets +onlyGivenNames b s1 waitsOn
    clear_value waitsOn
    have hs1 : StateCanonical s1 := putBar_canonical hs
    split
    · exact hs1
    · refine ih (mapCores_canonical (hs1.frame rfl) fun k hk => ?_)
      split
      · exact canonical_iteCore (fun _ => hk.frame rfl) fun _ => hk
      · exact hk

theorem execLwait_canonical {b : BitVec 5} {l : BitVec 3} {n : BitVec 5} (hs : StateCanonical s) :
    OutCanonical (execLwait b l n s) := by
  unfold execLwait
  refine waitOr_canonical hs ?_
  intro key
  extract_lets +onlyGivenNames c me f
  split
  · exact .error barState_canonical
  · split
    · extract_lets +onlyGivenNames p s1
      have hs1 : StateCanonical s1 := parkCtx_canonical hs
      exact .ok (lendOn_canonical (hs1.frame rfl))
    · exact .error (.ok (acquireAt_canonical (setS_canonical (putBar_canonical hs))))

theorem execLrel_canonical {l : BitVec 3} {n : BitVec 5} (hs : StateCanonical s) : OutCanonical (execLrel l n s) :=
  atBarrier_canonical hs fun _ => canonical_iteEff (fun _ => barState_canonical) fun _ => afterRelease_canonical hs fun _ h => .ok
    (lockRelease_canonical h)

theorem goOn_canonical (hs : StateCanonical s) : StateCanonical (goOn s) :=
  canonical_ite (fun _ => retire_canonical (modCtx_canonical (acquireAt_canonical hs))) fun _ => hs

theorem cycleOver_canonical (hs : StateCanonical s) : StateCanonical (cycleOver s) := by
  unfold cycleOver
  split
  · extract_lets +onlyGivenNames t t_1
    have ht_1 : StateCanonical t_1 := focus_canonical
      (canonical_foldl (endCycle_canonical hs) fun _ ht => goOn_canonical (focus_canonical ht))
    exact ht_1.frame rfl
  · exact hs

/-! BlockTable. -/

theorem wrTable_canonical {pa n v : Nat} (hs : StateCanonical s) : StateCanonical (wrTable s pa n v) :=
  wrHomeNat_canonical (dropLines_canonical (flushHeld_canonical (flushHeld_canonical hs)))

theorem wrDir_canonical {tag : Nat} {e : BitVec 128} (hs : StateCanonical s) : StateCanonical (wrDir s tag e) :=
  wrTable_canonical hs

theorem zeroHome_canonical {pa n : Nat} (hs : StateCanonical s) : StateCanonical (zeroHome s pa n) := by
  unfold zeroHome
  extract_lets +onlyGivenNames t
  have ht : StateCanonical t := dropLines_canonical (flushHeld_canonical (flushHeld_canonical hs))
  exact clearLines_canonical (canonical_setMem ht (wf_memZero _ _ _ (mem_canonical ht)))

theorem copyHome_canonical {src dst n : Nat} (hs : StateCanonical s) : StateCanonical (copyHome s src dst n) := by
  unfold copyHome
  extract_lets +onlyGivenNames t
  have ht : StateCanonical t := dropLines_canonical
    (flushHeld_canonical (flushHeld_canonical (flushHeld_canonical (flushHeld_canonical hs))))
  exact clearLines_canonical (canonical_setMem ht (wf_memMove _ _ _ _ (mem_canonical ht)))

theorem popPage_canonical (hs : StateCanonical s) : StateCanonical (popPage s).1 := by
  unfold popPage
  exact hs.frame rfl

theorem pushPage_canonical {p : Nat} (hs : StateCanonical s) : StateCanonical (pushPage s p) := by
  unfold pushPage
  extract_lets +onlyGivenNames t
  have ht : StateCanonical t := wrTable_canonical hs
  exact ht.frame rfl

theorem popZeroed_canonical (hs : StateCanonical s) : StateCanonical (popZeroed s).1 := by
  unfold popZeroed
  split
  · next e =>
      exact zeroHome_canonical (canonical_fst (popPage_canonical hs) e)

theorem setCount_canonical {p n : Nat} (hs : StateCanonical s) : StateCanonical (setCount s p n) :=
  wrTable_canonical hs

theorem changeEntry_canonical {root l v : Nat} (hs : StateCanonical s) : StateCanonical (changeEntry s root l v) := by
  unfold changeEntry
  extract_lets +onlyGivenNames slot
  split
  · split
    · split
      · next e1 =>
          exact wrTable_canonical (wrTable_canonical
            (setCount_canonical (setCount_canonical (copyHome_canonical (canonical_fst (popPage_canonical hs) e1)))))
    · exact wrTable_canonical hs
  · split
    · next e1 =>
        exact wrTable_canonical (wrTable_canonical (setCount_canonical (canonical_fst (popZeroed_canonical hs) e1)))

theorem atPkg_canonical {e : Except Trap (State → State)} (hs : StateCanonical s)
    (he : ExceptCanonical (fun f => ∀ t, StateCanonical t → StateCanonical (f t)) e) : OutCanonical (atPkg s e) := by
  unfold atPkg
  refine behindFence_canonical hs ?_
  split
  · exact .trap
  · exact afterRelease_canonical hs fun _ h => .ok (he.of_ok rfl _ h)

theorem btmapDo_canonical {x y : Nat} {H : Handle} :
    ExceptCanonical (fun f => ∀ t, StateCanonical t → StateCanonical (f t)) (btmapDo s x y H) := by
  unfold btmapDo
  refine .guard (.guard (.guard (.guard ?_)))
  split
  · exact .error
  · refine .guard (.guard (.guard (.guard (.guard (.guard (.ok fun t ht => ?_))))))
    exact canonical_ite (fun _ => changeEntry_canonical (wrDir_canonical (popZeroed_canonical ht)))
      fun _ => changeEntry_canonical ht

theorem dropTable_canonical {p : Nat} (hs : StateCanonical s) : StateCanonical (dropTable s p) := by
  unfold dropTable
  extract_lets +onlyGivenNames n t
  have ht : StateCanonical t := setCount_canonical hs
  exact canonical_when ht pushPage_canonical

theorem releaseSeq_canonical {tag : Nat} {e : BitVec 128} (hs : StateCanonical s) : StateCanonical (releaseSeq s tag e) :=
  wrDir_canonical (pushPage_canonical (canonical_foldl hs fun _ ht => dropTable_canonical ht))

theorem btunmapDo_canonical {x y n : Nat} :
    ExceptCanonical (fun f => ∀ t, StateCanonical t → StateCanonical (f t)) (btunmapDo s x y n) := by
  unfold btunmapDo
  extract_lets +onlyGivenNames tag l
  split
  · exact .error
  · split
    · exact .error
    · split
      · split
        · exact .error
        · exact .ok fun _ h => releaseSeq_canonical h
      · split
        · exact .error
        · split
          · exact .error
          · extract_lets +onlyGivenNames ls
            split
            · exact .error
            · exact .ok fun _ h => canonical_foldl h fun _ ht => changeEntry_canonical ht

theorem btforkDo_canonical {src dst : Nat} :
    ExceptCanonical (fun f => ∀ t, StateCanonical t → StateCanonical (f t)) (btforkDo s src dst) := by
  unfold btforkDo
  extract_lets +onlyGivenNames aspace
  split
  · exact .error
  · split
    · exact .error
    · split
      · exact .error
      · split
        · exact .error
        · split
          · exact .error
          · refine .ok ?_
            intro t h
            beta_reduce
            split
            · next e7 =>
                exact wrDir_canonical (canonical_foldl (copyHome_canonical (canonical_fst (popPage_canonical h) e7)) fun _ ht =>
                  setCount_canonical ht)

/-! Window. -/

theorem shootNow_canonical {aspace : BitVec 12} {vpage : BitVec 52} {size : BitVec 4} (hs : StateCanonical s) :
    StateCanonical (shootNow s aspace vpage size) := by
  unfold shootNow
  extract_lets +onlyGivenNames t
  have ht : StateCanonical t := shootPage_canonical hs
  exact ht.frame rfl

theorem wopenDo_canonical {w : WOpen} (hs : StateCanonical s) : StateCanonical (wopenDo s w) := by
  unfold wopenDo
  extract_lets +onlyGivenNames c wnum base cents s1 s2 s3 s4
  have hs4 : StateCanonical s4 := dropCopies_canonical
    (dropLines_canonical (wrDir_canonical (canonical_foldl (wrHomeBytes_canonical (zeroHome_canonical (shootNow_canonical hs)))
      fun _ ht => changeEntry_canonical (copyHome_canonical ht))))
  exact hs4.frame rfl

theorem inWindow_canonical {b : Bool} (hs : StateCanonical s) : StateCanonical (inWindow s b) :=
  modCtx_canonical hs

theorem windowStep_canonical {e : Eff} (hs : StateCanonical s) (he : EffCanonical e) : OutCanonical (windowStep s e) := by
  unfold windowStep
  split
  · exact finish_canonical hs .stall
  · split
    · exact inLine_canonical hs (.ok (inWindow_canonical (he.of_ok rfl)))
    · exact finish_canonical (inWindow_canonical hs) he
    · exact finish_canonical (inWindow_canonical hs) he

theorem execWopen_canonical {a b d : BitVec 5} {h : BitVec 4} (hs : StateCanonical s) : OutCanonical (execWopen a b d h s) := by
  unfold execWopen
  refine windowStep_canonical hs ?_
  split
  · exact .trap
  · exact canonical_iteEff (fun _ => .stall) fun _ => .ok (setS_canonical (wopenDo_canonical hs))

theorem closeDo_canonical {w : Window} {e : BitVec 128} {c : Closer} (hs : StateCanonical s) :
    StateCanonical (closeDo s w e c).1 := by
  unfold closeDo
  extract_lets +onlyGivenNames n tag s1 moves
  have hs1 : StateCanonical s1 := shootNow_canonical hs
  split
  next s2 st h =>
    have hs2 : StateCanonical s2 := by
      split at h
      · exact canonical_fst (writeRecord_canonical hs1) h
      · exact canonical_fst (canonical_foldl hs1 fun _ ht => copyHome_canonical ht) h
    extract_lets +onlyGivenNames s3 s4
    have hs4 : StateCanonical s4 :=
      dropLines_canonical (wrDir_canonical (canonical_foldl hs2 fun _ ht => changeEntry_canonical ht))
    exact hs4.frame rfl

theorem closeEnds_canonical {w : Window} {e : BitVec 128} {c : Closer} (hs : StateCanonical s) :
    StateCanonical (closeEnds s w e c).1 := by
  unfold closeEnds
  split
  · next e1 =>
      exact dropCopies_canonical (canonical_fst (closeDo_canonical (flushDie_canonical hs)) e1)

theorem closeStep_canonical {w : Window} {e : BitVec 128} {c : Closer} {d : BitVec 5} (hs : StateCanonical s) :
    OutCanonical (closeStep s w e c d) := by
  unfold closeStep
  extract_lets +onlyGivenNames mine s1
  have hs1 : StateCanonical s1 := hs.frame rfl
  split
  · split
    · next e1 =>
        exact inLine_canonical hs (.ok (inWindow_canonical (setS_canonical (canonical_fst (closeEnds_canonical hs1) e1))))
  · exact .next (stallStep_canonical (inWindow_canonical hs1))

theorem closeWindow_canonical {x kept : Nat} {d : BitVec 5} (hs : StateCanonical s) : OutCanonical (closeWindow s x kept d) := by
  unfold closeWindow
  extract_lets +onlyGivenNames k c stale me
  split
  · exact finish_canonical hs .stall
  · split
    · exact finish_canonical hs .trap
    · split
      · exact finish_canonical hs .trap
      · split
        · exact inLine_canonical hs (.ok (setS_canonical hs))
        · split
          · exact inLine_canonical hs (.ok (setS_canonical hs))
          · split
            · exact canonical_iteOut (fun _ => closeStep_canonical hs) fun _ => inLine_canonical hs (.ok (setS_canonical hs))
            · exact canonical_iteOut (fun _ => finish_canonical hs .trap) fun _ => closeStep_canonical hs

theorem execWstat_canonical {a d : BitVec 5} (hs : StateCanonical s) : OutCanonical (execWstat a d s) := by
  unfold execWstat
  refine behindFence_canonical hs ?_
  split
  · exact .trap
  · split
    · exact .trap
    · exact .ok (setS_canonical hs)

theorem execPoolClearComplete_canonical {k : Nat} (hs : StateCanonical s) : OutCanonical (execPoolClearComplete k s) := by
  unfold execPoolClearComplete
  split
  · exact .next hs
  · split
    · refine .next ?_
      extract_lets +onlyGivenNames t
      have ht : StateCanonical t := zeroHome_canonical hs
      exact ht.frame rfl
    · split
      · exact .next (canonical_unless hs closeEnds_canonical)
      · exact .next hs

/-! Hearth. -/

theorem putStream_canonical {e : Stream} (hs : StateCanonical s) : StateCanonical (putStream s e) :=
  hs.frame rfl

theorem slotHome_canonical {e : Stream} (hs : StateCanonical s) : StateCanonical (slotHome s e) := by
  unfold slotHome
  split
  · exact flushHeld_canonical (flushHeld_canonical hs)
  · exact hs

theorem slotDropped_canonical {e : Stream} (hs : StateCanonical s) : StateCanonical (slotDropped s e) := by
  unfold slotDropped
  split
  · exact canonical_foldl (dropLines_canonical hs) fun _ ht => canonical_when ht lineLeaves_canonical
  · exact hs

theorem evictedNow_canonical {e : Stream} (hs : StateCanonical s) : StateCanonical (evictedNow s e) :=
  putStream_canonical (slotDropped_canonical (slotHome_canonical hs))

theorem pinSlot_canonical {die : Nat} {aspace : BitVec 12} {stream : BitVec 32} {va : Nat} {z : BitVec 3} {begun : Bool}
    (hs : StateCanonical s) : ExceptCanonical PinCanonical (pinSlot s die aspace stream va z begun) := by
  unfold pinSlot
  extract_lets +onlyGivenNames size old fits word repin finish clash full
  have hfinish : ExceptCanonical PinCanonical (finish s) := by
    unfold finish
    clear_value old
    split
    · exact .ok (.done hs)
    · exact .ok (.wait hs)
    · exact .ok (.wait (putStream_canonical hs))
    · split
      · exact .ok (.done (putStream_canonical hs))
      · exact .ok (.done (hs.frame rfl))
  clear_value finish old
  split
  · split
    · exact .ok (.wait hs)
    · split
      · exact .ok (.done (putStream_canonical hs))
      · split
        · exact .ok (.done hs)
        · exact .guard hfinish
  · refine .guard ?_
    split
    · exact .ok (.done hs)
    · exact hfinish

theorem inHearth_canonical {e : Out} (hs : StateCanonical s) (he : OutCanonical e) : OutCanonical (inHearth s e) :=
  canonical_iteOut (fun _ => finish_canonical hs .trap) fun _ => canonical_iteOut (fun _ => finish_canonical hs .stall) fun _ => he

theorem opEnds_canonical (hs : StateCanonical s) : StateCanonical (opEnds s) :=
  hs.frame rfl

theorem opStands_canonical {o : StreamOp} (hs : StateCanonical s) : StateCanonical (opStands s o) :=
  hs.frame rfl

theorem atStream_canonical {stream : BitVec 32} {d : BitVec 5} {act : Bool → AtHome} (hs : StateCanonical s)
    (hact : ∀ (a : Bool), AtHomeCanonical (act a)) : OutCanonical (atStream s stream d act) := by
  unfold atStream
  extract_lets +onlyGivenNames fresh o
  split
  · exact .next (stallStep_canonical (opStands_canonical hs))
  · split
    · next e =>
        exact inLine_canonical hs (.ok (setS_canonical (opEnds_canonical ((hact _).of_done e))))
    · exact finish_canonical (opEnds_canonical hs) .trap
    · next e =>
        exact .next (stallStep_canonical (opStands_canonical ((hact _).of_wait e)))

theorem execHpin_canonical {a b d : BitVec 5} (hs : StateCanonical s) : OutCanonical (execHpin a b d s) := by
  unfold execHpin
  extract_lets +onlyGivenNames stream
  refine inHearth_canonical hs ?_
  split
  · exact finish_canonical (opEnds_canonical hs) .trap
  · refine atStream_canonical hs ?_
    intro a1
    split
    · exact .trap
    · next e1 =>
        exact .wait (((pinSlot_canonical hs).of_ok e1).of_wait rfl)
    · next e1 =>
        exact .done (((pinSlot_canonical hs).of_ok e1).of_done rfl)

theorem onStream_canonical {a d : BitVec 5} {e : Stream → Bool → AtHome} (hs : StateCanonical s)
    (he : ∀ (a : Stream) (a_1 : Bool), AtHomeCanonical (e a a_1)) : OutCanonical (onStream s a d e) := by
  unfold onStream
  extract_lets +onlyGivenNames stream
  refine inHearth_canonical hs ?_
  split
  · exact finish_canonical hs .trap
  · refine atStream_canonical hs ?_
    intro a1
    split
    · exact .done hs
    · exact he _ _

theorem execHunpin_canonical {a d : BitVec 5} (hs : StateCanonical s) : OutCanonical (execHunpin a d s) := by
  unfold execHunpin
  refine onStream_canonical hs ?_
  intro a1 a_1
  split
  · exact .trap
  · exact .done (hs.frame rfl)

theorem execHsave_canonical {a d : BitVec 5} (hs : StateCanonical s) : OutCanonical (execHsave a d s) := by
  unfold execHsave
  refine onStream_canonical hs ?_
  intro a1 a_1
  split
  · exact .done (slotHome_canonical (releaseAt_canonical hs))
  · exact .wait hs

theorem execHevict_canonical {a d : BitVec 5} (hs : StateCanonical s) : OutCanonical (execHevict a d s) := by
  unfold execHevict
  refine onStream_canonical hs ?_
  intro a1 a_1
  split
  · split
    · exact .wait hs
    · exact .done hs
  · split
    · exact .trap
    · split
      · exact .wait hs
      · split
        · exact .done (releaseAt_canonical hs)
        · exact .wait (putStream_canonical (releaseAt_canonical hs))

theorem execSilenceEviction_canonical {die k : Nat} (hs : StateCanonical s) : OutCanonical (execSilenceEviction die k s) := by
  unfold execSilenceEviction
  split
  · exact .next hs
  · exact canonical_iteOut (fun _ => .next (putStream_canonical hs)) fun _ => .next hs

theorem execEvictionComplete_canonical {die k : Nat} (hs : StateCanonical s) : OutCanonical (execEvictionComplete die k s) := by
  unfold execEvictionComplete
  split
  · exact .next hs
  · exact canonical_iteOut (fun _ => .next (evictedNow_canonical hs)) fun _ => .next hs

theorem roomNow_canonical {die n fuel : Nat} (hs : StateCanonical s) : OptionCanonical StateCanonical (roomNow s die n fuel) := by
  induction fuel generalizing s with
  | zero => exact .none
  | succ fuel ih =>
    unfold roomNow
    split
    · exact .some hs
    · exact .none
    · exact ih (evictedNow_canonical hs)
    · split
      · exact ih (evictedNow_canonical hs)
      · exact .none

theorem bindLaunch_canonical {die : Nat} {aspace : BitVec 12} {stream : BitVec 32} (hs : StateCanonical s) :
    StateCanonical (bindLaunch s die aspace stream).1 := by
  unfold bindLaunch
  split
  · exact hs
  · split
    · exact hs
    · extract_lets +onlyGivenNames pin
      split
      · exact putStream_canonical hs
      · extract_lets +onlyGivenNames t
        have ht : StateCanonical t := canonical_when hs evictedNow_canonical
        split
        · next e3 =>
            exact putStream_canonical ((roomNow_canonical ht).of_some e3)
        · exact ht.frame rfl

/-! Lanes. -/

theorem vecDone_canonical {x1 : VEff} (hs : StateCanonical s) : EffCanonical (vecDone s x1) := by
  unfold vecDone
  split
  · exact .trap
  · exact .ok (modCtx_canonical hs)

theorem vecEnqueue_canonical {i : Instr} {o : VOps} (hs : StateCanonical s) : StateCanonical (vecEnqueue i o s) :=
  modCore_canonical hs fun _ h => h.frame rfl

theorem countVector_canonical (hs : StateCanonical s) : StateCanonical (countVector s) :=
  modCtx_canonical hs

theorem vecIssue_canonical {i : Instr} {o : VOps} {e : VOps → State → Eff}
    (he : ∀ (a : VOps) (a_1 : State), StateCanonical a_1 → EffCanonical (e a a_1)) (hs : StateCanonical s) :
    OutCanonical (vecIssue i o e s) := by
  unfold vecIssue
  extract_lets +onlyGivenNames c queued
  split
  · exact finish_canonical hs .trap
  · split
    · split
      · next e1 =>
          exact inLine_canonical hs (.ok (countVector_canonical ((he _ _ hs).of_ok e1)))
      · exact finish_canonical (countVector_canonical hs) .trap
      · exact inLine_canonical hs (.ok (countVector_canonical (vecEnqueue_canonical hs)))
    · exact canonical_iteOut (fun _ => inLine_canonical hs (.ok (countVector_canonical (vecEnqueue_canonical hs)))) fun _ => .next
        (stallFull_canonical hs)

/-! Patch. -/

theorem setStaging_canonical {cls : Nat} {x : Option (BitVec 6 × BitVec 512)} (hs : StateCanonical s) :
    StateCanonical (setStaging s cls x) :=
  modCtx_canonical hs

theorem holdWord_canonical {cls : Nat} {t : BitVec 6} {f : BitVec 4} {v : BitVec 16} (hs : StateCanonical s) :
    OutCanonical (holdWord cls t f v s) := by
  unfold holdWord
  refine inLine_canonical hs ?_
  split
  · exact .trap
  · split
    · exact .trap
    · exact .ok (setStaging_canonical hs)

theorem pushCommand_canonical {k : Core} {cls : Nat} {c : Command} (hk : CoreCanonical k) : CoreCanonical (pushCommand k cls c) :=
  hk.frame rfl

theorem enterQueues_canonical {cls : Nat} {c : Command} {own : Nat → Command → Command} (hs : StateCanonical s) :
    StateCanonical (enterQueues s cls c own) := by
  unfold enterQueues
  extract_lets +onlyGivenNames t
  have ht : StateCanonical t := by
    unfold t
    refine canonical_foldl hs ?_
    intro _ _ ht
    split
    · exact putCore_canonical ht (pushCommand_canonical (getCore_canonical ht))
  exact ht.frame rfl

theorem issueWord_canonical {cls expect : Nat} {t : BitVec 6} {f : BitVec 4} {v : BitVec 16}
    {check : State → BitVec 6 → BitVec 512 → Except Trap Command} {enter : State → Command → State}
    (henter : ∀ (a : State) (a_1 : Command), StateCanonical a → StateCanonical (enter a a_1)) (hs : StateCanonical s) :
    OutCanonical (issueWord cls expect t f v check enter s) := by
  unfold issueWord
  split
  · exact finish_canonical hs .trap
  · split
    · exact finish_canonical hs .stall
    · split
      · exact finish_canonical hs .trap
      · split
        · exact finish_canonical hs .trap
        · split
          · exact finish_canonical hs .trap
          · exact canonical_iteOut (fun _ => inLine_canonical hs
              (eff_counted_canonical (.ok (setStaging_canonical (henter _ _ hs))))) fun _ => .next (stallFull_canonical hs)

theorem whenRoom_canonical {room : Bool} {e : Eff} (hs : StateCanonical s) (he : EffCanonical e) :
    OutCanonical (whenRoom s room e) := by
  unfold whenRoom
  split
  · exact canonical_iteOut (fun _ => inLine_canonical hs he) fun _ => .next (stallFull_canonical hs)
  · exact finish_canonical hs he
  · exact finish_canonical hs he

theorem enterPlain_canonical {cls : Nat} {c : Command} (hs : StateCanonical s) : StateCanonical (enterPlain cls s c) :=
  enterQueues_canonical hs

theorem giveSignal_canonical {x : HeldSignal} (hs : StateCanonical s) : StateCanonical (giveSignal s x) := by
  unfold giveSignal
  extract_lets +onlyGivenNames t
  have ht : StateCanonical t := canonical_when hs flushDie_canonical
  extract_lets +onlyGivenNames q key
  split
  · exact subtractBytes_canonical ht
  · exact canonical_ite (fun _ => signalHome_canonical ht) fun _ => signal_canonical ht

theorem commandSignal_canonical {x : HeldSignal} (hs : StateCanonical s) : StateCanonical (commandSignal s x) :=
  canonical_ite (fun _ => hs.frame rfl) fun _ => giveSignal_canonical hs

theorem giveHeld_canonical (hs : StateCanonical s) : StateCanonical (giveHeld s) :=
  canonical_foldl hs fun _ ht => canonical_ite (fun _ => ht) fun _ => giveSignal_canonical (ht.frame rfl)

theorem startCommand_canonical {k : Core} {cls : Nat} {c : Command} (hk : CoreCanonical k) : CoreCanonical (startCommand k cls c) :=
  hk.frame rfl

theorem endCommand_canonical {k : Core} {cls : Nat} {c : Command} (hk : CoreCanonical k) : CoreCanonical (endCommand k cls c) :=
  hk.frame rfl

theorem markNotified_canonical {k : Core} {id : Word} {n : Nat} (hk : CoreCanonical k) : CoreCanonical (markNotified k id n) :=
  hk.frame rfl

theorem reachMarkers_canonical {n : Nat} {l : List Command} {k : Core} (hk : CoreCanonical k) :
    CoreCanonical (reachMarkers n l k) := by
  induction l generalizing k with
  | nil => exact hk
  | cons c r ih => exact canonical_iteCore (fun _ => ih (hk.frame rfl)) fun _ => hk

theorem popMarker_canonical {k : Core} {n : Nat} (hk : CoreCanonical k) : CoreCanonical (popMarker k n) :=
  canonical_iteCore (fun _ => reachMarkers_canonical hk) fun _ => hk

theorem popMarkers_canonical {k : Core} (hk : CoreCanonical k) : CoreCanonical (popMarkers k) :=
  canonical_foldlCore hk fun _ ht => popMarker_canonical ht

theorem settleMarkers_canonical {die num : Nat} (hs : StateCanonical s) : StateCanonical (settleMarkers s die num) :=
  putCore_canonical hs (popMarkers_canonical (getCore_canonical hs))

theorem badEnds_canonical {cls : Nat} {c : Command} {f : CmdFault} {n : Nat} (hs : StateCanonical s) :
    StateCanonical (badEnds s cls c f n) := by
  unfold badEnds
  extract_lets +onlyGivenNames s1 s2
  have hs2 : StateCanonical s2 := writeRecord_canonical (modCore_canonical hs fun _ h => h.frame rfl)
  extract_lets +onlyGivenNames s3
  have hs3 : StateCanonical s3 := by
    unfold s3
    split
    · exact commandSignal_canonical hs2
    · exact hs2
  exact settleMarkers_canonical hs3

theorem endsBad_canonical {cls : Nat} {bytes : Core → Command → Nat} {start : Out} (hs : StateCanonical s)
    (hstart : OutCanonical start) : OutCanonical (endsBad cls bytes s start) := by
  unfold endsBad
  split
  · exact .next (badEnds_canonical hs)
  · exact hstart

theorem creditUnder_canonical {c : Command} (hs : StateCanonical s) : StateCanonical (creditUnder s c) :=
  canonical_ite (fun _ => hs) fun _ => mapCores_canonical hs fun _ h => h.frame rfl

/-! Tile. -/

theorem claimRings_canonical {k : Core} {c : Command} (hk : CoreCanonical k) : CoreCanonical (claimRings k c) :=
  canonical_iteCore (fun _ => hk.frame rfl) fun _ => hk

theorem enterTile_canonical {c : Command} (hs : StateCanonical s) : StateCanonical (enterTile s c) :=
  enterQueues_canonical (modCore_canonical hs fun _ h => claimRings_canonical h)

theorem mulCells_canonical {k : Core} {c : Command} {o : Operands} {part groups : Nat} (hk : CoreCanonical k) :
    CoreCanonical (mulCells k c o part groups) := by
  unfold mulCells
  split
  · exact hk
  · extract_lets +onlyGivenNames t
    have ht : CoreCanonical t := canonical_foldlCore hk fun _ ht => spWrite_canonical ht
    exact ht.frame rfl

theorem mulOn_canonical {k : Core} {c : Command} {o : Operands} {part : Nat} {started : Option CmdFault} {pick : Nat}
    (hk : CoreCanonical k) : CoreCanonical (mulOn k c o part started pick).1 := by
  unfold mulOn
  split
  · exact mulCells_canonical hk
  · exact mulCells_canonical hk

theorem zeroRows_canonical {k : Core} {b : BitVec 512} {n m : Nat} (hk : CoreCanonical k) : CoreCanonical (zeroRows k b n m).1 := by
  induction n generalizing k m with
  | zero => exact hk
  | succ n ih =>
    unfold zeroRows
    split
    · exact hk
    · exact ih (spWrite_canonical hk)

theorem storeRows_canonical {k : Core} {c : Command} {dst : Range} {fmt : BitVec 32} {n m under : Nat} (hk : CoreCanonical k) :
    CoreCanonical (storeRows k c dst fmt n m under).1 := by
  induction n generalizing k m under with
  | zero => exact hk
  | succ n ih =>
    unfold storeRows
    extract_lets +onlyGivenNames b w off stop elts
    split
    · exact hk
    · exact hk
    · split
      · exact hk
      · exact ih (canonical_iteCore (fun _ => spWrite_canonical (spWrite_canonical hk)) fun _ => spWrite_canonical hk)

theorem tileEffect_canonical {issuer k : Core} {c : Command} {part : Nat} {started : Option CmdFault} {pick : Nat}
    (hk : CoreCanonical k) : CoreCanonical (tileEffect issuer k c part started pick).1 := by
  unfold tileEffect
  extract_lets +onlyGivenNames b
  split
  · exact hk
  · split
    · split
      · next e2 =>
          exact canonical_fstCore (mulOn_canonical hk) e2
    · split
      · split
        · next e3 =>
            exact canonical_fstCore (zeroRows_canonical hk) e3
      · exact storeRows_canonical hk

theorem feedScales_canonical {k : Core} (hk : CoreCanonical k) : CoreCanonical (feedScales k) := by
  unfold feedScales
  split
  · exact hk.frame rfl
  · exact hk

theorem tileStart_canonical {kind : Nat} (hs : StateCanonical s) : OutCanonical (tileStart kind s) := by
  unfold tileStart
  split
  · split
    · refine .next ?_
      refine canonical_foldl hs ?_
      intro _ _ ht
      extract_lets +onlyGivenNames k
      have hk : CoreCanonical k := getCore_canonical ht
      split
      · exact putCore_canonical ht (feedScales_canonical (startCommand_canonical hk))
      · exact ht
    · exact .next hs
  · exact .next hs

theorem releaseRings_canonical {k : Core} {c : Command} (hk : CoreCanonical k) : CoreCanonical (releaseRings k c) :=
  canonical_iteCore (fun _ => hk.frame rfl) fun _ => hk

theorem tileEffects_canonical {c : Command} (hs : StateCanonical s) : ∀ x ∈ tileEffects s c, CoreCanonical x.2.1 :=
  List.forall_mem_map.2 fun _ _ => tileEffect_canonical (getCore_canonical hs)

theorem tileEnd_canonical {c : Command} (hs : StateCanonical s) : StateCanonical (tileEnd s c) := by
  unfold tileEnd
  extract_lets +onlyGivenNames effects s1 s2 s3 s4 failed ganged s5
  have hs1 : StateCanonical s1 := canonical_foldlMem hs fun x hx ht => putCore_canonical ht (tileEffects_canonical hs x hx)
  have hs2 : StateCanonical s2 := putCore_canonical hs1 (releaseRings_canonical (getCore_canonical hs1))
  have hs3 : StateCanonical s3 := creditUnder_canonical hs2
  have hs4 : StateCanonical s4 := by
    refine canonical_foldl hs3 fun x ht => ?_
    split
    split
    · exact writeRecord_canonical ht
    · exact ht
  have hs5 : StateCanonical s5 := by
    refine canonical_foldl hs4 fun _ ht => ?_
    split
    · exact commandSignal_canonical ht
    · exact ht
  exact canonical_foldl hs5 fun _ ht => putCore_canonical ht (popMarkers_canonical (endCommand_canonical (getCore_canonical ht)))

theorem tileReads_canonical {c : Command} (hs : StateCanonical s) : StateCanonical (tileReads s c) := by
  unfold tileReads
  extract_lets +onlyGivenNames effects issuer
  have hissuer : CoreCanonical issuer := getCore_canonical hs
  extract_lets +onlyGivenNames total shared
  refine canonical_foldl hs ?_
  intro _ _ ht
  split
  · split
    · exact correctSoft_canonical ht
    · exact ht

theorem execTileCommandEnd_canonical (hs : StateCanonical s) : OutCanonical (execTileCommandEnd s) := by
  unfold execTileCommandEnd
  split
  · exact canonical_iteOut (fun _ => .next (tileEnd_canonical (tileReads_canonical hs))) fun _ => .next hs
  · exact .next hs

theorem execRingsetCfg_canonical {a : BitVec 5} {g : BitVec 3} (hs : StateCanonical s) : OutCanonical (execRingsetCfg a g s) :=
  inLine_canonical hs (canonical_iteEff (fun _ => .trap) fun _ => canonical_iteEff (fun _ => .trap) fun _ => canonical_iteEff
    (fun _ => .stall) fun _ => .ok (modCore_canonical hs fun _ h => h.frame rfl))

theorem execRingsetAdv_canonical {a : BitVec 5} {g : BitVec 3} (hs : StateCanonical s) : OutCanonical (execRingsetAdv a g s) :=
  inLine_canonical hs (canonical_iteEff (fun _ => .trap) fun _ => canonical_iteEff (fun _ => .trap) fun _ => canonical_iteEff
    (fun _ => .stall) fun _ => .ok (modCore_canonical hs fun _ h => h.frame rfl))

theorem execSqld_canonical {a b : BitVec 5} {u : BitVec 2} (hs : StateCanonical s) : OutCanonical (execSqld a b u s) :=
  canonical_iteOut (fun _ => finish_canonical hs .trap) fun _ => canonical_iteOut (fun _ => finish_canonical hs .stall) fun _ =>
    whenRoom_canonical hs (canonical_iteEff (fun _ => .trap) fun _ => canonical_iteEff (fun _ => .trap) fun _ => canonical_iteEff
      (fun _ => .trap) fun _ => canonical_iteEff (fun _ => .trap) fun _ => .ok (enterPlain_canonical hs))

theorem execZtest_canonical {a b : BitVec 5} {u : BitVec 2} {t : BitVec 4} (hs : StateCanonical s) :
    OutCanonical (execZtest a b u t s) := by
  unfold execZtest
  extract_lets +onlyGivenNames off len k
  split
  · exact finish_canonical hs .trap
  · refine inLine_canonical hs ?_
    split
    · exact .trap
    · split
      · exact .trap
      · split
        · exact .trap
        · split
          · exact .stall
          · split
            · exact .trap
            · exact .ok (modCore_canonical (correctSoft_canonical hs) fun _ h => h.frame rfl)

/-! Copy. -/

theorem markDest_canonical {c : Command} (hs : StateCanonical s) : StateCanonical (markDest s c) :=
  canonical_when hs setDirty_canonical

theorem enterCopy_canonical {c : Command} (hs : StateCanonical s) : StateCanonical (enterCopy s c) :=
  enterPlain_canonical (markDest_canonical hs)

theorem touchLines_canonical {aspace : BitVec 12} {die va pa n : Nat} (hs : StateCanonical s) :
    StateCanonical (touchLines s aspace die va pa n) :=
  canonical_foldl hs fun _ ht => touchAt_canonical ht

theorem engineWrite_canonical {aspace : BitVec 12} {va pa : Nat} {bytes : List Byte} (hs : StateCanonical s) :
    StateCanonical (engineWrite s aspace va pa bytes) := by
  unfold engineWrite
  split
  · exact hs
  · extract_lets +onlyGivenNames t
    have ht : StateCanonical t := touchLines_canonical (wrDie_canonical hs)
    exact canonical_unless ht markDirty_canonical

theorem engineTouch_canonical {aspace : BitVec 12} {H : Handle} {off n : Nat} (hs : StateCanonical s) :
    StateCanonical (engineTouch s aspace H off n) :=
  touchLines_canonical hs

theorem bindPointer_canonical {k : Core} {c : Command} (hk : CoreCanonical k) : CoreCanonical (bindPointer k c) := by
  unfold bindPointer
  split
  · exact hk.frame rfl
  · exact hk

theorem movePointer_canonical {k : Core} {c : Command} {next : Nat} (hk : CoreCanonical k) :
    CoreCanonical (movePointer k c next) := by
  unfold movePointer
  split
  · exact hk.frame rfl
  · exact hk

theorem donePointer_canonical {k : Core} {c : Command} (hk : CoreCanonical k) : CoreCanonical (donePointer k c) := by
  unfold donePointer
  split
  · exact hk.frame rfl
  · exact hk

theorem putRun_canonical {k : Core} {cls : Nat} {c : Command} (hk : CoreCanonical k) : CoreCanonical (putRun k cls c) :=
  hk.frame rfl

theorem bytesAt_canonical {c : Command} {n : Nat} {fault : Bool} (hs : StateCanonical s) :
    StateCanonical (bytesAt s c n fault) := by
  unfold bytesAt
  split
  · exact hs
  · exact canonical_ite (fun _ => hs) fun _ => canonical_unless hs commandSignal_canonical

theorem advanced_canonical {cls : Nat} {c : Command} {n under next : Nat} {fault : Option (Cause × Nat)} (hs : StateCanonical s) :
    StateCanonical (advanced s cls c n under next fault) :=
  bytesAt_canonical (modCore_canonical hs fun _ h => movePointer_canonical (putRun_canonical h))

theorem copyPiece_canonical {c : Command} (hs : StateCanonical s) : PieceCanonical (copyPiece s c) := by
  unfold copyPiece
  extract_lets +onlyGivenNames b x conv
  clear_value conv
  split
  · extract_lets +onlyGivenNames dst m per unit so sn
    split
    · exact .wait hs
    · split
      · split
        · extract_lets +onlyGivenNames _ meet fault n out s1
          clear_value fault
          have hs1 : StateCanonical s1 := by
            unfold s1
            split
            · exact hs
            · split
              · exact engineTouch_canonical hs
              · exact correctSoft_canonical hs
          extract_lets +onlyGivenNames s2
          have hs2 : StateCanonical s2 := by
            unfold s2
            split
            · exact engineWrite_canonical hs1
            · exact modCore_canonical hs1 fun _ h => spWrite_canonical h
          exact .did hs2

theorem copyStarted_canonical {c : Command} {ch : Nat} (hs : StateCanonical s) : StateCanonical (copyStarted s c ch) :=
  modCore_canonical hs fun _ h => bindPointer_canonical (startCommand_canonical h)

theorem copyStart_canonical {kind : Nat} (hs : StateCanonical s) : OutCanonical (copyStart kind s) := by
  unfold copyStart
  split
  · split
    · exact canonical_iteOut (fun _ => .next hs) fun _ => .next (copyStarted_canonical hs)
    · exact .next hs
  · exact .next hs

theorem inputPage_canonical {c : Command} {n va : Nat} (hs : StateCanonical s) : InputPageCanonical (inputPage s c n va) := by
  unfold inputPage
  split
  · exact .fault hs
  · split
    · exact .fault hs
    · split
      · split
        · exact .at
        · exact .fault hs
      · split
        · next e3 =>
            split
            · exact .wait (canonical_fst (awaitPage_canonical hs) e3)
            · exact .fault (canonical_fst (awaitPage_canonical hs) e3)

theorem inputReady_canonical {c : Command} {n : Nat} (hs : StateCanonical s) : StateCanonical (inputReady s c n).1 := by
  unfold inputReady
  refine canonical_foldlFst hs ?_
  intro _ _ ht
  split
  · split
    · split
      · exact ht
      · split
        · next e1 =>
            exact (inputPage_canonical ht).of_wait e1
        · exact ht
        · exact ht

theorem inputPiece_canonical {c : Command} {n : Nat} (hs : StateCanonical s) : PieceCanonical (inputPiece s c n) := by
  unfold inputPiece
  extract_lets +onlyGivenNames r va dst m
  split
  · exact .did hs
  · split
    · next e1 =>
        exact .did ((inputPage_canonical hs).of_fault e1)
    · next e =>
        exact .wait ((inputPage_canonical hs).of_wait e)
    · exact canonical_itePiece (fun _ => .wait hs) fun _ => .did
        (modCore_canonical (touchLines_canonical hs) fun _ h => spWrite_canonical h)

theorem inputStarted_canonical {c : Command} {ch : Nat} (hs : StateCanonical s) : StateCanonical (inputStarted s c ch) :=
  modCore_canonical (dropCopies_canonical hs) fun _ h => startCommand_canonical h

theorem execTcopyStart_canonical (hs : StateCanonical s) : OutCanonical (execTcopyStart s) := by
  unfold execTcopyStart
  split
  · split
    · next e1 =>
        split
        · exact .next (canonical_when (canonical_fst (inputReady_canonical hs) e1) inputStarted_canonical)
        · exact .next (canonical_fst (inputReady_canonical hs) e1)
  · split
    · exact .next (modCore_canonical hs fun _ h => startCommand_canonical h)
    · exact .next hs
  · exact endsBad_canonical hs (copyStart_canonical hs)

theorem slotTrapped_canonical {die num : Nat} {c : Context} {cause : Cause} {addr : Word} (hs : StateCanonical s) :
    StateCanonical (slotTrapped s die num c cause addr) :=
  abortGroup_canonical (writeRecord_canonical hs)

theorem inputEnded_canonical {c : Command} {n slot : Nat} (hs : StateCanonical s) : StateCanonical (inputEnded s c n slot) := by
  unfold inputEnded
  extract_lets +onlyGivenNames k
  have hk : CoreCanonical k := getCore_canonical hs
  split
  · exact hs
  · split
    · exact slotTrapped_canonical hs
    · exact putCore_canonical hs (hk.frame rfl)

theorem execSqldAppend_canonical (hs : StateCanonical s) : OutCanonical (execSqldAppend s) := by
  unfold execSqldAppend
  split
  · exact .next hs
  · split
    · extract_lets +onlyGivenNames k words
      split
      · exact .next (modCore_canonical (writeRecord_canonical hs) fun _ h => popMarkers_canonical (endCommand_canonical h))
      · refine .next ?_
        refine modCore_canonical (correctSoft_canonical hs) ?_
        intro a h
        refine popMarkers_canonical ?_
        refine feedScales_canonical ?_
        extract_lets +onlyGivenNames k1
        have hk1 : CoreCanonical k1 := endCommand_canonical h
        exact hk1.frame rfl
    · exact .next hs

/-! Gather. -/

theorem enterGather_canonical {c : Command} (hs : StateCanonical s) : StateCanonical (enterGather s c) :=
  enterPlain_canonical (markDest_canonical hs)

theorem gatherPiece_canonical {c : Command} (hs : StateCanonical s) : PieceCanonical (gatherPiece s c) := by
  unfold gatherPiece
  extract_lets +onlyGivenNames b
  split
  · exact canonical_itePiece (fun _ => .wait hs) fun _ => .did
      (modCore_canonical (engineTouch_canonical hs) fun _ h => spPut_canonical h)

theorem scatterPiece_canonical {c : Command} (hs : StateCanonical s) : PieceCanonical (scatterPiece s c) := by
  unfold scatterPiece
  extract_lets +onlyGivenNames b
  split
  · exact canonical_itePiece (fun _ => .wait hs) fun _ => .did (engineWrite_canonical (correctWords_canonical hs))

theorem gatherStarted_canonical {c : Command} (hs : StateCanonical s) : StateCanonical (gatherStarted s c) :=
  modCore_canonical (canonical_when hs correctSoft_canonical) fun _ h => bindPointer_canonical (startCommand_canonical h)

theorem gatherStart_canonical {kind : Nat} (hs : StateCanonical s) : OutCanonical (gatherStart kind s) := by
  unfold gatherStart
  split
  · exact .next (gatherStarted_canonical hs)
  · exact .next hs

theorem execBscore_canonical {d a b : BitVec 5} (hs : StateCanonical s) : OutCanonical (execBscore d a b s) := by
  unfold execBscore
  split
  · exact finish_canonical hs .trap
  · split
    · exact finish_canonical hs .stall
    · refine whenRoom_canonical hs ?_
      split
      · exact .trap
      · exact .ok (enterGather_canonical hs)

theorem scorePlane_canonical {c : Command} {q : List Int} {blk : Nat} {x : Scoring} {p : Nat} {tr : Int}
    (hx : ScoringCanonical x) : ScoringCanonical (scorePlane c q blk x p tr) := by
  unfold scorePlane
  split
  · exact hx
  · extract_lets +onlyGivenNames b pos
    split
    · exact hx
    · exact engineTouch_canonical hx

theorem scoreBlock_canonical {c : Command} {q : List Int} {x : Scoring} {blk : Nat} {thrs : List Int} (hx : ScoringCanonical x) :
    ScoringCanonical (scoreBlock c q x blk thrs) :=
  canonical_foldlScoring hx fun _ ht => scorePlane_canonical ht

theorem scoreBlocks_canonical {c : Command} {q thrs : List Int} {blks : List Nat} {x : Scoring} (hx : ScoringCanonical x) :
    ScoringCanonical (scoreBlocks c q blks thrs x) := by
  induction blks generalizing thrs x with
  | nil => exact hx
  | cons blk r ih =>
    cases thrs with
    | nil => exact hx
    | cons t ts => exact ih (scoreBlock_canonical hx)

theorem scorePiece_canonical {c : Command} (hs : StateCanonical s) : PieceCanonical (scorePiece s c) := by
  unfold scorePiece
  extract_lets +onlyGivenNames b n lo
  split
  · exact .wait hs
  · split
    · exact .did hs
    · extract_lets +onlyGivenNames q lists s1 x_1
      split
      · exact .did (scoreBlocks_canonical (correctSoft_canonical hs))
      · extract_lets +onlyGivenNames bytes
        split
        · exact .did (scoreBlocks_canonical (correctSoft_canonical hs))
        · exact .did (modCore_canonical (scoreBlocks_canonical (correctSoft_canonical hs)) fun _ h => spWrite_canonical h)

/-! Vector. -/

theorem effVadd_canonical {d a b : BitVec 5} {m : BitVec 3} {z : BitVec 1} {o : VOps} (hs : StateCanonical s) :
    EffCanonical (effVadd d a b m z o s) :=
  vecDone_canonical hs

theorem effVsub_canonical {d a b : BitVec 5} {m : BitVec 3} {z : BitVec 1} {o : VOps} (hs : StateCanonical s) :
    EffCanonical (effVsub d a b m z o s) :=
  vecDone_canonical hs

theorem effVmul_canonical {d a b : BitVec 5} {m : BitVec 3} {z : BitVec 1} {o : VOps} (hs : StateCanonical s) :
    EffCanonical (effVmul d a b m z o s) :=
  vecDone_canonical hs

theorem effVfma_canonical {d a b : BitVec 5} {m : BitVec 3} {z : BitVec 1} {o : VOps} (hs : StateCanonical s) :
    EffCanonical (effVfma d a b m z o s) :=
  vecDone_canonical hs

theorem effVfms_canonical {d a b : BitVec 5} {m : BitVec 3} {z : BitVec 1} {o : VOps} (hs : StateCanonical s) :
    EffCanonical (effVfms d a b m z o s) :=
  vecDone_canonical hs

theorem effVmin_canonical {d a b : BitVec 5} {m : BitVec 3} {z : BitVec 1} {o : VOps} (hs : StateCanonical s) :
    EffCanonical (effVmin d a b m z o s) :=
  vecDone_canonical hs

theorem effVmax_canonical {d a b : BitVec 5} {m : BitVec 3} {z : BitVec 1} {o : VOps} (hs : StateCanonical s) :
    EffCanonical (effVmax d a b m z o s) :=
  vecDone_canonical hs

theorem effVabs_canonical {d a : BitVec 5} {m : BitVec 3} {z : BitVec 1} {o : VOps} (hs : StateCanonical s) :
    EffCanonical (effVabs d a m z o s) :=
  vecDone_canonical hs

theorem effVneg_canonical {d a : BitVec 5} {m : BitVec 3} {z : BitVec 1} {o : VOps} (hs : StateCanonical s) :
    EffCanonical (effVneg d a m z o s) :=
  vecDone_canonical hs

theorem effVcpys_canonical {d a b : BitVec 5} {m : BitVec 3} {z : BitVec 1} {o : VOps} (hs : StateCanonical s) :
    EffCanonical (effVcpys d a b m z o s) :=
  vecDone_canonical hs

theorem effViadd_canonical {d a b : BitVec 5} {m : BitVec 3} {z : BitVec 1} {x1 : VOps} (hs : StateCanonical s) :
    EffCanonical (effViadd d a b m z x1 s) :=
  vecDone_canonical hs

theorem effVisub_canonical {d a b : BitVec 5} {m : BitVec 3} {z : BitVec 1} {x1 : VOps} (hs : StateCanonical s) :
    EffCanonical (effVisub d a b m z x1 s) :=
  vecDone_canonical hs

theorem effVimul_canonical {d a b : BitVec 5} {m : BitVec 3} {z : BitVec 1} {x1 : VOps} (hs : StateCanonical s) :
    EffCanonical (effVimul d a b m z x1 s) :=
  vecDone_canonical hs

theorem effVand_canonical {d a b : BitVec 5} {m : BitVec 3} {z : BitVec 1} {x1 : VOps} (hs : StateCanonical s) :
    EffCanonical (effVand d a b m z x1 s) :=
  vecDone_canonical hs

theorem effVor_canonical {d a b : BitVec 5} {m : BitVec 3} {z : BitVec 1} {x1 : VOps} (hs : StateCanonical s) :
    EffCanonical (effVor d a b m z x1 s) :=
  vecDone_canonical hs

theorem effVxor_canonical {d a b : BitVec 5} {m : BitVec 3} {z : BitVec 1} {x1 : VOps} (hs : StateCanonical s) :
    EffCanonical (effVxor d a b m z x1 s) :=
  vecDone_canonical hs

theorem effVshl_canonical {d a b : BitVec 5} {m : BitVec 3} {z : BitVec 1} {x1 : VOps} (hs : StateCanonical s) :
    EffCanonical (effVshl d a b m z x1 s) :=
  vecDone_canonical hs

theorem effVshr_canonical {d a b : BitVec 5} {m : BitVec 3} {z : BitVec 1} {x1 : VOps} (hs : StateCanonical s) :
    EffCanonical (effVshr d a b m z x1 s) :=
  vecDone_canonical hs

theorem effVsar_canonical {d a b : BitVec 5} {m : BitVec 3} {z : BitVec 1} {x1 : VOps} (hs : StateCanonical s) :
    EffCanonical (effVsar d a b m z x1 s) :=
  vecDone_canonical hs

theorem effVimin_canonical {d a b : BitVec 5} {m : BitVec 3} {z : BitVec 1} {x1 : VOps} (hs : StateCanonical s) :
    EffCanonical (effVimin d a b m z x1 s) :=
  vecDone_canonical hs

theorem effVimax_canonical {d a b : BitVec 5} {m : BitVec 3} {z : BitVec 1} {x1 : VOps} (hs : StateCanonical s) :
    EffCanonical (effVimax d a b m z x1 s) :=
  vecDone_canonical hs

theorem effViminN32_canonical {d a b : BitVec 5} {m : BitVec 3} {z : BitVec 1} {x1 : VOps} (hs : StateCanonical s) :
    EffCanonical (effViminN32 d a b m z x1 s) :=
  vecDone_canonical hs

theorem effVimaxN32_canonical {d a b : BitVec 5} {m : BitVec 3} {z : BitVec 1} {x1 : VOps} (hs : StateCanonical s) :
    EffCanonical (effVimaxN32 d a b m z x1 s) :=
  vecDone_canonical hs

theorem effVcmp_canonical {d : BitVec 3} {a b : BitVec 5} {cond : BitVec 3} {t : BitVec 2} {m : BitVec 3} {z : BitVec 1}
    {o : VOps} (hs : StateCanonical s) : EffCanonical (effVcmp d a b cond t m z o s) := by
  unfold effVcmp
  exact vecDone_canonical hs

theorem effVcvt_canonical {d a src tgt : BitVec 5} {m : BitVec 3} {z : BitVec 1} {o : VOps} (hs : StateCanonical s) :
    EffCanonical (effVcvt d a src tgt m z o s) := by
  unfold effVcvt
  extract_lets +onlyGivenNames c act
  split
  · exact vecDone_canonical hs

theorem effVsplit_canonical {d a : BitVec 5} {m : BitVec 3} {z : BitVec 1} {x1 : VOps} (hs : StateCanonical s) :
    EffCanonical (effVsplit d a m z x1 s) := by
  unfold effVsplit
  exact vecDone_canonical hs

theorem effVpack_canonical {d a f : BitVec 5} {m : BitVec 3} {z : BitVec 1} {x1 : VOps} (hs : StateCanonical s) :
    EffCanonical (effVpack d a f m z x1 s) := by
  unfold effVpack
  exact vecDone_canonical hs

theorem effVunpk_canonical {d a f : BitVec 5} {m : BitVec 3} {z : BitVec 1} {x1 : VOps} (hs : StateCanonical s) :
    EffCanonical (effVunpk d a f m z x1 s) := by
  unfold effVunpk
  exact vecDone_canonical hs

theorem effVsfu_canonical {d a : BitVec 5} {f : BitVec 7} {m : BitVec 3} {z : BitVec 1} {o : VOps} (hs : StateCanonical s) :
    EffCanonical (effVsfu d a f m z o s) := by
  unfold effVsfu
  exact vecDone_canonical hs

theorem effVrotr_canonical {d a : BitVec 5} {m : BitVec 3} {z : BitVec 1} {o : VOps} (hs : StateCanonical s) :
    EffCanonical (effVrotr d a m z o s) :=
  vecDone_canonical hs

theorem effVbcr_canonical {d a : BitVec 5} {m : BitVec 3} {z : BitVec 1} {o : VOps} (hs : StateCanonical s) :
    EffCanonical (effVbcr d a m z o s) :=
  vecDone_canonical hs

theorem effVrotc_canonical {d a : BitVec 5} {m : BitVec 3} {z : BitVec 1} {o : VOps} (hs : StateCanonical s) :
    EffCanonical (effVrotc d a m z o s) :=
  vecDone_canonical hs

theorem effVbcc_canonical {d a : BitVec 5} {m : BitVec 3} {z : BitVec 1} {o : VOps} (hs : StateCanonical s) :
    EffCanonical (effVbcc d a m z o s) :=
  vecDone_canonical hs

theorem effVredr_canonical {d a : BitVec 5} {t op : BitVec 2} {m : BitVec 3} {z : BitVec 1} {o : VOps} (hs : StateCanonical s) :
    EffCanonical (effVredr d a t op m z o s) :=
  vecDone_canonical hs

theorem effVscanr_canonical {d a : BitVec 5} {t op : BitVec 2} {m : BitVec 3} {z : BitVec 1} {o : VOps} (hs : StateCanonical s) :
    EffCanonical (effVscanr d a t op m z o s) :=
  vecDone_canonical hs

theorem effVredc_canonical {d a : BitVec 5} {t op : BitVec 2} {m : BitVec 3} {z : BitVec 1} {o : VOps} (hs : StateCanonical s) :
    EffCanonical (effVredc d a t op m z o s) :=
  vecDone_canonical hs

theorem effVscanc_canonical {d a : BitVec 5} {t op : BitVec 2} {m : BitVec 3} {z : BitVec 1} {o : VOps} (hs : StateCanonical s) :
    EffCanonical (effVscanc d a t op m z o s) :=
  vecDone_canonical hs

theorem effVredrC_canonical {d a : BitVec 5} {m : BitVec 3} {z : BitVec 1} {o : VOps} (hs : StateCanonical s) :
    EffCanonical (effVredrC d a m z o s) :=
  vecDone_canonical hs

theorem effVredcC_canonical {d a : BitVec 5} {m : BitVec 3} {z : BitVec 1} {o : VOps} (hs : StateCanonical s) :
    EffCanonical (effVredcC d a m z o s) :=
  vecDone_canonical hs

theorem effVperm_canonical {d a b : BitVec 5} {m : BitVec 3} {z : BitVec 1} {x1 : VOps} (hs : StateCanonical s) :
    EffCanonical (effVperm d a b m z x1 s) := by
  unfold effVperm
  split
  · exact vecDone_canonical hs

theorem effVsel_canonical {d a b : BitVec 5} {m : BitVec 3} {x1 : VOps} (hs : StateCanonical s) :
    EffCanonical (effVsel d a b m x1 s) := by
  unfold effVsel
  exact vecDone_canonical hs

theorem effVmov_canonical {d a : BitVec 5} {m : BitVec 3} {z : BitVec 1} {x1 : VOps} (hs : StateCanonical s) :
    EffCanonical (effVmov d a m z x1 s) := by
  unfold effVmov
  exact vecDone_canonical hs

theorem effViota_canonical {d : BitVec 5} {m : BitVec 3} {z : BitVec 1} {o : VOps} (hs : StateCanonical s) :
    EffCanonical (effViota d m z o s) :=
  vecDone_canonical hs

theorem effVins_canonical {d : BitVec 5} {o : VOps} (hs : StateCanonical s) : EffCanonical (effVins d o s) := by
  unfold effVins
  exact vecDone_canonical hs

theorem effVext_canonical {d a : BitVec 5} {o : VOps} (hs : StateCanonical s) : EffCanonical (effVext d a o s) :=
  .ok (setS_canonical hs)

theorem effVld_canonical {v : BitVec 5} {u : BitVec 2} {off : BitVec 13} {o : VOps} (hs : StateCanonical s) :
    EffCanonical (effVld v u off o s) := by
  unfold effVld
  extract_lets +onlyGivenNames k addr
  split
  · exact .trap
  · split
    · exact .trap
    · exact vecDone_canonical (correctSoft_canonical hs)

theorem execVld_canonical {v : BitVec 5} {u : BitVec 2} {sr : BitVec 5} {off : BitVec 13} (hs : StateCanonical s) :
    OutCanonical (execVld v u sr off s) :=
  canonical_iteOut (fun _ => finish_canonical hs .stall) fun _ => vecIssue_canonical (fun _ _ h => effVld_canonical h) hs

theorem effVst_canonical {v : BitVec 5} {u : BitVec 2} {off : BitVec 13} {o : VOps} (hs : StateCanonical s) :
    EffCanonical (effVst v u off o s) := by
  unfold effVst
  extract_lets +onlyGivenNames k addr x
  split
  · exact .trap
  · exact canonical_iteEff (fun _ => .trap) fun _ => .ok
      (raiseFlags_canonical (canonical_setCore hs (canonical_foldlCore (core_canonical hs) fun _ ht => spWrite_canonical ht)))

theorem execVst_canonical {v : BitVec 5} {u : BitVec 2} {sr : BitVec 5} {off : BitVec 13} (hs : StateCanonical s) :
    OutCanonical (execVst v u sr off s) :=
  canonical_iteOut (fun _ => finish_canonical hs .stall) fun _ => vecIssue_canonical (fun _ _ h => effVst_canonical h) hs

theorem effMand_canonical {d a b : BitVec 3} {x1 : VOps} (hs : StateCanonical s) : EffCanonical (effMand d a b x1 s) :=
  .ok (modCtx_canonical hs)

theorem effMor_canonical {d a b : BitVec 3} {x1 : VOps} (hs : StateCanonical s) : EffCanonical (effMor d a b x1 s) :=
  .ok (modCtx_canonical hs)

theorem effMxor_canonical {d a b : BitVec 3} {x1 : VOps} (hs : StateCanonical s) : EffCanonical (effMxor d a b x1 s) :=
  .ok (modCtx_canonical hs)

theorem effMnot_canonical {d a : BitVec 3} {x1 : VOps} (hs : StateCanonical s) : EffCanonical (effMnot d a x1 s) :=
  .ok (modCtx_canonical hs)

theorem effMpopc_canonical {d : BitVec 5} {a : BitVec 3} {x1 : VOps} (hs : StateCanonical s) : EffCanonical (effMpopc d a x1 s) :=
  .ok (setS_canonical hs)

theorem effMtest_canonical {d a b : BitVec 3} {x1 : VOps} (hs : StateCanonical s) : EffCanonical (effMtest d a b x1 s) :=
  .ok (setP_canonical hs)

/-! VectorMem. -/

theorem vgFlags_canonical {rf : BitVec 3} {flags : List Nat} (hs : StateCanonical s) : StateCanonical (vgFlags s rf flags) :=
  modCtx_canonical hs

theorem vgTouch_canonical {es : List Element} (hs : StateCanonical s) : StateCanonical (vgTouch s es) :=
  canonical_foldl hs fun _ ht => touchAt_canonical ht

theorem vgLoaded_canonical {v : BitVec 5} {m rf : BitVec 3} {size : Nat} {es : List Element} {bytes : List Byte}
    (hs : StateCanonical s) : StateCanonical (vgLoaded s v m rf size es bytes) :=
  vgFlags_canonical (modCtx_canonical hs)

theorem effVldg_canonical {v vi : BitVec 5} {m rf : BitVec 3} {z : BitVec 2} {o : VOps} (hs : StateCanonical s) :
    EffCanonical (effVldg v vi m rf z o s) := by
  unfold effVldg
  extract_lets +onlyGivenNames c size lanes
  split
  · exact .trap
  · exact .ok (vgFlags_canonical (modCtx_canonical hs))
  · split
    · exact .stall
    · exact .ok (vgLoaded_canonical hs)
    · split
      · exact .trap
      · exact .ok (vgTouch_canonical (vgLoaded_canonical hs))

theorem vecStore_canonical {o : VOps} {k : AccessKind} (hs : StateCanonical s) : StateCanonical (vecStore s o k) :=
  modCore_canonical hs fun _ h => h.frame rfl

theorem effVstg_canonical {v vi : BitVec 5} {m rf : BitVec 3} {z : BitVec 2} {o : VOps} (hs : StateCanonical s) :
    EffCanonical (effVstg v vi m rf z o s) := by
  unfold effVstg
  extract_lets +onlyGivenNames c size lanes
  split
  · exact .trap
  · exact .ok (vgFlags_canonical hs)
  · exact .ok (vgFlags_canonical (canonical_unless hs vecStore_canonical))

theorem effVpop_canonical {d : BitVec 5} {n m : BitVec 3} {z : BitVec 1} {o : VOps} (hs : StateCanonical s) :
    EffCanonical (effVpop d n m z o s) :=
  canonical_iteEff (fun _ => .trap) fun _ => .ok (modCore_canonical (modCtx_canonical hs) fun _ h => h.frame rfl)

theorem execVpop_canonical {d : BitVec 5} {n m : BitVec 3} {z : BitVec 1} (hs : StateCanonical s) :
    OutCanonical (execVpop d n m z s) :=
  canonical_iteOut (fun _ => finish_canonical hs .stall) fun _ => vecIssue_canonical (fun _ _ h => effVpop_canonical h) hs

theorem effVpush_canonical {a : BitVec 5} {n m : BitVec 3} {o : VOps} (hs : StateCanonical s) : EffCanonical (effVpush a n m o s) :=
  canonical_iteEff (fun _ => .trap) fun _ => canonical_iteEff (fun _ => .trap) fun _ => .ok
    (raiseFlags_canonical (modCore_canonical hs fun _ h => h.frame rfl))

theorem execVpush_canonical {a : BitVec 5} {n m : BitVec 3} (hs : StateCanonical s) : OutCanonical (execVpush a n m s) :=
  canonical_iteOut (fun _ => finish_canonical hs .stall) fun _ => vecIssue_canonical (fun _ _ h => effVpush_canonical h) hs

/-! Verdict. -/

theorem effVdopen_canonical {d : BitVec 5} {o : VOps} (hs : StateCanonical s) : EffCanonical (effVdopen d o s) :=
  vecDone_canonical hs

theorem effVdacc_canonical {d a b : BitVec 5} {x1 : VOps} (hs : StateCanonical s) : EffCanonical (effVdacc d a b x1 s) :=
  vecDone_canonical hs

theorem effVdthr_canonical {o : VOps} (hs : StateCanonical s) : EffCanonical (effVdthr o s) :=
  vecDone_canonical hs

theorem effVdclose_canonical {d : BitVec 5} {x1 : VOps} (hs : StateCanonical s) : EffCanonical (effVdclose d x1 s) :=
  vecDone_canonical hs

theorem vdTest_canonical {any : Bool} {d : BitVec 3} {a : BitVec 5} {m : BitVec 3} {z : BitVec 1} (hs : StateCanonical s) :
    EffCanonical (vdTest any d a m z s) := by
  unfold vdTest
  exact vecDone_canonical hs

theorem effVdtest_canonical {d : BitVec 3} {a : BitVec 5} {m : BitVec 3} {z : BitVec 1} {x1 : VOps} (hs : StateCanonical s) :
    EffCanonical (effVdtest d a m z x1 s) :=
  vdTest_canonical hs

theorem effVdtestAny_canonical {d : BitVec 3} {a : BitVec 5} {m : BitVec 3} {z : BitVec 1} {x1 : VOps} (hs : StateCanonical s) :
    EffCanonical (effVdtestAny d a m z x1 s) :=
  vdTest_canonical hs

theorem effTopki_canonical {d a : BitVec 5} {m : BitVec 3} {o : VOps} (hs : StateCanonical s) : EffCanonical (effTopki d a m o s) :=
  vecDone_canonical hs

/-! VectorQueue. -/

theorem vecEffect_canonical {i : Instr} {o : VOps} (hs : StateCanonical s) : EffCanonical (vecEffect i o s) := by
  unfold vecEffect
  split
  · exact effVadd_canonical hs
  · exact effVsub_canonical hs
  · exact effVmul_canonical hs
  · exact effVfma_canonical hs
  · exact effVfms_canonical hs
  · exact effVmin_canonical hs
  · exact effVmax_canonical hs
  · exact effVabs_canonical hs
  · exact effVneg_canonical hs
  · exact effVcpys_canonical hs
  · exact effViadd_canonical hs
  · exact effVisub_canonical hs
  · exact effVimul_canonical hs
  · exact effVand_canonical hs
  · exact effVor_canonical hs
  · exact effVxor_canonical hs
  · exact effVshl_canonical hs
  · exact effVshr_canonical hs
  · exact effVsar_canonical hs
  · exact effVimin_canonical hs
  · exact effVimax_canonical hs
  · exact effViminN32_canonical hs
  · exact effVimaxN32_canonical hs
  · exact effVcmp_canonical hs
  · exact effVcvt_canonical hs
  · exact effVsplit_canonical hs
  · exact effVpack_canonical hs
  · exact effVunpk_canonical hs
  · exact effVsfu_canonical hs
  · exact effVrotr_canonical hs
  · exact effVbcr_canonical hs
  · exact effVrotc_canonical hs
  · exact effVbcc_canonical hs
  · exact effVredr_canonical hs
  · exact effVscanr_canonical hs
  · exact effVredc_canonical hs
  · exact effVscanc_canonical hs
  · exact effVredrC_canonical hs
  · exact effVredcC_canonical hs
  · exact effVperm_canonical hs
  · exact effVsel_canonical hs
  · exact effVmov_canonical hs
  · exact effViota_canonical hs
  · exact effVins_canonical hs
  · exact effVext_canonical hs
  · exact effVld_canonical hs
  · exact effVst_canonical hs
  · exact effVldg_canonical hs
  · exact effVstg_canonical hs
  · exact effVpop_canonical hs
  · exact effVpush_canonical hs
  · exact effMand_canonical hs
  · exact effMor_canonical hs
  · exact effMxor_canonical hs
  · exact effMnot_canonical hs
  · exact effMpopc_canonical hs
  · exact effMtest_canonical hs
  · exact effVdopen_canonical hs
  · exact effVdacc_canonical hs
  · exact effVdthr_canonical hs
  · exact effVdclose_canonical hs
  · exact effVdtest_canonical hs
  · exact effVdtestAny_canonical hs
  · exact effTopki_canonical hs
  · exact .ok hs

theorem unclaim_canonical {k : Core} {c : Command} (hk : CoreCanonical k) : CoreCanonical (unclaim k c) :=
  canonical_iteCore (fun _ => hk.frame rfl) fun _ => hk

theorem withdraw_canonical {c : Command} (hs : StateCanonical s) : StateCanonical (withdraw s c) := by
  unfold withdraw
  refine canonical_foldl hs ?_
  intro _ _ ht
  extract_lets +onlyGivenNames k
  have hk : CoreCanonical k := getCore_canonical ht
  exact putCore_canonical ht (popMarkers_canonical (hk.frame rfl))

theorem cancelAfter_canonical {seq : Nat} {x : Snap} (hs : StateCanonical s) : StateCanonical (cancelAfter s seq x) := by
  unfold cancelAfter
  extract_lets +onlyGivenNames gone tiles s1
  refine modCore_canonical (canonical_foldl hs fun _ ht => withdraw_canonical ht) ?_
  intro a h
  extract_lets +onlyGivenNames k1
  have hk1 : CoreCanonical k1 := canonical_foldlCore h fun _ ht => unclaim_canonical ht
  exact hk1.frame rfl

theorem vecMarked_canonical (hs : StateCanonical s) : StateCanonical (vecMarked s) :=
  modCore_canonical hs fun _ h => markNotified_canonical h

theorem execVectorInstructionStart_canonical (hs : StateCanonical s) : OutCanonical (execVectorInstructionStart s) := by
  unfold execVectorInstructionStart
  split
  · exact .next hs
  · exact .next (vecMarked_canonical (modCtx_canonical hs))
  · extract_lets +onlyGivenNames started
    have hstarted : StateCanonical started := modCtx_canonical hs
    split
    · next e1 =>
        exact .next (tick_canonical (modCtx_canonical ((vecEffect_canonical hstarted).of_ok e1)))
    · exact .next (takeTrapAt_canonical (cancelAfter_canonical hstarted))
    · exact .next hs

/-! Queue. -/

theorem fetchFails_canonical {x1 : Option Trap} : EffCanonical (fetchFails x1) := by
  unfold fetchFails
  split
  · exact .trap
  · exact .stall

theorem execTmpl_canonical {a : BitVec 5} {b : BitVec 2} {c : BitVec 3} {t : BitVec 6} (hs : StateCanonical s) :
    OutCanonical (execTmpl a b c t s) := by
  unfold execTmpl
  extract_lets +onlyGivenNames size
  split
  · exact finish_canonical hs .trap
  · refine inLine_canonical hs ?_
    split
    · exact .trap
    · split
      · exact fetchFails_canonical
      · exact .ok (modCore_canonical (correctSoft_canonical hs) fun _ h => h.frame rfl)

theorem execTmplBfmt_canonical {a n : BitVec 5} (hs : StateCanonical s) : OutCanonical (execTmplBfmt a n s) :=
  canonical_iteOut (fun _ => finish_canonical hs .trap) fun _ => inLine_canonical hs
    (canonical_iteEff (fun _ => .trap) fun _ => canonical_iteEff (fun _ => .trap) fun _ => canonical_iteEff (fun _ => .stall)
      fun _ => .ok (modCore_canonical hs fun _ h => h.frame rfl))

theorem placeMarkers_canonical {m : Command} {c : BitVec 6} (hs : StateCanonical s) : StateCanonical (placeMarkers s m c) := by
  unfold placeMarkers
  extract_lets +onlyGivenNames s1
  have hs1 : StateCanonical s1 := canonical_foldl hs fun _ ht => canonical_when ht enterPlain_canonical
  exact modCore_canonical (canonical_ite (fun _ => hs1) fun _ => canonical_ite (fun _ => vecMarked_canonical hs1) fun _ =>
    modCtx_canonical hs1) fun _ h => popMarkers_canonical h

theorem execNotify_canonical {a : BitVec 5} {l : BitVec 3} {c : BitVec 6} (hs : StateCanonical s) :
    OutCanonical (execNotify a l c s) :=
  canonical_iteOut (fun _ => finish_canonical hs .trap) fun _ => whenRoom_canonical hs
    (canonical_iteEff (fun _ => .trap) fun _ => canonical_iteEff (fun _ => .stall) fun _ => canonical_iteEff (fun _ => .trap)
      fun _ => canonical_iteEff (fun _ => .trap) fun _ => .ok
        (placeMarkers_canonical (modCore_canonical hs fun _ h => h.frame rfl)))

theorem execNotifyEvent_canonical (hs : StateCanonical s) : OutCanonical (execNotifyEvent s) := by
  unfold execNotifyEvent
  split
  · exact .next hs
  · extract_lets +onlyGivenNames s1
    have hs1 : StateCanonical s1 := modCore_canonical hs fun _ h => h.frame rfl
    split
    · exact .next hs1
    · extract_lets +onlyGivenNames q s2
      have hs2 : StateCanonical s2 := releaseAt_canonical hs1
      exact .next (canonical_ite (fun _ => signalHome_canonical hs2) fun _ => signal_canonical hs2)

theorem execQdrain_canonical {c : BitVec 6} (hs : StateCanonical s) : OutCanonical (execQdrain c s) :=
  canonical_iteOut (fun _ => finish_canonical hs .trap) fun _ => canonical_iteOut
    (fun _ => .next (stallStep_canonical (modCtx_canonical hs))) fun _ => inLine_canonical hs (.ok (modCtx_canonical hs))

theorem execWpwait_canonical {a : BitVec 5} {p : BitVec 4} (hs : StateCanonical s) : OutCanonical (execWpwait a p s) :=
  inLine_canonical hs (canonical_iteEff (fun _ => .stall) fun _ => canonical_iteEff (fun _ => .trap) fun _ => canonical_iteEff
    (fun _ => canonical_iteEff (fun _ => .trap) fun _ => .stall) fun _ => canonical_iteEff (fun _ => .ok hs) fun _ => .ok
      (modCore_canonical hs fun _ h => h.frame rfl))

theorem execFeedbind_canonical {a : BitVec 5} {u : BitVec 2} {n : BitVec 3} (hs : StateCanonical s) :
    OutCanonical (execFeedbind a u n s) := by
  unfold execFeedbind
  extract_lets +onlyGivenNames k
  split
  · exact finish_canonical hs .trap
  · refine inLine_canonical hs ?_
    split
    · exact fetchFails_canonical
    · extract_lets +onlyGivenNames image c_1 f0 f
      split
      · exact .trap
      · split
        · exact .trap
        · split
          · exact canonical_iteEff (fun _ => .stall) fun _ => .ok
              (modCore_canonical (correctSoft_canonical hs) fun _ h => h.frame rfl)

theorem execFeedstop_canonical {n : BitVec 3} (hs : StateCanonical s) : OutCanonical (execFeedstop n s) :=
  inLine_canonical hs (canonical_iteEff (fun _ => .ok hs) fun _ => canonical_iteEff (fun _ => .stall) fun _ => .ok
    (modCore_canonical hs fun _ h => h.frame rfl))

theorem indexRead_canonical {f : Feed} {e : Nat} (hs : StateCanonical s) : StateCanonical (indexRead s f e) :=
  canonical_when hs correctSoft_canonical

theorem putFeed_canonical {n : BitVec 3} {f : Feed} (hs : StateCanonical s) : StateCanonical (putFeed s n f) :=
  modCore_canonical hs fun _ h => h.frame rfl

theorem feedStore_canonical {f : Feed} {o : Int} {v : BitVec 32} (hs : StateCanonical s) :
    ExceptCanonical (OptionCanonical StateCanonical) (feedStore s f o v) := by
  unfold feedStore
  extract_lets +onlyGivenNames n bytes
  split
  · split
    · exact .ok .none
    · split
      · exact .error
      · split
        · exact .error
        · exact .ok (.some (engineWrite_canonical (canonical_when hs setDirty_canonical)))
  · split
    · exact .error
    · split
      · exact .error
      · exact .ok (.some (modCore_canonical hs fun _ h => spWrite_canonical h))

theorem feedLoad_canonical {f : Feed} {o : Int} (hs : StateCanonical s) :
    ExceptCanonical (OptionCanonical fun x => StateCanonical x.1) (feedLoad s f o) := by
  unfold feedLoad
  extract_lets +onlyGivenNames n
  split
  · split
    · exact .ok .none
    · split
      · exact .error
      · split
        · exact .error
        · exact .ok (.some (engineTouch_canonical hs))
  · split
    · exact .error
    · split
      · exact .error
      · exact .ok (.some (correctSoft_canonical hs))

theorem feedOutStep_canonical {n : BitVec 3} {f : Feed} {e : Nat} {v : BitVec 32} {r : List (Nat × BitVec 32)}
    (hs : StateCanonical s) : StateCanonical (feedOutStep s n f e v r) := by
  unfold feedOutStep
  extract_lets +onlyGivenNames f'
  split
  · exact putFeed_canonical (indexRead_canonical hs)
  · split
    · exact hs
    · split
      · exact putFeed_canonical (indexRead_canonical hs)
      · exact putFeed_canonical (indexRead_canonical hs)
      · next e2 =>
          exact putFeed_canonical (((feedStore_canonical (indexRead_canonical hs)).of_ok e2).of_some rfl)

theorem feedInStep_canonical {n : BitVec 3} {f : Feed} (hs : StateCanonical s) : StateCanonical (feedInStep s n f) := by
  unfold feedInStep
  split
  · exact putFeed_canonical (indexRead_canonical hs)
  · split
    · exact hs
    · split
      · exact putFeed_canonical (indexRead_canonical hs)
      · exact putFeed_canonical (indexRead_canonical hs)
      · next e1 =>
          exact putFeed_canonical (((feedLoad_canonical (indexRead_canonical hs)).of_ok e1).of_some rfl)

theorem execFeedTransfer_canonical {n : BitVec 3} (hs : StateCanonical s) : OutCanonical (execFeedTransfer n s) := by
  unfold execFeedTransfer
  extract_lets +onlyGivenNames f
  split
  · exact .next hs
  · split
    · split
      · exact .next hs
      · exact .next (feedOutStep_canonical hs)
    · exact canonical_iteOut (fun _ => .next (feedInStep_canonical hs)) fun _ => .next hs

/-! Kernel. -/

theorem accept_canonical {die : Nat} {aspace : BitVec 12} {depth : Nat} {r : LaunchRec} (hs : StateCanonical s) :
    OptionCanonical (fun x => StateCanonical x.1) (accept s die aspace depth r) := by
  unfold accept
  split
  · exact .none
  · exact .some (canonical_unless (hs.frame rfl) relend_canonical)

theorem writeCompletion_canonical {k : KEntry} (hs : StateCanonical s) : StateCanonical (writeCompletion s k) := by
  unfold writeCompletion
  split
  · exact hs
  · split
    · exact writeRecord_canonical hs
    · exact raiseMsix_canonical (setDirty_canonical (wrHomeBytes_canonical (flushHeld_canonical (flushHeld_canonical hs))))

theorem signalCbar_canonical {k : KEntry} (hs : StateCanonical s) : StateCanonical (signalCbar s k) :=
  canonical_ite (fun _ => hs) fun _ => canonical_ite (fun _ => discardSignal_canonical hs) fun _ => signal_canonical hs

theorem wakeKernel_canonical {id v : Word} (hs : StateCanonical s) : StateCanonical (wakeKernel s id v) := by
  unfold wakeKernel
  refine mapCores_canonical hs ?_
  intro k h
  split
  · exact canonical_iteCore (fun _ => h.frame rfl) fun _ => h
  · exact h

theorem dropStreamOps_canonical {k : Core} (hs : StateCanonical s) : StateCanonical (dropStreamOps s k) :=
  hs.frame rfl

theorem freeCores_canonical {die : Nat} {cores : List Nat} (hs : StateCanonical s) : StateCanonical (freeCores s die cores) := by
  unfold freeCores
  refine canonical_foldl hs ?_
  intro _ _ ht
  extract_lets +onlyGivenNames k
  have hk : CoreCanonical k := getCore_canonical ht
  exact putCore_canonical (dropStreamOps_canonical ht) (hk.frame rfl)

theorem kernelRelease_canonical {k : KEntry} (hs : StateCanonical s) : StateCanonical (kernelRelease s k) :=
  flushDie_canonical (canonical_foldl hs fun _ ht => flushTlb_canonical ht)

theorem endOne_canonical {k : KEntry} (hs : StateCanonical s) : StateCanonical (endOne s k) :=
  modKernel_canonical (freeCores_canonical (wakeKernel_canonical
    (signalCbar_canonical (writeCompletion_canonical (kernelRelease_canonical hs)))))

theorem releaseHeld_canonical {id : Word} (hs : StateCanonical s) : StateCanonical (releaseHeld s id) :=
  hs.frame rfl

theorem endKernel_canonical {fuel : Nat} {id : Word} (hs : StateCanonical s) : StateCanonical (endKernel fuel s id) := by
  induction fuel generalizing s id with
  | zero => exact hs
  | succ fuel ih =>
    unfold endKernel
    split
    · exact hs
    · extract_lets +onlyGivenNames s1
      have hs1 : StateCanonical s1 := endOne_canonical hs
      exact canonical_ite (fun _ => releaseHeld_canonical (canonical_foldl hs1 fun _ h => canonical_ite (fun _ => ih h) fun _ => h))
        fun _ => releaseHeld_canonical hs1

theorem endNow_canonical {id : Word} (hs : StateCanonical s) : StateCanonical (endNow s id) := by
  unfold endNow
  extract_lets +onlyGivenNames t
  have ht : StateCanonical t := endKernel_canonical hs
  exact canonical_when ht relend_canonical

theorem endOffCores_canonical {id : Word} (hs : StateCanonical s) : StateCanonical (endOffCores s id) :=
  canonical_ite (fun _ => endNow_canonical hs) fun _ => modKernel_canonical hs

theorem savedEnds_canonical {k : KEntry} {code : Nat} (hs : StateCanonical s) : StateCanonical (savedEnds s k code) := by
  unfold savedEnds
  extract_lets +onlyGivenNames s1
  have hs1 : StateCanonical s1 := leaveLocks_canonical hs
  exact endOffCores_canonical (modKernel_canonical (dropImages_canonical (canonical_when hs1 cancelReqs_canonical)))

theorem launchFrom_canonical {a b : BitVec 5} {h : BitVec 4} {depth : Nat} {full : State → Eff} (hs : StateCanonical s)
    (hfull : ∀ a, StateCanonical a → EffCanonical (full a)) : EffCanonical (launchFrom s a b h depth full) := by
  unfold launchFrom
  extract_lets +onlyGivenNames c off H
  split
  · exact .trap
  · split
    · exact .stall
    · extract_lets +onlyGivenNames t
      have ht : StateCanonical t := releaseAt_canonical hs
      split
      · exact .trap
      · split
        · exact .trap
        · extract_lets +onlyGivenNames read
          have hread : StateCanonical read := engineTouch_canonical ht
          split
          · exact hfull _ hread
          · next e2 =>
              exact .ok (setS_canonical ((accept_canonical hread).of_some e2))

theorem execEnq_canonical {a b : BitVec 5} {h : BitVec 4} (hs : StateCanonical s) : OutCanonical (execEnq a b h s) :=
  behindFence_canonical hs (canonical_iteEff (fun _ => .trap) fun _ => launchFrom_canonical hs fun _ _ => .stall)

theorem execKlaunch_canonical {a b : BitVec 5} {h : BitVec 4} (hs : StateCanonical s) : OutCanonical (execKlaunch a b h s) :=
  behindFence_canonical hs (launchFrom_canonical hs fun _ h1 => .ok (setS_canonical h1))

theorem execSpawn_canonical {a b : BitVec 5} (hs : StateCanonical s) : OutCanonical (execSpawn a b s) := by
  unfold execSpawn
  extract_lets +onlyGivenNames c
  refine behindFence_canonical hs ?_
  split
  · exact .trap
  · split
    · exact .trap
    · split
      · exact .stall
      · split
        · exact .stall
        · next e =>
            exact .ok (setS_canonical ((accept_canonical (releaseAt_canonical hs)).of_some e))

theorem execKarm_canonical {a b : BitVec 5} {o : BitVec 1} {h : BitVec 4} (hs : StateCanonical s) :
    OutCanonical (execKarm a b o h s) := by
  unfold execKarm
  extract_lets +onlyGivenNames c off H tag
  refine behindFence_canonical hs ?_
  split
  · exact .trap
  · split
    · exact .trap
    · split
      · exact .stall
      · exact .stall
      · extract_lets +onlyGivenNames old
        split
        · exact .trap
        · exact canonical_iteEff (fun _ => .trap) fun _ => canonical_iteEff (fun _ => .trap) fun _ => canonical_iteEff
            (fun _ => .trap) fun _ => .ok (engineTouch_canonical (hs.frame rfl))

theorem execKdisarm_canonical {a : BitVec 5} (hs : StateCanonical s) : OutCanonical (execKdisarm a s) :=
  behindFence_canonical hs (canonical_iteEff (fun _ => .trap) fun _ => .ok (hs.frame rfl))

theorem cancelKernel_canonical {k : KEntry} (hs : StateCanonical s) : StateCanonical (cancelKernel s k) := by
  unfold cancelKernel
  extract_lets +onlyGivenNames mark
  split
  · exact endOffCores_canonical (modKernel_canonical hs)
  · exact endOffCores_canonical (modKernel_canonical hs)
  · exact savedEnds_canonical hs
  · exact modKernel_canonical hs
  · exact modKernel_canonical hs
  · exact hs
  · exact hs
  · exact hs
  · exact modKernel_canonical (leaveLocks_canonical (stopGroup_canonical hs))

theorem execKcancel_canonical {a b : BitVec 5} (hs : StateCanonical s) : OutCanonical (execKcancel a b s) := by
  unfold execKcancel
  split
  · exact finish_canonical hs .stall
  · split
    · exact .next (retire_canonical (setS_canonical hs))
    · exact canonical_iteOut (fun _ => .next (retire_canonical (setS_canonical hs))) fun _ => .next
        (cancelKernel_canonical (retire_canonical (setS_canonical hs)))

theorem execShwait_canonical {a b : BitVec 5} (hs : StateCanonical s) : OutCanonical (execShwait a b s) := by
  unfold execShwait
  extract_lets +onlyGivenNames id
  split
  · exact finish_canonical hs .stall
  · split
    · exact finish_canonical hs .trap
    · split
      · exact .next (retire_canonical (setS_canonical hs))
      · exact canonical_iteOut (fun _ => .next (retire_canonical (acquireAt_canonical (setS_canonical hs)))) fun _ => .next
          (parkCtx_canonical hs)

theorem setRoot_canonical {aspace : BitVec 12} {root : Nat} (hs : StateCanonical s) : StateCanonical (setRoot s aspace root) :=
  hs.frame rfl

theorem hostLaunch_canonical {die req : Nat} (hs : StateCanonical s) : StateCanonical (hostLaunch s die req).1 := by
  unfold hostLaunch
  extract_lets +onlyGivenNames rec_ space aspace root bad
  split
  · exact hs
  · split
    · exact hs
    · extract_lets +onlyGivenNames other
      split
      · exact hs
      · extract_lets +onlyGivenNames s1
        split
        · next e3 =>
            exact (accept_canonical (canonical_ite (fun _ => hs) fun _ => setRoot_canonical (flushMarks_canonical hs))).of_some e3
        · exact hs

/-! Collective. -/

theorem collCounted_canonical {comm die core : Nat} (hs : StateCanonical s) : StateCanonical (collCounted s comm die core) :=
  hs.frame rfl

theorem enterColl_canonical {c : Command} (hs : StateCanonical s) : StateCanonical (enterColl s c) := by
  unfold enterColl
  extract_lets +onlyGivenNames t
  have ht : StateCanonical t := modCore_canonical hs fun _ h => pushCommand_canonical h
  exact collCounted_canonical (ht.frame rfl)

theorem pruneColl_canonical (hs : StateCanonical s) : StateCanonical (pruneColl s) :=
  canonical_ite (fun _ => hs) fun _ => hs.frame rfl

theorem startMember_canonical {m : Member} {c : Command} {gid n : Nat} {f : Option (Cause × Nat)} (hs : StateCanonical s) :
    StateCanonical (startMember s m c gid n f) :=
  putCore_canonical hs (startCommand_canonical (getCore_canonical hs))

theorem collRead_canonical {ms : List Member} {cs : List Command} (hs : StateCanonical s) : StateCanonical (collRead s ms cs) := by
  unfold collRead
  refine canonical_foldl hs ?_
  intro _ _ ht
  split
  · exact correctSoft_canonical ht

theorem collStarted_canonical {ms : List Member} {cs : List Command} (hs : StateCanonical s) :
    StateCanonical (collStarted s ms cs) := by
  unfold collStarted
  extract_lets +onlyGivenNames N srcs agree f s1
  have hs1 : StateCanonical s1 := by
    unfold s1
    refine canonical_foldl (canonical_when hs collRead_canonical) ?_
    intro _ _ ht
    split
    · exact startMember_canonical (canonical_ite (fun _ => ht) fun _ => putCore_canonical ht
        (spWrite_canonical (getCore_canonical ht)))
  exact hs1.frame rfl

theorem execCollectiveStart_canonical (hs : StateCanonical s) : OutCanonical (execCollectiveStart s) := by
  unfold execCollectiveStart
  refine endsBad_canonical hs ?_
  split
  · exact .next hs
  · extract_lets +onlyGivenNames me comm
    split
    · exact .next hs
    · split
      · exact .next (startMember_canonical (hs.frame rfl))
      · split
        · exact .next hs
        · split
          · exact .next (collStarted_canonical hs)
          · exact .next hs

theorem collMemberEnd_canonical {gid : Nat} {p : Nat × Nat} (hs : StateCanonical s) : StateCanonical (collMemberEnd gid s p) := by
  unfold collMemberEnd
  split
  · exact hs
  · extract_lets +onlyGivenNames s1
    have hs1 : StateCanonical s1 := putCore_canonical hs (endCommand_canonical (getCore_canonical hs))
    extract_lets +onlyGivenNames s2
    have hs2 : StateCanonical s2 := by
      unfold s2
      split
      · exact writeRecord_canonical hs1
      · exact hs1
    extract_lets +onlyGivenNames s3
    have hs3 : StateCanonical s3 := by
      unfold s3
      split
      · exact commandSignal_canonical hs2
      · exact hs2
    exact settleMarkers_canonical hs3

theorem execCollectiveEnd_canonical (hs : StateCanonical s) : OutCanonical (execCollectiveEnd s) := by
  unfold execCollectiveEnd
  extract_lets +onlyGivenNames l n
  split
  · exact .next hs
  · exact .next (canonical_foldl hs fun _ ht => collMemberEnd_canonical ht)

/-! Control. -/

theorem jumpOut_canonical {target : Word} (hs : StateCanonical s) : StateCanonical (jumpOut s target) :=
  retireJump_canonical (modCtx_canonical hs)

theorem execBr_canonical {n : BitVec 1} {p : BitVec 3} {o : BitVec 22} (hs : StateCanonical s) : OutCanonical (execBr n p o s) :=
  canonical_iteOut (fun _ => .next (jumpOut_canonical hs)) fun _ => .next (retire_canonical hs)

theorem regTarget_canonical {t : Word} {e : State} (hs : StateCanonical s) (he : StateCanonical e) :
    OutCanonical (regTarget s t e) :=
  canonical_iteOut (fun _ => .next he) fun _ => finish_canonical hs .trap

theorem startLoop_canonical {l : BitVec 2} {len : BitVec 8} {cnt : Nat} (hs : StateCanonical s) :
    OutCanonical (startLoop s l len cnt) :=
  canonical_iteOut (fun _ => finish_canonical hs .trap) fun _ => canonical_iteOut
    (fun _ => .next (retireJump_canonical (modCtx_canonical hs))) fun _ => .next (retire_canonical (modCtx_canonical hs))

theorem execGetsr_canonical {a : BitVec 5} {r : BitVec 10} (hs : StateCanonical s) : OutCanonical (execGetsr a r s) :=
  canonical_iteOut (fun _ => finish_canonical hs .trap) fun _ => canonical_iteOut (fun _ => finish_canonical hs .stall) fun _ =>
    inLine_canonical hs (.ok (setS_canonical hs))

theorem execSetsr_canonical {a : BitVec 5} {r : BitVec 10} (hs : StateCanonical s) : OutCanonical (execSetsr a r s) := by
  unfold execSetsr
  extract_lets +onlyGivenNames v upd
  split
  · exact finish_canonical hs .trap
  · split
    · exact inLine_canonical hs (.ok (modCtx_canonical hs))
    · exact inLine_canonical hs (.ok (modCtx_canonical hs))
    · exact inLine_canonical hs (.ok (modCtx_canonical hs))
    · exact inLine_canonical hs (.ok (modCtx_canonical hs))
    · exact inLine_canonical hs (.ok (modCtx_canonical hs))
    · exact canonical_iteOut (fun _ => finish_canonical hs .stall) fun _ => inLine_canonical hs (.ok (modCtx_canonical hs))
    · exact canonical_iteOut (fun _ => finish_canonical hs .stall) fun _ => inLine_canonical hs (.ok (modCtx_canonical hs))
    · exact canonical_iteOut (fun _ => .next (modCtx_canonical (retire_canonical hs))) fun _ => .next (retire_canonical hs)

/-! Drove. -/

theorem quesarPut_canonical {pa : Nat} {bytes : List Byte} (hs : StateCanonical s) : StateCanonical (quesarPut s pa bytes) :=
  wrHomeBytes_canonical (dropLines_canonical (flushHeld_canonical (flushHeld_canonical hs)))

theorem quesarWrite_canonical {pa : Nat} {bytes : List Byte} (hs : StateCanonical s) : StateCanonical (quesarWrite s pa bytes) :=
  seenLines_canonical (quesarPut_canonical hs)

theorem indexSeen_canonical {n : Nat} (hs : StateCanonical s) : StateCanonical (indexSeen s n) :=
  seenLines_canonical hs

theorem putIndex_canonical {x : IndexD} {off n v : Nat} (hs : StateCanonical s) : StateCanonical (putIndex s x off n v) :=
  quesarWrite_canonical hs

theorem putMerging_canonical {x : IndexD} {on : Bool} (hs : StateCanonical s) : StateCanonical (putMerging s x on) :=
  putIndex_canonical hs

theorem logSeen_canonical {ix : IndexD} {head n : Nat} (hs : StateCanonical s) : StateCanonical (logSeen s ix head n) :=
  canonical_foldl hs fun _ ht => seenLines_canonical ht

theorem searchStarted_canonical {c : Command} (hs : StateCanonical s) : StateCanonical (searchStarted s c) := by
  unfold searchStarted
  extract_lets +onlyGivenNames t t1
  have ht1 : StateCanonical t1 := modCore_canonical (flushDie_canonical hs) fun _ h => startCommand_canonical h
  exact ht1.frame rfl

theorem putDrove_canonical {d : Drove} (hs : StateCanonical s) : StateCanonical (putDrove s d) :=
  hs.frame rfl

theorem searchSignal_canonical {c : Command} {fault : Bool} (hs : StateCanonical s) : StateCanonical (searchSignal s c fault) := by
  unfold searchSignal
  split
  · exact hs
  · exact commandSignal_canonical hs

theorem pushFlash_canonical {x : IndexD} {fp : Nat} (hs : StateCanonical s) : StateCanonical (pushFlash s x fp) :=
  putIndex_canonical (quesarWrite_canonical hs)

theorem returnPages_canonical (hs : StateCanonical s) : StateCanonical (returnPages s) :=
  canonical_foldl hs fun _ ht => canonical_ite (fun _ => ht) fun _ => pushFlash_canonical (ht.frame rfl)

theorem searchEnded_canonical {d : Drove} {fault : Option (Cause × Nat)} (hs : StateCanonical s) :
    StateCanonical (searchEnded s d fault) := by
  unfold searchEnded
  extract_lets +onlyGivenNames c drop s1
  have hs1 : StateCanonical s1 := by
    unfold s1
    split
    · exact writeRecord_canonical hs
    · exact hs
  extract_lets +onlyGivenNames s2
  have hs2 : StateCanonical s2 := searchSignal_canonical hs1
  exact returnPages_canonical (mapCores_canonical (hs2.frame rfl) fun _ h => popMarkers_canonical (endCommand_canonical h))

theorem seekEnded_canonical {d : Drove} {fault : Option (Cause × Nat)} (hs : StateCanonical s) :
    StateCanonical (seekEnded s d fault) :=
  searchEnded_canonical (setDirty_canonical (touchLines_canonical (quesarPut_canonical hs)))

theorem seekOn_canonical {ix : IndexD} {q : List Val} {d : Drove} (hs : StateCanonical s) : StateCanonical (seekOn s ix q d) := by
  unfold seekOn
  generalize logBad s ix d.head _ = bad
  generalize hopOn s ix (seekHops d.cmd.body + 1) d = hops
  obtain _ | ⟨d1, _ | _⟩ := hops
  · exact seekEnded_canonical hs
  · exact putDrove_canonical hs
  · cases bad with
    | some a => exact seekEnded_canonical hs
    | none => exact canonical_ite (fun _ => seekEnded_canonical hs) fun _ => seekEnded_canonical hs

theorem seekStarted_canonical {c : Command} (hs : StateCanonical s) : StateCanonical (seekStarted s c) := by
  unfold seekStarted
  extract_lets +onlyGivenNames s1
  have hs1 : StateCanonical s1 := searchStarted_canonical hs
  extract_lets +onlyGivenNames _ d s2
  have hs2 : StateCanonical s2 := touchLines_canonical (indexSeen_canonical hs1)
  split
  · exact searchEnded_canonical hs1
  · split
    · exact searchEnded_canonical hs1
    · split
      · exact seekEnded_canonical hs1
      · split
        · exact seekEnded_canonical hs2
        · split
          · exact seekEnded_canonical hs2
          · extract_lets +onlyGivenNames n d1 s3
            have hs3 : StateCanonical s3 := logSeen_canonical hs2
            split
            · exact seekOn_canonical hs3
            · exact putDrove_canonical hs3

theorem execSeekStart_canonical (hs : StateCanonical s) : OutCanonical (execSeekStart s) := by
  unfold execSeekStart
  split
  · exact endsBad_canonical hs (.next hs)
  · exact canonical_iteOut (fun _ => .next hs) fun _ => .next (seekStarted_canonical hs)

theorem pageArrived_canonical {d : Drove} {fp : Nat} (hs : StateCanonical s) : StateCanonical (pageArrived s d fp) := by
  unfold pageArrived
  split
  · exact seekEnded_canonical hs
  · extract_lets +onlyGivenNames q
    split
    · exact seekEnded_canonical hs
    · exact canonical_ite (fun _ => putDrove_canonical hs) fun _ => seekOn_canonical hs

theorem execDrovePageArrival_canonical {k fp : Nat} (hs : StateCanonical s) : OutCanonical (execDrovePageArrival k fp s) := by
  unfold execDrovePageArrival
  split
  · exact .next hs
  · exact canonical_iteOut (fun _ => .next (pageArrived_canonical hs)) fun _ => .next hs

theorem execKfetchStart_canonical (hs : StateCanonical s) : OutCanonical (execKfetchStart s) := by
  unfold execKfetchStart
  split
  · exact .next hs
  · extract_lets +onlyGivenNames d s1
    have hs1 : StateCanonical s1 := indexSeen_canonical (searchStarted_canonical hs)
    split
    · exact .next (searchEnded_canonical hs1)
    · split
      · exact .next (searchEnded_canonical hs1)
      · exact .next hs1

theorem linkBlock_canonical {d : Drove} {ix : IndexD} (hs : StateCanonical s) : StateCanonical (linkBlock s d ix) := by
  unfold linkBlock
  extract_lets +onlyGivenNames c b fp B failed
  split
  · exact searchEnded_canonical hs
  · split
    · exact searchEnded_canonical hs
    · split
      · exact searchEnded_canonical hs
      · extract_lets +onlyGivenNames e_1 l
        split
        · exact searchEnded_canonical hs
        · extract_lets +onlyGivenNames s1 s2 s3
          have hs3 : StateCanonical s3 := changeEntry_canonical (seenLines_canonical (copyHome_canonical (putIndex_canonical hs)))
          exact canonical_ite (fun _ => searchEnded_canonical hs3) fun _ => putDrove_canonical hs3

theorem execKfetchBlockArrival_canonical {k : Nat} (hs : StateCanonical s) : OutCanonical (execKfetchBlockArrival k s) := by
  unfold execKfetchBlockArrival
  split
  · exact .next hs
  · split
    · exact .next hs
    · split
      · exact .next (searchEnded_canonical hs)
      · exact canonical_iteOut (fun _ => .next hs) fun _ => .next (linkBlock_canonical hs)

theorem execPageReadRequeue_canonical {k fp : Nat} (hs : StateCanonical s) : OutCanonical (execPageReadRequeue k fp s) := by
  unfold execPageReadRequeue
  split
  · exact .next hs
  · exact canonical_iteOut (fun _ => canonical_iteOut (fun _ => .next hs) fun _ => canonical_iteOut
      (fun _ => .next (seekEnded_canonical hs)) fun _ => .next (putDrove_canonical hs)) fun _ => canonical_iteOut
        (fun _ => .next (putDrove_canonical hs)) fun _ => .next hs

theorem bodyTouched_canonical {c : Command} {ix : IndexD} (hs : StateCanonical s) : StateCanonical (bodyTouched s c ix) :=
  canonical_unless hs touchLines_canonical

theorem sappendDo_canonical {s0 : State} {c : Command} (hs0 : StateCanonical s0) : StateCanonical (sappendDo s0 c).1 := by
  unfold sappendDo
  extract_lets +onlyGivenNames s
  have hs : StateCanonical s := indexSeen_canonical hs0
  split
  · exact hs
  · split
    · exact hs
    · split
      · exact hs
      · exact putIndex_canonical (quesarWrite_canonical (bodyTouched_canonical hs))

theorem execSappendStart_canonical (hs : StateCanonical s) : OutCanonical (execSappendStart s) := by
  unfold execSappendStart
  split
  · exact .next hs
  · extract_lets +onlyGivenNames c_1
    split
    · exact .next hs
    · split
      · next e1 =>
          exact .next (searchEnded_canonical (canonical_fst (sappendDo_canonical (searchStarted_canonical hs)) e1))

theorem writePage_canonical {ix : IndexD} {places : List (Nat × Nat)} {g : List MNode} {p : Nat × Nat} (hs : StateCanonical s) :
    StateCanonical (writePage ix places g s p) :=
  canonical_foldl (canonical_ite (fun _ => copyHome_canonical hs) fun _ => zeroHome_canonical hs) fun _ ht =>
    quesarWrite_canonical ht

theorem mergeUndone_canonical {ix : IndexD} {taken : List Nat} {head : Nat} (hs : StateCanonical s) :
    StateCanonical (mergeUndone s ix taken head) :=
  canonical_foldl (putIndex_canonical hs) fun _ ht => pushFlash_canonical ht

theorem mergeWrite_canonical {d : Drove} {ix : IndexD} {g : List MNode} {pages : List Nat} (hs : StateCanonical s) :
    StateCanonical (mergeWrite s d ix g pages).1 := by
  unfold mergeWrite
  split
  · extract_lets +onlyGivenNames good places
    split
    · split
      · exact mergeUndone_canonical (canonical_foldl hs fun _ ht => writePage_canonical ht)
    · extract_lets +onlyGivenNames s1
      have hs1 : StateCanonical s1 := canonical_foldl hs fun _ ht => writePage_canonical ht
      split
      · exact mergeUndone_canonical hs1
      · extract_lets +onlyGivenNames s2
        have hs2 : StateCanonical s2 := putIndex_canonical (putIndex_canonical (putIndex_canonical hs1))
        exact hs2.frame rfl

theorem mergeDo_fstCanonical {s0 : State} {d : Drove} {ix : IndexD} (hs0 : StateCanonical s0) : FstCanonical (mergeDo s0 d ix) := by
  generalize h : @mergeDo = f
  delta mergeDo at h
  subst h
  beta_reduce
  extract_lets +onlyGivenNames n s addrs
  have hs : StateCanonical s := logSeen_canonical hs0
  have merged (g : List MNode) (pages : List Nat) : FstCanonical (mergeWrite s d ix g pages) := mergeWrite_canonical hs
  clear_value s addrs n
  generalize logBad s ix d.head n = bad
  generalize addrs.mapM (m := Except Cause) _ = log
  generalize loadGraph s ix _ _ _ = graph
  obtain _ | a := bad
  · obtain e | log := log
    · exact hs
    · obtain e | g0 := graph
      · exact hs
      · exact merged _ _
  · exact hs

theorem mergeDo_canonical {s0 : State} {d : Drove} {ix : IndexD} (hs0 : StateCanonical s0) : StateCanonical (mergeDo s0 d ix).1 :=
  mergeDo_fstCanonical hs0

theorem mergeBegin_canonical {s0 : State} {d : Drove} (hs0 : StateCanonical s0) : StateCanonical (mergeBegin s0 d) := by
  unfold mergeBegin
  extract_lets +onlyGivenNames s
  have hs : StateCanonical s := indexSeen_canonical hs0
  split
  · exact searchEnded_canonical hs
  · split
    · exact putDrove_canonical hs
    · exact putMerging_canonical (putDrove_canonical hs)

theorem execSmergeStart_canonical (hs : StateCanonical s) : OutCanonical (execSmergeStart s) := by
  unfold execSmergeStart
  split
  · exact .next hs
  · exact .next (mergeBegin_canonical (searchStarted_canonical hs))

theorem wakeMerges_canonical {index fuel : Nat} (hs : StateCanonical s) : StateCanonical (wakeMerges index fuel s) := by
  induction fuel generalizing s with
  | zero => exact hs
  | succ fuel ih =>
    unfold wakeMerges
    split
    · exact hs
    · exact canonical_unless (mergeBegin_canonical hs) ih

theorem wakeMerge_canonical {index : Nat} (hs : StateCanonical s) : StateCanonical (wakeMerge s index) :=
  wakeMerges_canonical hs

theorem execSmergeSwap_canonical {k : Nat} (hs : StateCanonical s) : OutCanonical (execSmergeSwap k s) := by
  unfold execSmergeSwap
  obtain ⟨merge, hm, merged⟩ : ∃ f, f = mergeDo s ∧ ∀ d ix, StateCanonical (f d ix).1 :=
    ⟨_, rfl, fun _ _ => mergeDo_canonical hs⟩
  rw [← hm]
  split
  · exact .next hs
  · split
    · exact .next hs
    · split
      · exact .next (wakeMerge_canonical (searchEnded_canonical hs))
      · exact .next (wakeMerge_canonical (searchEnded_canonical (putMerging_canonical (merged _ _))))

/-! Image. -/

theorem writeImage_canonical {frame : Nat} {k : Core} (hs : StateCanonical s) : StateCanonical (writeImage s frame k) :=
  wrHome_canonical (zeroHome_canonical hs)

theorem readImage_canonical {frame : Nat} {k : Core} {names : Nat → Word} (hs : StateCanonical s) :
    CoreCanonical (readImage s frame k names) :=
  ⟨wf_readBuf s frame 0 (mem_canonical hs), wf_readBuf s frame 1 (mem_canonical hs), wf_readBuf s frame 2 (mem_canonical hs)⟩

/-! Group. -/

theorem execIterationHandout_canonical {die e : Nat} (hs : StateCanonical s) : OutCanonical (execIterationHandout die e s) := by
  unfold execIterationHandout
  split
  · exact .next hs
  · split
    · extract_lets +onlyGivenNames c
      have hc : CoreCanonical c := getCore_canonical hs
      exact .next (modKernel_canonical (putCore_canonical hs (hc.frame rfl)))
    · exact .next hs

theorem bringInput_canonical {c : Context} {p : Pref} {n : Nat} (hs : StateCanonical s) : StateCanonical (bringInput s c p n) :=
  canonical_when hs enterPlain_canonical

theorem makeRunnable_canonical {slot : Nat} (hs : StateCanonical s) : StateCanonical (makeRunnable s slot) := by
  unfold makeRunnable
  extract_lets +onlyGivenNames f t
  have ht : StateCanonical t := modCore_canonical hs fun _ h => h.frame rfl
  exact ht.frame rfl

theorem execDeclaredInputsArrived_canonical {slot : Nat} (hs : StateCanonical s) :
    OutCanonical (execDeclaredInputsArrived slot s) := by
  unfold execDeclaredInputsArrived
  split
  · exact .next hs
  · split
    · exact .next hs
    · split
      · exact .next (makeRunnable_canonical hs)
      · split
        · exact .next hs
        · split
          · exact .next (bringInput_canonical hs)
          · exact .next hs

theorem execContextStart_canonical (hs : StateCanonical s) : OutCanonical (execContextStart s) := by
  unfold execContextStart
  split
  · exact .next hs
  · exact canonical_iteOut (fun _ => .next (modCore_canonical (dropCopies_canonical hs) fun _ h => h.frame rfl)) fun _ => .next hs

theorem retireCtx_canonical (hs : StateCanonical s) : StateCanonical (retireCtx s) :=
  sweepRetired_canonical (modCtx_canonical (canonical_unless hs vecMarked_canonical))

theorem takeCore_canonical {k : KEntry} {guard : Bool} {gang : List Nat} {n : Nat} (hs : StateCanonical s) :
    StateCanonical (takeCore s k guard gang n) := by
  unfold takeCore
  extract_lets +onlyGivenNames c
  have hc : CoreCanonical c := getCore_canonical hs
  exact putCore_canonical hs (canonical_iteCore (fun _ => enterGuard_canonical (hc.frame rfl)) fun _ => hc.frame rfl)

theorem placeGroup_canonical {k : KEntry} {gangs : List (List Nat)} (hs : StateCanonical s) :
    StateCanonical (placeGroup s k gangs) := by
  unfold placeGroup
  extract_lets +onlyGivenNames guard s1 t
  have ht : StateCanonical t := modKernel_canonical
    (canonical_foldl hs fun _ ht => canonical_foldl ht fun _ ht1 => takeCore_canonical ht1)
  exact ht.frame rfl

theorem requestCores_canonical {k : KEntry} (hs : StateCanonical s) : StateCanonical (requestCores s k) := by
  unfold requestCores
  extract_lets +onlyGivenNames p groups coming order
  split
  · exact hs
  · exact canonical_foldl hs fun _ ht => modKernel_canonical ht

theorem requestAll_canonical {die : Nat} (hs : StateCanonical s) : StateCanonical (requestAll s die) :=
  canonical_foldl hs fun _ ht => canonical_unless ht requestCores_canonical

theorem execStewardDispatch_canonical {die : Nat} (hs : StateCanonical s) : OutCanonical (execStewardDispatch die s) := by
  unfold execStewardDispatch
  split
  · exact .next hs
  · split
    · exact .next (placeGroup_canonical hs)
    · exact .next (requestAll_canonical hs)

theorem scrubbed_canonical {aspace : BitVec 12} {k : Core} (hk : CoreCanonical k) : CoreCanonical (scrubbed aspace k) := by
  unfold scrubbed
  split
  · extract_lets +onlyGivenNames k1
    have hk1 : CoreCanonical k1 := core_reset_canonical
    exact hk1.frame rfl
  · exact hk

theorem execScrubComplete_canonical {die e : Nat} (hs : StateCanonical s) : OutCanonical (execScrubComplete die e s) := by
  unfold execScrubComplete
  split
  · exact .next hs
  · exact .next (modKernel_canonical (canonical_foldl hs fun _ ht => putCore_canonical ht
      (scrubbed_canonical (getCore_canonical ht))))

theorem execYield_canonical (hs : StateCanonical s) : OutCanonical (execYield s) := by
  unfold execYield
  extract_lets +onlyGivenNames t
  have ht : StateCanonical t := retire_canonical hs
  split
  · exact .next ht
  · split
    · exact .next ht
    · exact .next (modKernel_canonical ht)

theorem drainGroup_canonical {k : KEntry} (hs : StateCanonical s) : StateCanonical (drainGroup s k) := by
  unfold drainGroup
  extract_lets +onlyGivenNames ts s1
  have hs1 : StateCanonical s1 := by
    unfold s1
    refine canonical_foldl hs ?_
    intro _ _ ht
    extract_lets +onlyGivenNames c
    have hc : CoreCanonical c := getCore_canonical ht
    exact putCore_canonical ht (popMarkers_canonical (hc.frame rfl))
  exact modKernel_canonical hs1

theorem discardGroup_canonical {k : KEntry} (hs : StateCanonical s) : StateCanonical (discardGroup s k) :=
  modKernel_canonical (leaveLocks_canonical (stopGroup_canonical hs))

theorem takeFrame_canonical {die : Nat} (hs : StateCanonical s) : StateCanonical (takeFrame s die).1 :=
  hs.frame rfl

theorem saveGroup_canonical {k : KEntry} (hs : StateCanonical s) : StateCanonical (saveGroup s k) := by
  unfold saveGroup
  split
  next s1 frames h =>
    have hs1 : StateCanonical s1 := by
      refine canonical_fst (canonical_foldlFst hs fun _ ht => putCore_canonical (takeFrame_canonical ht) ?_) h
      exact (getCore_canonical (takeFrame_canonical ht)).frame rfl
    exact modKernel_canonical hs1

theorem sweepGroup_canonical {die e : Nat} (hs : StateCanonical s) : StateCanonical (sweepGroup s die e) := by
  unfold sweepGroup
  split
  · exact canonical_foldl hs fun _ ht => sweepRetired_canonical ht
  · exact hs

theorem heldDone_canonical {k : KEntry} (hs : StateCanonical s) : StateCanonical (heldDone s k) := by
  unfold heldDone
  refine canonical_foldl hs ?_
  intro _ _ ht
  extract_lets +onlyGivenNames c
  have hc : CoreCanonical c := getCore_canonical ht
  exact canonical_ite (fun _ => putCore_canonical ht (hc.frame rfl)) fun _ => ht

theorem abortTrapped_canonical {k : KEntry} (hs : StateCanonical s) : StateCanonical (abortTrapped s k) := by
  unfold abortTrapped
  split
  · exact abortGroup_canonical hs
  · exact hs

theorem decideOn_canonical {k : KEntry} {v : Victim} (hs : StateCanonical s) : StateCanonical (decideOn s k v) := by
  unfold decideOn
  split
  · exact drainGroup_canonical hs
  · exact discardGroup_canonical hs
  · exact saveGroup_canonical hs
  · exact canonical_when hs modKernel_canonical

theorem execEstimatorDecision_canonical {die e : Nat} (hs : StateCanonical s) : OutCanonical (execEstimatorDecision die e s) := by
  unfold execEstimatorDecision
  extract_lets +onlyGivenNames t
  have ht : StateCanonical t := sweepGroup_canonical hs
  split
  · exact .next ht
  · split
    · exact .next ht
    · exact canonical_iteOut (fun _ => .next (abortTrapped_canonical ht)) fun _ => canonical_iteOut
        (fun _ => .next (saveGroup_canonical (heldDone_canonical hs))) fun _ => .next (decideOn_canonical ht)

theorem dropAhead_canonical {k : Core} (hk : CoreCanonical k) : CoreCanonical (dropAhead k) :=
  hk.frame rfl

theorem leaveWaiters_canonical {k : KEntry} (hs : StateCanonical s) : StateCanonical (leaveWaiters s k) := by
  unfold leaveWaiters
  refine relend_canonical ?_
  refine canonical_foldl hs ?_
  intro _ _ ht
  extract_lets +onlyGivenNames c
  have hc : CoreCanonical c := getCore_canonical ht
  exact putCore_canonical ht (hc.frame rfl)

theorem saveWakes_canonical {k : KEntry} (hs : StateCanonical s) : StateCanonical (saveWakes s k) :=
  canonical_when hs dropCopies_canonical

theorem saveDone_canonical {k : KEntry} (hs : StateCanonical s) : StateCanonical (saveDone s k) := by
  unfold saveDone
  extract_lets +onlyGivenNames left
  have hleft : StateCanonical left := canonical_foldl (leaveWaiters_canonical (saveWakes_canonical hs)) fun _ ht =>
    correctWords_canonical ht
  extract_lets +onlyGivenNames kept s1
  have hs1 : StateCanonical s1 := by
    unfold s1
    refine canonical_foldl (canonical_foldl hleft fun _ ht => flushTlb_canonical ht) ?_
    intro _ _ ht
    split
    · exact writeImage_canonical ht
  extract_lets +onlyGivenNames open_ t
  have ht : StateCanonical t := modKernel_canonical (freeCores_canonical hs1)
  exact ht.frame rfl

theorem execPreemptionComplete_canonical {die e : Nat} (hs : StateCanonical s) : OutCanonical (execPreemptionComplete die e s) := by
  unfold execPreemptionComplete
  split
  · exact .next hs
  · extract_lets +onlyGivenNames back
    split
    · exact .next hs
    · split
      · exact canonical_iteOut (fun _ => .next (modKernel_canonical
          (canonical_foldl (freeCores_canonical (kernelRelease_canonical hs)) fun _ ht => putCore_canonical ht
            (dropAhead_canonical (getCore_canonical ht))))) fun _ => .next hs
      · exact .next (modKernel_canonical (canonical_foldl (freeCores_canonical (kernelRelease_canonical hs)) fun _ ht =>
          putCore_canonical ht (dropAhead_canonical (getCore_canonical ht))))
      · extract_lets +onlyGivenNames t
        have ht : StateCanonical t := saveDone_canonical hs
        refine .next ?_
        split
        · split
          · exact savedEnds_canonical ht
          · exact ht
        · exact ht
      · exact .next hs

theorem changedNotify_canonical {cls : Nat} {b : BitVec 512} (hs : StateCanonical s) :
    ExceptCanonical StateCanonical (changedNotify s cls b) := by
  unfold changedNotify
  extract_lets +onlyGivenNames l bar
  split
  · exact .error
  · exact .ok (modCore_canonical hs fun _ h => h.frame rfl)

theorem changedColl_canonical {was c : Option Command} (hs : StateCanonical s) : StateCanonical (changedColl s was c).1 := by
  unfold changedColl
  extract_lets +onlyGivenNames old gone
  clear_value old
  split
  · split
    · exact hs
    · exact collCounted_canonical (hs.frame rfl)
  · exact collCounted_canonical hs
  · exact hs.frame rfl

theorem changedEntry_canonical {cls : Nat} {was : Option Command} {b : BitVec 512} (hs : StateCanonical s) :
    StateCanonical (changedEntry s cls was b).1 := by
  unfold changedEntry
  extract_lets +onlyGivenNames base bad
  split
  next s1 c h =>
    have hs1 : StateCanonical s1 := by
      split at h
      · split at h
        · next e => exact canonical_fst ((changedNotify_canonical hs).of_ok e) h
        · exact canonical_fst hs h
      · split at h
        · exact canonical_fst hs h
        · exact canonical_fst hs h
    extract_lets +onlyGivenNames s2
    have hs2 : StateCanonical s2 := hs1.frame rfl
    split
    · exact changedColl_canonical hs2
    · exact hs2

theorem restoreQueue_canonical {frame : Nat} {pairs : List (Nat × Nat)} {kept : Core} {cls : Nat} (hs : StateCanonical s) :
    StateCanonical (restoreQueue s frame pairs kept cls) := by
  refine canonical_foldl hs fun x ht => ?_
  split
  split
  next t1 found h =>
    have ht1 : StateCanonical t1 := by
      split at h
      · split at h
        · exact canonical_fst ht h
        · exact canonical_fst (changedEntry_canonical ht) h
      · exact canonical_fst (changedEntry_canonical ht) h
    split
    · exact modCore_canonical ht1 fun _ h => h.frame rfl
    · exact ht1

theorem payOwed_canonical {k : KEntry} {pairs : List (Nat × Nat)} (hs : StateCanonical s) : StateCanonical (payOwed s k pairs) := by
  unfold payOwed
  extract_lets +onlyGivenNames q s1
  have hs1 : StateCanonical s1 := by
    unfold s1
    refine canonical_foldl hs ?_
    intro _ _ ht
    split
    · exact signal_canonical ht
  exact modKernel_canonical hs1

theorem followCores_canonical {k : KEntry} {pairs : List (Nat × Nat)} (hs : StateCanonical s) :
    StateCanonical (followCores s k pairs) :=
  hs.frame rfl

theorem restoreCore_canonical {k : KEntry} {pairs : List (Nat × Nat)} {num frame : Nat} {kept : Core} (hs : StateCanonical s) :
    StateCanonical (restoreCore s k pairs num frame kept) := by
  unfold restoreCore
  extract_lets +onlyGivenNames here
  have hhere : CoreCanonical here := getCore_canonical hs
  extract_lets +onlyGivenNames c
  have hc : CoreCanonical c := readImage_canonical hs
  extract_lets +onlyGivenNames c0 c1 t t1
  have ht1 : StateCanonical t1 := modCore_canonical
    (canonical_foldl (focus_canonical (putCore_canonical hs
      (canonical_iteCore (fun _ => enterGuard_canonical (hc.frame rfl)) fun _ => hc.frame rfl))) fun _ ht =>
        restoreQueue_canonical ht) fun _ h => popMarkers_canonical h
  extract_lets +onlyGivenNames c2
  split
  · exact modCtx_canonical ht1
  · split
    · exact modCore_canonical ht1 fun _ h => h.frame rfl
    · split
      · exact modCtx_canonical ht1
      · exact takeTrap_canonical (modCtx_canonical ht1)

theorem groupRestored_canonical {k : KEntry} (hs : StateCanonical s) : StateCanonical (groupRestored s k) := by
  unfold groupRestored
  extract_lets +onlyGivenNames pairs parts s1
  have hs1 : StateCanonical s1 := by
    unfold s1
    refine canonical_foldl (followCores_canonical hs) ?_
    intro _ _ ht
    split
    · exact restoreCore_canonical ht
  extract_lets +onlyGivenNames s2 s3
  have hs3 : StateCanonical s3 := payOwed_canonical (modKernel_canonical (returnFrames_canonical hs1))
  split
  · split
    · exact cancelKernel_canonical hs3
    · exact hs3
  · exact abortTrapped_canonical hs3

theorem execRestoreComplete_canonical {die e : Nat} (hs : StateCanonical s) : OutCanonical (execRestoreComplete die e s) := by
  unfold execRestoreComplete
  split
  · exact .next hs
  · exact canonical_iteOut (fun _ => .next (groupRestored_canonical hs)) fun _ => .next
      (abortGroup_canonical (writeRecord_canonical hs))

theorem execKernelEnd_canonical {die e : Nat} (hs : StateCanonical s) : OutCanonical (execKernelEnd die e s) := by
  unfold execKernelEnd
  split
  · exact .next hs
  · exact canonical_iteOut (fun _ => canonical_iteOut (fun _ => .next (endNow_canonical hs)) fun _ => .next
      (modKernel_canonical (relend_canonical (freeCores_canonical (kernelRelease_canonical hs))))) fun _ => .next hs

theorem hostPreempt_canonical {die entry dead : Nat} (hs : StateCanonical s) : StateCanonical (hostPreempt s die entry dead) := by
  unfold hostPreempt
  split
  · exact hs
  · exact modKernel_canonical hs

/-! Link. -/

theorem addNown_canonical (hs : StateCanonical s) : StateCanonical (addNown s) :=
  hs.frame rfl

theorem ownedDo_canonical {m : Nat} {f : State → State} (hs : StateCanonical s)
    (hf : ∀ a, StateCanonical a → StateCanonical (f a)) : OutCanonical (ownedDo s m f) :=
  .next (canonical_ite (fun _ => hs) fun _ => canonical_ite (fun _ => hf _ hs) fun _ => addNown_canonical hs)

theorem putLink_canonical {n : Nat} {l : Link} (hs : StateCanonical s) : StateCanonical (putLink s n l) :=
  canonical_unless (hs.frame rfl) raiseMsix_canonical

theorem linkOn_canonical {n : Nat} (hs : StateCanonical s) : StateCanonical (linkOn s n) :=
  canonical_ite (fun _ => hs) fun _ => canonical_ite (fun _ => putLink_canonical hs) fun _ => putLink_canonical hs

theorem linkOff_canonical {n : Nat} (hs : StateCanonical s) : StateCanonical (linkOff s n) :=
  canonical_when hs putLink_canonical

theorem abortSaved_canonical {k : KEntry} {c : Cause} (hs : StateCanonical s) : StateCanonical (abortSaved s k c) :=
  savedEnds_canonical (chargeCause_canonical hs)

theorem linkAbort_canonical {x : Abandoned} (hs : StateCanonical s) : StateCanonical (linkAbort s x) := by
  unfold linkAbort
  split
  · exact hs
  · extract_lets +onlyGivenNames s1
    have hs1 : StateCanonical s1 := writeRecord_canonical hs
    exact canonical_ite (fun _ => abortSaved_canonical hs1) fun _ => abortGroup_canonical hs1

theorem moduleFails_canonical (hs : StateCanonical s) : StateCanonical (moduleFails s) := by
  unfold moduleFails
  extract_lets +onlyGivenNames ids t
  have ht : StateCanonical t := canonical_foldl hs fun _ ht => linkAbort_canonical ht
  exact ht.frame rfl

theorem linkMoved_canonical {n : Nat} {l : Link} (hs : StateCanonical s) : StateCanonical (linkMoved s n l) := by
  unfold linkMoved
  extract_lets +onlyGivenNames s1
  have hs1 : StateCanonical s1 := putLink_canonical hs
  exact canonical_when hs1 moduleFails_canonical

theorem dropAt_canonical {ports : List Nat} {n : Nat} (hs : StateCanonical s) : StateCanonical (dropAt s ports n) :=
  canonical_foldl hs fun _ ht => putLink_canonical ht

theorem abandonOn_canonical {pkg : Nat} {k : Core} (hk : CoreCanonical k) : CoreCanonical (abandonOn s pkg k) :=
  hk.frame rfl

theorem execPathLossTimeout_canonical {pkg : Nat} (hs : StateCanonical s) : OutCanonical (execPathLossTimeout pkg s) :=
  .next (canonical_foldl (canonical_foldl (canonical_foldl
    (mapCores_canonical (hs.frame rfl) fun _ h => canonical_iteCore (fun _ => abandonOn_canonical h) fun _ => h) fun _ ht =>
      dropAt_canonical ht) fun _ ht => searchEnded_canonical ht) fun _ ht => linkAbort_canonical ht)

theorem execDieBoundaryFailure_canonical (hs : StateCanonical s) : OutCanonical (execDieBoundaryFailure s) := by
  unfold execDieBoundaryFailure
  split
  · exact .next hs
  · exact .next (bumpFresh_canonical (linkMoved_canonical hs))

theorem outsideDo_canonical {pa n : Nat} {f : State → State} (hs : StateCanonical s)
    (hf : ∀ a, StateCanonical a → StateCanonical (f a)) : OutCanonical (outsideDo s pa n f) :=
  canonical_iteOut (fun _ => .next hs) fun _ => .next (hf _ hs)

theorem answered_canonical {bytes : List Byte} (hs : StateCanonical s) : StateCanonical (answered s bytes) :=
  hs.frame rfl

theorem execHostMemoryAccess_canonical {pa : Nat} {wr : Option (List (BitVec 8))} (hs : StateCanonical s) :
    OutCanonical (execHostMemoryAccess pa wr s) := by
  unfold execHostMemoryAccess
  split
  · exact .next (answered_canonical hs)
  · extract_lets +onlyGivenNames line
    split
    · exact outsideDo_canonical hs fun _ h => answered_canonical (seenAt_canonical h)
    · exact outsideDo_canonical hs fun _ h => seenAt_canonical (answered_canonical (wrHomeBytes_canonical h))

theorem outsideAtomic_canonical {pa n : Nat} {f : Nat → Nat} (hs : StateCanonical s) : OutCanonical (outsideAtomic s pa n f) :=
  canonical_iteOut (fun _ => .next (answered_canonical hs)) fun _ => outsideDo_canonical hs fun _ h => seenAt_canonical
    (answered_canonical (wrHomeNat_canonical h))

theorem execHostAtomic_canonical {op : BitVec 2} {sz : BitVec 1} {pa : Nat} {v e : BitVec 64} (hs : StateCanonical s) :
    OutCanonical (execHostAtomic op sz pa v e s) :=
  canonical_iteOut (fun _ => .next (answered_canonical hs)) fun _ => outsideAtomic_canonical hs

theorem barAnswer_canonical {c : Cause} {v : Word} (hs : StateCanonical s) : StateCanonical (barAnswer s c v) :=
  answered_canonical hs

theorem podWaiting_canonical {key : BarKey} {holder : BitVec 48} {group : BitVec 16} {prio : BitVec 8} (hs : StateCanonical s) :
    StateCanonical (podWaiting s key holder group prio) :=
  lendOn_canonical (hs.frame rfl)

theorem podLeaves_canonical {key : BarKey} {holder : BitVec 48} (hs : StateCanonical s) : StateCanonical (podLeaves s key holder) :=
  relend_canonical (hs.frame rfl)

theorem answeredFirst_canonical {reply : List Byte} {f : State → State} (hs : StateCanonical s)
    (hf : ∀ a, StateCanonical a → StateCanonical (f a)) : StateCanonical (answeredFirst s reply f) := by
  unfold answeredFirst
  extract_lets +onlyGivenNames t
  have ht : StateCanonical t := hf _ (answered_canonical hs)
  exact answered_canonical ht

theorem podParked_canonical {w : PodPark} (hs : StateCanonical s) : StateCanonical (podParked s w) :=
  answered_canonical (hs.frame rfl)

theorem podBarrier_canonical {s0 : State} {key : BarKey} {op : PodBarOp} (hs0 : StateCanonical s0) :
    StateCanonical (podBarrier s0 key op) := by
  unfold podBarrier
  extract_lets +onlyGivenNames s b unfit done
  have hs : StateCanonical s := by
    cases op with
    | join => exact testBar_canonical hs0
    | wait => exact testBar_canonical hs0
    | test => exact testBar_canonical hs0
    | _ => exact hs0
  have hunfit : StateCanonical unfit := barAnswer_canonical hs
  have hdone {f : State → State} {v : Word} (hf : ∀ t, StateCanonical t → StateCanonical (f t)) : StateCanonical (done f v) :=
    answeredFirst_canonical hs hf
  clear_value s unfit done
  split
  · split
    · exact barAnswer_canonical hs
    · exact barAnswer_canonical (putBar_canonical hs)
  · exact canonical_ite (fun _ => hdone fun _ ht => dropMember_canonical ht) fun _ => hunfit
  · exact canonical_ite (fun _ => hunfit) fun _ => hdone fun _ ht => arrive_canonical ht
  · exact canonical_ite (fun _ => hunfit) fun _ => hdone fun _ ht => takeBytes_canonical ht
  · exact canonical_ite (fun _ => hunfit) fun _ => barAnswer_canonical (putBar_canonical hs)
  · exact canonical_ite (fun _ => hunfit) fun _ =>
      canonical_ite (fun _ => barAnswer_canonical hs) fun _ => podParked_canonical hs
  · exact canonical_ite (fun _ => hunfit) fun _ => hdone fun _ ht => wakeFuture_canonical (putBar_canonical ht)
  · exact canonical_ite (fun _ => hunfit) fun _ =>
      canonical_ite (fun _ => barAnswer_canonical hs) fun _ => podParked_canonical hs
  · exact canonical_ite (fun _ => hunfit) fun _ => barAnswer_canonical hs
  · exact canonical_ite (fun _ => hunfit) fun _ =>
      canonical_ite (fun _ => answered_canonical (podWaiting_canonical hs)) fun _ => barAnswer_canonical (putBar_canonical hs)
  · exact canonical_ite (fun _ => hunfit) fun _ => hdone fun _ ht => lockRelease_canonical ht
  · exact canonical_ite (fun _ => hunfit) fun _ => hdone fun _ ht => lockRelease_canonical ht
  · exact barAnswer_canonical (hs.frame rfl)
  · exact barAnswer_canonical (podLeaves_canonical hs)

theorem execPodRequest_canonical {req : PodReq} (hs : StateCanonical s) : OutCanonical (execPodRequest req s) := by
  unfold execPodRequest
  extract_lets +onlyGivenNames mask size
  split
  · exact canonical_iteOut (fun _ => outsideDo_canonical hs fun _ h => answered_canonical (seenAt_canonical h)) fun _ => .next
      (answered_canonical hs)
  · exact canonical_iteOut (fun _ => outsideDo_canonical hs fun _ h => seenAt_canonical
      (answered_canonical (wrHomeBytes_canonical h))) fun _ => .next (answered_canonical hs)
  · exact canonical_iteOut (fun _ => outsideAtomic_canonical hs) fun _ => .next (answered_canonical hs)
  · exact canonical_iteOut (fun _ => outsideAtomic_canonical hs) fun _ => .next (answered_canonical hs)
  · exact canonical_iteOut (fun _ => outsideAtomic_canonical hs) fun _ => .next (answered_canonical hs)
  · exact canonical_iteOut (fun _ => .next (podBarrier_canonical hs)) fun _ => .next (answered_canonical hs)

theorem netLand_canonical {aspace : BitVec 12} {va : Nat} {pas : List Nat} {bytes : List Byte} (hs : StateCanonical s) :
    StateCanonical (netLand s aspace va pas bytes) :=
  canonical_foldl (wrHome_canonical hs) fun _ ht => canonical_when ht setDirty_canonical

theorem execRocev2Message_canonical {qp : Nat} {msg : RoceMsg} (hs : StateCanonical s) :
    OutCanonical (execRocev2Message qp msg s) := by
  refine canonical_iteOut (fun _ => .next hs) fun _ => ?_
  extract_lets +onlyGivenNames land
  have hland (aspace : BitVec 12) (va : Nat) (bytes : List Byte) : OutCanonical (land aspace va bytes) := by
    unfold land
    split
    · exact .next hs
    · exact canonical_iteOut (fun _ => .next hs) fun _ => .next (netLand_canonical hs)
  clear_value land
  split
  · exact hland _ _ _
  · exact hland _ _ _
  · split
    · exact .next hs
    · exact canonical_iteOut (fun _ => .next hs) fun _ => .next (answered_canonical hs)
  · exact .next hs

theorem tagDropped_canonical {port : Nat} (hs : StateCanonical s) : StateCanonical (tagDropped s port) :=
  putLink_canonical hs

theorem armedLaunch_canonical {x : Arm} {stream : BitVec 32} {va : Word} (hs : StateCanonical s) :
    OptionCanonical StateCanonical (armedLaunch s x stream va) := by
  unfold armedLaunch
  split
  next s1 slot h =>
    have hs1 : StateCanonical s1 := by
      split at h
      · exact canonical_fst hs h
      · exact canonical_fst (bindLaunch_canonical hs) h
    split
    · exact .none
    · next s2 _ e =>
        have hs2 : StateCanonical s2 := (accept_canonical hs1).of_some e
        exact .some (canonical_ite (fun _ => hs2.frame rfl) fun _ => hs2)

theorem execTaggedLaunchMessage_canonical {port : Nat} {aspace : BitVec 12} {tag : BitVec 32} {hdr : BitVec 128} {va : BitVec 64}
    {pay : List (BitVec 8)} (hs : StateCanonical s) : OutCanonical (execTaggedLaunchMessage port aspace tag hdr va pay s) := by
  unfold execTaggedLaunchMessage
  extract_lets +onlyGivenNames bytes
  split
  · exact .next hs
  · split
    · exact .next hs
    · extract_lets +onlyGivenNames landed
      have hlanded : StateCanonical landed := netLand_canonical hs
      split
      · exact .next hs
      · split
        · exact .next (tagDropped_canonical hlanded)
        · exact canonical_iteOut (fun _ => .next (tagDropped_canonical hlanded)) fun _ => canonical_iteOut (fun _ => .next hs)
            fun _ => .next ((armedLaunch_canonical hlanded).getD hs)

/-! Mgmt. -/

theorem shootWrite_canonical {v : Word} {starts : Bool} (hs : StateCanonical s) : StateCanonical (shootWrite s v starts) :=
  canonical_ite (fun _ => hs) fun _ => canonical_when (hs.frame rfl) shootPage_canonical

theorem pageWrite_canonical {rel size v : Nat} (hs : StateCanonical s) : StateCanonical (pageWrite s rel size v) :=
  canonical_when (hs.frame rfl) shootWrite_canonical

theorem launchWrite_canonical {die : Nat} {v : Word} (hs : StateCanonical s) : StateCanonical (launchWrite s die v) := by
  unfold launchWrite
  extract_lets +onlyGivenNames req
  split
  next s1 st h =>
    have hs1 : StateCanonical s1 := by
      split at h
      · exact canonical_fst (hostLaunch_canonical hs) h
      · exact canonical_fst hs h
    exact canonical_ite (fun _ => raiseMsix_canonical (wrHomeNat_canonical hs1)) fun _ => hs1

theorem execLaunch_canonical {m die : Nat} {v : BitVec 64} (hs : StateCanonical s) : OutCanonical (execLaunch m die v s) :=
  ownedDo_canonical hs fun _ h => canonical_ite (fun _ => launchWrite_canonical (h.frame rfl)) fun _ => h

theorem schedWrite_canonical {die rel size v : Nat} (hs : StateCanonical s) : StateCanonical (schedWrite s die rel size v) :=
  canonical_when (hs.frame rfl) hostPreempt_canonical

theorem execHostPreemptionRequest_canonical {m die : Nat} {entry : BitVec 16} {dead : BitVec 32} (hs : StateCanonical s) :
    OutCanonical (execHostPreemptionRequest m die entry dead s) :=
  ownedDo_canonical hs fun _ h => canonical_ite (fun _ => hostPreempt_canonical (h.frame rfl)) fun _ => h

theorem hearthWrite_canonical {die rel size v : Nat} (hs : StateCanonical s) : StateCanonical (hearthWrite s die rel size v) :=
  hs.frame rfl

theorem linkCtlWrite_canonical {die rel size v : Nat} (hs : StateCanonical s) : StateCanonical (linkCtlWrite s die rel size v) :=
  hs.frame rfl

theorem quesarBaseWrite_canonical {rel size v : Nat} (hs : StateCanonical s) : StateCanonical (quesarBaseWrite s rel size v) :=
  canonical_ite (fun _ => hs.frame rfl) fun _ => hs

theorem linkWrite_canonical {n rel size v : Nat} (hs : StateCanonical s) : StateCanonical (linkWrite s n rel size v) := by
  unfold linkWrite
  extract_lets +onlyGivenNames l
  split
  · exact hs
  · extract_lets +onlyGivenNames x s1
    have hs1 : StateCanonical s1 := putLink_canonical hs
    exact canonical_ite (fun _ => canonical_ite (fun _ => linkOn_canonical hs1) fun _ => linkOff_canonical hs1) fun _ => hs1

theorem blockWrite_canonical {b : Block} {rel size v : Nat} (hs : StateCanonical s) :
    StateCanonical (blockWrite s b rel size v) := by
  unfold blockWrite
  split
  · exact pageWrite_canonical hs
  · exact canonical_when (hs.frame rfl) launchWrite_canonical
  · exact schedWrite_canonical hs
  · exact hearthWrite_canonical hs
  · exact linkCtlWrite_canonical hs
  · exact quesarBaseWrite_canonical hs
  · exact linkWrite_canonical hs

theorem putMgmt_canonical {g : Mgmt} (hs : StateCanonical s) : StateCanonical (putMgmt s g) :=
  canonical_unless (hs.frame rfl) raiseMsix_canonical

theorem ownWrite_canonical {m c h : BitVec 3} (hs : StateCanonical s) : StateCanonical (ownWrite s m c h) := by
  unfold ownWrite
  split
  · exact putMgmt_canonical hs
  · exact addNown_canonical hs

theorem allotWrite_canonical {v : Word} (hs : StateCanonical s) : StateCanonical (allotWrite s v) :=
  canonical_ite (fun _ => hs) fun _ => hs.frame rfl

theorem fringWrite_canonical {v : Word} (hs : StateCanonical s) : StateCanonical (fringWrite s v) :=
  canonical_ite (fun _ => hs.frame rfl) fun _ => canonical_ite (fun _ => hs.frame rfl) fun _ => hs

theorem pkgWrite_canonical {low high : Bool} {v : BitVec 10} (hs : StateCanonical s) : StateCanonical (pkgWrite s low high v) :=
  hs.frame rfl

theorem limitWrite_canonical {v : BitVec 12} (hs : StateCanonical s) : StateCanonical (limitWrite s v) :=
  hs.frame rfl

theorem mgmtFields_canonical {off size v : Nat} (hs : StateCanonical s) : StateCanonical (mgmtFields s off size v) := by
  unfold mgmtFields
  extract_lets +onlyGivenNames x _ s1
  have hs1 : StateCanonical s1 := hs.frame rfl
  extract_lets +onlyGivenNames s2
  have hs2 : StateCanonical s2 := pkgWrite_canonical hs1
  extract_lets +onlyGivenNames s3
  have hs3 : StateCanonical s3 := by
    unfold s3
    split
    · exact limitWrite_canonical hs2
    · exact hs2
  extract_lets +onlyGivenNames s4
  have hs4 : StateCanonical s4 := by
    unfold s4
    split
    · exact fringWrite_canonical hs3
    · exact hs3
  split
  · exact allotWrite_canonical hs4
  · exact hs4

theorem mgmtWrite_canonical {m : BitVec 3} {off size v : Nat} (hs : StateCanonical s) :
    StateCanonical (mgmtWrite s m off size v) := by
  unfold mgmtWrite
  split
  · extract_lets +onlyGivenNames s1
    have hs1 : StateCanonical s1 := ownWrite_canonical hs
    extract_lets +onlyGivenNames s2
    have hs2 : StateCanonical s2 := mgmtFields_canonical hs1
    exact canonical_ite (fun _ => hs2) fun _ => canonical_unless hs1 addNown_canonical
  · exact canonical_ite (fun _ => mgmtFields_canonical hs) fun _ => addNown_canonical hs

theorem mastersWrite_canonical {m off size v : Nat} (hs : StateCanonical s) : OutCanonical (mastersWrite s m off size v) :=
  .next (canonical_unless hs mgmtWrite_canonical)

theorem msixWrite_canonical {fn vec : Nat} {mask : Bool} (hs : StateCanonical s) : StateCanonical (msixWrite s fn vec mask) :=
  canonical_ite (fun _ => hs.frame rfl) fun _ => hs.frame rfl

theorem msixTableWrite_canonical {fn off size v : Nat} (hs : StateCanonical s) :
    StateCanonical (msixTableWrite s fn off size v) := by
  unfold msixTableWrite
  split
  · exact msixWrite_canonical hs
  · exact hs

theorem execRegisterWrite_canonical {m fn off size : Nat} {v : BitVec 64} (hs : StateCanonical s) :
    OutCanonical (execRegisterWrite m fn off size v s) := by
  unfold execRegisterWrite
  split
  · exact .next hs
  · split
    · exact canonical_iteOut (fun _ => mastersWrite_canonical hs) fun _ => .next hs
    · split
      · split
        · exact .next hs
        · exact ownedDo_canonical hs fun _ h => blockWrite_canonical h
      · exact canonical_iteOut (fun _ => .next (canonical_unless hs msixTableWrite_canonical)) fun _ => .next hs

theorem linkTested_canonical {n : Nat} {ok : Bool} (hs : StateCanonical s) : StateCanonical (linkTested s n ok) :=
  putLink_canonical hs

theorem boundaryTested_canonical (hs : StateCanonical s) : StateCanonical (boundaryTested s) :=
  canonical_ite (fun _ => hs) fun _ => canonical_ite (fun _ => linkTested_canonical hs) fun _ => canonical_when hs
    linkTested_canonical

theorem linksTested_canonical {f : Nat} {pass : Bool} {found : Nat} (hs : StateCanonical s) :
    StateCanonical (linksTested s f pass found) := by
  unfold linksTested
  extract_lets +onlyGivenNames ports
  split
  · exact boundaryTested_canonical hs
  · exact boundaryTested_canonical hs
  · exact linkTested_canonical hs
  · exact linkTested_canonical hs
  · exact canonical_foldl hs fun _ ht => linkTested_canonical ht
  · exact canonical_foldl hs fun _ ht => linkTested_canonical ht
  · exact hs

theorem bringUpEnds_canonical (hs : StateCanonical s) : StateCanonical (bringUpEnds s) := by
  unfold bringUpEnds
  extract_lets kol ctl
  exact hs.frame rfl

theorem execFunctionSelfTestDone_canonical {f : Nat} {test : SelfTest} {found : Nat} (hs : StateCanonical s) :
    OutCanonical (execFunctionSelfTestDone f test found s) := by
  unfold execFunctionSelfTestDone
  extract_lets +onlyGivenNames g
  split
  · exact .next hs
  · extract_lets +onlyGivenNames bit taken ok s1 s2
    have hs2 : StateCanonical s2 := linksTested_canonical (hs.frame rfl)
    exact .next (raiseMsix_canonical (canonical_when hs2 bringUpEnds_canonical))

theorem resetModule_canonical (hs : StateCanonical s) : StateCanonical (resetModule s) :=
  (canonical_setMem state_resetOf_canonical (mem_canonical hs)).frame rfl

theorem execTripTemperature_canonical (hs : StateCanonical s) : OutCanonical (execTripTemperature s) := by
  unfold execTripTemperature
  refine .next ?_
  extract_lets +onlyGivenNames t
  have ht : StateCanonical t := resetModule_canonical hs
  exact ht.frame rfl

theorem spdmReply_canonical {value : List Byte} (hs : StateCanonical s) : OutCanonical (spdmReply s value) := by
  unfold spdmReply
  split
  · exact .next hs
  · extract_lets +onlyGivenNames i3c t
    have ht : StateCanonical t := bumpFresh_canonical (hs.frame rfl)
    exact .next (canonical_unless ht raiseMsix_canonical)

theorem wordError_canonical {k : Core} {w : BitVec 2 × Nat} {double : Bool} (hk : CoreCanonical k) :
    CoreCanonical (wordError k w double) :=
  canonical_iteCore (fun _ => hk) fun _ => canonical_iteCore (fun _ => hk.frame rfl) fun _ => hk.frame rfl

theorem execSoftError_canonical {where_ : ErrSite} {pa : Nat} {double : Bool} (hs : StateCanonical s) :
    OutCanonical (execSoftError where_ pa double s) := by
  unfold execSoftError
  split
  · exact canonical_iteOut (fun _ => .next (putCore_canonical hs (wordError_canonical (getCore_canonical hs)))) fun _ => .next hs
  · exact canonical_iteOut (fun _ => .next (hs.frame rfl)) fun _ => .next hs
  · split
    · refine .next ?_
      extract_lets +onlyGivenNames t
      have ht : StateCanonical t := dropLines_canonical hs
      exact ht.frame rfl
    · exact .next hs

theorem execBankFailed_canonical {bank : Nat} {failed : Bool} (hs : StateCanonical s) :
    OutCanonical (execBankFailed bank failed s) :=
  canonical_iteOut (fun _ => .next hs) fun _ => .next (modCore_canonical hs fun _ h => h.frame rfl)

/-! Reeve. -/

theorem imageTouched_canonical {va n : Nat} (hs : StateCanonical s) : StateCanonical (imageTouched s va n) :=
  canonical_foldl hs fun _ ht => touchAt_canonical ht

theorem loadWindows_canonical {die at_ : Nat} {bytes : List Byte} (hs : StateCanonical s) :
    StateCanonical (loadWindows s die at_ bytes) :=
  canonical_foldl hs fun _ ht => canonical_ite (fun _ => ht) fun _ => putReeve_canonical ht
    (wf_writes _ _ _ (getReeve_canonical ht))

theorem bindDo_canonical {r : BindRec} {code data : List Byte} (hs : StateCanonical s) :
    StateCanonical (bindDo s r code data).1 := by
  unfold bindDo
  extract_lets +onlyGivenNames die free
  split
  · exact hs
  · split
    · exact hs
    · split
      · exact loadWindows_canonical (hs.frame rfl)
      · exact hs

theorem bindWith_canonical {d : BitVec 5} {bytes : List Byte} {va : Nat} (hs : StateCanonical s) :
    EffCanonical (bindWith s d bytes va) := by
  unfold bindWith
  extract_lets +onlyGivenNames r dataLen
  split
  · exact .trap
  · split
    · exact .trap
    · split
      · exact .stall
      · extract_lets +onlyGivenNames s1
        split
        · next e1 =>
            exact .ok (setS_canonical (canonical_fst (bindDo_canonical (imageTouched_canonical (imageTouched_canonical hs))) e1))

theorem execHdlbind_canonical {a d : BitVec 5} {h : BitVec 4} (hs : StateCanonical s) : OutCanonical (execHdlbind a d h s) := by
  unfold execHdlbind
  extract_lets +onlyGivenNames off H
  refine behindFence_canonical hs ?_
  split
  · exact .trap
  · exact canonical_iteEff (fun _ => .stall) fun _ => bindWith_canonical (touchLine_canonical hs)

theorem discardEvents_canonical {die num : Nat} (hs : StateCanonical s) : StateCanonical (discardEvents s die num) := by
  refine canonical_setReeves hs (List.forall_mem_map.2 fun r hr => ?_)
  split
  · exact (reeves_canonical hs r hr).frame rfl
  · exact reeves_canonical hs r hr

theorem execHdlunb_canonical {a d : BitVec 5} (hs : StateCanonical s) : OutCanonical (execHdlunb a d s) := by
  unfold execHdlunb
  extract_lets +onlyGivenNames x
  split
  · exact finish_canonical hs .stall
  · split
    · exact finish_canonical hs .trap
    · split
      · exact inLine_canonical hs (.ok (setS_canonical hs))
      · extract_lets +onlyGivenNames s1
        have hs1 : StateCanonical s1 := discardEvents_canonical hs
        exact canonical_iteOut (fun _ => finish_canonical hs1 .stall) fun _ => inLine_canonical (hs1.frame rfl)
          (.ok (setS_canonical (hs1.frame rfl)))

theorem sendMessage_canonical {die slice : Nat} {b : Binding} {payload sender : Word} (hs : StateCanonical s) :
    StateCanonical (sendMessage s die slice b payload sender).1 := by
  unfold sendMessage
  split
  · exact hs
  · split
    · exact hs
    · exact queueEvent_canonical hs

theorem execHdlmsg_canonical {a b d : BitVec 5} (hs : StateCanonical s) : OutCanonical (execHdlmsg a b d s) := by
  unfold execHdlmsg
  extract_lets +onlyGivenNames x slice
  refine behindFence_canonical hs ?_
  split
  · exact .trap
  · split
    · exact .trap
    · split
      · exact .ok (setS_canonical hs)
      · refine afterRelease_canonical hs ?_
        intro a1 h
        split
        · next e1 =>
            exact .ok (setS_canonical (canonical_fst (sendMessage_canonical h) e1))

theorem reeveHere_canonical (hs : StateCanonical s) : ReeveCanonical (reeveHere s) :=
  getReeve_canonical hs

theorem setX_canonical {r : Reeve} {n : BitVec 5} {v : Word} (hr : ReeveCanonical r) : ReeveCanonical (setX r n v) := by
  unfold setX
  split
  · exact hr
  · exact hr.frame rfl

theorem cutOff_canonical {c : Cause} (hs : StateCanonical s) : StateCanonical (cutOff s c) := by
  unfold cutOff
  extract_lets +onlyGivenNames r
  split
  · exact putReeve_canonical (writeRecord_canonical hs) ((reeveHere_canonical hs).frame rfl)
  · exact hs

theorem reeveEff_quiet_canonical {cost : Nat} {upd : Reeve → Reeve} (hs : StateCanonical s)
    (hupd : ∀ a, ReeveCanonical a → ReeveCanonical (upd a)) : ReeveEffCanonical (ReeveEff.quiet s cost upd) :=
  ⟨hs, fun _ h => hupd _ h⟩

theorem reeveEff_behind_canonical {pa n : Nat} {x : ReeveEff} (hx : ReeveEffCanonical x) :
    ReeveEffCanonical (ReeveEff.behind s pa n x) :=
  hx

theorem stepOn_canonical {n : Nat} {rd : BitVec 5} {v : Word} {r : Reeve} (hr : ReeveCanonical r) :
    ReeveCanonical (stepOn n rd v r) :=
  (setX_canonical hr).frame rfl

theorem reeveWaits_canonical {r : Reeve} {budget : Nat} {sent : Option Red} (hs : StateCanonical s) (hr : ReeveCanonical r) :
    StateCanonical (reeveWaits s r budget sent) :=
  putReeve_canonical (canonical_ite (fun _ => hs.frame rfl) fun _ => hs) (hr.frame rfl)

theorem reeveDo_canonical {f : Reeve → ReeveEvent → Binding → Option ReeveEff} (hs : StateCanonical s)
    (hf : ∀ (a : Reeve) (a_1 : ReeveEvent) (a_2 : Binding), ReeveCanonical a → OptionCanonical ReeveEffCanonical (f a a_1 a_2)) :
    OutCanonical (reeveDo s f) := by
  unfold reeveDo
  extract_lets +onlyGivenNames r
  split
  · split
    · exact .next hs
    · split
      · exact .next (cutOff_canonical hs)
      · next e3 =>
          split
          · exact .next (reeveWaits_canonical hs (reeveHere_canonical hs))
          · split
            · extract_lets +onlyGivenNames t
              have ht : StateCanonical t := canonical_ite (fun _ => ((hf _ _ _ (reeveHere_canonical hs)).of_some e3).1) fun _ => hs
              exact .next (putReeve_canonical ht ((getReeve_canonical ht).frame rfl))
            · exact .next (putReeve_canonical (((hf _ _ _ (reeveHere_canonical hs)).of_some e3).1)
                ((((hf _ _ _ (reeveHere_canonical hs)).of_some e3).2 _
                  (getReeve_canonical (((hf _ _ _ (reeveHere_canonical hs)).of_some e3).1))).frame rfl))
  · exact .next hs

theorem reeveTouch_canonical {b : Binding} {va pa : Nat} (hs : StateCanonical s) : StateCanonical (reeveTouch s b va pa) := by
  unfold reeveTouch
  extract_lets +onlyGivenNames s1
  have hs1 : StateCanonical s1 := fetchLine_canonical hs
  extract_lets +onlyGivenNames s2
  have hs2 : StateCanonical s2 := canonical_unless hs1 countLine_canonical
  exact canonical_ite (fun _ => fillLine_canonical hs2) fun _ => bumpFresh_canonical hs2

theorem reeveLoad_canonical {r : Reeve} {b : Binding} {len size : Nat} {signed : Bool} {rd : BitVec 5} {a : Nat}
    (hs : StateCanonical s) : OptionCanonical ReeveEffCanonical (reeveLoad s r b len size signed rd a) := by
  unfold reeveLoad
  split
  · exact .none
  · split
    · exact .some (reeveEff_quiet_canonical hs fun _ h => stepOn_canonical h)
    · exact .map fun _ => reeveEff_behind_canonical
        (reeveEff_quiet_canonical (reeveTouch_canonical hs) fun _ h => stepOn_canonical h)

theorem reeveStore_canonical {r : Reeve} {b : Binding} {len size a v : Nat} (hs : StateCanonical s) :
    OptionCanonical ReeveEffCanonical (reeveStore s r b len size a v) := by
  unfold reeveStore
  split
  · exact .none
  · split
    · exact .some (reeveEff_quiet_canonical hs fun _ h => wf_writes _ _ _ h)
    · exact .map fun _ => reeveEff_behind_canonical
        (reeveEff_quiet_canonical (reeveTouch_canonical (setDirty_canonical (wrDie_canonical hs))) fun _ h => stepOn_canonical h)

theorem rvEffect_canonical {r : Reeve} {b : Binding} {len : Nat} {i : RvInstr} (hs : StateCanonical s) :
    OptionCanonical ReeveEffCanonical (rvEffect s r b len i) := by
  unfold rvEffect
  extract_lets +onlyGivenNames x next write jump
  split
  · exact .some (reeveEff_quiet_canonical hs fun _ h => stepOn_canonical h)
  · exact .some (reeveEff_quiet_canonical hs fun _ h => stepOn_canonical h)
  · exact .some (reeveEff_quiet_canonical hs fun _ h => (setX_canonical h).frame rfl)
  · exact .some (reeveEff_quiet_canonical hs fun _ h => (setX_canonical h).frame rfl)
  · exact .some (reeveEff_quiet_canonical hs fun _ h => h.frame rfl)
  · exact reeveLoad_canonical hs
  · exact reeveStore_canonical hs
  · exact .some (reeveEff_quiet_canonical hs fun _ h => stepOn_canonical h)
  · exact .some (reeveEff_quiet_canonical hs fun _ h => stepOn_canonical h)
  · exact .some (reeveEff_quiet_canonical hs fun _ h => stepOn_canonical h)
  · exact .some (reeveEff_quiet_canonical hs fun _ h => stepOn_canonical h)
  · exact .some (reeveEff_quiet_canonical hs fun _ h => stepOn_canonical h)
  · exact .some (reeveEff_quiet_canonical hs fun _ h => stepOn_canonical h)

theorem execReeveInstruction_canonical (hs : StateCanonical s) : OutCanonical (execReeveInstruction s) := by
  unfold execReeveInstruction
  refine reeveDo_canonical hs ?_
  intro a a_1 a_2 h
  split
  · exact .none
  · exact .bind fun _ => rvEffect_canonical hs
  · exact .bind fun _ => rvEffect_canonical hs

theorem execReeveHandlerEntry_canonical {die slice : Nat} (hs : StateCanonical s) :
    OutCanonical (execReeveHandlerEntry die slice s) := by
  unfold execReeveHandlerEntry
  extract_lets +onlyGivenNames r
  split
  · split
    · exact .next hs
    · split
      · exact .next (putReeve_canonical hs ((getReeve_canonical hs).frame rfl))
      · exact .next (putReeve_canonical hs (canonical_foldlReeve ((getReeve_canonical hs).frame rfl) fun _ ht => setX_canonical ht))
  · exact .next hs

theorem execBudgetOverrun_canonical {die slice : Nat} (hs : StateCanonical s) : OutCanonical (execBudgetOverrun die slice s) := by
  unfold execBudgetOverrun
  extract_lets +onlyGivenNames t r
  split
  · exact canonical_iteOut (fun _ => .next (cutOff_canonical (hs.frame rfl))) fun _ => .next hs
  · exact .next hs

theorem placeLine_canonical {b : Binding} {a : Nat} (hs : StateCanonical s) : StateCanonical (placeLine s b a) := by
  unfold placeLine
  split
  · exact reeveTouch_canonical hs
  · exact hs

theorem execSlpf_canonical {rs2 rs1 rd : BitVec 5} (hs : StateCanonical s) : OutCanonical (execSlpf rs2 rs1 rd s) :=
  reeveDo_canonical hs fun _ _ _ _ => .some (reeveEff_quiet_canonical (canonical_foldl hs fun _ ht => placeLine_canonical ht)
    fun _ h1 => stepOn_canonical h1)

theorem chaseOn_canonical {b : Binding} {off depth a : Nat} (hs : StateCanonical s) : StateCanonical (chaseOn b off depth s a) := by
  induction depth generalizing s a with
  | zero => exact hs
  | succ depth ih =>
    unfold chaseOn
    split
    · exact canonical_unless (placeLine_canonical hs) ih
    · exact placeLine_canonical hs
    · exact hs

theorem execSlchase_canonical {rs2 rs1 rd : BitVec 5} (hs : StateCanonical s) : OutCanonical (execSlchase rs2 rs1 rd s) := by
  refine reeveDo_canonical hs fun r _ b _ => ?_
  extract_lets +onlyGivenNames y
  split
  · exact .none
  · extract_lets +onlyGivenNames busy
    clear_value busy
    split
    · exact .some (reeveEff_quiet_canonical (chaseOn_canonical hs) fun _ hr =>
        (stepOn_canonical (n := 4) (rd := rd) (v := 0) hr).frame rfl)
    · exact .some (reeveEff_quiet_canonical hs fun _ hr => (stepOn_canonical (n := 4) (rd := rd) (v := 1) hr).frame rfl)

theorem execSlupd_canonical {o : BitVec 3} {g : BitVec 1} {rs2 rs1 rd : BitVec 5} (hs : StateCanonical s) :
    OutCanonical (execSlupd o g rs2 rs1 rd s) := by
  refine reeveDo_canonical hs fun r _ b _ => ?_
  extract_lets +onlyGivenNames size a
  clear_value size
  split
  · exact .none
  · refine .map fun pa => reeveEff_behind_canonical ⟨?_, fun _ hr => stepOn_canonical hr⟩
    exact reeveTouch_canonical (setDirty_canonical (wrHomeNat_canonical (dropLines_canonical (flushHeld_canonical hs))))

theorem execSlfwd_canonical {rs2 rs1 rd : BitVec 5} (hs : StateCanonical s) : OutCanonical (execSlfwd rs2 rs1 rd s) := by
  refine reeveDo_canonical hs fun r _ b _ => ?_
  extract_lets +onlyGivenNames slice
  split
  next t st h =>
    have ht : StateCanonical t := by
      split at h
      · exact canonical_fst hs h
      · exact canonical_fst (sendMessage_canonical hs) h
    exact .some ⟨ht, fun _ hr => stepOn_canonical hr⟩

theorem offerLine_canonical {r : Reeve} {b : Binding} {line : Word} (hs : StateCanonical s) :
    StateCanonical (offerLine s r b line) := by
  unfold offerLine
  split
  · exact hs.frame rfl
  · exact hs

theorem execSldone_canonical {rs1 : BitVec 5} (hs : StateCanonical s) : OutCanonical (execSldone rs1 s) := by
  unfold execSldone
  refine reeveDo_canonical hs ?_
  intro a a_1 a_2 h
  extract_lets +onlyGivenNames v
  split
  · exact .some (⟨hs, fun _ h1 => h1⟩)
  · split
    · exact .some (⟨offerLine_canonical hs, fun _ h1 => h1⟩)
    · exact .none

/-! Scalar. -/

theorem aluInstr_canonical {op : AluOp} {d a b : BitVec 5} {w : BitVec 2} {g : BitVec 3} (hs : StateCanonical s) :
    OutCanonical (aluInstr op d a b w g s) :=
  guarded_canonical hs (.ok (setS_canonical hs))

theorem unInstr_canonical {op : UnOp} {d a : BitVec 5} {w : BitVec 2} {g : BitVec 3} (hs : StateCanonical s) :
    OutCanonical (unInstr op d a w g s) :=
  guarded_canonical hs (.ok (setS_canonical hs))

theorem execCmp_canonical {p : BitVec 3} {a b : BitVec 5} {c : BitVec 6} {w : BitVec 2} {g : BitVec 3} (hs : StateCanonical s) :
    OutCanonical (execCmp p a b c w g s) :=
  canonical_iteOut (fun _ => finish_canonical hs .trap) fun _ => guarded_canonical hs (.ok (setP_canonical hs))

/-! ScalarFloat. -/

theorem putFloat_canonical {d : BitVec 5} {r : Nat × Fl} (hs : StateCanonical s) : EffCanonical (putFloat s d r) :=
  .ok (raiseFlags_canonical (setS_canonical hs))

theorem floatInstr_canonical {w : BitVec 2} {g : BitVec 3} {srcs : List (BitVec 5)} {e : FFmt → Eff} (hs : StateCanonical s)
    (he : ∀ (a : FFmt), EffCanonical (e a)) : OutCanonical (floatInstr s w g srcs e) := by
  unfold floatInstr
  split
  · exact finish_canonical hs .trap
  · exact guarded_canonical hs (canonical_iteEff (fun _ => .trap) fun _ => he _)

theorem execFcvt_canonical {d a s : BitVec 5} {t : BitVec 4} {g : BitVec 3} {st : State} (hst : StateCanonical st) :
    OutCanonical (execFcvt d a s t g st) := by
  unfold execFcvt
  split
  · exact finish_canonical hst .trap
  · exact finish_canonical hst .trap
  · exact guarded_canonical hst (canonical_iteEff (fun _ => .trap) fun _ => putFloat_canonical hst)
  · exact finish_canonical hst .trap

/-! Work. -/

theorem commandPiece_canonical {cls : Nat} {c : Command} (hs : StateCanonical s) : PieceCanonical (commandPiece s cls c) := by
  unfold commandPiece
  split
  · exact inputPiece_canonical hs
  · exact .wait hs
  · split
    · exact copyPiece_canonical hs
    · split
      · exact gatherPiece_canonical hs
      · exact scatterPiece_canonical hs
      · exact scorePiece_canonical hs

theorem workOnce_canonical {cls : Nat} {c : Command} (hs : StateCanonical s) : StateCanonical (workOnce s cls c).1 := by
  unfold workOnce
  split
  · next e =>
      exact (commandPiece_canonical hs).of_wait e
  · next e =>
      exact advanced_canonical ((commandPiece_canonical hs).of_did e)

theorem workAll_canonical {fuel cls gid : Nat} (hs : StateCanonical s) : StateCanonical (workAll fuel s cls gid) := by
  induction fuel generalizing s with
  | zero => exact hs
  | succ fuel ih =>
    unfold workAll
    split
    · exact hs
    · split
      · exact hs
      · split
        · next e => exact ih (canonical_fst (workOnce_canonical hs) e)
        · next e => exact canonical_fst (workOnce_canonical hs) e

theorem commandWork_canonical {cls n : Nat} (hs : StateCanonical s) : StateCanonical (commandWork s cls n) := by
  unfold commandWork
  split
  · exact canonical_when hs workOnce_canonical
  · exact hs

theorem commandEnded_canonical {cls : Nat} {c : Command} (hs : StateCanonical s) : StateCanonical (commandEnded s cls c) := by
  unfold commandEnded
  split
  · exact settleMarkers_canonical (inputEnded_canonical (modCore_canonical hs fun _ h => endCommand_canonical h))
  · extract_lets +onlyGivenNames left s1 s2
    have hs2 : StateCanonical s2 := bytesAt_canonical
      (creditUnder_canonical (modCore_canonical hs fun _ h => donePointer_canonical (endCommand_canonical h)))
    extract_lets +onlyGivenNames s3
    have hs3 : StateCanonical s3 := by
      unfold s3
      split
      · exact writeRecord_canonical hs2
      · exact hs2
    exact settleMarkers_canonical hs3

theorem commandEnd_canonical {cls n : Nat} (hs : StateCanonical s) : StateCanonical (commandEnd s cls n) := by
  unfold commandEnd
  split
  · exact hs
  · split
    · extract_lets +onlyGivenNames t
      have ht : StateCanonical t := workAll_canonical hs
      split
      · exact canonical_when ht commandEnded_canonical
      · exact ht
    · exact hs

theorem execCommandEnd_canonical {k : Nat} (hs : StateCanonical s) : OutCanonical (execCommandEnd k s) :=
  .next (canonical_ite (fun _ => commandEnd_canonical hs) fun _ => commandEnd_canonical hs)

/-! Dispatch. -/

theorem exec_canonical {i : Instr} (hs : StateCanonical s) : OutCanonical (exec i s) := by
  unfold exec
  split
  · exact aluInstr_canonical hs
  · exact aluInstr_canonical hs
  · exact aluInstr_canonical hs
  · exact aluInstr_canonical hs
  · exact aluInstr_canonical hs
  · exact aluInstr_canonical hs
  · exact aluInstr_canonical hs
  · exact aluInstr_canonical hs
  · exact aluInstr_canonical hs
  · exact aluInstr_canonical hs
  · exact aluInstr_canonical hs
  · exact aluInstr_canonical hs
  · exact aluInstr_canonical hs
  · exact aluInstr_canonical hs
  · exact aluInstr_canonical hs
  · exact aluInstr_canonical hs
  · exact aluInstr_canonical hs
  · exact aluInstr_canonical hs
  · exact aluInstr_canonical hs
  · exact aluInstr_canonical hs
  · exact aluInstr_canonical hs
  · exact unInstr_canonical hs
  · exact unInstr_canonical hs
  · exact unInstr_canonical hs
  · exact guarded_canonical hs (.ok (setS_canonical hs))
  · exact guarded_canonical hs (.ok (setS_canonical hs))
  · exact inLine_canonical hs (.ok (setS_canonical hs))
  · exact unInstr_canonical hs
  · exact execCmp_canonical hs
  · exact floatInstr_canonical hs fun _ => putFloat_canonical hs
  · exact floatInstr_canonical hs fun _ => putFloat_canonical hs
  · exact floatInstr_canonical hs fun _ => putFloat_canonical hs
  · exact floatInstr_canonical hs fun _ => putFloat_canonical hs
  · exact floatInstr_canonical hs fun _ => putFloat_canonical hs
  · exact floatInstr_canonical hs fun _ => putFloat_canonical hs
  · exact floatInstr_canonical hs fun _ => .ok (raiseFlags_canonical (setP_canonical hs))
  · exact execFcvt_canonical hs
  · exact inLine_canonical hs (.ok (setS_canonical hs))
  · exact inLine_canonical hs (.ok (setS_canonical hs))
  · exact inLine_canonical hs (.ok (setS_canonical hs))
  · exact inLine_canonical hs (.ok (setS_canonical hs))
  · exact inLine_canonical hs (.ok (setS_canonical hs))
  · exact inLine_canonical hs (.ok (setS_canonical hs))
  · exact inLine_canonical hs (.ok (setS_canonical hs))
  · exact inLine_canonical hs (.ok (setS_canonical hs))
  · exact inLine_canonical hs (.ok (setS_canonical hs))
  · exact execLds_canonical hs
  · exact execSts_canonical hs
  · exact execLdg_canonical hs
  · exact execStg_canonical hs
  · exact execAtom_canonical hs
  · exact execRed_canonical hs
  · exact execCas_canonical hs
  · exact execXlate_canonical hs
  · exact inLine_canonical hs (.ok (setH_canonical hs))
  · exact inLine_canonical hs (.ok (setS_canonical hs))
  · exact placeMark_canonical hs
  · exact placeMark_canonical hs
  · exact placeMark_canonical hs
  · exact placeMark_canonical hs
  · exact execBr_canonical hs
  · exact .next (jumpOut_canonical hs)
  · exact .next (retireJump_canonical (setS_canonical hs))
  · exact regTarget_canonical hs (jumpOut_canonical hs)
  · exact regTarget_canonical hs (retireJump_canonical (setS_canonical hs))
  · exact regTarget_canonical hs (retireJump_canonical hs)
  · exact startLoop_canonical hs
  · exact startLoop_canonical hs
  · exact guarded_canonical hs (.ok (setP_canonical hs))
  · exact guarded_canonical hs (.ok (setP_canonical hs))
  · exact guarded_canonical hs (.ok (setP_canonical hs))
  · exact guarded_canonical hs (.ok (setP_canonical hs))
  · exact guarded_canonical hs (.ok (setP_canonical hs))
  · exact execGetsr_canonical hs
  · exact execSetsr_canonical hs
  · exact .next (retire_canonical hs)
  · exact finish_canonical hs .trap
  · exact finish_canonical hs (returnFromTrap_canonical hs)
  · exact finish_canonical hs .trap
  · exact finish_canonical hs .trap
  · exact .next (tick_canonical (modCtx_canonical hs))
  · exact execYield_canonical hs
  · exact vecIssue_canonical (fun _ _ h => effVadd_canonical h) hs
  · exact vecIssue_canonical (fun _ _ h => effVsub_canonical h) hs
  · exact vecIssue_canonical (fun _ _ h => effVmul_canonical h) hs
  · exact vecIssue_canonical (fun _ _ h => effVfma_canonical h) hs
  · exact vecIssue_canonical (fun _ _ h => effVfms_canonical h) hs
  · exact vecIssue_canonical (fun _ _ h => effVmin_canonical h) hs
  · exact vecIssue_canonical (fun _ _ h => effVmax_canonical h) hs
  · exact vecIssue_canonical (fun _ _ h => effVabs_canonical h) hs
  · exact vecIssue_canonical (fun _ _ h => effVneg_canonical h) hs
  · exact vecIssue_canonical (fun _ _ h => effVcpys_canonical h) hs
  · exact vecIssue_canonical (fun _ _ h => effViadd_canonical h) hs
  · exact vecIssue_canonical (fun _ _ h => effVisub_canonical h) hs
  · exact vecIssue_canonical (fun _ _ h => effVimul_canonical h) hs
  · exact vecIssue_canonical (fun _ _ h => effVand_canonical h) hs
  · exact vecIssue_canonical (fun _ _ h => effVor_canonical h) hs
  · exact vecIssue_canonical (fun _ _ h => effVxor_canonical h) hs
  · exact vecIssue_canonical (fun _ _ h => effVshl_canonical h) hs
  · exact vecIssue_canonical (fun _ _ h => effVshr_canonical h) hs
  · exact vecIssue_canonical (fun _ _ h => effVsar_canonical h) hs
  · exact vecIssue_canonical (fun _ _ h => effVimin_canonical h) hs
  · exact vecIssue_canonical (fun _ _ h => effVimax_canonical h) hs
  · exact vecIssue_canonical (fun _ _ h => effViminN32_canonical h) hs
  · exact vecIssue_canonical (fun _ _ h => effVimaxN32_canonical h) hs
  · exact vecIssue_canonical (fun _ _ h => effVcmp_canonical h) hs
  · exact vecIssue_canonical (fun _ _ h => effVcvt_canonical h) hs
  · exact vecIssue_canonical (fun _ _ h => effVsplit_canonical h) hs
  · exact vecIssue_canonical (fun _ _ h => effVpack_canonical h) hs
  · exact vecIssue_canonical (fun _ _ h => effVunpk_canonical h) hs
  · exact vecIssue_canonical (fun _ _ h => effVsfu_canonical h) hs
  · exact vecIssue_canonical (fun _ _ h => effVrotr_canonical h) hs
  · exact vecIssue_canonical (fun _ _ h => effVbcr_canonical h) hs
  · exact vecIssue_canonical (fun _ _ h => effVredr_canonical h) hs
  · exact vecIssue_canonical (fun _ _ h => effVredrC_canonical h) hs
  · exact vecIssue_canonical (fun _ _ h => effVscanr_canonical h) hs
  · exact vecIssue_canonical (fun _ _ h => effVrotc_canonical h) hs
  · exact vecIssue_canonical (fun _ _ h => effVbcc_canonical h) hs
  · exact vecIssue_canonical (fun _ _ h => effVredc_canonical h) hs
  · exact vecIssue_canonical (fun _ _ h => effVredcC_canonical h) hs
  · exact vecIssue_canonical (fun _ _ h => effVscanc_canonical h) hs
  · exact vecIssue_canonical (fun _ _ h => effVperm_canonical h) hs
  · exact vecIssue_canonical (fun _ _ h => effVsel_canonical h) hs
  · exact vecIssue_canonical (fun _ _ h => effVmov_canonical h) hs
  · exact vecIssue_canonical (fun _ _ h => effViota_canonical h) hs
  · exact vecIssue_canonical (fun _ _ h => effVins_canonical h) hs
  · exact vecIssue_canonical (fun _ _ h => effVext_canonical h) hs
  · exact execVld_canonical hs
  · exact execVst_canonical hs
  · exact vecIssue_canonical (fun _ _ h1 => effVldg_canonical h1) hs
  · exact vecIssue_canonical (fun _ _ h1 => effVstg_canonical h1) hs
  · exact execVpop_canonical hs
  · exact execVpush_canonical hs
  · exact vecIssue_canonical (fun _ _ h => effMand_canonical h) hs
  · exact vecIssue_canonical (fun _ _ h => effMor_canonical h) hs
  · exact vecIssue_canonical (fun _ _ h => effMxor_canonical h) hs
  · exact vecIssue_canonical (fun _ _ h => effMnot_canonical h) hs
  · exact vecIssue_canonical (fun _ _ h => effMpopc_canonical h) hs
  · exact vecIssue_canonical (fun _ _ h => effMtest_canonical h) hs
  · exact vecIssue_canonical (fun _ _ h => effVdopen_canonical h) hs
  · exact vecIssue_canonical (fun _ _ h => effVdacc_canonical h) hs
  · exact vecIssue_canonical (fun _ _ h => effVdthr_canonical h) hs
  · exact vecIssue_canonical (fun _ _ h => effVdclose_canonical h) hs
  · exact vecIssue_canonical (fun _ _ h => effVdtest_canonical h) hs
  · exact vecIssue_canonical (fun _ _ h => effVdtestAny_canonical h) hs
  · exact vecIssue_canonical (fun _ _ h => effTopki_canonical h) hs
  · exact execBscore_canonical hs
  · exact issueWord_canonical (fun _ _ h => enterTile_canonical h) hs
  · exact issueWord_canonical (fun _ _ h => enterTile_canonical h) hs
  · exact issueWord_canonical (fun _ _ h => enterTile_canonical h) hs
  · exact issueWord_canonical (fun _ _ h => enterTile_canonical h) hs
  · exact issueWord_canonical (fun _ _ h => enterTile_canonical h) hs
  · exact holdWord_canonical hs
  · exact issueWord_canonical (fun _ _ h => enterCopy_canonical h) hs
  · exact issueWord_canonical (fun _ _ h => enterCopy_canonical h) hs
  · exact issueWord_canonical (fun _ _ h => enterCopy_canonical h) hs
  · exact holdWord_canonical hs
  · exact issueWord_canonical (fun _ _ h => enterGather_canonical h) hs
  · exact issueWord_canonical (fun _ _ h => enterGather_canonical h) hs
  · exact issueWord_canonical (fun _ _ h => enterGather_canonical h) hs
  · exact holdWord_canonical hs
  · exact issueWord_canonical (fun _ _ h => enterColl_canonical h) hs
  · exact holdWord_canonical hs
  · exact issueWord_canonical (fun _ _ h => enterPlain_canonical h) hs
  · exact issueWord_canonical (fun _ _ h => enterPlain_canonical h) hs
  · exact issueWord_canonical (fun _ _ h => enterPlain_canonical h) hs
  · exact issueWord_canonical (fun _ _ h => enterPlain_canonical h) hs
  · exact holdWord_canonical hs
  · exact execTmpl_canonical hs
  · exact execTmplBfmt_canonical hs
  · exact execNotify_canonical hs
  · exact execQdrain_canonical hs
  · exact execRingsetCfg_canonical hs
  · exact execRingsetAdv_canonical hs
  · exact execFeedbind_canonical hs
  · exact execFeedstop_canonical hs
  · exact execSqld_canonical hs
  · exact execZtest_canonical hs
  · exact execWpwait_canonical hs
  · exact execBjoin_canonical hs
  · exact execBdrop_canonical hs
  · exact execBarr_canonical hs
  · exact execBwait_canonical hs
  · exact execBarw_canonical hs
  · exact execBexp_canonical hs
  · exact execBtest_canonical hs
  · exact execFset_canonical hs
  · exact execFget_canonical hs
  · exact execLwait_canonical hs
  · exact execLrel_canonical hs
  · exact .next (goOn_canonical hs)
  · exact execEnq_canonical hs
  · exact execSpawn_canonical hs
  · exact execKarm_canonical hs
  · exact execKdisarm_canonical hs
  · exact execKlaunch_canonical hs
  · exact execKcancel_canonical hs
  · exact execShwait_canonical hs
  · exact execPreq_canonical hs
  · exact behindFence_canonical hs (.ok (setS_canonical (cancelReqs_canonical hs)))
  · exact execPharv_canonical hs
  · exact atPkg_canonical hs btforkDo_canonical
  · exact atPkg_canonical hs btmapDo_canonical
  · exact atPkg_canonical hs btunmapDo_canonical
  · exact execWopen_canonical hs
  · exact closeWindow_canonical hs
  · exact closeWindow_canonical hs
  · exact execWstat_canonical hs
  · exact execHpin_canonical hs
  · exact execHunpin_canonical hs
  · exact execHsave_canonical hs
  · exact execHevict_canonical hs
  · exact execHdlbind_canonical hs
  · exact execHdlunb_canonical hs
  · exact execHdlmsg_canonical hs
  · exact execSlpf_canonical hs
  · exact execSlchase_canonical hs
  · exact execSlupd_canonical hs
  · exact execSlfwd_canonical hs
  · exact reeveDo_canonical hs fun _ _ _ _ => .some (⟨hs, fun _ h1 => h1⟩)
  · exact execSldone_canonical hs
  · exact endsBad_canonical hs (tileStart_canonical hs)
  · exact tileStart_canonical hs
  · exact tileStart_canonical hs
  · exact tileStart_canonical hs
  · exact tileStart_canonical hs
  · exact execTileCommandEnd_canonical hs
  · exact execTcopyStart_canonical hs
  · exact copyStart_canonical hs
  · exact copyStart_canonical hs
  · exact execSqldAppend_canonical hs
  · exact endsBad_canonical hs (gatherStart_canonical hs)
  · exact gatherStart_canonical hs
  · exact gatherStart_canonical hs
  · exact execCommandEnd_canonical hs
  · exact execNotifyEvent_canonical hs
  · exact execFeedTransfer_canonical hs
  · exact execCollectiveStart_canonical hs
  · exact execSeekStart_canonical hs
  · exact execDrovePageArrival_canonical hs
  · exact execPageReadRequeue_canonical hs
  · exact execKfetchStart_canonical hs
  · exact execSappendStart_canonical hs
  · exact execSmergeStart_canonical hs
  · exact execSmergeSwap_canonical hs
  · exact execRedTranslation_canonical hs
  · exact execRedPerformed_canonical hs
  · exact execIterationHandout_canonical hs
  · exact execDeclaredInputsArrived_canonical hs
  · exact execContextStart_canonical hs
  · exact canonical_iteOut (fun _ => .next (retireCtx_canonical hs)) fun _ => .next hs
  · exact execStewardDispatch_canonical hs
  · exact execEstimatorDecision_canonical hs
  · exact execScrubComplete_canonical hs
  · exact execPreemptionComplete_canonical hs
  · exact execRestoreComplete_canonical hs
  · exact execKernelEnd_canonical hs
  · exact execPromotionComplete_canonical hs
  · exact execPromotionFailed_canonical hs
  · exact ownedDo_canonical hs fun _ h => shootWrite_canonical h
  · exact execShootDownComplete_canonical hs
  · exact execPoolClearComplete_canonical hs
  · exact execSilenceEviction_canonical hs
  · exact execEvictionComplete_canonical hs
  · exact execReeveHandlerEntry_canonical hs
  · exact execBudgetOverrun_canonical hs
  · exact execLaunch_canonical hs
  · exact execHostPreemptionRequest_canonical hs
  · exact execRegisterWrite_canonical hs
  · exact execTaggedLaunchMessage_canonical hs
  · exact execHostMemoryAccess_canonical hs
  · exact execHostAtomic_canonical hs
  · exact ownedDo_canonical hs fun _ h => linkOn_canonical h
  · exact ownedDo_canonical hs fun _ h => linkOff_canonical h
  · exact canonical_iteOut (fun _ => .next hs) fun _ => .next (linkMoved_canonical hs)
  · exact canonical_iteOut (fun _ => .next (putLink_canonical hs)) fun _ => .next hs
  · exact canonical_iteOut (fun _ => .next (putLink_canonical hs)) fun _ => .next hs
  · exact execPathLossTimeout_canonical hs
  · exact execDieBoundaryFailure_canonical hs
  · exact .next (resetModule_canonical hs)
  · exact execFunctionSelfTestDone_canonical hs
  · exact mastersWrite_canonical hs
  · exact mastersWrite_canonical hs
  · exact mastersWrite_canonical hs
  · exact .next (canonical_when hs putMgmt_canonical)
  · exact ownedDo_canonical hs fun _ h => allotWrite_canonical (h.frame rfl)
  · exact ownedDo_canonical hs fun _ h => fringWrite_canonical (h.frame rfl)
  · exact ownedDo_canonical hs fun _ h => pkgWrite_canonical h
  · exact ownedDo_canonical hs fun _ h => limitWrite_canonical h
  · exact .next (putMgmt_canonical hs)
  · exact .next (putMgmt_canonical hs)
  · exact execTripTemperature_canonical hs
  · exact spdmReply_canonical hs
  · exact spdmReply_canonical hs
  · exact spdmReply_canonical hs
  · exact spdmReply_canonical hs
  · exact spdmReply_canonical hs
  · exact spdmReply_canonical hs
  · exact spdmReply_canonical hs
  · exact execVectorInstructionStart_canonical hs
  · exact execAccessPerformed_canonical hs
  · exact execCollectiveEnd_canonical hs
  · exact execKfetchBlockArrival_canonical hs
  · exact execReeveInstruction_canonical hs
  · exact execSoftError_canonical hs
  · exact execBankFailed_canonical hs
  · exact execPodRequest_canonical hs
  · exact execRocev2Message_canonical hs
  · exact .next (canonical_ite (fun _ => putMgmt_canonical (hs.frame rfl)) fun _ => hs)

/-! Fetch. -/

theorem fetchTouch_canonical {pa : Nat} (hs : StateCanonical s) : StateCanonical (fetchTouch s pa) :=
  touchAt_canonical hs

theorem fetchWord_canonical (hs : StateCanonical s) : FetchedCanonical (fetchWord s) := by
  unfold fetchWord
  extract_lets +onlyGivenNames c va
  split
  · exact .trap hs
  · split
    · exact .trap hs
    · split
      · extract_lets +onlyGivenNames pa
        split
        · exact .trap hs
        · split
          · exact .wait hs
          · split
            · exact .trap hs
            · exact .word (fetchTouch_canonical hs)
      · split
        · next e3 =>
            split
            · exact .trap (canonical_fst (awaitPage_canonical hs) e3)
            · exact .wait (canonical_fst (awaitPage_canonical hs) e3)

theorem withWord_canonical {w : BitVec 32} (hs : StateCanonical s) : StateCanonical (withWord s w) :=
  modCtx_canonical hs

/-! Scoreboard. -/

theorem behindVectors_canonical {o : Out} (hs : StateCanonical s) (ho : OutCanonical o) : OutCanonical (behindVectors s o) := by
  unfold behindVectors
  split
  · exact canonical_iteOut (fun _ => .next (stallStep_canonical hs)) fun _ => ho
  · exact ho

/-! Move. -/

theorem issueWordAt_canonical {w : BitVec 32} (hs : StateCanonical s) : OutCanonical (issueWordAt s w) := by
  unfold issueWordAt
  extract_lets +onlyGivenNames c
  split
  · exact .next (stallData_canonical hs)
  · split
    · exact .next (stallStep_canonical hs)
    · refine behindVectors_canonical hs ?_
      split
      · exact .next (takeTrap_canonical hs)
      · exact exec_canonical hs

theorem issueStep_canonical (hs : StateCanonical s) : OutCanonical (issueStep s) := by
  unfold issueStep
  split
  · exact .next hs
  · split
    · next e =>
        exact .next (stallStep_canonical ((fetchWord_canonical hs).of_wait e))
    · next e =>
        exact behindVectors_canonical ((fetchWord_canonical hs).of_trap e)
          (.next (takeTrapAt_canonical ((fetchWord_canonical hs).of_trap e)))
    · next e =>
        exact issueWordAt_canonical (withWord_canonical ((fetchWord_canonical hs).of_word e))

theorem joinTrap_canonical {t : State} {die n : Nat} {aborted : Bool} (ht : StateCanonical t) :
    StateCanonical (joinTrap s t die n aborted) := by
  refine canonical_ite (fun _ => canonical_foldl ?_ fun _ ht => writeRecord_canonical ht) fun _ => ht
  split
  · exact ht
  · exact writeRecord_canonical (putCore_canonical ht ((getCore_canonical ht).frame rfl))

theorem coincide_canonical {o : Out} (ho : OutCanonical o) : OutCanonical (coincide s o) := by
  unfold coincide
  split
  · split
    · exact .next (canonical_foldl (ho.of_next rfl) fun _ ht => joinTrap_canonical ht)
    · exact ho
  · exact ho

theorem reeveStep_canonical {die slice : Nat} (hs : StateCanonical s) : OutCanonical (reeveStep s die slice) := by
  unfold reeveStep
  extract_lets +onlyGivenNames t
  split
  · split
    · exact exec_canonical (hs.frame rfl)
    · split
      · split
        · exact exec_canonical (hs.frame rfl)
        · exact exec_canonical (hs.frame rfl)
      · exact exec_canonical (hs.frame rfl)
  · exact .next hs

theorem cycleOf_canonical {m : Move} (hs : StateCanonical s) : StateCanonical (cycleOf s m) := by
  unfold cycleOf
  split
  · extract_lets +onlyGivenNames t
    have ht : StateCanonical t := canonical_when hs cycleOver_canonical
    exact ht.frame rfl
  · exact cycleOver_canonical hs

theorem runMove_canonical {m : Move} (hs : StateCanonical s) : OutCanonical (runMove s m) := by
  unfold runMove
  split
  · exact coincide_canonical (issueStep_canonical ((focus_canonical hs).frame rfl))
  · exact .next (commandWork_canonical (focus_canonical (hs.frame rfl)))
  · exact reeveStep_canonical hs
  · exact coincide_canonical (exec_canonical (focus_canonical (hs.frame rfl)))

theorem settled_canonical (hs : StateCanonical s) : StateCanonical (settled s) :=
  pruneColl_canonical (bumpFresh_canonical (giveHeld_canonical (hs.frame rfl)))

theorem settleOut_canonical {o : Out} (ho : OutCanonical o) : OutCanonical (settleOut o) := by
  unfold settleOut
  split
  · exact .next (settled_canonical (ho.of_next rfl))
  · exact ho
  · exact ho

/-! Step. -/

theorem step_canonical (hs : StateCanonical s) : OutCanonical (step s) := by
  unfold step
  split
  · exact .fault
  · split
    · exact settleOut_canonical (runMove_canonical (cycleOver_canonical (hs.frame rfl)))
    · split
      · exact settleOut_canonical (runMove_canonical (cycleOf_canonical hs))
      · exact .next (settled_canonical hs)

end

/-- Settles O59: every function of the model keeps the canonical form, and `step` is made of them. -/
theorem memoryStaysCanonical : Obligations.MemoryStaysCanonical := by
  intro s t hs h
  exact stateCanonical_iff.1 ((step_canonical (stateCanonical_iff.2 hs)).of_next h)

end Sys2Proof.Canonical

/-! SUPPORT. What the vector instructions share (R147 to R150): their issue with nothing before them, the check of their sources, and
the lanes of a destination under a mask. -/

namespace Sys2Proof.VectorLanes

open Sys2Proof.Machine Sys2Proof.Laws Sys2Proof.IssueWords

/-! Issue. -/

section

variable {s t : State} {i : Instr} {o : VOps} {e : VOps → State → Eff}

theorem vecIssue_ok (starts : Starts i s) (effect : e o s = .ok t) : vecIssue i o e s = .next (retire (countVector t)) := by
  obtain ⟨empty, now, wf⟩ := starts
  simp only [vecIssue, wf, empty, now, effect, Bool.true_eq_false, reduceIte, and_self, inLine_ok]

theorem vecIssue_trap {x : Trap} (starts : Starts i s) (effect : e o s = .trap x) :
    vecIssue i o e s = .next (takeTrap (countVector s) x) := by
  obtain ⟨empty, now, wf⟩ := starts
  simp only [vecIssue, wf, empty, now, effect, Bool.true_eq_false, reduceIte, and_self, finish]

theorem vecIssue_stall (starts : Starts i s) (effect : e o s = .stall) :
    vecIssue i o e s = .next (retire (countVector (vecEnqueue i o s))) := by
  obtain ⟨empty, now, wf⟩ := starts
  simp only [vecIssue, wf, empty, now, effect, Bool.true_eq_false, reduceIte, and_self, inLine_ok]

/-- A vector instruction that starts, and whose effect is complete, completes with it. -/
theorem completes_of_vecIssue (runs : exec i s = vecIssue i o e s) (starts : Starts i s) (effect : e o s = .ok t) :
    Completes i s t :=
  completes_of_counted (n := 2) (x := 1) (runs.trans (vecIssue_ok starts effect))

/-- One whose effect is a trap takes it, counted. -/
theorem traps_of_vecIssue {x : Trap} (runs : exec i s = vecIssue i o e s) (starts : Starts i s) (effect : e o s = .trap x) :
    TrapsCounted i s x :=
  runs.trans (vecIssue_trap starts effect)

/-- One whose effect must wait enters the vector queue. -/
theorem enters_of_vecIssue (runs : exec i s = vecIssue i o e s) (starts : Starts i s) (effect : e o s = .stall) :
    Completes i s (vecEnqueue i o s) :=
  completes_of_counted (n := 2) (x := 1) (runs.trans (vecIssue_stall starts effect))

end

/-- A state with the context that a vector instruction leaves and the flags that it gathers. -/
def vecState (s : State) (c : Context) (fl : Fl) : State := modCtx s fun _ => { c with vmode := fl.apply c.vmode }

section

variable (s : State) (c : Context) (fl : Fl)

@[simp] theorem vecDone_ok : vecDone s (.ok (c, fl)) = .ok (vecState s c fl) := rfl

@[simp] theorem vecState_vreg (r : BitVec 5) : vreg (vecState s c fl).core.ctx r = vreg c r := rfl

@[simp] theorem vecState_mreg (r : BitVec 3) : mreg (vecState s c fl).core.ctx r = mreg c r := rfl

theorem vecState_lane (r : BitVec 5) (k : Nat) : lane (vecState s c fl) r k = (vreg c r)[k]?.getD 0 := rfl

/-- Where only vector registers were written, nothing but these and VMODE differ. -/
theorem vecState_eq (kept : c = { s.core.ctx with v := c.v }) :
    vecState s c fl = modCtx s fun x => { x with v := (vecState s c fl).core.ctx.v, vmode := (vecState s c fl).core.ctx.vmode } :=
  congrArg (fun x : Context => modCtx s fun _ => { x with vmode := fl.apply c.vmode }) kept

end

/-! The check of the sources (R150). -/

section

variable {s : State} {act : BitVec 1024} {e : VEff}

theorem anyVerdict_iff {r : BitVec 5} : anyVerdict act (vreg s.core.ctx r) = true ↔ ¬ VerdictFree s act r := by
  simp [anyVerdict, VerdictFree, lane]

theorem not_verdictFree {r : BitVec 5} {k : Nat} (hk : k < 1024) (active : act.getLsbD k = true) (verdict : isVerdict (lane s r k) = true) :
    ¬ VerdictFree s act r := fun free => by simp [free k hk active] at verdict

/-- Sources without a verdict word in an active lane pass the check. -/
theorem verdictFree_pass {rs : List (BitVec 5)} (free : ∀ r ∈ rs, VerdictFree s act r) :
    verdictFree act (rs.map (vreg s.core.ctx)) e = e := by
  refine if_neg fun any => ?_
  obtain ⟨x, listed, verdict⟩ := List.any_eq_true.1 any
  obtain ⟨r, hr, rfl⟩ := List.mem_map.1 listed
  exact anyVerdict_iff.1 verdict (free r hr)

theorem verdictFree_trap {rs : List (BitVec 5)} {r : BitVec 5} (listed : r ∈ rs) (verdict : ¬ VerdictFree s act r) :
    verdictFree act (rs.map (vreg s.core.ctx)) e = .error (Trap.of .verdictOperand) :=
  if_pos (List.any_eq_true.2 ⟨_, List.mem_map_of_mem listed, anyVerdict_iff.2 verdict⟩)

end

/-! Lanes under a mask (R147). -/

theorem lane_eq (s : State) (r : BitVec 5) (k : Nat) : laneAt (vreg s.core.ctx r) k = (lane s r k).toNat := rfl

/-- A lane of a register that is given lane by lane. -/
theorem ofFn_lane {f : Fin 1024 → BitVec 32} {k : Nat} (hk : k < 1024) : (Vector.ofFn f)[k]?.getD 0 = f ⟨k, hk⟩ := by
  simp [hk]

theorem underMask_lane (act : BitVec 1024) (z : Bool) (old : VReg) (f : Nat → BitVec 32) {k : Nat} (hk : k < 1024) :
    (underMask act z old f)[k]?.getD 0 = if act.getLsbD k then f k else if z then 0 else old[k]?.getD 0 := by
  rw [underMask, ofFn_lane hk]
  simp [hk]

section

variable {s u : State} {d r : BitVec 5} {x : VReg} {act : BitVec 1024} {z : BitVec 1} {f : Nat → BitVec 32} {k : Nat}

/-- The register that an instruction writes, and the others. -/
theorem vreg_written (written : u.core.ctx.v = vset s.core.ctx.v d.toNat x) : vreg u.core.ctx d = x := by
  rw [vreg, written, vget_vset_same _ _ _ _ d.isLt]

theorem vreg_kept (written : u.core.ctx.v = vset s.core.ctx.v d.toNat x) (other : r ≠ d) : vreg u.core.ctx r = vreg s.core.ctx r := by
  rw [vreg, written, vget_vset_other _ _ _ _ _ fun e => other (BitVec.eq_of_toNat_eq e).symm, vreg]

theorem lane_written (written : u.core.ctx.v = vset s.core.ctx.v d.toNat x) : lane u d k = x[k]?.getD 0 := by
  rw [lane, vreg_written written]

/-- The lanes of a register written under a mask. -/
theorem lane_underMask (written : u.core.ctx.v = vset s.core.ctx.v d.toNat (underMask act (z == 1) (vreg s.core.ctx d) f)) (hk : k < 1024) :
    lane u d k = if act.getLsbD k then f k else if z = 1 then 0 else lane s d k := by
  rw [lane_written written, underMask_lane _ _ _ _ hk]
  simp only [beq_iff_eq, lane]

end

section

variable {s : State} {i : Instr} {o : VOps} {e : VOps → State → Eff} {d : BitVec 5} {m : BitVec 3} {z : BitVec 1} {f : Nat → BitVec 32 × Fl}

/-- An instruction whose effect is lane-wise completes lane-wise. -/
theorem laneWise_of_vecIssue (runs : exec i s = vecIssue i o e s) (starts : Starts i s)
    (effect : e o s = vecDone s (laneWise s d m z f)) : LaneWise i s d (mreg s.core.ctx m) z f :=
  ⟨_, completes_of_vecIssue runs starts effect, fun _ => lane_underMask (f := fun k => (f k).1) rfl, fun _ => vreg_kept rfl, rfl⟩

end

/-! Masks given bit by bit. -/

/-- The number whose low n bits are given, as `maskOf` builds it. -/
def bitsOf (f : Nat → Bool) (n : Nat) : Nat := (List.range n).foldl (fun x i => if f i then x + 2 ^ i else x) 0

theorem bitsOf_succ (f : Nat → Bool) (n : Nat) : bitsOf f (n + 1) = if f n then bitsOf f n + 2 ^ n else bitsOf f n := by
  simp only [bitsOf, List.range_succ, List.foldl_append, List.foldl_cons, List.foldl_nil]

theorem bitsOf_lt (f : Nat → Bool) (n : Nat) : bitsOf f n < 2 ^ n := by
  induction n with
  | zero => exact Nat.one_pos
  | succ n ih =>
    rw [bitsOf_succ, Nat.pow_succ]
    split <;> omega

theorem testBit_bitsOf (f : Nat → Bool) {n k : Nat} (hk : k < n) : (bitsOf f n).testBit k = f k := by
  induction n with
  | zero => exact absurd hk (Nat.not_lt_zero k)
  | succ n ih =>
    have small := bitsOf_lt f n
    rw [bitsOf_succ]
    rcases Nat.lt_succ_iff_lt_or_eq.1 hk with below | rfl
    · split
      · rw [Nat.add_comm, Nat.testBit_two_pow_add_gt below, ih below]
      · exact ih below
    · have clear : (bitsOf f k).testBit k = false := Nat.testBit_lt_two_pow small
      split
      · next on => rw [Nat.add_comm, Nat.testBit_two_pow_add_eq, clear, on, Bool.not_false]
      · next off => rw [clear, Bool.eq_false_iff.2 off]

theorem getLsbD_maskOf (f : Nat → Bool) {k : Nat} (hk : k < 1024) : (maskOf f).getLsbD k = f k := by
  have bits : maskOf f = BitVec.ofNat 1024 (bitsOf f 1024) := rfl
  rw [bits, BitVec.getLsbD_ofNat, testBit_bitsOf f hk, decide_eq_true hk, Bool.true_and]

end Sys2Proof.VectorLanes

/-! SUPPORT. The float members (R151), for O18. -/

namespace Sys2Proof.VectorFloats

open Sys2Proof.Machine Sys2Proof.Laws Sys2Proof.VectorLanes

section

variable {s : State} {i : Instr} {o : VOps} {e : VOps → State → Eff} {d a b : BitVec 5} {m : BitVec 3} {z : BitVec 1}
  {f : Nat → Nat → Nat → Nat × Fl}

/-- Without a verdict word among its sources a float member is lane-wise. -/
theorem floatLanes_free (ha : VerdictFree s (mreg s.core.ctx m) a) (hb : VerdictFree s (mreg s.core.ctx m) b) :
    floatLanes d a b m z f s = laneWise s d m z fun k =>
      (BitVec.ofNat 32 (f (lane s a k).toNat (lane s b k).toNat (lane s d k).toNat).1,
        (f (lane s a k).toNat (lane s b k).toNat (lane s d k).toNat).2) :=
  verdictFree_pass (rs := [a, b]) (by simp [ha, hb])

/-- With one it traps. -/
theorem floatLanes_verdict (verdict : ¬ VerdictFree s (mreg s.core.ctx m) a ∨ ¬ VerdictFree s (mreg s.core.ctx m) b) :
    floatLanes d a b m z f s = .error (Trap.of .verdictOperand) := by
  rcases verdict with verdict | verdict
  · exact verdictFree_trap (rs := [a, b]) (by simp) verdict
  · exact verdictFree_trap (rs := [a, b]) (by simp) verdict

theorem laneWise_of_floatLanes (runs : exec i s = vecIssue i o e s) (starts : Starts i s)
    (effect : e o s = vecDone s (floatLanes d a b m z f s)) (ha : VerdictFree s (mreg s.core.ctx m) a)
    (hb : VerdictFree s (mreg s.core.ctx m) b) :
    LaneWise i s d (mreg s.core.ctx m) z fun k =>
      (BitVec.ofNat 32 (f (lane s a k).toNat (lane s b k).toNat (lane s d k).toNat).1,
        (f (lane s a k).toNat (lane s b k).toNat (lane s d k).toNat).2) :=
  laneWise_of_vecIssue runs starts (effect.trans (congrArg (vecDone s) (floatLanes_free ha hb)))

theorem traps_of_floatLanes (runs : exec i s = vecIssue i o e s) (starts : Starts i s)
    (effect : e o s = vecDone s (floatLanes d a b m z f s))
    (verdict : ¬ VerdictFree s (mreg s.core.ctx m) a ∨ ¬ VerdictFree s (mreg s.core.ctx m) b) :
    TrapsCounted i s (Trap.of .verdictOperand) :=
  traps_of_vecIssue runs starts (effect.trans (congrArg (vecDone s) (floatLanes_verdict verdict)))

/-- VFMA and VFMS: as the others, once the destination holds no verdict word. -/
theorem fusedLanes_free (hd : VerdictFree s (mreg s.core.ctx m) d) : fusedLanes d a b m z f s = floatLanes d a b m z f s :=
  verdictFree_pass (rs := [d]) (by simp [hd])

theorem traps_of_fusedLanes (runs : exec i s = vecIssue i o e s) (starts : Starts i s)
    (effect : e o s = vecDone s (fusedLanes d a b m z f s))
    (verdict : ¬ VerdictFree s (mreg s.core.ctx m) a ∨ ¬ VerdictFree s (mreg s.core.ctx m) b ∨ ¬ VerdictFree s (mreg s.core.ctx m) d) :
    TrapsCounted i s (Trap.of .verdictOperand) := by
  by_cases hd : VerdictFree s (mreg s.core.ctx m) d
  · exact traps_of_floatLanes runs starts (effect.trans (congrArg (vecDone s) (fusedLanes_free hd)))
      (verdict.imp_right fun h => h.resolve_right (not_not.2 hd))
  · exact traps_of_vecIssue runs starts (effect.trans (congrArg (vecDone s) (verdictFree_trap (rs := [d]) (by simp) hd)))

end

/-- The sign operations of the model (R151). -/
theorem signOp_eq (ftz : Bool) (x : Nat) (sign : Bool → Bool) :
    signOp ftz x sign =
      if (FFmt.f32.val x).isNan then (0x7FC00000, { nv := FFmt.f32.snan x })
      else
        (FFmt.f32.flushSrc ftz x % 2 ^ 31 + if sign (decide (2 ^ 31 ≤ FFmt.f32.flushSrc ftz x)) then 2 ^ 31 else 0, {}) := rfl

/-- Settles O18: each member is `floatLanes` of its operation, behind the check of the destination for VFMA and VFMS. -/
theorem vectorFloatMembersComplete : Obligations.VectorFloatMembersComplete := by
  unfold Obligations.VectorFloatMembersComplete
  intro s d a b m z act vm nar x y w bits signed empty now
  have starts {i : Instr} (wf : i.wf = true) : Starts i s := ⟨empty, now, wf⟩
  have sign (n : Nat) (f : Bool → Bool) :
      (BitVec.ofNat 32 (signOp (vmodeFTZ vm) n f).1, (signOp (vmodeFTZ vm) n f).2) = signed n f := by
    rw [signOp_eq]
    simp only [signed]
    split <;> rfl
  have member {i : Instr} {a b : BitVec 5} (e : VOps → State → Eff) (f : Nat → Nat → Nat → Nat × Fl)
      (runs : exec i s = vecIssue i (vecOps s 0 0) e s) (wf : i.wf = true)
      (effect : e (vecOps s 0 0) s = vecDone s (floatLanes d a b m z f s)) := laneWise_of_floatLanes runs (starts wf) effect
  refine ⟨fun ha => ⟨?_, ?_, fun hb => ⟨?_, ?_, ?_, ?_, ?_, ?_, fun hd => ⟨?_, ?_⟩⟩⟩, fun k hk active => ?_⟩
  · simp only [← sign]
    exact member (effVabs d a m z) (fun x _ _ => signOp (vmodeFTZ vm) x fun _ => false) rfl rfl rfl ha ha
  · simp only [← sign]
    exact member (effVneg d a m z) (fun x _ _ => signOp (vmodeFTZ vm) x not) rfl rfl rfl ha ha
  · exact member (effVadd d a b m z) (fun x y _ => fAdd .f32 nar x y) rfl rfl rfl ha hb
  · exact member (effVsub d a b m z) (fun x y _ => fSub .f32 nar x y) rfl rfl rfl ha hb
  · exact member (effVmul d a b m z) (fun x y _ => fMul .f32 nar x y) rfl rfl rfl ha hb
  · exact member (effVmin d a b m z) (fun x y _ => fMinMax .f32 false (vmodeFTZ vm) x y) rfl rfl rfl ha hb
  · exact member (effVmax d a b m z) (fun x y _ => fMinMax .f32 true (vmodeFTZ vm) x y) rfl rfl rfl ha hb
  · simp only [← sign]
    exact member (effVcpys d a b m z) (fun x y _ => signOp (vmodeFTZ vm) x fun _ => decide (2 ^ 31 ≤ y)) rfl rfl rfl ha hb
  · exact member (effVfma d a b m z) (fun x y w => fMulAdd .f32 nar false x y w) rfl rfl (congrArg (vecDone s) (fusedLanes_free hd)) ha hb
  · exact member (effVfms d a b m z) (fun x y w => fMulAdd .f32 nar true x y w) rfl rfl (congrArg (vecDone s) (fusedLanes_free hd)) ha hb
  · have bad {r : BitVec 5} : isVerdict (lane s r k) = true → ¬ VerdictFree s act r := not_verdictFree hk active
    have plain {i : Instr} {a b : BitVec 5} (e : VOps → State → Eff) (f : Nat → Nat → Nat → Nat × Fl)
        (verdict : ¬ VerdictFree s act a ∨ ¬ VerdictFree s act b) (runs : exec i s = vecIssue i (vecOps s 0 0) e s) (wf : i.wf = true)
        (effect : e (vecOps s 0 0) s = vecDone s (floatLanes d a b m z f s)) := traps_of_floatLanes runs (starts wf) effect verdict
    have fused {i : Instr} (e : VOps → State → Eff) (f : Nat → Nat → Nat → Nat × Fl)
        (verdict : ¬ VerdictFree s act a ∨ ¬ VerdictFree s act b ∨ ¬ VerdictFree s act d)
        (runs : exec i s = vecIssue i (vecOps s 0 0) e s) (wf : i.wf = true)
        (effect : e (vecOps s 0 0) s = vecDone s (fusedLanes d a b m z f s)) := traps_of_fusedLanes runs (starts wf) effect verdict
    simp only [List.forall_mem_cons]
    refine ⟨fun va => ?_, fun vab => ?_, fun vd => ?_⟩
    · have verdict := Or.inl (b := ¬ VerdictFree s act a) (bad va)
      exact ⟨plain (effVabs d a m z) _ verdict rfl rfl rfl, plain (effVneg d a m z) _ verdict rfl rfl rfl, by simp⟩
    · have verdict := vab.imp bad bad
      have verdicts := verdict.imp_right (Or.inl (b := ¬ VerdictFree s act d))
      exact ⟨plain (effVadd d a b m z) _ verdict rfl rfl rfl, plain (effVsub d a b m z) _ verdict rfl rfl rfl,
        plain (effVmul d a b m z) _ verdict rfl rfl rfl, fused (effVfma d a b m z) _ verdicts rfl rfl rfl,
        fused (effVfms d a b m z) _ verdicts rfl rfl rfl, plain (effVmin d a b m z) _ verdict rfl rfl rfl,
        plain (effVmax d a b m z) _ verdict rfl rfl rfl, plain (effVcpys d a b m z) _ verdict rfl rfl rfl, by simp⟩
    · have verdicts := Or.inr (a := ¬ VerdictFree s act a) (Or.inr (a := ¬ VerdictFree s act b) (bad vd))
      exact ⟨fused (effVfma d a b m z) _ verdicts rfl rfl rfl, fused (effVfms d a b m z) _ verdicts rfl rfl rfl, by simp⟩

end Sys2Proof.VectorFloats

/-! SUPPORT. The integer members (R152), for O19. -/

namespace Sys2Proof.VectorIntegers

open Sys2Proof.Machine Sys2Proof.Laws Sys2Proof.IntegerMembers Sys2Proof.VectorLanes

/-- An integer member has the result that its entry in the member table has at 32 bits. -/
theorem laneWise_of_intLanes {s : State} {i : Instr} {e : VOps → State → Eff} {d a b : BitVec 5} {m : BitVec 3} {z : BitVec 1}
    {f : BitVec 32 → BitVec 32 → BitVec 32} (op : AluOp) (runs : exec i s = vecIssue i (vecOps s 0 0) e s) (starts : Starts i s)
    (effect : e (vecOps s 0 0) s = vecDone s (intLanes d a b m z (aluRes op 32) s))
    (res : ∀ {x y : BitVec 32}, aluRes op 32 x.toNat y.toNat = (f x y).toNat) :
    LaneWise i s d (mreg s.core.ctx m) z fun k => (f (lane s a k) (lane s b k), {}) := by
  refine laneWise_of_vecIssue runs starts (effect.trans (congrArg (vecDone s) ?_))
  simp only [intLanes, lane_eq, res, BitVec.ofNat_toNat, BitVec.setWidth_eq]

/-- Settles O19: each member is `intLanes` of its operation, whose value is the table's at 32 bits. -/
theorem vectorIntegerMembersComplete : Obligations.VectorIntegerMembersComplete := by
  unfold Obligations.VectorIntegerMembersComplete
  intro s d a b m z empty now act gives
  have pos : 0 < 32 := by decide
  have member {i : Instr} {f : BitVec 32 → BitVec 32 → BitVec 32} (e : VOps → State → Eff) (op : AluOp)
      (runs : exec i s = vecIssue i (vecOps s 0 0) e s) (wf : i.wf = true)
      (effect : e (vecOps s 0 0) s = vecDone s (intLanes d a b m z (aluRes op 32) s))
      (res : ∀ {x y : BitVec 32}, aluRes op 32 x.toNat y.toNat = (f x y).toNat) : gives i f :=
    laneWise_of_intLanes op runs ⟨empty, now, wf⟩ effect res
  exact ⟨member (effViadd d a b m z) .add rfl rfl rfl (BitVec.toNat_add _ _).symm,
    member (effVisub d a b m z) .sub rfl rfl rfl aluRes_sub,
    member (effVimul d a b m z) .mul rfl rfl rfl (BitVec.toNat_mul _ _).symm,
    member (effVand d a b m z) .and rfl rfl rfl (BitVec.toNat_and _ _).symm,
    member (effVor d a b m z) .or rfl rfl rfl (BitVec.toNat_or _ _).symm,
    member (effVxor d a b m z) .xor rfl rfl rfl (BitVec.toNat_xor _ _).symm,
    member (effVshl d a b m z) .shl rfl rfl rfl aluRes_shl,
    member (effVshr d a b m z) .shr rfl rfl rfl aluRes_shr,
    member (effVsar d a b m z) .sar rfl rfl rfl (aluRes_sar pos),
    member (effVimin d a b m z) .min rfl rfl rfl (aluRes_min pos),
    member (effVimax d a b m z) .max rfl rfl rfl (aluRes_max pos),
    member (effViminN32 d a b m z) .minn rfl rfl rfl aluRes_minn,
    member (effVimaxN32 d a b m z) .maxn rfl rfl rfl aluRes_maxn⟩

end Sys2Proof.VectorIntegers

/-! SUPPORT. Permutes and masks (R162, R168), for O22. -/

namespace Sys2Proof.PermutesAndMasks

open Sys2Proof.Machine Sys2Proof.Laws Sys2Proof.CountsAndFields Sys2Proof.VectorLanes

/-! No flag. -/

theorem apply_none (vmode : Word) : Fl.apply {} vmode = vmode := by
  have count := (vmode.extractLsb' 32 32).isLt
  have low : min 0xFFFFFFFF (vmode.extractLsb' 32 32).toNat = (vmode.extractLsb' 32 32).toNat := by omega
  simp only [Fl.apply, Nat.add_zero, low, Bool.false_eq_true, if_false, BitVec.ofNat_toNat, BitVec.setWidth_eq]
  ext k hk
  simp only [BitVec.getElem_append, BitVec.getElem_or, BitVec.getElem_extractLsb']
  split
  · next h => simp [BitVec.getLsbD_eq_getElem hk]
  · next h => simp [Nat.add_sub_cancel' (Nat.le_of_not_lt h), BitVec.getLsbD_eq_getElem hk]

theorem maskFlags_none (act : BitVec 1024) : maskFlags act (fun _ => {}) = {} := by
  unfold maskFlags
  refine List.foldlRecOn (motive := (· = ({} : Fl))) _ _ rfl fun fl h k _ => ?_
  rw [h]
  split <;> rfl

/-! Masks. -/

theorem vget_vset {α : Type} {n : Nat} (v : Vector α n) (i : Nat) {j : Nat} (hj : j < n) (x y : α) :
    vget (vset v i x) j y = if j = i then x else vget v j y := by
  split
  · next h => rw [← h, vget_vset_same _ _ _ _ hj]
  · next h => exact vget_vset_other _ _ _ _ _ (Ne.symm h)

theorem mreg_setM_other (c : Context) {p t : BitVec 3} (v : BitVec 1024) (h : t ≠ p) : mreg (setM c p v) t = mreg c t := by
  unfold setM
  split
  · rfl
  · simp only [mreg]
    rw [vget_vset_other _ _ _ _ _ fun e => h (BitVec.eq_of_toNat_eq e).symm]

theorem setM_eq (c : Context) (p : BitVec 3) (v : BitVec 1024) : setM c p v = { c with m := (setM c p v).m } := by
  unfold setM
  split <;> rfl

/-- A mask has a one bit exactly where it is not zero. -/
theorem mask_ne_zero (x : BitVec 1024) : (x != 0) = (List.range 1024).any fun k => x.getLsbD k := by
  refine Bool.eq_iff_iff.2 ?_
  rw [bne_iff_ne, List.any_eq_true]
  refine ⟨fun nonzero => ?_, ?_⟩
  · by_contra none
    refine nonzero (BitVec.eq_of_getLsbD_eq fun k hk => ?_)
    exact (Bool.eq_false_iff.2 fun bit => none ⟨k, List.mem_range.2 hk, bit⟩).trans BitVec.getLsbD_zero.symm
  · rintro ⟨k, -, bit⟩ rfl
    simp at bit

section

variable {s : State} {i : Instr} {e : VOps → State → Eff} {p : BitVec 3} {v : BitVec 1024}

/-- An instruction that writes a mask. -/
theorem completes_of_setM {f : Nat → Bool} (runs : exec i s = vecIssue i (vecOps s 0 0) e s) (starts : Starts i s)
    (effect : e (vecOps s 0 0) s = .ok (modCtx s fun c => setM c p v)) (bits : ∀ k, k < 1024 → v.getLsbD k = f k) :
    ∃ u, Completes i s u ∧ (p ≠ 0 → ∀ k, k < 1024 → (mreg u.core.ctx p).getLsbD k = f k) ∧
      (∀ t, t ≠ p → mreg u.core.ctx t = mreg s.core.ctx t) ∧ u = modCtx s fun c => { c with m := u.core.ctx.m } := by
  refine ⟨_, completes_of_vecIssue runs starts effect, fun writable k hk => ?_, fun t other => mreg_setM_other _ v other, ?_⟩
  · rw [modCtx_core, mreg_setM_same _ _ _ writable, bits k hk]
  · exact congrArg (fun c => modCtx s fun _ => c) (setM_eq s.core.ctx p v)

/-- An instruction that writes every lane of a register: lane-wise under a mask of ones. -/
theorem laneWise_of_wholeRegister {o : VOps} {d : BitVec 5} {x : VReg} {f : Nat → BitVec 32} (runs : exec i s = vecIssue i o e s)
    (starts : Starts i s) (effect : e o s = vecDone s (.ok (setV s.core.ctx d x, {}))) (lanes : ∀ k, k < 1024 → x[k]?.getD 0 = f k)
    (act : BitVec 1024) (all : ∀ k, k < 1024 → act.getLsbD k = true) : LaneWise i s d act 0 fun k => (f k, {}) := by
  refine ⟨_, completes_of_vecIssue runs starts effect, fun k hk => ?_, fun t => vreg_kept rfl, ?_⟩
  · rw [lane_written rfl, lanes k hk, if_pos (all k hk)]
  · simp only [maskFlags_none]
    rfl

end

/-- Settles O22: the moves of lanes are lane-wise, VSEL under the mask of all lanes, and the masks are bitwise. -/
theorem permutesAndMasksComplete : Obligations.PermutesAndMasksComplete := by
  unfold Obligations.PermutesAndMasksComplete
  intro s d a b m p q r z empty now act c onMask
  have starts {i : Instr} (wf : i.wf = true) : Starts i s := ⟨empty, now, wf⟩
  refine ⟨?_, ?_, ?_, ?_, ?_, ?_, ?_, ?_, ?_, ?_, ?_, ?_⟩
  · exact laneWise_of_vecIssue (o := vecOps s 0 0) (e := effVperm d a b m z) rfl (starts rfl) rfl
  · exact laneWise_of_vecIssue (o := vecOps s 0 0) (e := effVmov d a m z) rfl (starts rfl) rfl
  · exact laneWise_of_vecIssue (o := vecOps s a 0) (e := effViota d m z) rfl (starts rfl) rfl
  · refine laneWise_of_wholeRegister (o := vecOps s 0 0) (e := effVsel d a b m) rfl (starts rfl) rfl (fun k hk => ?_) _
      fun k hk => BitVec.getLsbD_allOnes.trans (decide_eq_true hk)
    rw [ofFn_lane hk]
    by_cases bit : act.getLsbD k = true
    · rw [if_pos bit, if_pos bit]
      simp [lane, hk]
    · rw [if_neg bit, if_neg bit]
      simp [lane, hk]
  · refine ⟨_, completes_of_vecIssue (o := vecOps s a b) (e := effVins d) rfl (starts rfl) rfl, fun k hk => ?_,
      fun t => vreg_kept rfl, ?_⟩
    · rw [lane_written rfl, BitVec.setWidth_eq_extractLsb' (by decide)]
      exact vget_vset _ _ hk _ _
    · refine congrArg (fun c => modCtx s fun _ => c) ?_
      rw [apply_none]
      rfl
  · have wide := BitVec.ofNat_toNat 64 (lane s a ((sreg s b).toNat % 1024))
    rw [← wide]
    exact completes_of_vecIssue (o := vecOps s 0 b) (e := effVext d a) rfl (starts rfl) rfl
  · exact completes_of_setM (e := effMand p q r) rfl (starts rfl) rfl fun k _ => BitVec.getLsbD_and ..
  · exact completes_of_setM (e := effMor p q r) rfl (starts rfl) rfl fun k _ => BitVec.getLsbD_or ..
  · exact completes_of_setM (e := effMxor p q r) rfl (starts rfl) rfl fun k _ => BitVec.getLsbD_xor ..
  · exact completes_of_setM (e := effMnot p q) rfl (starts rfl) rfl fun k hk => by simp [hk]; rfl
  · refine completes_of_vecIssue (o := vecOps s 0 0) (e := effMpopc d q) rfl (starts rfl) ?_
    exact congrArg (fun n => Eff.ok (setS s d (BitVec.ofNat 64 n))) (popcount_eq _ 1024)
  · refine completes_of_vecIssue (o := vecOps s 0 0) (e := effMtest p q r) rfl (starts rfl) ?_
    have shared := mask_ne_zero (mreg c q &&& mreg c r)
    simp only [BitVec.getLsbD_and] at shared
    exact congrArg (fun b => Eff.ok (setP s p b)) shared

end Sys2Proof.PermutesAndMasks

/-! SUPPORT. Sums in the tree order and the linear order, modulo a number (R44, R160): what the combinators of reductions and scans
give where one step is a sum. -/

namespace Sys2Proof.AxisSums

open Sys2Proof.Machine

section

variable {N : Nat} {f : Nat → Nat → Nat × Fl}

/-- A step that adds modulo N and raises no flag. -/
def Adds (N : Nat) (f : Nat → Nat → Nat × Fl) : Prop := ∀ x y, f x y = ((x + y) % N, {})

theorem Adds.modEq (adds : Adds N f) (x y : Nat) : (f x y).1 ≡ x + y [MOD N] := by
  rw [adds]
  exact Nat.mod_modEq _ _

/-- A step that raises no flag. -/
def Silent (f : Nat → Nat → Nat × Fl) : Prop := ∀ x y, (f x y).2 = {}

/-! The flags of a silent step. -/

section

variable (silent : Silent f)

include silent

theorem treeLevel_flags : ∀ xs : List Nat, (treeLevel f xs).2 = {}
  | [] => rfl
  | [_] => rfl
  | x :: y :: r => by
    simp only [treeLevel, silent x y, treeLevel_flags r]
    rfl

theorem treeReduce_flags (n : Nat) (xs : List Nat) : (treeReduce f n xs).2 = {} := by
  induction n generalizing xs with
  | zero => rfl
  | succ n ih =>
    simp only [treeReduce, treeLevel_flags silent, ih]
    rfl

theorem linearScan_flags (xs : List Nat) (y : Nat) : (linearScan f y xs).2 = {} := by
  induction xs generalizing y with
  | nil => rfl
  | cons x r ih =>
    simp only [linearScan, silent y x, ih]
    rfl

theorem scanStep_flags (d : Nat) (ys : List Nat) : (scanStep f d ys).2 = {} := by
  refine List.foldlRecOn (motive := (· = ({} : Fl))) _ _ rfl fun fl h r listed => ?_
  obtain ⟨x, y, rfl⟩ : ∃ x y, r = f x y := by
    rw [← List.map_uncurry_zip_eq_zipWith] at listed
    obtain ⟨p, -, rfl⟩ := List.mem_map.1 listed
    exact ⟨p.1, p.2, rfl⟩
  rw [h, silent x y]
  rfl

theorem axisReduce_flags (ax : Axis) (xs : List Nat) : (axisReduce ax f 0 xs).2 = {} := by
  cases ax with
  | row => exact treeReduce_flags silent 6 xs
  | col => exact linearScan_flags silent _ _

theorem axisScan_flags (ax : Axis) (xs : List Nat) : (axisScan ax f 0 xs).2 = {} := by
  cases ax with
  | row =>
    simp only [axisScan, List.foldl_cons, List.foldl_nil, scanStep_flags silent]
    rfl
  | col => exact linearScan_flags silent _ _

end

/-! The lengths, whatever a step does. -/

theorem treeLevel_length : ∀ xs : List Nat, (treeLevel f xs).1.length = (xs.length + 1) / 2
  | [] => rfl
  | [_] => by simp [treeLevel]
  | _ :: _ :: r => by
    simp only [treeLevel, List.length_cons, treeLevel_length r]
    omega

theorem treeReduce_length {n : Nat} {xs : List Nat} (h : xs.length = 2 ^ n) : (treeReduce f n xs).1.length = 1 := by
  induction n generalizing xs with
  | zero => exact h
  | succ n ih =>
    refine ih ?_
    rw [treeLevel_length, h, Nat.pow_succ]
    omega

theorem linearScan_length (xs : List Nat) (y : Nat) : (linearScan f y xs).1.length = xs.length + 1 := by
  induction xs generalizing y with
  | nil => rfl
  | cons x r ih => simp only [linearScan, List.length_cons, ih]

theorem scanStep_length {d : Nat} {ys : List Nat} (h : d ≤ ys.length) : (scanStep f d ys).1.length = ys.length := by
  simp only [scanStep, List.length_append, List.length_take, List.length_map, List.length_zipWith, List.length_drop]
  omega

/-- A place of the row scan's step below the distance keeps its value. -/
theorem scanStep_below {d j : Nat} {ys : List Nat} (hj : j < d) (h : d ≤ ys.length) : (scanStep f d ys).1.getD j 0 = ys.getD j 0 := by
  have low : j < (ys.take d).length := by rw [List.length_take]; omega
  simp only [scanStep, List.getD_eq_getElem?_getD]
  rw [List.getElem?_append_left low, List.getElem?_take_of_lt hj]

/-- Every other place takes the step of the value at that distance before it and its own. -/
theorem scanStep_above {d j : Nat} {ys : List Nat} (hj : d ≤ j) (h : j < ys.length) :
    (scanStep f d ys).1.getD j 0 = (f (ys.getD (j - d) 0) (ys.getD j 0)).1 := by
  have low : (ys.take d).length = d := by rw [List.length_take]; omega
  have place : d + (j - d) = j := by omega
  simp only [scanStep, List.getD_eq_getElem?_getD]
  rw [List.getElem?_append_right (by omega), low, List.getElem?_map, List.getElem?_zipWith, List.getElem?_drop, place,
    List.getElem?_eq_getElem (by omega : j - d < ys.length), List.getElem?_eq_getElem h]
  rfl

variable (adds : Adds N f)

include adds

/-! The tree. -/

theorem treeLevel_sum : ∀ xs : List Nat, (treeLevel f xs).1.sum ≡ xs.sum [MOD N]
  | [] => rfl
  | [_] => rfl
  | x :: y :: r => by
    simp only [treeLevel, List.sum_cons, ← Nat.add_assoc]
    exact (adds.modEq x y).add (treeLevel_sum r)

theorem treeReduce_sum (n : Nat) (xs : List Nat) : (treeReduce f n xs).1.sum ≡ xs.sum [MOD N] := by
  induction n generalizing xs with
  | zero => rfl
  | succ n ih => exact (ih _).trans (treeLevel_sum adds xs)

/-- The tree over 2^n values gives their sum. -/
theorem treeReduce_head {n : Nat} {xs : List Nat} (h : xs.length = 2 ^ n) : (treeReduce f n xs).1.headD 0 ≡ xs.sum [MOD N] := by
  have total := treeReduce_sum adds n xs
  obtain ⟨y, hy⟩ := List.length_eq_one_iff.1 (treeReduce_length h)
  rw [hy] at total ⊢
  simpa using total

/-! The linear order. -/

/-- Each place of the linear order holds the sum of the places up to it. -/
theorem linearScan_getD (xs : List Nat) (y : Nat) {p : Nat} (h : p ≤ xs.length) :
    (linearScan f y xs).1.getD p 0 ≡ y + (xs.take p).sum [MOD N] := by
  induction xs generalizing y p with
  | nil =>
    obtain rfl : p = 0 := Nat.le_zero.1 h
    rfl
  | cons x r ih =>
    cases p with
    | zero => rfl
    | succ p =>
      simp only [linearScan, List.getD_cons_succ, List.take_succ_cons, List.sum_cons, ← Nat.add_assoc]
      exact (ih _ (Nat.le_of_succ_le_succ h)).trans ((adds.modEq y x).add_right _)

end

/-- The sum of the first values. -/
def prefixSum (xs : List Nat) (n : Nat) : Nat := (xs.take n).sum

/-- Every place holds the sum of the w values that end there, or of all before it. -/
def Windowed (N : Nat) (xs : List Nat) (w : Nat) (ys : List Nat) : Prop :=
  ys.length = xs.length ∧ ∀ j, j < xs.length → ys.getD j 0 + prefixSum xs (j + 1 - w) ≡ prefixSum xs (j + 1) [MOD N]

section

variable {N : Nat} {f : Nat → Nat → Nat × Fl} {xs : List Nat}

theorem windowed_one : Windowed N xs 1 xs := by
  refine ⟨rfl, fun j hj => ?_⟩
  rw [Nat.add_sub_cancel, prefixSum, prefixSum, List.sum_take_succ _ _ hj, List.getD_eq_getElem _ _ hj, Nat.add_comm]

/-- A step doubles the windows. -/
theorem windowed_scanStep (adds : Adds N f) {w : Nat} {ys : List Nat} (hw : w ≤ xs.length) (windowed : Windowed N xs w ys) :
    Windowed N xs (2 * w) (scanStep f w ys).1 := by
  obtain ⟨length, sums⟩ := windowed
  refine ⟨(scanStep_length (length ▸ hw)).trans length, fun j hj => ?_⟩
  by_cases below : j < w
  · have own := sums j hj
    rw [scanStep_below below (length ▸ hw)]
    rwa [show j + 1 - w = j + 1 - 2 * w by omega] at own
  · have own := sums j hj
    have before := sums (j - w) (by omega)
    rw [show j - w + 1 - w = j + 1 - 2 * w by omega, show j - w + 1 = j + 1 - w by omega] at before
    rw [scanStep_above (Nat.le_of_not_lt below) (length ▸ hj)]
    refine Nat.ModEq.add_right_cancel' (prefixSum xs (j + 1 - w)) ?_
    calc (f (ys.getD (j - w) 0) (ys.getD j 0)).1 + prefixSum xs (j + 1 - 2 * w) + prefixSum xs (j + 1 - w)
        ≡ ys.getD (j - w) 0 + ys.getD j 0 + prefixSum xs (j + 1 - 2 * w) + prefixSum xs (j + 1 - w) [MOD N] :=
          ((adds.modEq _ _).add_right _).add_right _
      _ = (ys.getD (j - w) 0 + prefixSum xs (j + 1 - 2 * w)) + (ys.getD j 0 + prefixSum xs (j + 1 - w)) := by omega
      _ ≡ prefixSum xs (j + 1 - w) + prefixSum xs (j + 1) [MOD N] := before.add own
      _ = prefixSum xs (j + 1) + prefixSum xs (j + 1 - w) := Nat.add_comm _ _

/-- The six steps of the row scan: 64 values, and windows of all before each place. -/
theorem rowScan_windowed (adds : Adds N f) (length : xs.length = 64) :
    Windowed N xs 64 (axisScan .row f 0 xs).1 := by
  have step {w : Nat} (hw : w ≤ 64) {ys : List Nat} (h : Windowed N xs w ys) := windowed_scanStep adds (length ▸ hw) h
  exact step (w := 32) (by decide) <| step (w := 16) (by decide) <| step (w := 8) (by decide) <| step (w := 4) (by decide) <|
    step (w := 2) (by decide) <| step (w := 1) (by decide) windowed_one

/-! Reductions and scans of an axis. -/

theorem axisReduce_sum (adds : Adds N f) (ax : Axis) (length : xs.length = ax.len) : (axisReduce ax f 0 xs).1 ≡ xs.sum [MOD N] := by
  cases ax with
  | row => exact treeReduce_head adds (n := 6) length
  | col =>
    obtain ⟨x, r, rfl⟩ := List.exists_cons_of_length_eq_add_one (n := 15) length
    have last := linearScan_getD adds r x (Nat.le_refl r.length)
    rw [List.take_length] at last
    have nonempty : (linearScan f x r).1 ≠ [] := List.ne_nil_of_length_eq_add_one (linearScan_length r x)
    have end_ : (linearScan f x r).1.getLastD 0 = (linearScan f x r).1.getD r.length 0 := by
      rw [List.getLastD_eq_getLast?, List.getLast?_eq_getElem?, linearScan_length, List.getD_eq_getElem?_getD]
      rfl
    simpa only [axisReduce, List.headD_cons, List.tail_cons, end_, List.sum_cons] using last

theorem axisScan_getD (adds : Adds N f) (ax : Axis) (length : xs.length = ax.len) {p : Nat} (hp : p < ax.len) :
    (axisScan ax f 0 xs).1.getD p 0 ≡ (xs.take (p + 1)).sum [MOD N] := by
  cases ax with
  | row =>
    have sums := (rowScan_windowed adds length).2 p (length ▸ hp)
    have all : p + 1 - 64 = 0 := by
      have : p < 64 := hp
      omega
    rwa [all, prefixSum, List.take_zero, List.sum_nil, Nat.add_zero] at sums
  | col =>
    obtain ⟨x, r, rfl⟩ := List.exists_cons_of_length_eq_add_one (n := 15) length
    have below : p < 16 := hp
    have place : p ≤ r.length := by
      have : r.length + 1 = 16 := length
      omega
    simpa only [axisScan, List.headD_cons, List.tail_cons, List.take_succ_cons, List.sum_cons] using linearScan_getD adds r x place

end

end Sys2Proof.AxisSums

/-! SUPPORT. The axes (R159 to R161), for O21: the lanes of a row or column, the rows and columns that hold an active lane, and what the
reductions and scans write. -/

namespace Sys2Proof.AxisMembers

open Sys2Proof.Machine Sys2Proof.Laws Sys2Proof.VectorLanes Sys2Proof.AxisSums Sys2Proof.PermutesAndMasks

/-! Rows and columns. -/

section

variable (ax : Axis) {k g p : Nat}

theorem group_lt (hk : k < 1024) : ax.group k < ax.count := by
  cases ax <;> simp only [Axis.group, Axis.count] <;> omega

theorem place_lt (hk : k < 1024) : ax.place k < ax.len := by
  cases ax <;> simp only [Axis.place, Axis.len] <;> omega

theorem lane_group_place (k : Nat) : ax.lane (ax.group k) (ax.place k) = k := by
  cases ax <;> simp only [Axis.group, Axis.place, Axis.lane] <;> omega

theorem group_lane (hg : g < ax.count) (hp : p < ax.len) : ax.group (ax.lane g p) = g := by
  cases ax <;> simp only [Axis.group, Axis.lane, Axis.count, Axis.len] at * <;> omega

theorem lane_lt (hg : g < ax.count) (hp : p < ax.len) : ax.lane g p < 1024 := by
  cases ax <;> simp only [Axis.lane, Axis.count, Axis.len] at * <;> omega

theorem mem_lanes {j : Nat} (hg : g < ax.count) : j ∈ ax.lanes g ↔ j < 1024 ∧ ax.group j = g := by
  simp only [Axis.lanes, List.mem_map, List.mem_range]
  constructor
  · rintro ⟨p, hp, rfl⟩
    exact ⟨lane_lt ax hg hp, group_lane ax hg hp⟩
  · rintro ⟨hj, rfl⟩
    exact ⟨ax.place j, place_lt ax hj, lane_group_place ax j⟩

/-- A row or column holds an active lane. -/
theorem any_lanes {act : BitVec 1024} (hg : g < ax.count) :
    ((ax.lanes g).any fun j => act.getLsbD j) = true ↔ ∃ j, j < 1024 ∧ ax.group j = g ∧ act.getLsbD j = true := by
  simp only [List.any_eq_true, mem_lanes ax hg, and_assoc]

theorem getLsbD_spread {act : BitVec 1024} (hk : k < 1024) :
    (ax.spread act).getLsbD k = (ax.lanes (ax.group k)).any fun j => act.getLsbD j := by
  refine (getLsbD_maskOf _ hk).trans ?_
  simp [List.getD_eq_getElem?_getD, group_lt ax hk]

/-- No verdict word in any lane of a row or column that has an active lane. -/
theorem verdictFree_spread {s : State} {act : BitVec 1024} {a : BitVec 5} :
    VerdictFree s (ax.spread act) a ↔
      ∀ k j, k < 1024 → j < 1024 → act.getLsbD k = true → ax.group k = ax.group j → isVerdict (lane s a j) = false := by
  constructor
  · intro free k j hk hj active same
    refine free j hj ?_
    rw [getLsbD_spread ax hj, any_lanes ax (group_lt ax hj)]
    exact ⟨k, hk, same, active⟩
  · intro quiet j hj spread
    rw [getLsbD_spread ax hj, any_lanes ax (group_lt ax hj)] at spread
    obtain ⟨k, hk, same, active⟩ := spread
    exact quiet k j hk hj active same

theorem mem_axisLive {act : BitVec 1024} (hk : k < 1024) (active : act.getLsbD k = true) : ax.group k ∈ axisLive ax act :=
  List.mem_filter.2 ⟨List.mem_range.2 (group_lt ax hk), (any_lanes ax (group_lt ax hk)).2 ⟨k, hk, rfl, active⟩⟩

end

/-- A table that lists each key with its value. -/
theorem assocGet_map {κ α : Type} [DecidableEq κ] {l : List κ} (f : κ → α) {x : κ} (listed : x ∈ l) :
    assocGet (l.map fun y => (y, f y)) x = some (f x) := by
  induction l with
  | nil => exact absurd listed List.not_mem_nil
  | cons y l ih =>
    by_cases same : y = x
    · subst same
      simp [assocGet]
    · have later : x ∈ l := (List.mem_cons.1 listed).resolve_left (Ne.symm same)
      simpa [assocGet, same] using ih later

/-! Moves. -/

section

variable {s : State} {i : Instr} {o : VOps} {e : VOps → State → Eff} {d a : BitVec 5} {m : BitVec 3} {z : BitVec 1}

theorem laneWise_of_axisMove (ax : Axis) (place from_ : Nat → Nat) (runs : exec i s = vecIssue i o e s) (starts : Starts i s)
    (effect : e o s = vecDone s (axisMove ax d a m z place s)) (reads : ∀ k, ax.lane (ax.group k) (place (ax.place k)) = from_ k) :
    LaneWise i s d (mreg s.core.ctx m) z fun k => (lane s a (from_ k), {}) := by
  refine laneWise_of_vecIssue runs starts (effect.trans (congrArg (vecDone s) ?_))
  simp only [axisMove, lane_eq, reads, BitVec.ofNat_toNat, BitVec.setWidth_eq]

end

/-! Reductions and scans. -/

/-- What a reduction or scan writes along a row or column, and the flags of its steps. -/
def along (ax : Axis) (scan : Bool) (f : Nat → Nat → Nat × Fl) (xs : List Nat) : List Nat × Fl :=
  if scan then axisScan ax f 0 xs else (List.replicate ax.len (axisReduce ax f 0 xs).1, (axisReduce ax f 0 xs).2)

theorem along_getD (ax : Axis) (scan : Bool) (f : Nat → Nat → Nat × Fl) (xs : List Nat) {p : Nat} (hp : p < ax.len) :
    (along ax scan f xs).1.getD p 0 = if scan then (axisScan ax f 0 xs).1.getD p 0 else (axisReduce ax f 0 xs).1 := by
  cases scan with
  | true => rfl
  | false => simp [along, List.getD_eq_getElem?_getD, hp]

theorem along_flags (ax : Axis) (scan : Bool) {f : Nat → Nat → Nat × Fl} (silent : Silent f) (xs : List Nat) : (along ax scan f xs).2 = {} := by
  cases scan with
  | true => exact axisScan_flags silent ax xs
  | false => exact axisReduce_flags silent ax xs

theorem ofNat_of_modEq {x y : Nat} (h : x ≡ y [MOD 2 ^ 32]) : BitVec.ofNat 32 x = BitVec.ofNat 32 y := by
  refine BitVec.eq_of_toNat_eq ?_
  rw [BitVec.toNat_ofNat, BitVec.toNat_ofNat, h]

theorem adds_axisOp (o : VOps) {ty : BitVec 2} (int : ty ≠ 0) : Adds (2 ^ 32) (axisOp o ty 0) := by
  intro x y
  unfold axisOp
  have : ty.toNat = 1 ∨ ty.toNat = 2 ∨ ty.toNat = 3 := by
    have := ty.isLt
    have : ty.toNat ≠ 0 := fun h => int (BitVec.eq_of_toNat_eq h)
    omega
  rcases this with h | h | h <;> rw [h] <;> rfl

theorem silent_axisOp (o : VOps) {ty : BitVec 2} (op : BitVec 2) (int : ty ≠ 0) : Silent (axisOp o ty op) := by
  intro x y
  unfold axisOp
  have nonzero : ty.toNat ≠ 0 := fun h => int (BitVec.eq_of_toNat_eq h)
  split
  case h_1 zero _ => exact absurd zero nonzero
  case h_2 zero _ => exact absurd zero nonzero
  all_goals rfl

section

variable {s : State} {i : Instr} {o : VOps} {e : VOps → State → Eff} {d a : BitVec 5} {ty op : BitVec 2} {m : BitVec 3} {z : BitVec 1}

/-- What a row or column of a reduction or scan is read as, what it writes, and all its flags. -/
def axisResult (ax : Axis) (scan : Bool) (ty op : BitVec 2) (o : VOps) (x : VReg) (g : Nat) : List Nat × Fl :=
  let xs := (axisVals ax x g).map (axisSrc ty (vmodeFTZ o.vmode))
  let ys := along ax scan (axisOp o ty op) xs
  (ys.1, (ys.2.join (axisNv ty (axisVals ax x g))).join (rsumov ty op xs ys.1))

theorem axisResult_flags (ax : Axis) (scan : Bool) (int : ty ≠ 0) (x : VReg) (g : Nat) : (axisResult ax scan ty op o x g).2 = {} := by
  simp only [axisResult, along_flags ax scan (silent_axisOp o op int), axisNv, rsumov, beq_eq_false_iff_ne.2 int, Bool.false_and]
  rfl

/-- The table of the live rows and columns. -/
def axisTable (ax : Axis) (scan : Bool) (ty op : BitVec 2) (o : VOps) (act : BitVec 1024) (x : VReg) : List (Nat × List Nat × Fl) :=
  (axisLive ax act).map fun g => (g, axisResult ax scan ty op o x g)

/-- The flags of all rows or columns. -/
def axisFlags (ax : Axis) (scan : Bool) (ty op : BitVec 2) (o : VOps) (act : BitVec 1024) (x : VReg) : Fl :=
  (axisTable ax scan ty op o act x).foldl (fun fl r => fl.join r.2.2) {}

theorem axisFlags_int (ax : Axis) (scan : Bool) (int : ty ≠ 0) (act : BitVec 1024) (x : VReg) : axisFlags ax scan ty op o act x = {} := by
  refine List.foldlRecOn (motive := (· = ({} : Fl))) _ _ rfl fun fl h r listed => ?_
  obtain ⟨g, -, rfl⟩ := List.mem_map.1 listed
  rw [h, axisResult_flags ax scan int]
  rfl

/-- What the table holds for an active lane. -/
theorem axisTable_lane (ax : Axis) (scan : Bool) {act : BitVec 1024} (x : VReg) {k : Nat} (hk : k < 1024)
    (active : act.getLsbD k = true) :
    (((assocGet (axisTable ax scan ty op o act x) (ax.group k)).getD ([], {})).1).getD (ax.place k) 0 =
      let xs := (axisVals ax x (ax.group k)).map (axisSrc ty (vmodeFTZ o.vmode))
      if scan then (axisScan ax (axisOp o ty op) 0 xs).1.getD (ax.place k) 0 else (axisReduce ax (axisOp o ty op) 0 xs).1 := by
  rw [axisTable, assocGet_map (axisResult ax scan ty op o x) (mem_axisLive ax hk active), Option.getD_some]
  exact along_getD ax scan _ _ (place_lt ax hk)

theorem axisEffect_free (ax : Axis) (scan : Bool)
    (free : ty = 0 → VerdictFree s (ax.spread (mreg s.core.ctx m)) a) :
    axisEffect ax scan d a ty op m z o s =
      .ok (setV s.core.ctx d (underMask (mreg s.core.ctx m) (z == 1) (vreg s.core.ctx d) fun i =>
          BitVec.ofNat 32 ((((assocGet (axisTable ax scan ty op o (mreg s.core.ctx m) (vreg s.core.ctx a)) (ax.group i)).getD ([], {})).1).getD
            (ax.place i) 0)),
        axisFlags ax scan ty op o (mreg s.core.ctx m) (vreg s.core.ctx a)) := by
  have pass (e : VEff) : axisFree ax ty (mreg s.core.ctx m) (vreg s.core.ctx a) e = e := by
    unfold axisFree
    split
    · next float => exact verdictFree_pass (rs := [a]) (by simpa using free float)
    · rfl
  unfold axisEffect
  rw [pass]
  cases scan <;> rfl

theorem axisEffect_verdict (ax : Axis) (scan : Bool) (float : ty = 0) (verdict : ¬ VerdictFree s (ax.spread (mreg s.core.ctx m)) a) :
    axisEffect ax scan d a ty op m z o s = .error (Trap.of .verdictOperand) :=
  (if_pos float).trans (verdictFree_trap (rs := [a]) (by simp) verdict)

/-! The pairs of R45. -/

/-- The table of the live rows and columns. -/
def pairTable (ax : Axis) (ftz : Bool) (act : BitVec 1024) (x : VReg) : List (Nat × (Nat × Nat) × Fl) :=
  (axisLive ax act).map fun g =>
    (g, axisReduce ax (pairAdd ftz) (0, 0) ((axisVals ax x g).map fun v => (FFmt.f32.flushSrc ftz v, 0)))

/-- The pair of a lane. -/
def pairAt (ax : Axis) (ftz : Bool) (act : BitVec 1024) (x : VReg) (k : Nat) : Nat × Nat :=
  ((assocGet (pairTable ax ftz act x) (ax.group k)).getD ((0, 0), {})).1

theorem pairAt_active (ax : Axis) (ftz : Bool) {act : BitVec 1024} (x : VReg) {k : Nat} (hk : k < 1024) (active : act.getLsbD k = true) :
    pairAt ax ftz act x k =
      (axisReduce ax (pairAdd ftz) (0, 0) ((axisVals ax x (ax.group k)).map fun v => (FFmt.f32.flushSrc ftz v, 0))).1 := by
  rw [pairAt, pairTable,
    assocGet_map (fun g => axisReduce ax (pairAdd ftz) (0, 0) ((axisVals ax x g).map fun v => (FFmt.f32.flushSrc ftz v, 0)))
      (mem_axisLive ax hk active), Option.getD_some]

/-- The registers after both parts of the pairs are written. -/
def pairWritten (ax : Axis) (d a : BitVec 5) (m : BitVec 3) (z : BitVec 1) (ftz : Bool) (c : Context) : Context :=
  let c1 := setV c d (underMask (mreg c m) (z == 1) (vreg c d) fun k => BitVec.ofNat 32 (pairAt ax ftz (mreg c m) (vreg c a) k).1)
  setV c1 (d + 1) (underMask (mreg c m) (z == 1) (vreg c1 (d + 1)) fun k => BitVec.ofNat 32 (pairAt ax ftz (mreg c m) (vreg c a) k).2)

theorem pairWritten_eq (ax : Axis) (ftz : Bool) (c : Context) :
    pairWritten ax d a m z ftz c = { c with v := (pairWritten ax d a m z ftz c).v } := rfl

theorem axisPair_free (ax : Axis) (free : VerdictFree s (ax.spread (mreg s.core.ctx m)) a) :
    axisPair ax d a m z o s =
      .ok (pairWritten ax d a m z (vmodeFTZ o.vmode) s.core.ctx,
        (pairTable ax (vmodeFTZ o.vmode) (mreg s.core.ctx m) (vreg s.core.ctx a)).foldl (fun fl r => fl.join r.2.2) {}) := by
  unfold axisPair axisFree
  simp only [if_true]
  exact verdictFree_pass (rs := [a]) (by simpa using free)

theorem axisPair_verdict (ax : Axis) (verdict : ¬ VerdictFree s (ax.spread (mreg s.core.ctx m)) a) :
    axisPair ax d a m z o s = .error (Trap.of .verdictOperand) := by
  unfold axisPair axisFree
  simp only [if_true]
  exact verdictFree_trap (rs := [a]) (by simp) verdict

theorem add_one_ne (d : BitVec 5) : d + 1 ≠ d := by
  revert d
  decide

theorem pairWritten_lanes (ax : Axis) (ftz : Bool) (c : Context) {k : Nat} (hk : k < 1024) (active : (mreg c m).getLsbD k = true) :
    (vreg (pairWritten ax d a m z ftz c) d)[k]?.getD 0 = BitVec.ofNat 32 (pairAt ax ftz (mreg c m) (vreg c a) k).1 ∧
      (vreg (pairWritten ax d a m z ftz c) (d + 1))[k]?.getD 0 = BitVec.ofNat 32 (pairAt ax ftz (mreg c m) (vreg c a) k).2 := by
  unfold pairWritten
  constructor
  · rw [vreg_setV_other _ _ _ _ (add_one_ne d).symm, vreg_setV_same, underMask_lane _ _ _ _ hk, if_pos active]
  · rw [vreg_setV_same, underMask_lane _ _ _ _ hk, if_pos active]

theorem pairWritten_others (ax : Axis) (ftz : Bool) (c : Context) {r : BitVec 5} (h : r ≠ d) (h1 : r ≠ d + 1) :
    vreg (pairWritten ax d a m z ftz c) r = vreg c r := by
  unfold pairWritten
  rw [vreg_setV_other _ _ _ _ h1, vreg_setV_other _ _ _ _ h]

end

/-- Settles O21: each move is lane-wise, and each reduction and scan writes its table of rows or columns. -/
theorem axisMembersComplete : Obligations.AxisMembersComplete := by
  unfold Obligations.AxisMembersComplete
  intro s d a b ty op m z act n x moves o raw src vals quiet reduces pair
  have read (ax : Axis) (g : Nat) : axisVals ax (vreg s.core.ctx a) g = raw ax g := by
    simp only [axisVals, Axis.lanes, List.map_map]
    rfl
  have source : axisSrc ty (vmodeFTZ (vecOps s 0 0).vmode) = src := by
    funext v
    by_cases float : ty = 0 <;> simp [axisSrc, src, float] <;> rfl
  have result (ax : Axis) (scan : Bool) {k : Nat} (hk : k < 1024) (active : act.getLsbD k = true) :
      (((assocGet (axisTable ax scan ty op (vecOps s 0 0) act (vreg s.core.ctx a)) (ax.group k)).getD ([], {})).1).getD (ax.place k) 0 =
        if scan then (axisScan ax (axisOp o ty op) 0 (vals ax (ax.group k))).1.getD (ax.place k) 0
        else (axisReduce ax (axisOp o ty op) 0 (vals ax (ax.group k))).1 := by
    rw [axisTable_lane ax scan _ hk active, read, source]
    rfl
  have length (ax : Axis) (g : Nat) : (vals ax g).length = ax.len := by simp [vals, raw]
  have member {i : Instr} (e : VOps → State → Eff) (ax : Axis) (scan : Bool) (runs : exec i s = vecIssue i (vecOps s 0 0) e s)
      (effect : e (vecOps s 0 0) s = vecDone s (axisEffect ax scan d a ty op m z (vecOps s 0 0) s)) : reduces i ax scan := by
    intro starts
    refine ⟨fun float verdict => ?_, fun free => ?_⟩
    · exact traps_of_vecIssue runs starts
        (effect.trans (congrArg (vecDone s) (axisEffect_verdict ax scan float (mt (verdictFree_spread ax).1 verdict))))
    · have written := effect.trans (congrArg (vecDone s) (axisEffect_free ax scan fun float => (verdictFree_spread ax).2 (free float)))
      refine ⟨_, completes_of_vecIssue runs starts written, fun k hk => ?_, fun int add k hk active => ?_, fun _ => vreg_kept rfl, rfl,
        fun int => ?_⟩
      · rw [lane_underMask (f := fun k => BitVec.ofNat 32 _) rfl hk]
        by_cases active : act.getLsbD k = true
        · rw [if_pos active, if_pos active, result ax scan hk active]
        · rw [if_neg active, if_neg active]
      · rw [lane_underMask (f := fun k => BitVec.ofNat 32 _) rfl hk, if_pos active, result ax scan hk active]
        subst add
        refine ofNat_of_modEq ?_
        cases scan with
        | true => exact axisScan_getD (adds_axisOp o int) ax (length ax _) (place_lt ax hk)
        | false => exact axisReduce_sum (adds_axisOp o int) ax (length ax _)
      · exact (congrArg (fun fl : Fl => fl.apply s.core.ctx.vmode) (axisFlags_int ax scan int _ _)).trans (apply_none _)
  have paired {i : Instr} (e : VOps → State → Eff) (ax : Axis) (runs : exec i s = vecIssue i (vecOps s 0 0) e s)
      (effect : e (vecOps s 0 0) s = vecDone s (axisPair ax d a m z (vecOps s 0 0) s)) : pair i ax := by
    intro starts
    refine ⟨fun verdict => ?_, fun free => ?_⟩
    · exact traps_of_vecIssue runs starts
        (effect.trans (congrArg (vecDone s) (axisPair_verdict ax (mt (verdictFree_spread ax).1 verdict))))
    · have written := effect.trans (congrArg (vecDone s) (axisPair_free ax ((verdictFree_spread ax).2 free)))
      refine ⟨_, completes_of_vecIssue runs starts (written.trans (vecDone_ok s _ _)), fun k hk active => ?_, fun r h h1 => ?_,
        vecState_eq s _ _ (pairWritten_eq ax _ _)⟩
      · have lanes := pairWritten_lanes (d := d) (a := a) (z := z) ax (vmodeFTZ (vecOps s 0 0).vmode) s.core.ctx hk active
        rw [pairAt_active ax _ _ hk active, read] at lanes
        obtain ⟨sum, error⟩ := lanes
        exact ⟨(vecState_lane ..).trans sum, (vecState_lane ..).trans error⟩
      · rw [vecState_vreg, pairWritten_others ax _ _ h h1]
  have moved {i : Instr} (e : VOps → State → Eff) (ax : Axis) (place from_ : Nat → Nat) (runs : exec i s = vecIssue i (vecOps s 0 b) e s)
      (effect : e (vecOps s 0 b) s = vecDone s (axisMove ax d a m z place s))
      (reads : ∀ k, ax.lane (ax.group k) (place (ax.place k)) = from_ k) : moves i from_ := fun starts =>
    laneWise_of_axisMove ax place from_ runs starts effect reads
  exact ⟨moved (effVrotr d a m z) .row _ _ rfl rfl fun _ => rfl, moved (effVbcr d a m z) .row _ _ rfl rfl fun _ => rfl,
    moved (effVrotc d a m z) .col _ _ rfl rfl fun _ => rfl, moved (effVbcc d a m z) .col _ _ rfl rfl fun _ => rfl,
    member (effVredr d a ty op m z) .row false rfl rfl, member (effVscanr d a ty op m z) .row true rfl rfl,
    member (effVredc d a ty op m z) .col false rfl rfl, member (effVscanc d a ty op m z) .col true rfl rfl,
    paired (effVredrC d a m z) .row rfl rfl, paired (effVredcC d a m z) .col rfl rfl⟩

end Sys2Proof.AxisMembers

/-! SUPPORT. The vector queue (R148, R149), for O24: what enters it, and what the start of its head leaves. -/

namespace Sys2Proof.VectorQueueOrder

open Sys2Proof.Machine Sys2Proof.Laws Sys2Proof.Management Sys2Proof.IssueWords Sys2Proof.TrapStops Sys2Proof.VectorLanes Sys2Proof.VectorFloats

/-! Entry. -/

section

variable {s : State} {i : Instr} {o : VOps} {e : VOps → State → Eff}

/-- An instruction enters the queue behind others, or where it is left for later, as long as there is room. -/
theorem completes_of_queued (runs : exec i s = vecIssue i o e s) (wf : i.wf = true) (behind : s.core.ctx.vq ≠ [] ∨ s.later = true)
    (room : vecQueued s.core.ctx < 16) : Completes i s (vecEnqueue i o s) := by
  have queued : ¬ (s.core.ctx.vq = [] ∧ s.later = false) := fun ⟨empty, now⟩ =>
    behind.elim (fun h => h empty) fun h => Bool.false_ne_true (now.symm.trans h)
  refine completes_of_counted (n := 2) (x := 1) (runs.trans ?_)
  simp only [vecIssue, wf, Bool.true_eq_false, if_false, if_neg queued, if_pos room, inLine_ok]
  rfl

/-- A full queue makes it wait. -/
theorem waits_of_full (runs : exec i s = vecIssue i o e s) (wf : i.wf = true) (behind : s.core.ctx.vq ≠ [])
    (full : 16 ≤ vecQueued s.core.ctx) : Waits i s := by
  have queued : ¬ (s.core.ctx.vq = [] ∧ s.later = false) := fun h => behind h.1
  refine ⟨stallFull s, runs.trans ?_, Sequenced.trans (tick_sequenced s) (sequenced_modCtx _ _ rfl), tick_pc s, tick_lc s, tick_loops s⟩
  simp only [vecIssue, wf, Bool.true_eq_false, if_false, if_neg queued, if_neg (Nat.not_lt.2 full)]

end

section

variable {d : BitVec 5} {n m : BitVec 3} {z : BitVec 1} {s : State}

theorem execVpop_held (fit : feedFit (feedOf s.core n) false = true) (absent : popReady s n = false) :
    execVpop d n m z s = .next (stallStep s) := by
  have wf : (Instr.vpop d n m z).wf = true := rfl
  simp only [execVpop, fit, absent, wf, Bool.not_false, Bool.and_self, if_true, finish]

theorem execVpop_ready (ready : feedFit (feedOf s.core n) false = true → popReady s n = true) :
    execVpop d n m z s =
      vecIssue (.vpop d n m z) (feedOps s (feedFit (feedOf s.core n) false)) (effVpop d n m z) s := by
  have wf : (Instr.vpop d n m z).wf = true := rfl
  unfold execVpop
  refine if_neg ?_
  cases fit : feedFit (feedOf s.core n) false with
  | true => simp [ready fit]
  | false => simp

end

/-! What a cancelled queue leaves alone. -/

section

theorem reachMarkers_kept (n : Nat) (r : List Command) (k : Core) :
    (reachMarkers n r k).ctx = k.ctx ∧ (reachMarkers n r k).die = k.die ∧ (reachMarkers n r k).num = k.num := by
  induction r generalizing k with
  | nil => exact ⟨rfl, rfl, rfl⟩
  | cons c r ih =>
    unfold reachMarkers
    split
    · exact ih _
    · exact ⟨rfl, rfl, rfl⟩

theorem popMarkers_kept (k : Core) : (popMarkers k).ctx = k.ctx ∧ (popMarkers k).die = k.die ∧ (popMarkers k).num = k.num := by
  refine List.foldlRecOn (motive := fun j : Core => j.ctx = k.ctx ∧ j.die = k.die ∧ j.num = k.num) _ _ ⟨rfl, rfl, rfl⟩ ?_
  intro j ⟨ctx, die, num⟩ n _
  unfold popMarker
  split
  · obtain ⟨ctx', die', num'⟩ := reachMarkers_kept n (queueOf j n) j
    exact ⟨ctx'.trans ctx, die'.trans die, num'.trans num⟩
  · exact ⟨ctx, die, num⟩

theorem putCore_mem (s : State) (k : Core) : (putCore s k).mem = s.mem := by
  unfold putCore
  split_ifs <;> rfl

/-- A core that leaves a command out of its queues keeps its place and its context. -/
theorem putCore_popMarkers (t : State) (die n : Nat) (q : Vector (List Command) 5) :
    (putCore t (popMarkers { getCore t die n with q := q })).core.ctx = t.core.ctx := by
  obtain ⟨ctx, place⟩ := popMarkers_kept { getCore t die n with q := q }
  refine putCore_ctx t (d := die) (n := n) ?_ ctx
  rw [place.1, place.2]
  exact getCore_place t die n

/-- A command that is withdrawn leaves contexts and memory. -/
theorem withdraw_kept (s : State) (c : Command) : (withdraw s c).core.ctx = s.core.ctx ∧ (withdraw s c).mem = s.mem := by
  unfold withdraw
  refine List.foldlRecOn (motive := fun t : State => t.core.ctx = s.core.ctx ∧ t.mem = s.mem) c.gang _ ⟨rfl, rfl⟩ ?_
  intro t ⟨ctx, mem⟩ n _
  dsimp only
  exact ⟨(putCore_popMarkers t c.die n _).trans ctx, (putCore_mem t _).trans mem⟩

theorem unclaim_ctx (k : Core) (c : Command) : (unclaim k c).ctx = k.ctx := by
  unfold unclaim
  split <;> rfl

/-- The cancelled context, and memory as it was. -/
theorem cancelAfter_kept (s : State) (seq : Nat) (x : Snap) :
    (cancelAfter s seq x).core.ctx = cancelCtx seq x s.core.ctx ∧ (cancelAfter s seq x).mem = s.mem := by
  have withdrawn : ((issuedAfter s.core seq).foldl withdraw s).core.ctx = s.core.ctx ∧ ((issuedAfter s.core seq).foldl withdraw s).mem = s.mem := by
    refine List.foldlRecOn (motive := fun t : State => t.core.ctx = s.core.ctx ∧ t.mem = s.mem) _ _ ⟨rfl, rfl⟩ ?_
    intro t ⟨ctx, mem⟩ c _
    exact ⟨(withdraw_kept t c).1.trans ctx, (withdraw_kept t c).2.trans mem⟩
  obtain ⟨ctx, mem⟩ := withdrawn
  have unclaimed (l : List Command) (k : Core) : (l.foldl unclaim k).ctx = k.ctx :=
    List.foldlRecOn (motive := fun j : Core => j.ctx = k.ctx) l _ rfl fun j h c _ => (unclaim_ctx j c).trans h
  refine ⟨?_, mem⟩
  simp only [cancelAfter, modCore_core, unclaimed, ctx]

end

/-! The start of the head. -/

section

variable {s t : State} {i : Instr} {o : VOps} {x : Snap} {rest : List VecEntry}

/-- The head of the queue taken from it. -/
def started (s : State) (rest : List VecEntry) : State := modCtx s fun c => { c with vq := rest }

theorem start_runs (head : s.core.ctx.vq = .instr i o x :: rest) (effect : vecEffect i o (started s rest) = .ok t) :
    exec .vectorInstructionStart s = .next (tick (modCtx t (followQueue (raisedBy i o (started s rest)) s.core.ctx))) := by
  show execVectorInstructionStart s = _
  unfold execVectorInstructionStart
  rw [head]
  simp only [show modCtx s (fun c => { c with vq := rest }) = started s rest from rfl, effect]

theorem start_traps {q : Trap} (head : s.core.ctx.vq = .instr i o x :: rest) (effect : vecEffect i o (started s rest) = .trap q) :
    exec .vectorInstructionStart s = .next (takeTrapAt (cancelAfter (started s rest) o.seq x) q x.pc x.ir) := by
  show execVectorInstructionStart s = _
  unfold execVectorInstructionStart
  rw [head]
  simp only [show modCtx s (fun c => { c with vq := rest }) = started s rest from rfl, effect]

end

theorem sequenced_kept {u t : State} (h : Sequenced u t) :
    t.core.ctx.v = u.core.ctx.v ∧ t.core.ctx.s = u.core.ctx.s ∧ t.core.ctx.vq = u.core.ctx.vq ∧ t.mem = u.mem := by
  unfold Sequenced at h
  exact ⟨by rw [h], by rw [h], by rw [h], by rw [h]⟩

theorem vecEffect_vadd (d a b : BitVec 5) (m : BitVec 3) (z : BitVec 1) (o : VOps) (u : State) :
    vecEffect (.vadd d a b m z) o u = vecDone u (floatLanes d a b m z (fun x y _ => fAdd .f32 o.narrow x y) u) := rfl

/-- The head of the queue that writes vector registers leaves the queue, and the sequencer's values stay. -/
theorem start_done {s : State} {i : Instr} {o : VOps} {x : Snap} {rest : List VecEntry} {c : Context} {fl : Fl}
    (head : s.core.ctx.vq = .instr i o x :: rest) (effect : vecEffect i o (started s rest) = .ok (vecState (started s rest) c fl))
    (kept : c = { (started s rest).core.ctx with v := c.v }) :
    ∃ t, Happens .vectorInstructionStart s t ∧ t.core.ctx.vq.length = rest.length ∧ t.core.ctx.pc = s.core.ctx.pc ∧
      t.core.ctx.s = s.core.ctx.s ∧ t.mem = s.mem ∧ t.core.ctx.v = c.v := by
  have pc : c.pc = s.core.ctx.pc := by rw [kept]; rfl
  have regs : c.s = s.core.ctx.s := by rw [kept]; rfl
  have queue : c.vq = rest := by rw [kept]; rfl
  refine ⟨_, start_runs head effect, ?_⟩
  obtain ⟨v', regs', queue', mem⟩ := sequenced_kept (tick_sequenced
    (modCtx (vecState (started s rest) c fl) (followQueue (raisedBy i o (started s rest)) s.core.ctx)))
  refine ⟨?_, (tick_pc _).trans pc, regs'.trans regs, mem, v'⟩
  rw [queue', ← queue]
  exact List.length_map _

/-- Settles O24: entry is `vecIssue` of each instruction, and the head of the queue starts as `floatLanes` of the sum. -/
theorem vectorQueueKeepsOrder : Obligations.VectorQueueKeepsOrder := by
  unfold Obligations.VectorQueueKeepsOrder
  intro s d a b m z n p q rest c ops F enters
  have entry {i : Instr} {o : VOps} (e : VOps → State → Eff) (runs : exec i s = vecIssue i o e s) (wf : i.wf = true) : enters i o :=
    ⟨completes_of_queued runs wf, waits_of_full runs wf⟩
  refine ⟨entry (effVadd d a b m z) rfl rfl, entry (effMand n p q) rfl rfl, entry (effVdacc d a b) rfl rfl,
    entry (effVrotr d a m z) rfl rfl, fun ready => entry (effVpop d n m z) (execVpop_ready ready) rfl,
    fun fit absent => waits_of_stall (execVpop_held fit absent), fun o x head => ⟨fun ha hb => ?_, fun verdict outside handler => ?_⟩⟩
  · have effect := vecEffect_vadd d a b m z o (started s rest)
    rw [floatLanes_free (s := started s rest) ha hb, laneWise, vecDone_ok] at effect
    obtain ⟨t, ran, queue, pc, regs, mem, v⟩ := start_done head effect rfl
    exact ⟨t, ran, queue, pc, regs, mem, fun k hk => lane_underMask (s := started s rest)
      (f := fun k => BitVec.ofNat 32 (fAdd .f32 o.narrow (lane s a k).toNat (lane s b k).toNat).1) v hk⟩
  · have effect := vecEffect_vadd d a b m z o (started s rest)
    rw [floatLanes_verdict (s := started s rest) verdict, vecDone] at effect
    obtain ⟨ctx, mem⟩ := cancelAfter_kept (started s rest) o.seq x
    have trap := takeTrapAt_handled (cancelAfter (started s rest) o.seq x) (Trap.of .verdictOperand) x.pc x.ir (by rw [ctx]; exact outside)
      (by rw [ctx]; exact handler) (by decide)
    refine ⟨_, start_traps head effect, ?_⟩
    rw [trap, modCtx_core, modCtx_mem, ctx]
    have code : tcauseOf (Trap.of .verdictOperand) = BitVec.ofNat 64 Cause.verdictOperand.code := by decide
    exact ⟨rfl, rfl, rfl, rfl, code, rfl, rfl, rfl, rfl, rfl, rfl, rfl, mem⟩

end Sys2Proof.VectorQueueOrder

/-! SUPPORT. VLD and VST (R136, R140, R163, R164), for O23: the checks of a register's footprint, the wait at issue, the lanes that a
load widens and the rows that a store writes. -/

namespace Sys2Proof.VectorScratchpad

open Sys2Proof.Machine Sys2Proof.Laws Sys2Proof.ScratchpadAccesses Sys2Proof.VectorLanes Sys2Proof.PermutesAndMasks

/-! The checks of a footprint. -/

section

variable {k : Core} {b : BitVec 2} {addr : Nat} {store : Bool}

theorem footCheck_misaligned (named : b ≠ 3) (odd : addr % 64 ≠ 0) :
    footCheck k b addr store = .error (Trap.at .misalignedAccess (spAddr b addr)) := by
  unfold footCheck
  rw [if_neg named, if_pos odd]

theorem footCheck_wBuffer (aligned : addr % 64 = 0) :
    footCheck k 0 addr true = .error (Trap.at .bufferAccess (spAddr 0 addr)) := by
  unfold footCheck
  rw [if_neg (by decide), if_neg (not_not.2 aligned), if_pos (by decide)]

/-- An access that may reach its buffer. -/
theorem reaches_test (reaches : ¬ (store = true ∧ b = 0)) : ¬ (store && b == 0) = true := by simpa using reaches

theorem footCheck_range (named : b ≠ 3) (aligned : addr % 64 = 0) (reaches : ¬ (store = true ∧ b = 0))
    (beyond : bufSize k b < addr + (footOf k b addr).len) :
    footCheck k b addr store = .error (Trap.at .scratchpadRange (spAddr b (bufSize k b))) := by
  unfold footCheck
  rw [if_neg named, if_neg (not_not.2 aligned), if_neg (reaches_test reaches), if_pos beyond]

theorem footCheck_otherBank {o : Nat} (named : b ≠ 3) (aligned : addr % 64 = 0) (reaches : ¬ (store = true ∧ b = 0))
    (within : addr + (footOf k b addr).len ≤ bufSize k b) (other : otherBank k b addr (footOf k b addr).len = some o) :
    footCheck k b addr store = .error (Trap.at .bankFormat (spAddr b o)) := by
  unfold footCheck
  rw [if_neg named, if_neg (not_not.2 aligned), if_neg (reaches_test reaches), if_neg (Nat.not_lt.2 within), other]

/-- What a passed check says. -/
theorem footCheck_ok {f : Foot} (passed : footCheck k b addr store = .ok f) :
    b ≠ 3 ∧ f = footOf k b addr ∧ addr + f.len ≤ bufSize k b := by
  unfold footCheck at passed
  by_cases named : b = 3
  · rw [if_pos named] at passed
    cases passed
  · rw [if_neg named] at passed
    split at passed
    · cases passed
    · split at passed
      · cases passed
      · split at passed
        · cases passed
        · next within =>
          split at passed
          · cases passed
          · cases passed
            exact ⟨named, rfl, Nat.le_of_not_lt within⟩

end

/-! The wait at issue (R164). -/

section

variable {s : State} {v r : BitVec 5} {b : BitVec 2} {off : BitVec 13} {t : Trap} {f : Foot}

/-- Where VLD and VST access. -/
def place (s : State) (r : BitVec 5) (off : BitVec 13) : Nat := snat s r + 64 * off.toNat

theorem vld_issues_of_trap (trap : footCheck s.core b (place s r off) false = .error t) :
    exec (.vld v b r off) s = vecIssue (.vld v b r off) (vecOps s r 0) (effVld v b off) s := by
  have free : vmHeld s b (place s r off) false = false := by simp only [vmHeld, trap]
  exact if_neg (Bool.eq_false_iff.1 free)

theorem vst_issues_of_trap (trap : footCheck s.core b (place s r off) true = .error t) :
    exec (.vst v b r off) s = vecIssue (.vst v b r off) (vecOps s r 0) (effVst v b off) s := by
  have free : vmHeld s b (place s r off) true = false := by simp only [vmHeld, trap]
  exact if_neg (Bool.eq_false_iff.1 free)

theorem traps_of_vld_check (starts : Starts (.vld v b r off) s) (trap : footCheck s.core b (place s r off) false = .error t) :
    TrapsCounted (.vld v b r off) s t := by
  refine traps_of_vecIssue (vld_issues_of_trap trap) starts ?_
  have check : footCheck s.core b ((vecOps s r 0).sa.toNat + 64 * off.toNat) false = .error t := trap
  simp only [effVld, check]

theorem traps_of_vst_check (starts : Starts (.vst v b r off) s) (trap : footCheck s.core b (place s r off) true = .error t) :
    TrapsCounted (.vst v b r off) s t := by
  refine traps_of_vecIssue (vst_issues_of_trap trap) starts ?_
  have check : footCheck s.core b ((vecOps s r 0).sa.toNat + 64 * off.toNat) true = .error t := trap
  simp only [effVst, check]

/-- An access that no command is in the way of, nor an earlier entry of the vector queue, issues. -/
theorem commandWaits_of_mustWait {k : Core} {rd wr : List Range} (free : mustWait k rd wr = false) :
    commandWaits k k.seq rd wr = false := by
  unfold mustWait waitsAt at free
  exact (Bool.or_eq_false_iff.1 free).1

theorem vld_issues (passed : footCheck s.core b (place s r off) false = .ok f)
    (free : mustWait s.core [⟨b, place s r off, place s r off + f.len⟩] [] = false) :
    exec (.vld v b r off) s = vecIssue (.vld v b r off) (vecOps s r 0) (effVld v b off) s := by
  have open_ : vmHeld s b (place s r off) false = false := by
    simp only [vmHeld, passed, Bool.false_eq_true, if_false]
    exact commandWaits_of_mustWait free
  exact if_neg (Bool.eq_false_iff.1 open_)

theorem vst_issues (passed : footCheck s.core b (place s r off) true = .ok f)
    (free : mustWait s.core [] [⟨b, place s r off, place s r off + f.len⟩] = false) :
    exec (.vst v b r off) s = vecIssue (.vst v b r off) (vecOps s r 0) (effVst v b off) s := by
  have open_ : vmHeld s b (place s r off) true = false := by
    simp only [vmHeld, passed, if_true]
    exact commandWaits_of_mustWait free
  exact if_neg (Bool.eq_false_iff.1 open_)

end

/-! The load. -/

section

variable {s : State} {v r : BitVec 5} {b : BitVec 2} {off : BitVec 13} {f : Foot}

theorem effVld_bad {w : Nat} (passed : footCheck s.core b (place s r off) false = .ok f)
    (bad : footBad s.core b (place s r off) f = some w) :
    effVld v b off (vecOps s r 0) s = .trap (Trap.at .storageError (spAddr b w)) := by
  have check : footCheck s.core b ((vecOps s r 0).sa.toNat + 64 * off.toNat) false = .ok f := passed
  have error : footBad s.core b ((vecOps s r 0).sa.toNat + 64 * off.toNat) f = some w := bad
  simp only [effVld, check, error]

/-- The lanes that a load of a footprint writes. -/
def loadedLanes (k : Core) (b : BitVec 2) (addr : Nat) (f : Foot) : VReg :=
  Vector.ofFn fun i => widenElt f.fmt
    (eltOf f.fmt (((List.range 16).map fun q => leNat (rowRead k b addr f q)).getD (i / 64) 0) (i % 64))

theorem loadedLanes_lane (k : Core) (b : BitVec 2) (addr : Nat) (f : Foot) {j : Nat} (hj : j < 1024) :
    (loadedLanes k b addr f)[j]?.getD 0 =
      widenElt f.fmt (leNat (spRead k b (addr + j / 64 * f.pitch) (rowBytes f.fmt)) / 2 ^ (j % 64 * codeWidth f.fmt) % 2 ^ codeWidth f.fmt) := by
  have row : j / 64 < 16 := by omega
  rw [loadedLanes, ofFn_lane hj]
  simp [List.getD_eq_getElem?_getD, row, eltOf, rowRead]

/-- Reading corrects nothing where no word has a single-bit error. -/
theorem correctSoft_none (rs : List Range) (soft : s.core.soft = []) : correctSoft s s.core.die s.core.num rs = s := by
  have own : getCore s s.core.die s.core.num = s.core := if_pos ⟨rfl, rfl⟩
  simp [correctSoft, correctWords, own, soft]

theorem effVld_ok (passed : footCheck s.core b (place s r off) false = .ok f) (bad : s.core.bad = []) (failed : s.core.failedBanks = [])
    (soft : s.core.soft = []) :
    effVld v b off (vecOps s r 0) s =
      .ok (vecState s (setV s.core.ctx v (loadedLanes s.core b (place s r off) f)) {}) := by
  have check : footCheck s.core b ((vecOps s r 0).sa.toNat + 64 * off.toNat) false = .ok f := passed
  have sound : footBad s.core b ((vecOps s r 0).sa.toNat + 64 * off.toNat) f = none := if_pos ⟨bad, failed⟩
  simp only [effVld, check, sound, correctSoft_none _ soft]
  rfl

end

/-! The store. -/

section

variable (k : Core) (b : BitVec 2) (addr pitch : Nat) (row : Nat → List Byte)

/-- The core after the first n rows of a store. -/
def rowsWritten : Nat → Core
  | 0 => k
  | n + 1 => spWrite (rowsWritten n) b (addr + n * pitch) (row n)

theorem rowsWritten_eq_foldl (n : Nat) :
    (List.range n).foldl (fun k r => spWrite k b (addr + r * pitch) (row r)) k = rowsWritten k b addr pitch row n := by
  induction n with
  | zero => rfl
  | succ n ih => rw [List.range_succ, List.foldl_append, ih]; rfl

/-- A core with the buffers, and the marks of their errors, of another. -/
def withBuffers (k j : Core) : Core := { k with w := j.w, a := j.a, c := j.c, bad := j.bad, soft := j.soft }

/-- Rows written change buffers and the marks of their errors only. -/
theorem rowsWritten_frame (n : Nat) : rowsWritten k b addr pitch row n = withBuffers k (rowsWritten k b addr pitch row n) := by
  induction n with
  | zero => rfl
  | succ n ih =>
    calc rowsWritten k b addr pitch row (n + 1)
      _ = withBuffers (rowsWritten k b addr pitch row n) (rowsWritten k b addr pitch row (n + 1)) := spPut_eq _ _ _
      _ = withBuffers (withBuffers k (rowsWritten k b addr pitch row n)) (rowsWritten k b addr pitch row (n + 1)) :=
        congrArg (withBuffers · _) ih
      _ = withBuffers k (rowsWritten k b addr pitch row (n + 1)) := rfl

theorem rowsWritten_stored (n o : Nat) : stored (rowsWritten k b addr pitch row n) b o = stored k b o := by
  rw [rowsWritten_frame]
  rfl

theorem rowsWritten_reached {n x : Nat} (reached : Reached k b x) : Reached (rowsWritten k b addr pitch row n) b x := by
  rw [rowsWritten_frame]
  exact reached

/-- A stored byte of no row keeps its value. -/
theorem rowsWritten_other {n x : Nat} (reached : Reached k b x)
    (outside : ∀ q j, q < n → j < (row q).length → x ≠ stored k b (addr + q * pitch + j)) :
    spByte (rowsWritten k b addr pitch row n) b x = spByte k b x := by
  induction n with
  | zero => rfl
  | succ n ih =>
    rw [rowsWritten, spByte_spWrite_other _ _ _ _ _ (fun j hj => ?_) (rowsWritten_reached k b addr pitch row reached)]
    · exact ih fun q j hq => outside q j (Nat.lt_succ_of_lt hq)
    · rw [rowsWritten_stored]
      exact outside n j (Nat.lt_succ_self n) hj

/-- A byte of a row that no later row covers is that row's. -/
theorem rowsWritten_row {n q j : Nat} (hq : q < n) (hj : j < (row q).length) (reached : Reached k b (stored k b (addr + q * pitch + j)))
    (last : ∀ q' j', q < q' → q' < n → j' < (row q').length → addr + q' * pitch + j' ≠ addr + q * pitch + j) :
    spByte (rowsWritten k b addr pitch row n) b (stored k b (addr + q * pitch + j)) = (row q).getD j 0 := by
  induction n with
  | zero => exact absurd hq (Nat.not_lt_zero q)
  | succ n ih =>
    have here := rowsWritten_reached k b addr pitch row (n := n) reached
    rcases Nat.lt_succ_iff_lt_or_eq.1 hq with before | rfl
    · rw [rowsWritten, spByte_spWrite_other _ _ _ _ _ (fun j' hj' => ?_) here]
      · exact ih before fun q' j' above below => last q' j' above (Nat.lt_succ_of_lt below)
      · rw [rowsWritten_stored]
        exact fun same => last n j' before (Nat.lt_succ_self n) hj' (stored_inj k b _ _ same).symm
    · rw [← rowsWritten_stored k b addr pitch row q] at here ⊢
      exact spByte_spWrite _ _ _ _ _ hj here

theorem rowsWritten_buffer (n : Nat) {b' : BitVec 2} (x : Nat) (named : b ≠ 3) (named' : b' ≠ 3) (other : b' ≠ b) :
    spByte (rowsWritten k b addr pitch row n) b' x = spByte k b' x := by
  induction n with
  | zero => rfl
  | succ n ih => rw [rowsWritten, spWrite, spByte_spPut_buffer _ _ _ _ named named' other, ih]

end

section

variable {s : State} {v r : BitVec 5} {b : BitVec 2} {off : BitVec 13} {f : Foot}

theorem narrowRow_length (o : VOps) (f : Foot) (x : VReg) (q : Nat) : (narrowRow o f x q).length = rowBytes f.fmt := leBytes_length _ _

theorem effVst_verdict (passed : footCheck s.core b (place s r off) true = .ok f) (narrow : narrowing f.fmt = true)
    (verdict : ¬ VerdictFree s (BitVec.allOnes 1024) v) :
    effVst v b off (vecOps s r 0) s = .trap (Trap.of .verdictOperand) := by
  have check : footCheck s.core b ((vecOps s r 0).sa.toNat + 64 * off.toNat) true = .ok f := passed
  have any := anyVerdict_iff.2 verdict
  simp only [effVst, check, narrow, any, Bool.and_self, if_true]

/-- The flags that a store's narrowing raises. -/
def storeFlags (o : VOps) (f : Foot) (x : VReg) : Fl := maskFlags (BitVec.allOnes 1024) fun i => (narrowElt o f.sat f.fmt (laneAt x i)).2

theorem effVst_ok (passed : footCheck s.core b (place s r off) true = .ok f)
    (sound : narrowing f.fmt = true → VerdictFree s (BitVec.allOnes 1024) v) :
    effVst v b off (vecOps s r 0) s =
      .ok (raiseFlags { s with core := rowsWritten s.core b (place s r off) f.pitch (narrowRow (vecOps s r 0) f (vreg s.core.ctx v)) 16 }
        (storeFlags (vecOps s r 0) f (vreg s.core.ctx v))) := by
  have check : footCheck s.core b ((vecOps s r 0).sa.toNat + 64 * off.toNat) true = .ok f := passed
  have free : ¬ (narrowing f.fmt && anyVerdict (BitVec.allOnes 1024) (vreg s.core.ctx v)) = true := by
    rw [Bool.and_eq_true]
    exact fun ⟨narrow, any⟩ => anyVerdict_iff.1 any (sound narrow)
  simp only [effVst, check, if_neg free]
  rw [rowsWritten_eq_foldl]
  rfl

/-- Every byte of a row lies in the footprint. -/
theorem row_within {k : Core} {addr q j : Nat} (passed : footCheck k b addr true = .ok f) (hq : q < 16) (hj : j < rowBytes f.fmt) :
    addr + q * f.pitch + j < bufSize k b := by
  obtain ⟨_, rfl, within⟩ := footCheck_ok passed
  have before : q * (footOf k b addr).pitch ≤ 15 * (footOf k b addr).pitch := Nat.mul_le_mul_right _ (Nat.le_of_lt_succ hq)
  have len : (footOf k b addr).len = 15 * (footOf k b addr).pitch + rowBytes (footOf k b addr).fmt := rfl
  omega

/-- A core with other buffers, its flags raised. -/
theorem raised_frame {k j : Core} (buffers : k = withBuffers s.core j) (fl : Fl) :
    raiseFlags { s with core := k } fl =
      { s with core := { withBuffers s.core (raiseFlags { s with core := k } fl).core with
        ctx := { s.core.ctx with vmode := (raiseFlags { s with core := k } fl).core.ctx.vmode } } } := by
  subst buffers
  rfl

/-- VLD of a sound footprint widens each element into its lane. -/
theorem vld_loads (starts : Starts (.vld v b r off) s) (passed : footCheck s.core b (place s r off) false = .ok f)
    (free : mustWait s.core [⟨b, place s r off, place s r off + f.len⟩] [] = false) (bad : s.core.bad = []) (failed : s.core.failedBanks = [])
    (soft : s.core.soft = []) :
    ∃ u, Completes (.vld v b r off) s u ∧
      (∀ j, j < 1024 → lane u v j =
        widenElt f.fmt (leNat (spRead s.core b (place s r off + j / 64 * f.pitch) (rowBytes f.fmt)) / 2 ^ (j % 64 * codeWidth f.fmt) %
          2 ^ codeWidth f.fmt)) ∧
      (∀ t, t ≠ v → vreg u.core.ctx t = vreg s.core.ctx t) ∧ u = modCtx s fun c => { c with v := u.core.ctx.v } := by
  refine ⟨_, completes_of_vecIssue (vld_issues passed free) starts (effVld_ok passed bad failed soft), fun j hj => ?_, fun t => vreg_kept rfl, ?_⟩
  · exact (lane_written rfl).trans (loadedLanes_lane _ _ _ _ hj)
  · rw [vecState, apply_none]
    rfl

/-- VST writes each row into its footprint. -/
theorem vst_stores (starts : Starts (.vst v b r off) s) (passed : footCheck s.core b (place s r off) true = .ok f)
    (free : mustWait s.core [] [⟨b, place s r off, place s r off + f.len⟩] = false)
    (sound : narrowing f.fmt = true → VerdictFree s (BitVec.allOnes 1024) v) :
    ∃ u, Completes (.vst v b r off) s u ∧
      (∀ x, (∀ q j, q < 16 → j < rowBytes f.fmt → x ≠ stored s.core b (place s r off + q * f.pitch + j)) →
        (s.core.guardMode = true → x < 0x8000 * (bufBanks b - 1)) → spByte u.core b x = spByte s.core b x) ∧
      (∀ q j, q < 16 → j < rowBytes f.fmt →
        (∀ q' j', q < q' → q' < 16 → j' < rowBytes f.fmt → place s r off + q' * f.pitch + j' ≠ place s r off + q * f.pitch + j) →
        spByte u.core b (stored s.core b (place s r off + q * f.pitch + j)) =
          (narrowRow ⟨0, 0, s.core.ctx.vmode, Handle.invalid, 0⟩ f (vreg s.core.ctx v) q).getD j 0) ∧
      (∀ b' x, b' ≠ 3 → b' ≠ b → spByte u.core b' x = spByte s.core b' x) ∧
      u = { s with core := { s.core with
        w := u.core.w, a := u.core.a, c := u.core.c, bad := u.core.bad, soft := u.core.soft
        ctx := { s.core.ctx with vmode := u.core.ctx.vmode } } } := by
  have named := (footCheck_ok passed).1
  have length (q : Nat) := narrowRow_length (vecOps s r 0) f (vreg s.core.ctx v) q
  refine ⟨_, completes_of_vecIssue (vst_issues passed free) starts (effVst_ok passed sound), fun x outside reached => ?_,
    fun q j hq hj last => ?_, fun b' x named' other => ?_,
    raised_frame (rowsWritten_frame _ _ _ _ _ 16) (storeFlags (vecOps s r 0) f (vreg s.core.ctx v))⟩
  · exact rowsWritten_other _ _ _ _ _ reached fun q j hq hj => outside q j hq ((length q).symm ▸ hj)
  · exact rowsWritten_row _ _ _ _ _ hq ((length q).symm ▸ hj) (reached_of_lt _ _ _ (row_within passed hq hj))
      fun q' j' above below hj' => last q' j' above below ((length q') ▸ hj')
  · exact rowsWritten_buffer _ _ _ _ _ _ x named named' other

end

end Sys2Proof.VectorScratchpad

/-! SUPPORT. VLDG and VSTG (R165, R166), for O23: the checks of their elements, what an access brings, and the cells of a store. -/

namespace Sys2Proof.VectorGlobals

open Sys2Proof.Machine Sys2Proof.Laws Sys2Proof.IssueWords Sys2Proof.VectorLanes Sys2Proof.PermutesAndMasks Sys2Proof.AxisMembers

/-! One element. -/

section

variable {s : State} {H : Handle} {size j off : Nat} {store : Bool}

theorem vgElement_beyond (beyond : 2 * H.pageSize ≤ off) :
    vgElement s H size store j off = .error (Trap.at .handleRange (H.vbase + off)) := by
  simp only [vgElement, ge_iff_le, beyond, if_true]

/-- Within the handle's page the handle decides, and for a store the windows' records. -/
theorem vgElement_within (within : off < H.pageSize) :
    vgElement s H size store j off =
      if (if store then H.w else H.r) = true then
        if H.res = true ∧ pathUp s (H.base + off) = true then
          if (store && inWindowRecord s (H.base + off) size) = true then .error (Trap.at .permission (H.vbase + off))
          else .ok ⟨j, H.vbase + off, some (H.base + off)⟩
        else .ok ⟨j, H.vbase + off, none⟩
      else .error (Trap.at .permission (H.vbase + off)) := by
  have near : ¬ off ≥ 2 * H.pageSize := by omega
  simp only [vgElement, if_neg near, if_pos within]
  cases (if store then H.w else H.r) with
  | false => rfl
  | true =>
    cases H.res with
    | false => rfl
    | true => cases path : pathUp s (H.base + off) <;> simp [Option.filter, path]

theorem vgElement_resident (within : off < H.pageSize) (right : (if store then H.w else H.r) = true) (res : H.res = true)
    (path : pathUp s (H.base + off) = true) (record : (store && inWindowRecord s (H.base + off) size) = false) :
    vgElement s H size store j off = .ok ⟨j, H.vbase + off, some (H.base + off)⟩ := by
  rw [vgElement_within within, if_pos right, if_pos ⟨res, path⟩, if_neg (Bool.eq_false_iff.1 record)]

/-- An element within the page, allowed and no window's record, does not trap. -/
theorem vgElement_allowed (within : off < H.pageSize) (right : (if store then H.w else H.r) = true)
    (record : (store && inWindowRecord s (H.base + off) size) = false) : ∃ e, vgElement s H size store j off = .ok e := by
  rw [vgElement_within within, if_pos right, if_neg (Bool.eq_false_iff.1 record)]
  split
  · exact ⟨_, rfl⟩
  · exact ⟨_, rfl⟩

theorem vgElement_denied (within : off < H.pageSize)
    (denied : (if store then H.w else H.r) = false ∨
      (H.res = true ∧ pathUp s (H.base + off) = true ∧ (store && inWindowRecord s (H.base + off) size) = true)) :
    vgElement s H size store j off = .error (Trap.at .permission (H.vbase + off)) := by
  rw [vgElement_within within]
  rcases denied with right | ⟨res, path, record⟩
  · rw [if_neg (Bool.eq_false_iff.1 right)]
  · have present : H.res = true ∧ pathUp s (H.base + off) = true := ⟨res, path⟩
    rw [if_pos present, if_pos record, ite_self]

end

/-! All elements. -/

section

variable {s : State} {H : Handle} {size : Nat} {store : Bool}

theorem vgElements_map {ls : List (Nat × Nat)} {f : Nat × Nat → Element}
    (found : ∀ l ∈ ls, vgElement s H size store l.1 l.2 = .ok (f l)) : vgElements s H size store ls = .ok (ls.map f) := by
  induction ls with
  | nil => rfl
  | cons l ls ih =>
    simp only [vgElements, found l List.mem_cons_self, ih fun x listed => found x (List.mem_cons_of_mem _ listed), List.map_cons]

/-- The first trap is the result. -/
theorem vgElements_trap {pre post : List (Nat × Nat)} {l : Nat × Nat} {t : Trap}
    (before : ∀ x ∈ pre, ∃ e, vgElement s H size store x.1 x.2 = .ok e) (trap : vgElement s H size store l.1 l.2 = .error t) :
    vgElements s H size store (pre ++ l :: post) = .error t := by
  induction pre with
  | nil => simp only [List.nil_append, vgElements, trap]
  | cons x pre ih =>
    obtain ⟨e, found⟩ := before x List.mem_cons_self
    simp only [List.cons_append, vgElements, found, ih fun x listed => before x (List.mem_cons_of_mem _ listed)]

/-! The active lanes. -/

/-- The active lanes in ascending order. -/
def live (act : BitVec 1024) : List Nat := (List.range 1024).filter fun j => act.getLsbD j

theorem mem_live {act : BitVec 1024} {j : Nat} : j ∈ live act ↔ j < 1024 ∧ act.getLsbD j = true := by
  rw [live, List.mem_filter, List.mem_range]

/-- An active lane with the active lanes before it. -/
theorem live_split {act : BitVec 1024} {j : Nat} (listed : j ∈ live act) :
    ∃ pre post, live act = pre ++ j :: post ∧ ∀ q ∈ pre, q ∈ live act ∧ q < j := by
  obtain ⟨pre, post, split⟩ := List.append_of_mem listed
  have sorted : (live act).Pairwise (· < ·) := List.pairwise_lt_range.filter _
  refine ⟨pre, post, split, fun q before => ⟨?_, ?_⟩⟩
  · rw [split]
    exact List.mem_append_left _ before
  · rw [split] at sorted
    exact (List.pairwise_append.1 sorted).2.2 q before j List.mem_cons_self

/-- A lane with its offset. -/
def withOffset (s : State) (i : BitVec 5) (j : Nat) : Nat × Nat := (j, (lane s i j).toNat)

theorem vgLanes_eq (s : State) (i : BitVec 5) (m : BitVec 3) :
    vgLanes s.core.ctx i m = (live (mreg s.core.ctx m)).map (withOffset s i) := rfl

variable {i : BitVec 5} {act : BitVec 1024} {j : Nat}

/-- The first misaligned lane. -/
theorem vgCheck_misaligned (listed : j ∈ live act) (before : ∀ q ∈ live act, q < j → (lane s i q).toNat % size = 0)
    (odd : (lane s i j).toNat % size ≠ 0) :
    vgCheck s H size store ((live act).map (withOffset s i)) =
      .error (Trap.at .misalignedAccess (if H.valid then H.vbase + (lane s i j).toNat else (lane s i j).toNat)) := by
  obtain ⟨pre, post, split, earlier⟩ := live_split listed
  have first : ((live act).map (withOffset s i)).find? (fun l => l.2 % size ≠ 0) = some (withOffset s i j) := by
    refine List.find?_eq_some_iff_append.2 ⟨decide_eq_true odd, pre.map (withOffset s i), post.map (withOffset s i), ?_, ?_⟩
    · rw [split, List.map_append, List.map_cons]
    · rintro x listed
      obtain ⟨q, hq, rfl⟩ := List.mem_map.1 listed
      obtain ⟨hq, lower⟩ := earlier q hq
      simp [withOffset, before q hq lower]
  rw [vgCheck, first]
  rfl

theorem vgCheck_aligned (aligned : ∀ q ∈ live act, (lane s i q).toNat % size = 0) :
    vgCheck s H size store ((live act).map (withOffset s i)) =
      if H.valid = true then
        match vgElements s H size store ((live act).map (withOffset s i)) with
        | .error t => .error t
        | .ok es => .ok (some es)
      else .ok none := by
  have none : ((live act).map (withOffset s i)).find? (fun l => l.2 % size ≠ 0) = none := by
    refine List.find?_eq_none.2 fun x listed => ?_
    obtain ⟨q, hq, rfl⟩ := List.mem_map.1 listed
    simp [withOffset, aligned q hq]
  rw [vgCheck, none]
  generalize vgElements s H size store ((live act).map (withOffset s i)) = found
  cases H.valid <;> rfl

theorem vgCheck_invalid (aligned : ∀ q ∈ live act, (lane s i q).toNat % size = 0) (invalid : H.valid = false) :
    vgCheck s H size store ((live act).map (withOffset s i)) = .ok none := by
  rw [vgCheck_aligned aligned, if_neg (Bool.eq_false_iff.1 invalid)]

/-- The first lane whose element traps. -/
theorem vgCheck_element {t : Trap} (aligned : ∀ q ∈ live act, (lane s i q).toNat % size = 0) (valid : H.valid = true) (listed : j ∈ live act)
    (before : ∀ q ∈ live act, q < j → ∃ e, vgElement s H size store q (lane s i q).toNat = .ok e)
    (trap : vgElement s H size store j (lane s i j).toNat = .error t) :
    vgCheck s H size store ((live act).map (withOffset s i)) = .error t := by
  obtain ⟨pre, post, split, earlier⟩ := live_split listed
  have first : vgElements s H size store ((live act).map (withOffset s i)) = .error t := by
    rw [split, List.map_append, List.map_cons]
    refine vgElements_trap (fun x listed => ?_) trap
    obtain ⟨q, hq, rfl⟩ := List.mem_map.1 listed
    obtain ⟨hq, lower⟩ := earlier q hq
    exact before q hq lower
  rw [vgCheck_aligned aligned, if_pos valid, first]

/-- The element of a resident page that a lane names. -/
def element (s : State) (H : Handle) (i : BitVec 5) (j : Nat) : Element :=
  ⟨j, H.vbase + (lane s i j).toNat, some (H.base + (lane s i j).toNat)⟩

/-- Every active element on the handle's page, which is resident and allows the access. -/
theorem vgCheck_resident (valid : H.valid = true) (right : (if store then H.w else H.r) = true) (res : H.res = true)
    (on : ∀ q ∈ live act, (lane s i q).toNat % size = 0 ∧ (lane s i q).toNat < H.pageSize ∧ pathUp s (H.base + (lane s i q).toNat) = true)
    (record : ∀ q ∈ live act, (store && inWindowRecord s (H.base + (lane s i q).toNat) size) = false) :
    vgCheck s H size store ((live act).map (withOffset s i)) = .ok (some ((live act).map (element s H i))) := by
  have found : vgElements s H size store ((live act).map (withOffset s i)) = .ok (((live act).map (withOffset s i)).map fun l =>
      ⟨l.1, H.vbase + l.2, some (H.base + l.2)⟩) := by
    refine vgElements_map fun l listed => ?_
    obtain ⟨q, hq, rfl⟩ := List.mem_map.1 listed
    obtain ⟨_, within, path⟩ := on q hq
    exact vgElement_resident within right res path (record q hq)
  rw [vgCheck_aligned fun q hq => (on q hq).1, if_pos valid, found, List.map_map]
  rfl

end

/-! The traps of VLDG and VSTG. -/

section

variable {s : State} {i : Instr} {o : VOps} {e : VOps → State → Eff} {H : Handle} {x : BitVec 5} {m : BitVec 3} {size : Nat} {store : Bool}

/-- The traps of a VLDG or VSTG: the first misaligned lane, then the first lane beyond two pages or without its right. -/
def ElementTraps (i : Instr) (s : State) (H : Handle) (x : BitVec 5) (m : BitVec 3) (size : Nat) (store : Bool) : Prop :=
  (∀ j ∈ live (mreg s.core.ctx m), (∀ q ∈ live (mreg s.core.ctx m), q < j → (lane s x q).toNat % size = 0) →
    (lane s x j).toNat % size ≠ 0 →
    TrapsCounted i s (Trap.at .misalignedAccess (if H.valid then H.vbase + (lane s x j).toNat else (lane s x j).toNat))) ∧
  ((∀ j ∈ live (mreg s.core.ctx m), (lane s x j).toNat % size = 0) → H.valid = true → ∀ j ∈ live (mreg s.core.ctx m),
    (∀ q ∈ live (mreg s.core.ctx m), q < j → (lane s x q).toNat < H.pageSize ∧ (if store then H.w else H.r) = true ∧
      (store && inWindowRecord s (H.base + (lane s x q).toNat) size) = false) →
    (2 * H.pageSize ≤ (lane s x j).toNat → TrapsCounted i s (Trap.at .handleRange (H.vbase + (lane s x j).toNat))) ∧
    ((lane s x j).toNat < H.pageSize →
      ((if store then H.w else H.r) = false ∨ (H.res = true ∧ pathUp s (H.base + (lane s x j).toNat) = true ∧
        (store && inWindowRecord s (H.base + (lane s x j).toNat) size) = true)) →
      TrapsCounted i s (Trap.at .permission (H.vbase + (lane s x j).toNat))))

/-- An instruction whose effect is the trap of its elements' check. -/
theorem traps_of_vgCheck (runs : exec i s = vecIssue i o e s) (starts : Starts i s)
    (checks : ∀ t, vgCheck s H size store (vgLanes s.core.ctx x m) = .error t → e o s = .trap t) : ElementTraps i s H x m size store := by
  have trap {t : Trap} (check : vgCheck s H size store ((live (mreg s.core.ctx m)).map (withOffset s x)) = .error t) : TrapsCounted i s t :=
    traps_of_vecIssue runs starts (checks t check)
  refine ⟨fun j listed before odd => trap (vgCheck_misaligned listed before odd), fun aligned valid j listed earlier => ?_⟩
  have before (q : Nat) (hq : q ∈ live (mreg s.core.ctx m)) (lower : q < j) : ∃ e, vgElement s H size store q (lane s x q).toNat = .ok e := by
    obtain ⟨within, right, record⟩ := earlier q hq lower
    exact vgElement_allowed within right record
  exact ⟨fun beyond => trap (vgCheck_element aligned valid listed before (vgElement_beyond beyond)),
    fun within denied => trap (vgCheck_element aligned valid listed before (vgElement_denied within denied))⟩

end

/-! The flags, and the count of an instruction that raises any. -/

section

variable {i : Instr} {s u : State}

theorem completes_of_addPerf {n x : Nat} (completes : Completes i s (modCtx u fun c => addPerf c n x)) : Completes i s u := by
  obtain ⟨t, ran, sequenced, pc, lc, loops⟩ := completes
  have past : pastInstr (addPerf u.core.ctx n x) = withPerf (pastInstr u.core.ctx) (addPerf u.core.ctx n x).perf :=
    pastInstr_withPerf u.core.ctx _
  refine ⟨t, ran, Sequenced.trans (v := modCtx u fun c => addPerf c n x) (sequenced_modCtx u _ rfl) sequenced, pc.trans ?_, lc.trans ?_,
    loops.trans ?_⟩
  · exact (congrArg Context.pc past :)
  · exact (congrArg Context.lc past :)
  · exact (congrArg Context.loops past :)

/-- The mask of the flags written. -/
def flagged (u : State) (rf : BitVec 3) (flags : List Nat) : State := modCtx u fun c => setM c rf (maskOf fun i => flags.contains i)

theorem vgFlags_none (rf : BitVec 3) : vgFlags u rf [] = flagged u rf [] := rfl

theorem completes_of_vgFlags {rf : BitVec 3} {flags : List Nat} (completes : Completes i s (vgFlags u rf flags)) :
    Completes i s (flagged u rf flags) := by
  cases flags with
  | nil => exact completes
  | cons x l => exact completes_of_addPerf (u := flagged u rf (x :: l)) (n := 6) (x := 1) completes

theorem maskOf_live (act : BitVec 1024) : (maskOf fun i => (live act).contains i) = act := by
  refine BitVec.eq_of_getLsbD_eq fun k hk => ?_
  rw [getLsbD_maskOf _ hk, Bool.eq_iff_iff, List.contains_iff_mem, mem_live]
  exact and_iff_right hk

theorem maskOf_none : (maskOf fun i => ([] : List Nat).contains i) = 0 := by
  refine BitVec.eq_of_getLsbD_eq fun k hk => ?_
  rw [getLsbD_maskOf _ hk]
  simp

theorem flagged_mreg_other {rf q : BitVec 3} (flags : List Nat) (other : q ≠ rf) :
    mreg (flagged u rf flags).core.ctx q = mreg u.core.ctx q := mreg_setM_other _ _ other

theorem flagged_mreg_live {rf : BitVec 3} (act : BitVec 1024) (named : rf ≠ 0) : mreg (flagged u rf (live act)).core.ctx rf = act :=
  (mreg_setM_same _ _ _ named).trans (maskOf_live act)

theorem flagged_mreg_none {rf : BitVec 3} (named : rf ≠ 0) : mreg (flagged u rf []).core.ctx rf = 0 :=
  (mreg_setM_same _ _ _ named).trans maskOf_none

theorem flagged_eq (u : State) (rf : BitVec 3) (flags : List Nat) :
    flagged u rf flags = modCtx u fun c => { c with m := (flagged u rf flags).core.ctx.m } :=
  congrArg (fun x : Context => modCtx u fun _ => x) (setM_eq u.core.ctx rf _)

end

end Sys2Proof.VectorGlobals

/-! SUPPORT. What VLDG brings and VSTG queues (R165, R166, R223), for O23. -/

namespace Sys2Proof.VectorAccesses

open Sys2Proof.Machine Sys2Proof.Laws Sys2Proof.ScratchpadAccesses Sys2Proof.VectorLanes Sys2Proof.AxisMembers Sys2Proof.VectorGlobals

/-! The elements of resident pages as one access. -/

section

variable {s : State} {H : Handle} {size : Nat} {x : BitVec 5} {l : List Nat}

theorem vgParts_elements (s : State) (H : Handle) (size : Nat) (x : BitVec 5) (l : List Nat) :
    vgParts (l.map (element s H x)) size = l.map fun j => (H.vbase + (lane s x j).toNat, H.base + (lane s x j).toNat, size) := by
  rw [vgParts, List.filterMap_map, ← List.filterMap_eq_map']
  rfl

/-- No element of a resident page raises a flag. -/
theorem absent_elements (s : State) (H : Handle) (x : BitVec 5) (l : List Nat) :
    ((l.map (element s H x)).filter fun e => e.pa.isNone).map Element.lane = [] := by
  have none : (l.map (element s H x)).filter (fun e => e.pa.isNone) = [] := by
    refine List.filter_eq_nil_iff.2 fun e listed => ?_
    obtain ⟨j, -, rfl⟩ := List.mem_map.1 listed
    exact Bool.false_ne_true
  rw [none, List.map_nil]

/-- With nothing queued and no RED outstanding, an access of several parts takes what its die reads. -/
theorem loadFinds_idle (queue : s.core.ctx.accessQ = []) (reds : s.reds = []) (parts : List (Nat × Nat × Nat)) :
    loadFinds s s.core.ctx.accessQ parts = .read (parts.flatMap fun p => rdBytes s s.core.die p.2.1 p.2.2) := by
  simp [loadFinds, queue, reds, loadsHeld, redPending, redHolds, queuedCells, rdBytes, List.map_flatMap,
    Function.comp_def]

theorem vgBad_none (sound : s.badLines = []) (es : List Element) : vgBad s size es = none := by
  refine List.findSome?_eq_none_iff.2 fun e _ => ?_
  cases e.pa with
  | none => rfl
  | some p =>
    have clean : badByte s p size = none := List.findSome?_eq_none_iff.2 fun i _ => by simp [sound]
    simp [clean]

/-- Each lane takes its own bytes of what the access brings. -/
theorem vgValues_elements {g : Nat → List Byte} (length : ∀ j, (g j).length = size) :
    vgValues size (l.map (element s H x)) (l.flatMap g) = l.map fun j => (j, leNat (g j)) := by
  induction l with
  | nil => rfl
  | cons j l ih =>
    have own : ((j :: l).flatMap g).take size = g j := by rw [List.flatMap_cons, ← length j, List.take_left]
    have rest : ((j :: l).flatMap g).drop size = l.flatMap g := by rw [List.flatMap_cons, ← length j, List.drop_left]
    rw [List.map_cons, element, vgValues, own, rest, ih, List.map_cons]

theorem mem_vgLines {va pa : Nat} :
    (va, pa) ∈ vgLines (l.map (element s H x)) ↔
      ∃ j ∈ l, (va, pa) = ((H.vbase + (lane s x j).toNat) / 64 * 64, (H.base + (lane s x j).toNat) / 64 * 64) := by
  simp [vgLines, List.mem_eraseDups, element, eq_comm, and_comm]

end

/-! What lines read leave. -/

section

variable {u : State} {die pa : Nat}

theorem fetchLine_copies (u : State) (die pa : Nat) : fetchLine u die pa = { u with copies := (fetchLine u die pa).copies } := by
  unfold fetchLine
  dsimp only
  split <;> rfl

/-- A near line read in a module without a binding leaves at most a copy. -/
theorem touchAt_near {aspace : BitVec 12} {va : Nat} (near : tierOf u pa = 0) (unbound : u.bindings = []) :
    touchAt u aspace die va pa = { u with copies := (touchAt u aspace die va pa).copies } := by
  have fetched := fetchLine_copies u die pa
  have touched : touchAt u aspace die va pa = fetchLine u die pa := by
    have tier : tierOf (fetchLine u die pa) pa = 0 := by rw [fetched]; exact near
    have binding : (fetchLine u die pa).bindings = [] := by rw [fetched]; exact unbound
    simp only [touchAt, tier, if_true, demandAccess, binding]
  rw [touched]
  exact fetched

theorem vgTouch_near {es : List Element} (near : ∀ l ∈ vgLines es, tierOf u l.2 = 0) (unbound : u.bindings = []) :
    vgTouch u es = { u with copies := (vgTouch u es).copies } := by
  refine List.foldlRecOn (motive := fun t : State => t = { u with copies := t.copies }) _ _ rfl ?_
  intro t frame l listed
  have tier : tierOf t l.2 = 0 := by rw [frame]; exact near l listed
  have binding : t.bindings = [] := by rw [frame]; exact unbound
  refine (touchAt_near tier binding).trans ?_
  exact congrArg (fun y : State => { y with copies := (touchAt t t.core.ctx.aspace t.core.die l.1 l.2).copies }) frame

end

/-! VLDG. -/

section

variable {s t u : State} {v x : BitVec 5} {m rf : BitVec 3} {z : BitVec 2} {h : BitVec 4}

/-- What VLDG takes from issue. -/
def handleOps (s : State) (h : BitVec 4) : VOps := { vecOps s 0 0 with h := hreg s h }

@[simp] theorem handleOps_h (s : State) (h : BitVec 4) : (handleOps s h).h = hreg s h := rfl

/-- A vector register and the flags written. -/
def loadedLanes (s : State) (v : BitVec 5) (r : VReg) (rf : BitVec 3) (flags : List Nat) : State :=
  flagged (modCtx s fun c => setV c v r) rf flags

section

variable {r : VReg} {flags : List Nat}

theorem loadedLanes_lane (j : Nat) : lane (loadedLanes s v r rf flags) v j = r[j]?.getD 0 := by
  rw [loadedLanes, flagged_eq]
  exact lane_written rfl

theorem loadedLanes_vreg {t : BitVec 5} (other : t ≠ v) : vreg (loadedLanes s v r rf flags).core.ctx t = vreg s.core.ctx t := by
  rw [loadedLanes, flagged_eq]
  exact vreg_kept rfl other

theorem loadedLanes_mreg {q : BitVec 3} (other : q ≠ rf) : mreg (loadedLanes s v r rf flags).core.ctx q = mreg s.core.ctx q :=
  flagged_mreg_other flags other

theorem loadedLanes_eq (s : State) (v : BitVec 5) (r : VReg) (rf : BitVec 3) (flags : List Nat) :
    loadedLanes s v r rf flags = modCtx s fun c =>
      { c with v := (loadedLanes s v r rf flags).core.ctx.v, m := (loadedLanes s v r rf flags).core.ctx.m } := by
  rw [loadedLanes, flagged_eq]
  rfl

end

/-- The frame of a load that also leaves copies. -/
theorem frame_of_copies (copied : t = { u with copies := t.copies })
    (loaded : u = modCtx s fun c => { c with v := u.core.ctx.v, m := u.core.ctx.m }) :
    t = { modCtx s (fun c => { c with v := t.core.ctx.v, m := t.core.ctx.m }) with copies := t.copies } := by
  have core : t.core = u.core := (congrArg State.core copied :)
  calc t
    _ = { u with copies := t.copies } := copied
    _ = { modCtx s (fun c => { c with v := u.core.ctx.v, m := u.core.ctx.m }) with copies := t.copies } :=
      congrArg (fun y : State => { y with copies := t.copies }) loaded
    _ = _ := by rw [core]

/-- The lanes of a masked load. -/
def maskedLanes (s : State) (v : BitVec 5) (m : BitVec 3) (f : Nat → BitVec 32) : VReg :=
  underMask (mreg s.core.ctx m) false (vreg s.core.ctx v) f

theorem maskedLanes_lane {f : Nat → BitVec 32} {j : Nat} (hj : j < 1024) :
    (maskedLanes s v m f)[j]?.getD 0 = if (mreg s.core.ctx m).getLsbD j then f j else lane s v j :=
  underMask_lane _ false _ _ hj

theorem modCtx_at (s : State) (f : Context → Context) : modCtx s f = modCtx s fun _ => f s.core.ctx := rfl

theorem vgFlags_masked (s : State) (v : BitVec 5) (m rf : BitVec 3) (f : Nat → BitVec 32) (flags : List Nat) :
    vgFlags (modCtx s fun c => setV c v (underMask (mreg c m) false (vreg c v) f)) rf flags =
      vgFlags (modCtx s fun c => setV c v (maskedLanes s v m f)) rf flags := by
  rw [modCtx_at, modCtx_at s fun c => setV c v (maskedLanes s v m f), maskedLanes]

/-! The outcomes of VLDG's checks. -/

theorem effVldg_of_trap {t : Trap} (check : vgCheck s (hreg s h) (2 ^ z.toNat) false (vgLanes s.core.ctx x m) = .error t) :
    effVldg v x m rf z (handleOps s h) s = .trap t := by
  unfold effVldg
  dsimp only
  rw [handleOps_h, check]

theorem effVldg_of_invalid (check : vgCheck s (hreg s h) (2 ^ z.toNat) false (vgLanes s.core.ctx x m) = .ok none) :
    effVldg v x m rf z (handleOps s h) s =
      .ok (vgFlags (modCtx s fun c => setV c v (maskedLanes s v m fun _ => 0)) rf ((vgLanes s.core.ctx x m).map Prod.fst)) := by
  unfold effVldg
  dsimp only
  rw [handleOps_h, check, ← vgFlags_masked]

variable {es : List Element}

theorem effVldg_of_wait (check : vgCheck s (hreg s h) (2 ^ z.toNat) false (vgLanes s.core.ctx x m) = .ok (some es))
    (finds : loadFinds s s.core.ctx.accessQ (vgParts es (2 ^ z.toNat)) = .wait) :
    effVldg v x m rf z (handleOps s h) s = .stall := by
  unfold effVldg
  dsimp only
  rw [handleOps_h, check]
  dsimp only
  rw [finds]

theorem effVldg_of_read {bytes : List Byte} (check : vgCheck s (hreg s h) (2 ^ z.toNat) false (vgLanes s.core.ctx x m) = .ok (some es))
    (finds : loadFinds s s.core.ctx.accessQ (vgParts es (2 ^ z.toNat)) = .read bytes) (sound : vgBad s (2 ^ z.toNat) es = none) :
    effVldg v x m rf z (handleOps s h) s = .ok (vgTouch (vgLoaded s v m rf (2 ^ z.toNat) es bytes) es) := by
  unfold effVldg
  dsimp only
  rw [handleOps_h, check]
  dsimp only
  rw [finds]
  dsimp only
  rw [sound]

theorem lanes_fst (s : State) (x : BitVec 5) (m : BitVec 3) : (vgLanes s.core.ctx x m).map Prod.fst = live (mreg s.core.ctx m) := by
  rw [vgLanes_eq, List.map_map]
  exact List.map_id _

theorem vldg_invalid (starts : Starts (.vldg v h x m rf z) s) (invalid : (hreg s h).valid = false)
    (aligned : ∀ j ∈ live (mreg s.core.ctx m), (lane s x j).toNat % 2 ^ z.toNat = 0) :
    ∃ u, Completes (.vldg v h x m rf z) s u ∧
      (∀ j, j < 1024 → lane u v j = if (mreg s.core.ctx m).getLsbD j then 0 else lane s v j) ∧
      (rf ≠ 0 → mreg u.core.ctx rf = mreg s.core.ctx m) ∧
      (∀ t, t ≠ v → vreg u.core.ctx t = vreg s.core.ctx t) ∧ (∀ q, q ≠ rf → mreg u.core.ctx q = mreg s.core.ctx q) ∧
      u = modCtx s fun c => { c with v := u.core.ctx.v, m := u.core.ctx.m } := by
  have check : vgCheck s (hreg s h) (2 ^ z.toNat) false (vgLanes s.core.ctx x m) = .ok none := by
    rw [vgLanes_eq]
    exact vgCheck_invalid aligned invalid
  have effect := effVldg_of_invalid (v := v) (rf := rf) check
  rw [lanes_fst] at effect
  refine ⟨loadedLanes s v (maskedLanes s v m fun _ => 0) rf (live (mreg s.core.ctx m)),
    completes_of_vgFlags (completes_of_vecIssue (e := effVldg v x m rf z) (o := handleOps s h) rfl starts effect), fun j hj => ?_,
    flagged_mreg_live _, fun t => loadedLanes_vreg, fun q => loadedLanes_mreg, loadedLanes_eq ..⟩
  exact (loadedLanes_lane j).trans (maskedLanes_lane hj)

/-- What VLDG finds where every active element lies on the handle's page, resident and readable. -/
theorem vldg_elements (valid : (hreg s h).valid = true) (right : (hreg s h).r = true) (res : (hreg s h).res = true)
    (on : ∀ j ∈ live (mreg s.core.ctx m), (lane s x j).toNat % 2 ^ z.toNat = 0 ∧ (lane s x j).toNat < (hreg s h).pageSize ∧
      pathUp s ((hreg s h).base + (lane s x j).toNat) = true) :
    vgCheck s (hreg s h) (2 ^ z.toNat) false (vgLanes s.core.ctx x m) =
      .ok (some ((live (mreg s.core.ctx m)).map (element s (hreg s h) x))) := by
  rw [vgLanes_eq]
  exact vgCheck_resident (store := false) valid right res on fun _ _ => rfl

/-- The entry into an empty queue. -/
theorem vecEnqueue_idle {i : Instr} {o : VOps} (empty : s.core.ctx.vq = []) :
    vecEnqueue i o s = modCore s fun k => { k with
      seq := k.seq + 1, ctx := { s.core.ctx with vq := [.instr i o (snapOf s.core.ctx)] } } := by
  simp only [vecEnqueue, modCore, empty, List.nil_append]

theorem vldg_waits (starts : Starts (.vldg v h x m rf z) s)
    (check : vgCheck s (hreg s h) (2 ^ z.toNat) false (vgLanes s.core.ctx x m) =
      .ok (some ((live (mreg s.core.ctx m)).map (element s (hreg s h) x))))
    (finds : loadFinds s s.core.ctx.accessQ ((live (mreg s.core.ctx m)).map fun j =>
      ((hreg s h).vbase + (lane s x j).toNat, (hreg s h).base + (lane s x j).toNat, 2 ^ z.toNat)) = .wait) :
    Completes (.vldg v h x m rf z) s (modCore s fun k => { k with
      seq := k.seq + 1
      ctx := { s.core.ctx with
        vq := [.instr (.vldg v h x m rf z) ⟨0, 0, s.core.ctx.vmode, hreg s h, k.seq⟩ (snapOf s.core.ctx)] } }) := by
  rw [← vgParts_elements] at finds
  have enters := enters_of_vecIssue (e := effVldg v x m rf z) (o := handleOps s h) rfl starts (effVldg_of_wait check finds)
  rw [vecEnqueue_idle starts.1] at enters
  exact enters

/-- The value that a lane of VLDG takes. -/
theorem vgLoaded_elements {bytes : Nat → List Byte} (length : ∀ j, (bytes j).length = 2 ^ z.toNat) (H : Handle) :
    vgLoaded s v m rf (2 ^ z.toNat) ((live (mreg s.core.ctx m)).map (element s H x)) ((live (mreg s.core.ctx m)).flatMap bytes) =
      loadedLanes s v (maskedLanes s v m fun j =>
        BitVec.ofNat 32 ((assocGet ((live (mreg s.core.ctx m)).map fun j => (j, leNat (bytes j))) j).getD 0)) rf [] := by
  rw [vgLoaded, vgValues_elements length, absent_elements, vgFlags_masked, vgFlags_none, loadedLanes]

theorem vldg_reads (starts : Starts (.vldg v h x m rf z) s) (unbound : s.bindings = []) (sound : s.badLines = []) (queue : s.core.ctx.accessQ = [])
    (reds : s.reds = [])
    (check : vgCheck s (hreg s h) (2 ^ z.toNat) false (vgLanes s.core.ctx x m) =
      .ok (some ((live (mreg s.core.ctx m)).map (element s (hreg s h) x))))
    (near : ∀ j ∈ live (mreg s.core.ctx m), tierOf s (((hreg s h).base + (lane s x j).toNat) / 64 * 64) = 0) :
    ∃ u, Completes (.vldg v h x m rf z) s u ∧
      (∀ j, j < 1024 → lane u v j = if (mreg s.core.ctx m).getLsbD j then
          BitVec.ofNat 32 (leNat (rdBytes s s.core.die ((hreg s h).base + (lane s x j).toNat) (2 ^ z.toNat)))
        else lane s v j) ∧
      (rf ≠ 0 → mreg u.core.ctx rf = 0) ∧ (∀ t, t ≠ v → vreg u.core.ctx t = vreg s.core.ctx t) ∧
      u = { modCtx s (fun c => { c with v := u.core.ctx.v, m := u.core.ctx.m }) with copies := u.copies } := by
  let bytes (j : Nat) : List Byte := rdBytes s s.core.die ((hreg s h).base + (lane s x j).toNat) (2 ^ z.toNat)
  have length (j : Nat) : (bytes j).length = 2 ^ z.toNat := by simp [bytes, rdBytes]
  have finds : loadFinds s s.core.ctx.accessQ (vgParts ((live (mreg s.core.ctx m)).map (element s (hreg s h) x)) (2 ^ z.toNat)) =
      .read ((live (mreg s.core.ctx m)).flatMap bytes) := by
    rw [loadFinds_idle queue reds, vgParts_elements, List.flatMap_map]
  have effect := effVldg_of_read (v := v) (rf := rf) check finds (vgBad_none sound _)
  rw [vgLoaded_elements length] at effect
  generalize loaded : loadedLanes s v _ rf [] = w at effect
  have same (pa : Nat) : tierOf w pa = tierOf s pa := by rw [← loaded]; rfl
  have copied : vgTouch w ((live (mreg s.core.ctx m)).map (element s (hreg s h) x)) =
      { w with copies := (vgTouch w ((live (mreg s.core.ctx m)).map (element s (hreg s h) x))).copies } := by
    refine vgTouch_near (fun l listed => ?_) (by rw [← loaded]; exact unbound)
    obtain ⟨j, hj, line⟩ := mem_vgLines.1 listed
    have place : l.2 = ((hreg s h).base + (lane s x j).toNat) / 64 * 64 := (congrArg Prod.snd line :)
    rw [same, place, near j hj]
  generalize vgTouch w ((live (mreg s.core.ctx m)).map (element s (hreg s h) x)) = t at effect copied
  have core : t.core = w.core := (congrArg State.core copied :)
  refine ⟨t, completes_of_vecIssue (e := effVldg v x m rf z) (o := handleOps s h) rfl starts effect, fun j hj => ?_, fun named => ?_,
    fun r other => ?_, frame_of_copies copied (loaded ▸ loadedLanes_eq ..)⟩
  · rw [lane, core, ← loaded]
    refine (loadedLanes_lane j).trans ((maskedLanes_lane hj).trans ?_)
    split
    · next active => rw [assocGet_map (fun j => leNat (bytes j)) (mem_live.2 ⟨hj, active⟩), Option.getD_some]
    · rfl
  · rw [core, ← loaded]
    exact flagged_mreg_none named
  · rw [core, ← loaded]
    exact loadedLanes_vreg other

end

/-! VSTG. -/

section

variable {s : State} {v x : BitVec 5} {m rf : BitVec 3} {z : BitVec 2} {h : BitVec 4}

theorem effVstg_of_trap {t : Trap} (check : vgCheck s (hreg s h) (2 ^ z.toNat) true (vgLanes s.core.ctx x m) = .error t) :
    effVstg v x m rf z (handleOps s h) s = .trap t := by
  unfold effVstg
  dsimp only
  rw [handleOps_h, check]

theorem effVstg_of_invalid (check : vgCheck s (hreg s h) (2 ^ z.toNat) true (vgLanes s.core.ctx x m) = .ok none) :
    effVstg v x m rf z (handleOps s h) s = .ok (vgFlags s rf ((vgLanes s.core.ctx x m).map Prod.fst)) := by
  unfold effVstg
  dsimp only
  rw [handleOps_h, check]

theorem vstg_invalid (starts : Starts (.vstg v h x m rf z) s) (invalid : (hreg s h).valid = false)
    (aligned : ∀ j ∈ live (mreg s.core.ctx m), (lane s x j).toNat % 2 ^ z.toNat = 0) :
    ∃ u, Completes (.vstg v h x m rf z) s u ∧ (rf ≠ 0 → mreg u.core.ctx rf = mreg s.core.ctx m) ∧
      (∀ q, q ≠ rf → mreg u.core.ctx q = mreg s.core.ctx q) ∧ u = modCtx s fun c => { c with m := u.core.ctx.m } := by
  have check : vgCheck s (hreg s h) (2 ^ z.toNat) true (vgLanes s.core.ctx x m) = .ok none := by
    rw [vgLanes_eq]
    exact vgCheck_invalid aligned invalid
  have effect := effVstg_of_invalid (v := v) (rf := rf) check
  rw [lanes_fst] at effect
  exact ⟨flagged s rf (live (mreg s.core.ctx m)),
    completes_of_vgFlags (completes_of_vecIssue (e := effVstg v x m rf z) (o := handleOps s h) rfl starts effect),
    flagged_mreg_live _, fun q => flagged_mreg_other _, flagged_eq ..⟩

/-- The bytes of a lane, at consecutive addresses. -/
theorem cellsFrom_lane (pa size : Nat) (y : BitVec 32) :
    cellsFrom pa (leBytes size y.toNat) = (List.range size).map fun q => (pa + q, y.extractLsb' (8 * q) 8) := by
  unfold cellsFrom
  rw [leBytes_length]
  refine List.map_congr_left fun q listed => ?_
  rw [leBytes_getD _ (List.mem_range.1 listed)]
  refine congrArg _ (BitVec.eq_of_toNat_eq ?_)
  rw [BitVec.extractLsb'_toNat, BitVec.toNat_ofNat, Nat.shiftRight_eq_div_pow, Nat.pow_mul]

/-- The cells of the active lanes' elements. -/
def laneCells (s : State) (v x : BitVec 5) (H : Handle) (size : Nat) (l : List Nat) : List Host.Cell :=
  l.flatMap fun j => (List.range size).map fun q => (canonPa s (H.base + (lane s x j).toNat) + q, (lane s v j).extractLsb' (8 * q) 8)

theorem laneCells_ne_nil {H : Handle} {size : Nat} {l : List Nat} (some : l ≠ []) (sized : 0 < size) : laneCells s v x H size l ≠ [] := by
  obtain ⟨j, l, rfl⟩ := List.exists_cons_of_ne_nil some
  intro none
  have bytes := (List.append_eq_nil_iff.1 ((List.flatMap_cons ..).symm.trans none)).1
  rw [List.map_eq_nil_iff, List.range_eq_nil] at bytes
  omega

theorem effVstg_of_elements {l : List Nat} (some : l ≠ [])
    (check : vgCheck s (hreg s h) (2 ^ z.toNat) true (vgLanes s.core.ctx x m) = .ok (.some (l.map (element s (hreg s h) x)))) :
    effVstg v x m rf z (handleOps s h) s =
      .ok (flagged (vecStore s (handleOps s h)
        (.write (laneCells s v x (hreg s h) (2 ^ z.toNat) l) (vgLines (l.map (element s (hreg s h) x))))) rf []) := by
  have stored := laneCells_ne_nil (s := s) (v := v) (x := x) (H := hreg s h) some (Nat.two_pow_pos z.toNat)
  have cells (f : Element → List Host.Cell) (own : ∀ j, f (element s (hreg s h) x j) =
      cellsFrom (canonPa s ((hreg s h).base + (lane s x j).toNat)) (leBytes (2 ^ z.toNat) (lane s v j).toNat)) :
      (l.map (element s (hreg s h) x)).flatMap f = laneCells s v x (hreg s h) (2 ^ z.toNat) l := by
    rw [List.flatMap_map, laneCells]
    exact List.flatMap_congr fun j _ => (own j).trans (cellsFrom_lane _ _ _)
  unfold effVstg
  dsimp only
  rw [handleOps_h, check]
  dsimp only
  rw [absent_elements, cells, if_neg stored, vgFlags_none]
  exact fun _ => rfl

theorem vstg_stores (starts : Starts (.vstg v h x m rf z) s) (valid : (hreg s h).valid = true) (right : (hreg s h).w = true)
    (res : (hreg s h).res = true) (windows : s.windows = []) (some : live (mreg s.core.ctx m) ≠ [])
    (on : ∀ j ∈ live (mreg s.core.ctx m), (lane s x j).toNat % 2 ^ z.toNat = 0 ∧ (lane s x j).toNat < (hreg s h).pageSize ∧
      pathUp s ((hreg s h).base + (lane s x j).toNat) = true) :
    ∃ u lines, Completes (.vstg v h x m rf z) s u ∧
      u.core.ctx.accessQ = s.core.ctx.accessQ ++
        [⟨s.core.seq, .write (laneCells s v x (hreg s h) (2 ^ z.toNat) (live (mreg s.core.ctx m))) lines⟩] ∧
      (∀ l, l ∈ lines ↔ ∃ j ∈ live (mreg s.core.ctx m),
        l = (((hreg s h).vbase + (lane s x j).toNat) / 64 * 64, ((hreg s h).base + (lane s x j).toNat) / 64 * 64)) ∧
      (rf ≠ 0 → mreg u.core.ctx rf = 0) ∧ u.core.ctx.v = s.core.ctx.v ∧ u.core.ctx.s = s.core.ctx.s := by
  have check : vgCheck s (hreg s h) (2 ^ z.toNat) true (vgLanes s.core.ctx x m) =
      .ok (.some ((live (mreg s.core.ctx m)).map (element s (hreg s h) x))) := by
    rw [vgLanes_eq]
    refine vgCheck_resident (store := true) valid right res on fun _ _ => ?_
    rw [inWindowRecord, windows]
    rfl
  refine ⟨_, vgLines ((live (mreg s.core.ctx m)).map (element s (hreg s h) x)),
    completes_of_vecIssue (e := effVstg v x m rf z) (o := handleOps s h) rfl starts (effVstg_of_elements some check), ?_,
    fun l => mem_vgLines, flagged_mreg_none, ?_, ?_⟩
  · rw [flagged_eq]
    rfl
  · rw [flagged_eq]
    rfl
  · rw [flagged_eq]
    rfl

end

end Sys2Proof.VectorAccesses

/-! SUPPORT. VPOP and VPUSH (R167), and the settling of O23. -/

namespace Sys2Proof.VectorMemory

open Sys2Proof.Machine Sys2Proof.Laws Sys2Proof.IssueWords Sys2Proof.VectorLanes Sys2Proof.VectorQueueOrder Sys2Proof.VectorScratchpad
open Sys2Proof.VectorGlobals Sys2Proof.VectorAccesses

/-! A feed as a pop or a push leaves it. -/

section

variable (f : Feed) (pos : Nat)

theorem endIf_ahead : ((f.claim).endIf pos).ahead = f.ahead := by
  unfold Feed.endIf
  split <;> rfl

theorem endIf_out : ((f.claim).endIf pos).out = f.out := by
  unfold Feed.endIf
  split <;> rfl

end

/-- A core with a feed changed. -/
def withFeed (k : Core) (n : BitVec 3) (f : Feed) : Core := { k with feeds := vset k.feeds n.toNat f }

theorem feedOf_withFeed (k : Core) (n : BitVec 3) (f : Feed) : feedOf (withFeed k n f) n = f := vget_vset_same _ _ _ _ n.isLt

theorem feedOf_withFeed_other (k : Core) {n t : BitVec 3} (f : Feed) (other : t ≠ n) : feedOf (withFeed k n f) t = feedOf k t :=
  vget_vset_other _ _ _ _ _ fun e => other (BitVec.eq_of_toNat_eq e).symm

section

variable {s : State} {n : BitVec 3}

/-- With an empty vector queue nothing else has claimed a feed's elements. -/
theorem feedClaims_idle (empty : s.core.ctx.vq = []) : feedClaims s.core.ctx n = 0 := by rw [feedClaims, empty]; rfl

theorem popReady_idle (empty : s.core.ctx.vq = []) : popReady s n = decide (1024 ≤ (feedOf s.core n).ahead.length) := by
  rw [popReady, feedClaims_idle empty]

theorem pushReady_idle (empty : s.core.ctx.vq = []) :
    pushReady s n = (decide ((feedOf s.core n).out.length + 1024 ≤ feedRoom) &&
      decide ((feedOf s.core n).done + 1024 ≤ feedLen (feedOf s.core n))) := by
  rw [pushReady, feedClaims_idle empty]

end

theorem feedOps_fit (s : State) : (feedOps s true).sa ≠ 0 := (by decide : (1 : Word) ≠ 0)

/-! VPOP. -/

section

variable {s : State} {v : BitVec 5} {n m : BitVec 3} {y : BitVec 1}

theorem vpop_unfit (starts : Starts (.vpop v n m y) s) (unfit : feedFit (feedOf s.core n) false = false) :
    TrapsCounted (.vpop v n m y) s (Trap.of .feedState) := by
  have ready : feedFit (feedOf s.core n) false = true → popReady s n = true := fun fit => absurd (unfit.symm.trans fit) Bool.false_ne_true
  refine traps_of_vecIssue (execVpop_ready ready) starts ?_
  rw [unfit]
  rfl

/-- The lanes that a pop writes. -/
def poppedLanes (s : State) (v : BitVec 5) (n m : BitVec 3) (y : BitVec 1) : VReg :=
  underMask (mreg s.core.ctx m) (y == 1) (vreg s.core.ctx v) fun i =>
    widenElt (feedFmt (feedOf s.core n)) (((feedOf s.core n).ahead.take 1024).getD i 0).toNat

/-- The feed that a pop leaves. -/
def poppedFeed (f : Feed) : Feed := ({ f with ahead := f.ahead.drop 1024 }.claim).endIf (feedPos f + 1024)

/-- The state that a pop leaves. -/
def popped (s : State) (v : BitVec 5) (x : VReg) (n : BitVec 3) (f : Feed) : State :=
  modCore (modCtx s fun _ => setV s.core.ctx v x) fun k => withFeed k n f

theorem effVpop_fit : effVpop v n m y (feedOps s true) s = .ok (popped s v (poppedLanes s v n m y) n (poppedFeed (feedOf s.core n))) := by
  rw [effVpop]
  dsimp only
  rw [if_neg (feedOps_fit s), modCtx_at, popped, poppedLanes]
  rfl

theorem vpop_pops (starts : Starts (.vpop v n m y) s) (fit : feedFit (feedOf s.core n) false = true)
    (present : 1024 ≤ (feedOf s.core n).ahead.length) :
    ∃ u, Completes (.vpop v n m y) s u ∧
      (∀ j, j < 1024 → lane u v j = if (mreg s.core.ctx m).getLsbD j then
          widenElt (feedFmt (feedOf s.core n)) ((feedOf s.core n).ahead.getD j 0).toNat
        else if y = 1 then 0 else lane s v j) ∧
      (feedOf u.core n).ahead = (feedOf s.core n).ahead.drop 1024 ∧ (∀ t, t ≠ n → feedOf u.core t = feedOf s.core t) ∧
      (∀ t, t ≠ v → vreg u.core.ctx t = vreg s.core.ctx t) := by
  have ready : popReady s n = true := by rw [popReady_idle starts.1]; exact decide_eq_true present
  have runs := execVpop_ready (d := v) (m := m) (z := y) fun _ => ready
  rw [fit] at runs
  refine ⟨_, completes_of_vecIssue runs starts effVpop_fit, fun j hj => ?_, ?_, fun t other => feedOf_withFeed_other _ _ other,
    fun t => vreg_kept rfl⟩
  · have elements : ((feedOf s.core n).ahead.take 1024).getD j 0 = (feedOf s.core n).ahead.getD j 0 := by
      simp only [List.getD_eq_getElem?_getD, List.getElem?_take, hj, if_true]
    have written := lane_underMask (s := s) (u := popped s v (poppedLanes s v n m y) n (poppedFeed (feedOf s.core n))) (d := v)
      (act := mreg s.core.ctx m) (z := y) rfl hj
    rw [elements] at written
    exact written
  · exact (congrArg Feed.ahead (feedOf_withFeed _ n _)).trans (endIf_ahead _ _)

end

/-! VPUSH. -/

section

variable {s : State} {v : BitVec 5} {n m : BitVec 3}

theorem execVpush_held (fit : feedFit (feedOf s.core n) true = true) (full : pushReady s n = false) :
    execVpush v n m s = .next (stallStep s) := by
  have wf : (Instr.vpush v n m).wf = true := rfl
  simp only [execVpush, fit, full, wf, Bool.not_false, Bool.and_self, if_true, finish]

theorem execVpush_ready (ready : feedFit (feedOf s.core n) true = true → pushReady s n = true) :
    execVpush v n m s = vecIssue (.vpush v n m) (feedOps s (feedFit (feedOf s.core n) true)) (effVpush v n m) s := by
  unfold execVpush
  refine if_neg ?_
  cases fit : feedFit (feedOf s.core n) true with
  | true => simp [ready fit]
  | false => simp

theorem vpush_unfit (starts : Starts (.vpush v n m) s) (unfit : feedFit (feedOf s.core n) true = false) :
    TrapsCounted (.vpush v n m) s (Trap.of .feedState) := by
  have ready : feedFit (feedOf s.core n) true = true → pushReady s n = true := fun fit => absurd (unfit.symm.trans fit) Bool.false_ne_true
  refine traps_of_vecIssue (execVpush_ready ready) starts ?_
  rw [unfit]
  rfl

theorem vpush_waits (starts : Starts (.vpush v n m) s) (fit : feedFit (feedOf s.core n) true = true)
    (full : feedRoom < (feedOf s.core n).out.length + 1024 ∨ feedLen (feedOf s.core n) < (feedOf s.core n).done + 1024) :
    Waits (.vpush v n m) s := by
  refine waits_of_stall (execVpush_held fit ?_)
  rw [pushReady_idle starts.1, Bool.and_eq_false_iff, decide_eq_false_iff_not, decide_eq_false_iff_not, Nat.not_le, Nat.not_le]
  exact full

/-- The lanes of a push in the feed's format. -/
def pushedElt (s : State) (v : BitVec 5) (f : Feed) (o : VOps) (i : Nat) : Nat × Fl :=
  narrowElt o (f.image.getLsbD 13) (feedFmt f) (laneAt (vreg s.core.ctx v) i)

/-- The elements that a push adds. -/
def pushedElts (s : State) (v : BitVec 5) (f : Feed) (o : VOps) (l : List Nat) : List (Nat × BitVec 32) :=
  l.map fun i => (f.done + i, BitVec.ofNat 32 (pushedElt s v f o i).1)

/-- The feed that a push leaves. -/
def pushedFeed (f : Feed) (new : List (Nat × BitVec 32)) : Feed :=
  ({ f with out := if feedState f = 1 then f.out ++ new else f.out, done := f.done + 1024 }.claim).endIf (f.done + 1024)

theorem effVpush_verdict (narrow : narrowing (feedFmt (feedOf s.core n)) = true) (verdict : ¬ VerdictFree s (mreg s.core.ctx m) v) :
    effVpush v n m (feedOps s true) s = .trap (Trap.of .verdictOperand) := by
  have any := anyVerdict_iff.2 verdict
  rw [effVpush]
  dsimp only
  rw [if_neg (feedOps_fit s), narrow, any, Bool.and_self, if_pos rfl]

theorem effVpush_ok (sound : narrowing (feedFmt (feedOf s.core n)) = true → VerdictFree s (mreg s.core.ctx m) v) :
    effVpush v n m (feedOps s true) s =
      .ok (raiseFlags (modCore s fun k => withFeed k n (pushedFeed (feedOf s.core n)
          (pushedElts s v (feedOf s.core n) (feedOps s true) (live (mreg s.core.ctx m)))))
        (maskFlags (mreg s.core.ctx m) fun i => (pushedElt s v (feedOf s.core n) (feedOps s true) i).2)) := by
  have free : ¬ (narrowing (feedFmt (feedOf s.core n)) && anyVerdict (mreg s.core.ctx m) (vreg s.core.ctx v)) = true := by
    rw [Bool.and_eq_true]
    exact fun ⟨narrow, any⟩ => anyVerdict_iff.1 any (sound narrow)
  rw [effVpush]
  dsimp only
  rw [if_neg (feedOps_fit s), if_neg free]
  rfl

theorem vpush_ready (starts : Starts (.vpush v n m) s) (fit : feedFit (feedOf s.core n) true = true)
    (room : (feedOf s.core n).out.length + 1024 ≤ feedRoom) (more : (feedOf s.core n).done + 1024 ≤ feedLen (feedOf s.core n)) :
    execVpush v n m s = vecIssue (.vpush v n m) (feedOps s true) (effVpush v n m) s := by
  have ready : pushReady s n = true := by
    rw [pushReady_idle starts.1, decide_eq_true room, decide_eq_true more, Bool.and_self]
  have runs := execVpush_ready (v := v) (m := m) fun _ => ready
  rwa [fit] at runs

theorem vpush_pushes (starts : Starts (.vpush v n m) s) (fit : feedFit (feedOf s.core n) true = true)
    (sound : narrowing (feedFmt (feedOf s.core n)) = true → VerdictFree s (mreg s.core.ctx m) v)
    (room : (feedOf s.core n).out.length + 1024 ≤ feedRoom) (more : (feedOf s.core n).done + 1024 ≤ feedLen (feedOf s.core n)) :
    ∃ u, Completes (.vpush v n m) s u ∧
      (feedOf u.core n).out = (feedOf s.core n).out ++
        pushedElts s v (feedOf s.core n) (feedOps s true) (live (mreg s.core.ctx m)) ∧
      (∀ t, t ≠ n → feedOf u.core t = feedOf s.core t) ∧ u.core.ctx.v = s.core.ctx.v := by
  have active : feedState (feedOf s.core n) = 1 := of_decide_eq_true ((Bool.and_eq_true _ _).mp fit).1
  refine ⟨_, completes_of_vecIssue (vpush_ready starts fit room more) starts (effVpush_ok sound), ?_,
    fun t other => feedOf_withFeed_other _ _ other, rfl⟩
  refine (congrArg Feed.out (feedOf_withFeed _ n _)).trans ((endIf_out _ _).trans ?_)
  exact if_pos active

end

theorem vldg_traps {s : State} {v x : BitVec 5} {m rf : BitVec 3} {z : BitVec 2} {h : BitVec 4} (starts : Starts (.vldg v h x m rf z) s) :
    ElementTraps (.vldg v h x m rf z) s (hreg s h) x m (2 ^ z.toNat) false :=
  traps_of_vgCheck (e := effVldg v x m rf z) (o := handleOps s h) rfl starts fun _ check => effVldg_of_trap check

theorem vstg_traps {s : State} {v x : BitVec 5} {m rf : BitVec 3} {z : BitVec 2} {h : BitVec 4} (starts : Starts (.vstg v h x m rf z) s) :
    ElementTraps (.vstg v h x m rf z) s (hreg s h) x m (2 ^ z.toNat) true :=
  traps_of_vgCheck (e := effVstg v x m rf z) (o := handleOps s h) rfl starts fun _ check => effVstg_of_trap check

/-- Settles O23: the checks of a footprint, of the elements and of a feed give a trap, or what the access moves. -/
theorem vectorMemoryMembersComplete : Obligations.VectorMemoryMembersComplete := by
  unfold Obligations.VectorMemoryMembersComplete
  intro s v i b r off h m rf n z y k c act addr f H size at_ live F footTraps elementTraps
  refine ⟨fun starts named => ⟨fun odd => ?_, fun aligned _ _ => ?_, fun aligned reaches => ⟨fun beyond => ?_, fun o within other => ?_⟩⟩,
    fun starts named => ⟨fun odd => ?_, fun aligned _ w => ?_, fun aligned reaches => ⟨fun beyond => ?_, fun o within other => ?_⟩⟩,
    fun starts _ => ?_, fun starts _ => ?_, fun starts passed free w bad => ?_, fun starts passed free narrow verdict => ?_,
    vpop_unfit, fun starts => ⟨vpush_unfit starts, vpush_waits starts, fun fit room more narrow verdict => ?_⟩,
    fun invalid _ aligned => ⟨fun starts => vldg_invalid starts invalid aligned, fun starts => vstg_invalid starts invalid aligned⟩,
    fun starts passed free bad failed soft => vld_loads starts passed free bad failed soft,
    fun starts passed free sound => vst_stores starts passed free sound, fun starts valid right res unbound sound queue reds _ on => ?_,
    fun starts valid right res _ on finds => ?_, fun starts valid right res windows _ some on => ?_, vpop_pops,
    fun starts fit sound room more => vpush_pushes starts fit sound room more⟩
  · exact traps_of_vld_check starts (footCheck_misaligned named odd)
  · contradiction
  · exact traps_of_vld_check starts (footCheck_range named aligned reaches beyond)
  · exact traps_of_vld_check starts (footCheck_otherBank named aligned reaches within other)
  · exact traps_of_vst_check starts (footCheck_misaligned named odd)
  · subst w
    exact traps_of_vst_check starts (footCheck_wBuffer aligned)
  · exact traps_of_vst_check starts (footCheck_range named aligned reaches beyond)
  · exact traps_of_vst_check starts (footCheck_otherBank named aligned reaches within other)
  · obtain ⟨odd, element⟩ := vldg_traps (rf := rf) starts
    exact ⟨odd, element⟩
  · obtain ⟨odd, element⟩ := vstg_traps (rf := rf) starts
    exact ⟨odd, element⟩
  · exact traps_of_vecIssue (vld_issues passed free) starts (effVld_bad passed bad)
  · exact traps_of_vecIssue (vst_issues passed free) starts (effVst_verdict passed narrow verdict)
  · exact traps_of_vecIssue (vpush_ready starts fit room more) starts (effVpush_verdict narrow verdict)
  · refine vldg_reads starts unbound sound queue reds (vldg_elements valid right res fun j hj => ?_) fun j hj => (on j hj).2.2.2
    obtain ⟨aligned, within, path, _⟩ := on j hj
    exact ⟨aligned, within, path⟩
  · exact vldg_waits starts (vldg_elements valid right res on) finds
  · exact vstg_stores starts valid right res windows some on

end Sys2Proof.VectorMemory

/-! SUPPORT. Comparison, conversion, splitting and packing (R153 to R157), for O20. -/

namespace Sys2Proof.VectorConversions

open Sys2Proof.Machine Sys2Proof.Laws Sys2Proof.VectorLanes Sys2Proof.PermutesAndMasks Sys2Proof.AxisMembers

/-! One register written, whatever the flags. -/

section

variable {s : State} {i : Instr} {o : VOps} {e : VOps → State → Eff} {d a : BitVec 5} {z : BitVec 1} {act : BitVec 1024} {f : Nat → BitVec 32}
  {fl : Fl}

/-- An instruction that writes the active lanes of one register completes with them. -/
theorem writes_of_vecIssue (runs : exec i s = vecIssue i o e s) (starts : Starts i s)
    (effect : e o s = vecDone s (.ok (setV s.core.ctx d (underMask act (z == 1) (vreg s.core.ctx d) f), fl))) :
    ∃ u, Completes i s u ∧ (∀ k, k < 1024 → lane u d k = if act.getLsbD k then f k else if z = 1 then 0 else lane s d k) ∧
      (∀ r, r ≠ d → vreg u.core.ctx r = vreg s.core.ctx r) ∧
      u = modCtx s fun c => { c with v := u.core.ctx.v, vmode := u.core.ctx.vmode } :=
  ⟨_, completes_of_vecIssue runs starts effect, fun _ => lane_underMask rfl, fun _ => vreg_kept rfl, vecState_eq _ _ _ rfl⟩

end

/-! VCMP. -/

section

variable {s : State} {md : BitVec 3} {a b : BitVec 5} {c : BitVec 3} {ty : BitVec 2} {m : BitVec 3} {z : BitVec 1}

/-- The state that a mask and flags written leave. -/
theorem vecState_setM_eq (s : State) (p : BitVec 3) (x : BitVec 1024) (fl : Fl) :
    vecState s (setM s.core.ctx p x) fl =
      modCtx s fun c => { c with m := (vecState s (setM s.core.ctx p x) fl).core.ctx.m, vmode := fl.apply c.vmode } := by
  unfold setM
  split <;> rfl

/-- The condition of a lane. -/
def condition (s : State) (a b : BitVec 5) (c : BitVec 3) (ty : BitVec 2) (k : Nat) : Bool × Fl :=
  vcmpLane c.toNat ty.toNat (s.core.ctx.vmode.getLsbD 2) (lane s a k).toNat (lane s b k).toNat

/-- The mask that VCMP writes. -/
def compared (s : State) (md : BitVec 3) (a b : BitVec 5) (c : BitVec 3) (ty : BitVec 2) (m : BitVec 3) (z : BitVec 1) : BitVec 1024 :=
  maskUnder (mreg s.core.ctx m) (z == 1) (mreg s.core.ctx md) fun k => (condition s a b c ty k).1

theorem effVcmp_eq :
    effVcmp md a b c ty m z (vecOps s 0 0) s = vecDone s (verdictFree (mreg s.core.ctx m) ([a, b].map (vreg s.core.ctx))
      (.ok (setM s.core.ctx md (compared s md a b c ty m z), maskFlags (mreg s.core.ctx m) fun k => (condition s a b c ty k).2))) := by
  unfold effVcmp compared
  rfl

theorem vcmp_completes (starts : Starts (.vcmp md a b c ty m z) s) (ha : VerdictFree s (mreg s.core.ctx m) a)
    (hb : VerdictFree s (mreg s.core.ctx m) b) :
    ∃ u, Completes (.vcmp md a b c ty m z) s u ∧
      (md ≠ 0 → ∀ k, k < 1024 → (mreg u.core.ctx md).getLsbD k =
        if (mreg s.core.ctx m).getLsbD k then (condition s a b c ty k).1 else decide (z = 0) && (mreg s.core.ctx md).getLsbD k) ∧
      u = modCtx s (fun x => { x with
        m := u.core.ctx.m, vmode := (maskFlags (mreg s.core.ctx m) fun k => (condition s a b c ty k).2).apply x.vmode }) ∧
      (∀ q, q ≠ md → mreg u.core.ctx q = mreg s.core.ctx q) := by
  have effect := effVcmp_eq (s := s) (md := md) (a := a) (b := b) (c := c) (ty := ty) (m := m) (z := z)
  rw [verdictFree_pass (by simp [ha, hb]), vecDone_ok] at effect
  refine ⟨_, completes_of_vecIssue (e := effVcmp md a b c ty m z) (o := vecOps s 0 0) rfl starts effect, fun named k hk => ?_,
    vecState_setM_eq _ _ _ _, fun q other => mreg_setM_other _ _ other⟩
  rw [vecState_mreg, mreg_setM_same _ _ _ named, compared, maskUnder, getLsbD_maskOf _ hk]
  have keep : ∀ y : BitVec 1, (!(y == 1)) = decide (y = 0) := by decide
  rw [keep]

theorem vcmp_stops (starts : Starts (.vcmp md a b c ty m z) s)
    (verdict : ¬ VerdictFree s (mreg s.core.ctx m) a ∨ ¬ VerdictFree s (mreg s.core.ctx m) b) :
    TrapsCounted (.vcmp md a b c ty m z) s (Trap.of .verdictOperand) := by
  have effect := effVcmp_eq (s := s) (md := md) (a := a) (b := b) (c := c) (ty := ty) (m := m) (z := z)
  have trap : verdictFree (mreg s.core.ctx m) ([a, b].map (vreg s.core.ctx)) (.ok (setM s.core.ctx md (compared s md a b c ty m z),
      maskFlags (mreg s.core.ctx m) fun k => (condition s a b c ty k).2)) = .error (Trap.of .verdictOperand) := by
    rcases verdict with ha | hb
    · exact verdictFree_trap (r := a) (by simp) ha
    · exact verdictFree_trap (r := b) (by simp) hb
  rw [trap] at effect
  exact traps_of_vecIssue (e := effVcmp md a b c ty m z) (o := vecOps s 0 0) rfl starts effect

end

/-! VCVT. -/

section

variable {s : State} {d a sv t : BitVec 5} {m : BitVec 3} {z : BitVec 1}

theorem ne_q4e (small : t.toNat ≤ 10) : t ≠ 13 := fun h => by simp [h] at small

/-- A conversion between two formats of `numFmt` is lane-wise where no source is a verdict word. -/
theorem effVcvt_plain (hs : sv ≠ 13) (ht : t ≠ 13) :
    effVcvt d a sv t m z (vecOps s 0 0) s = vecDone s (verdictFree (mreg s.core.ctx m) ([a].map (vreg s.core.ctx))
      (laneWise s d m z fun k => (BitVec.ofNat 32 (cvtLane (vecOps s 0 0) sv.toNat t.toNat (lane s a k).toNat).1,
        (cvtLane (vecOps s 0 0) sv.toNat t.toNat (lane s a k).toNat).2))) := by
  unfold effVcvt
  dsimp only
  rw [if_neg ht, if_neg hs]
  rfl

theorem cvtLane_eq {src dst : NumFmt} (hs : numFmt sv.toNat = some src) (ht : numFmt t.toNat = some dst) (x : Nat) :
    cvtLane (vecOps s 0 0) sv.toNat t.toNat x =
      convert src dst ⟨RMode.ofBits (s.core.ctx.vmode.extractLsb' 0 2), s.core.ctx.vmode.getLsbD 3, s.core.ctx.vmode.getLsbD 2⟩
        (x % 2 ^ src.width) := by
  have width : codeWidth sv.toNat = src.width := by simp [codeWidth, hs]
  simp only [cvtLane, hs, ht, lowBits, width]
  rfl

theorem vcvt_converts {src dst : NumFmt} (hs : sv.toNat ≤ 10) (ht : t.toNat ≤ 10) (source : numFmt sv.toNat = some src)
    (target : numFmt t.toNat = some dst) (starts : Starts (.vcvt d a sv t m z) s) (free : VerdictFree s (mreg s.core.ctx m) a) :
    LaneWise (.vcvt d a sv t m z) s d (mreg s.core.ctx m) z fun k =>
      (BitVec.ofNat 32 (convert src dst
          ⟨RMode.ofBits (s.core.ctx.vmode.extractLsb' 0 2), s.core.ctx.vmode.getLsbD 3, s.core.ctx.vmode.getLsbD 2⟩
          ((lane s a k).toNat % 2 ^ src.width)).1,
        (convert src dst ⟨RMode.ofBits (s.core.ctx.vmode.extractLsb' 0 2), s.core.ctx.vmode.getLsbD 3, s.core.ctx.vmode.getLsbD 2⟩
          ((lane s a k).toNat % 2 ^ src.width)).2) := by
  have effect := effVcvt_plain (s := s) (d := d) (a := a) (m := m) (z := z) (ne_q4e hs) (ne_q4e ht)
  rw [verdictFree_pass (by simpa using free)] at effect
  simp only [cvtLane_eq source target] at effect
  exact laneWise_of_vecIssue (e := effVcvt d a sv t m z) (o := vecOps s 0 0) rfl starts effect

theorem vcvt_stops (hs : sv.toNat ≤ 10) (ht : t.toNat ≤ 10) (starts : Starts (.vcvt d a sv t m z) s)
    (verdict : ¬ VerdictFree s (mreg s.core.ctx m) a) : TrapsCounted (.vcvt d a sv t m z) s (Trap.of .verdictOperand) := by
  have effect := effVcvt_plain (s := s) (d := d) (a := a) (m := m) (z := z) (ne_q4e hs) (ne_q4e ht)
  rw [verdictFree_trap (r := a) (by simp) verdict] at effect
  exact traps_of_vecIssue (e := effVcvt d a sv t m z) (o := vecOps s 0 0) rfl starts effect

/-! Groups of four (R155). -/

/-- A lane's group of four holds an active lane. -/
def GroupLive (act : BitVec 1024) (k : Nat) : Prop := ∃ j, j < 4 ∧ act.getLsbD (k / 4 * 4 + j) = true

theorem any_group {act : BitVec 1024} {k : Nat} : ((List.range 4).any fun j => act.getLsbD (k / 4 * 4 + j)) = true ↔ GroupLive act k := by
  simp only [List.any_eq_true, List.mem_range, GroupLive]

theorem getLsbD_groupMask {act : BitVec 1024} {k : Nat} (hk : k < 1024) : (groupMask act).getLsbD k = true ↔ GroupLive act k := by
  rw [groupMask, getLsbD_maskOf _ hk, any_group]

theorem groupLive_of_active {act : BitVec 1024} {k : Nat} (active : act.getLsbD k = true) : GroupLive act k :=
  ⟨k % 4, Nat.mod_lt _ (by decide), by rwa [show k / 4 * 4 + k % 4 = k by omega]⟩

theorem mem_liveGroups {act : BitVec 1024} {k : Nat} (hk : k < 1024) : k / 4 ∈ liveGroups act ↔ GroupLive act k := by
  have group : k / 4 < 256 := by omega
  rw [liveGroups, List.mem_filter, List.mem_range, ← any_group]
  simp only [Nat.mul_comm 4, group, true_and]

/-- No verdict word in any lane of a live group. -/
def LiveFree (s : State) (act : BitVec 1024) (a : BitVec 5) : Prop := ∀ k, k < 1024 → GroupLive act k → isVerdict (lane s a k) = false

theorem verdictFree_groupMask {act : BitVec 1024} : VerdictFree s (groupMask act) a ↔ LiveFree s act a :=
  forall₂_congr fun k hk => by rw [getLsbD_groupMask hk]

/-- The 16 bits that a lane's group of a register holds. -/
theorem groupBits_eq (k : Nat) :
    groupBits (vreg s.core.ctx a) (k / 4) =
      (List.range 4).foldl (fun n j => n + (lane s a (k / 4 * 4 + j)).toNat % 16 * 2 ^ (4 * j)) 0 := by
  simp only [groupBits, lane_eq, Nat.mul_comm 4 (k / 4)]

theorem encodeGroup_eq (k : Nat) :
    encodeGroup (vreg s.core.ctx a) (vreg s.core.ctx d) (k / 4) =
      q4Encode (((List.range 4).map fun j => (lane s a (k / 4 * 4 + j)).toNat).map FFmt.f32.val)
        (((List.range 4).map fun j => (lane s a (k / 4 * 4 + j)).toNat).map FFmt.f32.snan)
        (FFmt.bf16.val ((lane s d (k / 32 * 32)).toNat % 2 ^ 16)) := by
  have block : k / 4 * 4 / 32 = k / 32 := by omega
  simp only [encodeGroup, q4Scale, lane_eq, Nat.mul_comm 4 (k / 4), block]

/-- The table of the encoded groups. -/
def encoded (s : State) (act : BitVec 1024) (d a : BitVec 5) : List (Nat × Nat × Fl) :=
  (liveGroups act).map fun g => (g, encodeGroup (vreg s.core.ctx a) (vreg s.core.ctx d) g)

theorem effVcvt_encode :
    effVcvt d a 0 13 m z (vecOps s 0 0) s = vecDone s (verdictFree (groupMask (mreg s.core.ctx m)) ([a].map (vreg s.core.ctx))
      (.ok (setV s.core.ctx d (underMask (mreg s.core.ctx m) (z == 1) (vreg s.core.ctx d) fun k =>
          BitVec.ofNat 32 (q4Slot ((assocGet (encoded s (mreg s.core.ctx m) d a) (k / 4)).getD (0, {})).1 (k % 4))),
        (encoded s (mreg s.core.ctx m) d a).foldl (fun fl e => fl.join e.2.2) {}))) := by
  unfold effVcvt
  dsimp only
  rw [if_pos rfl]
  rfl

theorem encoded_group {act : BitVec 1024} {k : Nat} (hk : k < 1024) (active : act.getLsbD k = true) :
    (assocGet (encoded s act d a) (k / 4)).getD (0, {}) = encodeGroup (vreg s.core.ctx a) (vreg s.core.ctx d) (k / 4) := by
  rw [encoded, assocGet_map _ ((mem_liveGroups hk).2 (groupLive_of_active active)), Option.getD_some]

theorem vcvt_encodes (starts : Starts (.vcvt d a 0 13 m z) s) (free : LiveFree s (mreg s.core.ctx m) a) :
    ∃ u, Completes (.vcvt d a 0 13 m z) s u ∧
      (∀ k, k < 1024 → lane u d k = if (mreg s.core.ctx m).getLsbD k then BitVec.ofNat 32 (q4Slot
          (q4Encode (((List.range 4).map fun j => (lane s a (k / 4 * 4 + j)).toNat).map FFmt.f32.val)
            (((List.range 4).map fun j => (lane s a (k / 4 * 4 + j)).toNat).map FFmt.f32.snan)
            (FFmt.bf16.val ((lane s d (k / 32 * 32)).toNat % 2 ^ 16))).1 (k % 4))
        else if z = 1 then 0 else lane s d k) ∧
      (∀ r, r ≠ d → vreg u.core.ctx r = vreg s.core.ctx r) ∧
      u = modCtx s fun c => { c with v := u.core.ctx.v, vmode := u.core.ctx.vmode } := by
  have effect := effVcvt_encode (s := s) (d := d) (a := a) (m := m) (z := z)
  rw [verdictFree_pass (by simpa using verdictFree_groupMask.2 free)] at effect
  obtain ⟨u, completes, lanes, frame⟩ := writes_of_vecIssue (e := effVcvt d a 0 13 m z) (o := vecOps s 0 0) rfl starts effect
  refine ⟨u, completes, fun k hk => (lanes k hk).trans ?_, frame⟩
  split
  · next active => rw [encoded_group hk active, encodeGroup_eq]
  · rfl

theorem vcvt_encode_stops (starts : Starts (.vcvt d a 0 13 m z) s) (verdict : ¬ LiveFree s (mreg s.core.ctx m) a) :
    TrapsCounted (.vcvt d a 0 13 m z) s (Trap.of .verdictOperand) := by
  have effect := effVcvt_encode (s := s) (d := d) (a := a) (m := m) (z := z)
  rw [verdictFree_trap (r := a) (by simp) (verdict ∘ verdictFree_groupMask.1)] at effect
  exact traps_of_vecIssue (e := effVcvt d a 0 13 m z) (o := vecOps s 0 0) rfl starts effect

/-! From .q4e. -/

/-- The 16 bits that a lane's group of four holds. -/
def groupNat (s : State) (a : BitVec 5) (k : Nat) : Nat :=
  (List.range 4).foldl (fun n j => n + (lane s a (k / 4 * 4 + j)).toNat % 16 * 2 ^ (4 * j)) 0

/-- A live group holds a pattern that no encode gives. -/
def Conflicts (s : State) (act : BitVec 1024) (a : BitVec 5) : Prop :=
  ∃ k, k < 1024 ∧ GroupLive act k ∧ q4Decode (groupNat s a k) = none

theorem any_conflict {act : BitVec 1024} :
    ((liveGroups act).any fun g => (q4Decode (groupBits (vreg s.core.ctx a) g)).isNone) = true ↔ Conflicts s act a := by
  rw [List.any_eq_true]
  constructor
  · rintro ⟨g, listed, conflict⟩
    have bound : g < 256 := List.mem_range.1 (List.mem_of_mem_filter listed)
    have own : 4 * g / 4 = g := by omega
    refine ⟨4 * g, by omega, (mem_liveGroups (by omega)).1 (own.symm ▸ listed), ?_⟩
    rwa [groupNat, ← groupBits_eq, own, ← Option.isNone_iff_eq_none]
  · rintro ⟨k, hk, live, conflict⟩
    exact ⟨k / 4, (mem_liveGroups hk).2 live, by rw [groupBits_eq]; exact Option.isNone_iff_eq_none.2 conflict⟩

/-- The value that a decode gives a lane. -/
theorem decodeElt_eq {k : Nat} (decodes : q4Decode (groupNat s a k) ≠ none) :
    (decodeElt (vecOps s 0 0) (vreg s.core.ctx a) (vreg s.core.ctx d) k).1 =
      (roundTo .f32 ⟨RMode.ofBits (s.core.ctx.vmode.extractLsb' 0 2), false, s.core.ctx.vmode.getLsbD 2⟩
        (mulV (((q4Decode (groupNat s a k)).getD []).getD (k % 4) .nan)
          (FFmt.bf16.val (FFmt.bf16.flushSrc (s.core.ctx.vmode.getLsbD 2) ((lane s d (k / 32 * 32)).toNat % 2 ^ 16)))).1).1 := by
  obtain ⟨vs, found⟩ := Option.ne_none_iff_exists'.1 decodes
  unfold decodeElt
  rw [groupBits_eq, ← groupNat, found]
  rfl

theorem effVcvt_decode :
    effVcvt d a 13 0 m z (vecOps s 0 0) s = vecDone s (verdictFree (groupMask (mreg s.core.ctx m)) ([a].map (vreg s.core.ctx))
      (if (liveGroups (mreg s.core.ctx m)).any fun g => (q4Decode (groupBits (vreg s.core.ctx a) g)).isNone then
          .error (Trap.of .formatConflict)
        else .ok (setV s.core.ctx d (underMask (mreg s.core.ctx m) (z == 1) (vreg s.core.ctx d) fun k =>
            BitVec.ofNat 32 (decodeElt (vecOps s 0 0) (vreg s.core.ctx a) (vreg s.core.ctx d) k).1),
          maskFlags (groupMask (mreg s.core.ctx m)) fun k => (decodeElt (vecOps s 0 0) (vreg s.core.ctx a) (vreg s.core.ctx d) k).2))) := by
  unfold effVcvt
  dsimp only
  rw [if_neg (by decide), if_pos rfl]
  rfl

theorem vcvt_decodes (starts : Starts (.vcvt d a 13 0 m z) s) (free : LiveFree s (mreg s.core.ctx m) a)
    (decodes : ∀ k, k < 1024 → GroupLive (mreg s.core.ctx m) k → q4Decode (groupNat s a k) ≠ none) :
    ∃ u, Completes (.vcvt d a 13 0 m z) s u ∧
      (∀ k, k < 1024 → lane u d k = if (mreg s.core.ctx m).getLsbD k then BitVec.ofNat 32
          (roundTo .f32 ⟨RMode.ofBits (s.core.ctx.vmode.extractLsb' 0 2), false, s.core.ctx.vmode.getLsbD 2⟩
            (mulV (((q4Decode (groupNat s a k)).getD []).getD (k % 4) .nan)
              (FFmt.bf16.val (FFmt.bf16.flushSrc (s.core.ctx.vmode.getLsbD 2) ((lane s d (k / 32 * 32)).toNat % 2 ^ 16)))).1).1
        else if z = 1 then 0 else lane s d k) ∧
      (∀ r, r ≠ d → vreg u.core.ctx r = vreg s.core.ctx r) ∧
      u = modCtx s fun c => { c with v := u.core.ctx.v, vmode := u.core.ctx.vmode } := by
  have effect := effVcvt_decode (s := s) (d := d) (a := a) (m := m) (z := z)
  have agree : ¬ Conflicts s (mreg s.core.ctx m) a := fun ⟨k, hk, live, conflict⟩ => decodes k hk live conflict
  rw [verdictFree_pass (by simpa using verdictFree_groupMask.2 free), if_neg (agree ∘ any_conflict.1)] at effect
  obtain ⟨u, completes, lanes, frame⟩ := writes_of_vecIssue (e := effVcvt d a 13 0 m z) (o := vecOps s 0 0) rfl starts effect
  refine ⟨u, completes, fun k hk => (lanes k hk).trans ?_, frame⟩
  split
  · next active => rw [decodeElt_eq (decodes k hk (groupLive_of_active active))]
  · rfl

theorem vcvt_conflicts (starts : Starts (.vcvt d a 13 0 m z) s) (free : LiveFree s (mreg s.core.ctx m) a)
    (conflict : Conflicts s (mreg s.core.ctx m) a) : TrapsCounted (.vcvt d a 13 0 m z) s (Trap.of .formatConflict) := by
  have effect := effVcvt_decode (s := s) (d := d) (a := a) (m := m) (z := z)
  rw [verdictFree_pass (by simpa using verdictFree_groupMask.2 free), if_pos (any_conflict.2 conflict)] at effect
  exact traps_of_vecIssue (e := effVcvt d a 13 0 m z) (o := vecOps s 0 0) rfl starts effect

theorem vcvt_decode_stops (starts : Starts (.vcvt d a 13 0 m z) s) (verdict : ¬ LiveFree s (mreg s.core.ctx m) a) :
    TrapsCounted (.vcvt d a 13 0 m z) s (Trap.of .verdictOperand) := by
  have effect := effVcvt_decode (s := s) (d := d) (a := a) (m := m) (z := z)
  rw [verdictFree_trap (r := a) (by simp) (verdict ∘ verdictFree_groupMask.1)] at effect
  exact traps_of_vecIssue (e := effVcvt d a 13 0 m z) (o := vecOps s 0 0) rfl starts effect

end

/-! VSPLIT. -/

section

variable {s : State} {d a : BitVec 5} {m : BitVec 3} {z : BitVec 1}

/-- The lanes of a part. -/
def partLanes (s : State) (r a : BitVec 5) (m : BitVec 3) (z : BitVec 1) (part : Nat → Nat) : VReg :=
  underMask (mreg s.core.ctx m) (z == 1) (vreg s.core.ctx r) fun k => BitVec.ofNat 32 (part (lane s a k).toNat)

theorem partLanes_lane {r : BitVec 5} {part : Nat → Nat} {k : Nat} (hk : k < 1024) :
    (partLanes s r a m z part)[k]?.getD 0 =
      if (mreg s.core.ctx m).getLsbD k then BitVec.ofNat 32 (part (lane s a k).toNat) else if z = 1 then 0 else lane s r k :=
  (underMask_lane _ _ _ _ hk).trans (by simp only [beq_iff_eq, lane])

/-- The context with three registers written. -/
def threeWritten (c : Context) (d : BitVec 5) (x y w : VReg) : Context := setV (setV (setV c d x) (d + 1) y) (d + 2) w

theorem three_apart (d : BitVec 5) : d ≠ d + 1 ∧ d ≠ d + 2 ∧ d + 1 ≠ d + 2 := by
  revert d
  decide

section

variable (c : Context) (d : BitVec 5) (x y w : VReg)

theorem threeWritten_first : vreg (threeWritten c d x y w) d = x := by
  obtain ⟨h1, h2, _⟩ := three_apart d
  rw [threeWritten, vreg_setV_other _ _ _ _ h2, vreg_setV_other _ _ _ _ h1, vreg_setV_same]

theorem threeWritten_second : vreg (threeWritten c d x y w) (d + 1) = y := by
  obtain ⟨_, _, h12⟩ := three_apart d
  rw [threeWritten, vreg_setV_other _ _ _ _ h12, vreg_setV_same]

theorem threeWritten_third : vreg (threeWritten c d x y w) (d + 2) = w := vreg_setV_same ..

theorem threeWritten_other {r : BitVec 5} (h : r ≠ d) (h1 : r ≠ d + 1) (h2 : r ≠ d + 2) :
    vreg (threeWritten c d x y w) r = vreg c r := by
  rw [threeWritten, vreg_setV_other _ _ _ _ h2, vreg_setV_other _ _ _ _ h1, vreg_setV_other _ _ _ _ h]

theorem threeWritten_eq : threeWritten c d x y w = { c with v := (threeWritten c d x y w).v } := rfl

end

theorem effVsplit_eq :
    effVsplit d a m z (vecOps s 0 0) s = vecDone s (verdictFree (mreg s.core.ctx m) ([a].map (vreg s.core.ctx))
      (.ok (threeWritten s.core.ctx d (partLanes s d a m z fun x => (split3 x).1) (partLanes s (d + 1) a m z fun x => (split3 x).2.1)
          (partLanes s (d + 2) a m z fun x => (split3 x).2.2.1),
        maskFlags (mreg s.core.ctx m) fun k => (split3 (lane s a k).toNat).2.2.2))) := by
  obtain ⟨h1, h2, h12⟩ := three_apart d
  unfold effVsplit
  dsimp only
  rw [BitVec.add_zero, show BitVec.ofNat 5 1 = 1 from rfl, show BitVec.ofNat 5 2 = 2 from rfl]
  rw [vreg_setV_other _ _ _ _ h1.symm, vreg_setV_other _ _ _ _ h12.symm, vreg_setV_other _ _ _ _ h2.symm]
  rfl

/-- Where only vector registers were written, VMODE gathers the flags. -/
theorem vecState_flags {c : Context} {fl : Fl} (kept : c = { s.core.ctx with v := c.v }) :
    vecState s c fl = modCtx s fun x => { x with v := (vecState s c fl).core.ctx.v, vmode := fl.apply x.vmode } := by
  generalize c.v = x at kept
  subst kept
  rfl

theorem vsplit_splits (starts : Starts (.vsplit d a m z) s) (free : VerdictFree s (mreg s.core.ctx m) a) :
    ∃ u, Completes (.vsplit d a m z) s u ∧
      (∀ k, k < 1024 →
        lane u d k = (if (mreg s.core.ctx m).getLsbD k then BitVec.ofNat 32 (split3 (lane s a k).toNat).1
          else if z = 1 then 0 else lane s d k) ∧
        lane u (d + 1) k = (if (mreg s.core.ctx m).getLsbD k then BitVec.ofNat 32 (split3 (lane s a k).toNat).2.1
          else if z = 1 then 0 else lane s (d + 1) k) ∧
        lane u (d + 2) k = if (mreg s.core.ctx m).getLsbD k then BitVec.ofNat 32 (split3 (lane s a k).toNat).2.2.1
          else if z = 1 then 0 else lane s (d + 2) k) ∧
      (∀ r, r ≠ d → r ≠ d + 1 → r ≠ d + 2 → vreg u.core.ctx r = vreg s.core.ctx r) ∧
      u = modCtx s fun c => { c with
        v := u.core.ctx.v, vmode := (maskFlags (mreg s.core.ctx m) fun k => (split3 (lane s a k).toNat).2.2.2).apply c.vmode } := by
  have effect := effVsplit_eq (s := s) (d := d) (a := a) (m := m) (z := z)
  rw [verdictFree_pass (by simpa using free), vecDone_ok] at effect
  have completes := completes_of_vecIssue (e := effVsplit d a m z) (o := vecOps s 0 0) rfl starts effect
  refine ⟨_, completes, fun k hk => ⟨?_, ?_, ?_⟩, fun r h h1 h2 => ?_, vecState_flags (threeWritten_eq ..)⟩
  · exact (vecState_lane ..).trans (by rw [threeWritten_first, partLanes_lane hk])
  · exact (vecState_lane ..).trans (by rw [threeWritten_second, partLanes_lane hk])
  · exact (vecState_lane ..).trans (by rw [threeWritten_third, partLanes_lane hk])
  · exact (vecState_vreg ..).trans (threeWritten_other _ _ _ _ _ h h1 h2)

theorem vsplit_stops (starts : Starts (.vsplit d a m z) s) (verdict : ¬ VerdictFree s (mreg s.core.ctx m) a) :
    TrapsCounted (.vsplit d a m z) s (Trap.of .verdictOperand) := by
  have effect := effVsplit_eq (s := s) (d := d) (a := a) (m := m) (z := z)
  rw [verdictFree_trap (r := a) (by simp) verdict] at effect
  exact traps_of_vecIssue (e := effVsplit d a m z) (o := vecOps s 0 0) rfl starts effect

end

/-! VPACK and VUNPK. -/

section

variable {s : State} {d a t : BitVec 5} {m : BitVec 3} {z : BitVec 1}

/-- The formats of VPACK and VUNPK have 2, 4 or 8 elements in a lane (R157). -/
theorem packK_of_packOk (ok : packOk t = true) : packK t.toNat = 2 ∨ packK t.toNat = 4 ∨ packK t.toNat = 8 := by
  revert t
  decide

theorem foldl_add_eq_sum (g : Nat → Nat) (l : List Nat) : l.foldl (fun n j => n + g j) 0 = (l.map g).sum := by
  rw [List.sum_eq_foldl, List.foldl_map]

/-- The value that VPACK gives a lane. -/
def packedLane (s : State) (a t : BitVec 5) (k : Nat) : Nat :=
  if k % 64 < 64 / packK t.toNat then
    ((List.range (packK t.toNat)).map fun j =>
      (lane s a (k / 64 * 64 + packK t.toNat * (k % 64) + j)).toNat % 2 ^ codeWidth t.toNat * 2 ^ (codeWidth t.toNat * j)).sum
  else 0

theorem packLane_eq (k : Nat) : packLane (vreg s.core.ctx a) t.toNat k = packedLane s a t k := by
  unfold packLane packedLane
  dsimp only
  rw [foldl_add_eq_sum fun j => lowBits t.toNat (laneAt (vreg s.core.ctx a) (k / 64 * 64 + packK t.toNat * (k % 64) + j)) *
    2 ^ (codeWidth t.toNat * j)]
  rfl

/-- The lanes that VPACK reads. -/
def packRead (act : BitVec 1024) (n : Nat) : BitVec 1024 :=
  maskOf fun j => (List.range 16).any fun r => decide (j / 64 = r) && act.getLsbD (r * 64 + j % 64 / n)

theorem effVpack_eq :
    effVpack d a t m z (vecOps s 0 0) s = vecDone s (verdictFree (packRead (mreg s.core.ctx m) (packK t.toNat)) ([a].map (vreg s.core.ctx))
      (laneWise s d m z fun k => (BitVec.ofNat 32 (packedLane s a t k), {}))) := by
  unfold effVpack
  simp only [packLane_eq]
  rfl

theorem getLsbD_packRead {act : BitVec 1024} {n k j : Nat} (pieces : n = 2 ∨ n = 4 ∨ n = 8) (hk : k < 1024) (active : act.getLsbD k = true)
    (within : k % 64 < 64 / n) (hj : j < n) :
    k / 64 * 64 + n * (k % 64) + j < 1024 ∧ (packRead act n).getLsbD (k / 64 * 64 + n * (k % 64) + j) = true := by
  have source : k / 64 * 64 + n * (k % 64) + j < 1024 ∧ (k / 64 * 64 + n * (k % 64) + j) / 64 = k / 64 ∧
      (k / 64 * 64 + n * (k % 64) + j) % 64 / n = k % 64 := by
    rcases pieces with rfl | rfl | rfl <;> omega
  obtain ⟨bound, row, piece⟩ := source
  refine ⟨bound, ?_⟩
  rw [packRead, getLsbD_maskOf _ bound, List.any_eq_true]
  refine ⟨k / 64, List.mem_range.2 (by omega), ?_⟩
  rw [row, piece, show k / 64 * 64 + k % 64 = k by omega, active, decide_eq_true rfl, Bool.and_self]

/-- Where no lane at all is a verdict word, no lane read is. -/
theorem verdictFree_of_all {act : BitVec 1024} (free : VerdictFree s (BitVec.allOnes 1024) a) : VerdictFree s act a :=
  fun k hk _ => free k hk (by rw [BitVec.getLsbD_allOnes]; exact decide_eq_true hk)

theorem vpack_packs (starts : Starts (.vpack d a t m z) s) (free : VerdictFree s (BitVec.allOnes 1024) a) :
    LaneWise (.vpack d a t m z) s d (mreg s.core.ctx m) z fun k => (BitVec.ofNat 32 (packedLane s a t k), {}) := by
  have effect := effVpack_eq (s := s) (d := d) (a := a) (t := t) (m := m) (z := z)
  rw [verdictFree_pass (by simpa using verdictFree_of_all free)] at effect
  exact laneWise_of_vecIssue (e := effVpack d a t m z) (o := vecOps s 0 0) rfl starts effect

theorem vpack_stops (starts : Starts (.vpack d a t m z) s) {k j : Nat} (hk : k < 1024) (active : (mreg s.core.ctx m).getLsbD k = true)
    (within : k % 64 < 64 / packK t.toNat) (hj : j < packK t.toNat)
    (verdict : isVerdict (lane s a (k / 64 * 64 + packK t.toNat * (k % 64) + j)) = true) :
    TrapsCounted (.vpack d a t m z) s (Trap.of .verdictOperand) := by
  obtain ⟨bound, read⟩ := getLsbD_packRead (packK_of_packOk starts.2.2) hk active within hj
  have effect := effVpack_eq (s := s) (d := d) (a := a) (t := t) (m := m) (z := z)
  rw [verdictFree_trap (r := a) (by simp) (not_verdictFree bound read verdict)] at effect
  exact traps_of_vecIssue (e := effVpack d a t m z) (o := vecOps s 0 0) rfl starts effect

/-- The value that VUNPK gives a lane. -/
def unpackedLane (s : State) (a t : BitVec 5) (k : Nat) : Nat :=
  (lane s a (k / 64 * 64 + k % 64 / packK t.toNat)).toNat / 2 ^ (codeWidth t.toNat * (k % 64 % packK t.toNat)) % 2 ^ codeWidth t.toNat

/-- The lanes that VUNPK reads. -/
def unpackRead (act : BitVec 1024) (n : Nat) : BitVec 1024 :=
  maskOf fun j => (List.range n).any fun p => act.getLsbD (j / 64 * 64 + (j % 64 * n + p)) && decide (j % 64 * n + p < 64)

theorem effVunpk_eq :
    effVunpk d a t m z (vecOps s 0 0) s = vecDone s (verdictFree (unpackRead (mreg s.core.ctx m) (packK t.toNat)) ([a].map (vreg s.core.ctx))
      (laneWise s d m z fun k => (BitVec.ofNat 32 (unpackedLane s a t k), {}))) := by
  unfold effVunpk unpackedLane
  simp only [eltOf, Nat.mul_comm (codeWidth t.toNat)]
  rfl

theorem getLsbD_unpackRead {act : BitVec 1024} {n k : Nat} (pieces : n = 2 ∨ n = 4 ∨ n = 8) (hk : k < 1024) (active : act.getLsbD k = true) :
    k / 64 * 64 + k % 64 / n < 1024 ∧ (unpackRead act n).getLsbD (k / 64 * 64 + k % 64 / n) = true := by
  have source : k / 64 * 64 + k % 64 / n < 1024 ∧ (k / 64 * 64 + k % 64 / n) / 64 = k / 64 ∧
      (k / 64 * 64 + k % 64 / n) % 64 * n + k % 64 % n = k % 64 ∧ k % 64 % n < n := by
    rcases pieces with rfl | rfl | rfl <;> omega
  obtain ⟨bound, row, piece, within⟩ := source
  refine ⟨bound, ?_⟩
  rw [unpackRead, getLsbD_maskOf _ bound, List.any_eq_true]
  refine ⟨k % 64 % n, List.mem_range.2 within, ?_⟩
  rw [row, piece, show k / 64 * 64 + k % 64 = k by omega, active, decide_eq_true (Nat.mod_lt k (by decide)), Bool.and_self]

theorem vunpk_unpacks (starts : Starts (.vunpk d a t m z) s) (free : VerdictFree s (BitVec.allOnes 1024) a) :
    LaneWise (.vunpk d a t m z) s d (mreg s.core.ctx m) z fun k => (BitVec.ofNat 32 (unpackedLane s a t k), {}) := by
  have effect := effVunpk_eq (s := s) (d := d) (a := a) (t := t) (m := m) (z := z)
  rw [verdictFree_pass (by simpa using verdictFree_of_all free)] at effect
  exact laneWise_of_vecIssue (e := effVunpk d a t m z) (o := vecOps s 0 0) rfl starts effect

theorem vunpk_stops (starts : Starts (.vunpk d a t m z) s) {k : Nat} (hk : k < 1024) (active : (mreg s.core.ctx m).getLsbD k = true)
    (verdict : isVerdict (lane s a (k / 64 * 64 + k % 64 / packK t.toNat)) = true) :
    TrapsCounted (.vunpk d a t m z) s (Trap.of .verdictOperand) := by
  obtain ⟨bound, read⟩ := getLsbD_unpackRead (packK_of_packOk starts.2.2) hk active
  have effect := effVunpk_eq (s := s) (d := d) (a := a) (t := t) (m := m) (z := z)
  rw [verdictFree_trap (r := a) (by simp) (not_verdictFree bound read verdict)] at effect
  exact traps_of_vecIssue (e := effVunpk d a t m z) (o := vecOps s 0 0) rfl starts effect

end

end Sys2Proof.VectorConversions

/-! SUPPORT. Rounding a quotient to .f32 (R37), for O20: the logarithm, the scale and the rounding to an integer as rationals, and the
value of the pattern that comes out. -/

namespace Sys2Proof.QuotientRounding

open Sys2Proof.Machine Sys2Proof.Rounding

/-- The value n / d × 2^e. -/
def ratio (n d : Nat) (e : Int) : ℚ := n / d * 2 ^ e

theorem two_zpow_pos (e : Int) : (0 : ℚ) < 2 ^ e := zpow_pos (by norm_num) e

theorem cast_shiftLeft (n : Nat) {s : Int} (h : 0 ≤ s) : ((n <<< s.toNat : Nat) : ℚ) = n * 2 ^ s := by
  rw [Nat.shiftLeft_eq, Nat.cast_mul, Nat.cast_pow, Nat.cast_ofNat, ← zpow_natCast, Int.toNat_of_nonneg h]

theorem ratio_add (n d : Nat) (e s : Int) : ratio n d (e + s) = ratio n d e * 2 ^ s := by
  rw [ratio, ratio, mul_assoc, zpow_add₀ (by norm_num)]

/-! Scale. -/

section

variable {n d : Nat} (hd : d ≠ 0)

include hd

theorem ratScale_den (n : Nat) (s : Int) : (ratScale n d s).2 ≠ 0 := by
  unfold ratScale
  split
  · exact hd
  · simpa [Nat.shiftLeft_eq] using hd

omit hd in
theorem ratScale_ratio (n : Nat) (s : Int) : ((ratScale n d s).1 : ℚ) / (ratScale n d s).2 = ratio n d s := by
  unfold ratScale ratio
  split
  · next h => rw [cast_shiftLeft n h, mul_div_right_comm]
  · next h =>
    rw [cast_shiftLeft d (by omega), zpow_neg, div_mul_eq_div_div, div_inv_eq_mul]

/-! The logarithm. -/

/-- The test of `ratLog2` compares with a power of two. -/
theorem ratLog2_test (n : Nat) (l : Int) :
    (if 0 ≤ l then decide (d <<< l.toNat ≤ n) else decide (d ≤ n <<< (-l).toNat)) = true ↔ (2 : ℚ) ^ l ≤ n / d := by
  have pos : (0 : ℚ) < d := by exact_mod_cast Nat.pos_of_ne_zero hd
  rw [le_div_iff₀ pos]
  split
  · next h => rw [decide_eq_true_iff, ← Nat.cast_le (α := ℚ), cast_shiftLeft d h, mul_comm]
  · next h =>
    rw [decide_eq_true_iff, ← Nat.cast_le (α := ℚ), cast_shiftLeft n (by omega), zpow_neg, ← div_eq_mul_inv,
      le_div_iff₀ (two_zpow_pos l), mul_comm]

theorem ratLog2_spec (hn : n ≠ 0) : (2 : ℚ) ^ ratLog2 n d ≤ n / d ∧ (n / d : ℚ) < 2 ^ (ratLog2 n d + 1) := by
  have pos : (0 : ℚ) < d := by exact_mod_cast Nat.pos_of_ne_zero hd
  have low (x : Nat) (hx : x ≠ 0) : (2 : ℚ) ^ (x.log2 : Int) ≤ x := by
    rw [zpow_natCast]
    exact_mod_cast Nat.log2_self_le hx
  have high (x : Nat) : (x : ℚ) < 2 ^ ((x.log2 : Int) + 1) := by
    rw [← Nat.cast_succ, zpow_natCast]
    exact_mod_cast Nat.lt_log2_self
  have below : (2 : ℚ) ^ ((n.log2 : Int) - d.log2 - 1) ≤ n / d := by
    rw [le_div_iff₀ pos]
    calc (2 : ℚ) ^ ((n.log2 : Int) - d.log2 - 1) * d
      _ ≤ 2 ^ ((n.log2 : Int) - d.log2 - 1) * 2 ^ ((d.log2 : Int) + 1) :=
        mul_le_mul_of_nonneg_left (high d).le (two_zpow_pos _).le
      _ = 2 ^ (n.log2 : Int) := by rw [← zpow_add₀ (by norm_num)]; congr 1; ring
      _ ≤ n := low n hn
  have above : (n / d : ℚ) < 2 ^ ((n.log2 : Int) - d.log2 + 1) := by
    rw [div_lt_iff₀ pos]
    calc (n : ℚ)
      _ < 2 ^ ((n.log2 : Int) + 1) := high n
      _ = 2 ^ ((n.log2 : Int) - d.log2 + 1) * 2 ^ (d.log2 : Int) := by rw [← zpow_add₀ (by norm_num)]; congr 1; ring
      _ ≤ 2 ^ ((n.log2 : Int) - d.log2 + 1) * d := mul_le_mul_of_nonneg_left (low d hd) (two_zpow_pos _).le
  by_cases test : (2 : ℚ) ^ ((n.log2 : Int) - d.log2) ≤ n / d
  · have log : ratLog2 n d = (n.log2 : Int) - d.log2 := if_pos ((ratLog2_test hd n _).2 test)
    rw [log]
    exact ⟨test, above⟩
  · have log : ratLog2 n d = (n.log2 : Int) - d.log2 - 1 := if_neg (test ∘ (ratLog2_test hd n _).1)
    rw [log, sub_add_cancel]
    exact ⟨below, not_le.1 test⟩

theorem ratLog2_zero : ratLog2 0 d < 0 := by
  have test : ¬ (2 : ℚ) ^ (((0 : Nat).log2 : Int) - d.log2) ≤ (0 : Nat) / d := by
    rw [Nat.cast_zero, zero_div]
    exact not_le.2 (two_zpow_pos _)
  have log : ratLog2 0 d = ((0 : Nat).log2 : Int) - d.log2 - 1 := if_neg (test ∘ (ratLog2_test hd 0 _).1)
  rw [log, Nat.log2_zero]
  omega

/-- A quotient below 2 has a logarithm of at most zero. -/
theorem ratLog2_nonpos (h : n ≤ d) : ratLog2 n d ≤ 0 := by
  rcases eq_or_ne n 0 with rfl | hn
  · exact (ratLog2_zero hd).le
  · have pos : (0 : ℚ) < d := by exact_mod_cast Nat.pos_of_ne_zero hd
    have one : (2 : ℚ) ^ ratLog2 n d ≤ 2 ^ (0 : Int) := by
      refine (ratLog2_spec hd hn).1.trans ?_
      rw [zpow_zero, div_le_one pos]
      exact_mod_cast h
    exact (zpow_le_zpow_iff_right₀ (by norm_num)).1 one

/-! To the nearest integer. -/

theorem quantize_error (n : Nat) (neg : Bool) : |((quantize .rne neg n d).1 : ℚ) - n / d| ≤ 1 / 2 := by
  have pos : (0 : ℚ) < d := by exact_mod_cast Nat.pos_of_ne_zero hd
  have parts : (n / d : ℚ) = (n / d : Nat) + (n % d : Nat) / d := by
    rw [← mul_div_cancel_left₀ ((n / d : Nat) : ℚ) pos.ne', ← add_div]
    exact congrArg (fun x : ℚ => x / d) (by exact_mod_cast (Nat.div_add_mod n d).symm)
  have less : ((n % d : Nat) : ℚ) / d ≤ 1 := by
    rw [div_le_one pos]
    exact_mod_cast (Nat.mod_lt n (Nat.pos_of_ne_zero hd)).le
  have more : (0 : ℚ) ≤ ((n % d : Nat) : ℚ) / d := by positivity
  rw [parts]
  simp only [quantize]
  split
  · next up =>
    have half : (1 / 2 : ℚ) ≤ ((n % d : Nat) : ℚ) / d := by
      have twice : d ≤ 2 * (n % d) := by
        simp only [Bool.or_eq_true, Bool.and_eq_true, decide_eq_true_eq] at up
        omega
      rw [le_div_iff₀ pos]
      have : (d : ℚ) ≤ 2 * (n % d : Nat) := by exact_mod_cast twice
      linarith
    rw [abs_le]
    push_cast at *
    constructor <;> linarith
  · next up =>
    have half : ((n % d : Nat) : ℚ) / d ≤ 1 / 2 := by
      have twice : 2 * (n % d) ≤ d := by
        simp only [Bool.or_eq_true, Bool.and_eq_true, decide_eq_true_eq] at up
        omega
      rw [div_le_iff₀ pos]
      have : (2 : ℚ) * (n % d : Nat) ≤ d := by exact_mod_cast twice
      linarith
    rw [abs_le]
    constructor <;> linarith

end

/-- A natural within a half of a rational lies on the same side of every natural. -/
theorem nearest_le {k j : Nat} {x : ℚ} (near : |(k : ℚ) - x| ≤ 1 / 2) (le : x ≤ j) : k ≤ j := by
  have above := (abs_le.1 near).2
  have : (k : ℚ) < j + 1 := by linarith
  exact Nat.lt_succ_iff.1 (by exact_mod_cast this)

theorem le_nearest {k j : Nat} {x : ℚ} (near : |(k : ℚ) - x| ≤ 1 / 2) (le : (j : ℚ) ≤ x) : j ≤ k := by
  have below := (abs_le.1 near).1
  have : (j : ℚ) < k + 1 := by linarith
  exact Nat.lt_succ_iff.1 (by exact_mod_cast this)

/-! To .f32. -/

section

variable {n d : Nat} {e : Int}

/-- The exponent of the last place that a quotient rounded to .f32 keeps. -/
def lastPlace (n d : Nat) (e : Int) : Int := max (ratLog2 n d + e) (-126) - 23

/-- The last places of the rounded magnitude. -/
def places (neg : Bool) (n d : Nat) (e : Int) : Nat :=
  (quantize .rne neg (ratScale n d (e - lastPlace n d e)).1 (ratScale n d (e - lastPlace n d e)).2).1

/-- The magnitude bits of the rounded quotient. -/
def roundedMag (neg : Bool) (n d : Nat) (e : Int) : Nat := places neg n d e + (lastPlace n d e + 149).toNat * 2 ^ 23

/-- The quotient is zero only below the normal values. -/
def Rounds (n d : Nat) (e : Int) : Prop := d ≠ 0 ∧ (n ≠ 0 ∨ e ≤ -125)

theorem lastPlace_ge (n d : Nat) (e : Int) : -149 ≤ lastPlace n d e := by
  unfold lastPlace
  omega

theorem ratio_lt (hd : d ≠ 0) : ratio n d e < 2 ^ (lastPlace n d e + 24) := by
  rcases eq_or_ne n 0 with rfl | hn
  · rw [ratio, Nat.cast_zero, zero_div, zero_mul]
    exact two_zpow_pos _
  · calc ratio n d e
      _ < 2 ^ (ratLog2 n d + 1) * 2 ^ e := mul_lt_mul_of_pos_right (ratLog2_spec hd hn).2 (two_zpow_pos e)
      _ = 2 ^ (ratLog2 n d + 1 + e) := (zpow_add₀ (by norm_num) _ _).symm
      _ ≤ 2 ^ (lastPlace n d e + 24) := zpow_le_zpow_right₀ (by norm_num) (by unfold lastPlace; omega)

theorem le_ratio (rounds : Rounds n d e) (normal : -149 < lastPlace n d e) : 2 ^ (lastPlace n d e + 23) ≤ ratio n d e := by
  obtain ⟨hd, nonzero⟩ := rounds
  have hn : n ≠ 0 := by
    rintro rfl
    have log := ratLog2_zero hd
    unfold lastPlace at normal
    omega
  calc (2 : ℚ) ^ (lastPlace n d e + 23)
    _ = 2 ^ (ratLog2 n d + e) := by
      congr 1
      unfold lastPlace at *
      omega
    _ = 2 ^ ratLog2 n d * 2 ^ e := zpow_add₀ (by norm_num) _ _
    _ ≤ ratio n d e := mul_le_mul_of_nonneg_right (ratLog2_spec hd hn).1 (two_zpow_pos e).le

theorem ratio_scaled (n d : Nat) (e s : Int) : ratio n d (e - s) = ratio n d e / 2 ^ s := by
  rw [sub_eq_add_neg, ratio_add, zpow_neg, div_eq_mul_inv]

theorem places_near (neg : Bool) (hd : d ≠ 0) : |(places neg n d e : ℚ) - ratio n d e / 2 ^ lastPlace n d e| ≤ 1 / 2 := by
  rw [← ratio_scaled, ← ratScale_ratio]
  exact quantize_error (ratScale_den hd _ _) _ _

theorem places_error (neg : Bool) (hd : d ≠ 0) :
    |(places neg n d e : ℚ) * 2 ^ lastPlace n d e - ratio n d e| ≤ 2 ^ (lastPlace n d e - 1) := by
  have pos := two_zpow_pos (lastPlace n d e)
  have scaled : (places neg n d e : ℚ) * 2 ^ lastPlace n d e - ratio n d e =
      (places neg n d e - ratio n d e / 2 ^ lastPlace n d e) * 2 ^ lastPlace n d e := by
    rw [sub_mul, div_mul_cancel₀ _ pos.ne']
  rw [scaled, abs_mul, abs_of_pos pos, zpow_sub_one₀ (by norm_num), mul_comm, ← one_div]
  exact mul_le_mul_of_nonneg_left (places_near neg hd) pos.le

theorem places_le (neg : Bool) (hd : d ≠ 0) : places neg n d e ≤ 2 ^ 24 := by
  refine nearest_le (places_near neg hd) ?_
  rw [div_le_iff₀ (two_zpow_pos _)]
  refine (ratio_lt hd).le.trans_eq ?_
  rw [zpow_add₀ (by norm_num), mul_comm]
  norm_cast

theorem le_places (neg : Bool) (rounds : Rounds n d e) (normal : -149 < lastPlace n d e) : 2 ^ 23 ≤ places neg n d e := by
  refine le_nearest (places_near neg rounds.1) ?_
  rw [le_div_iff₀ (two_zpow_pos _)]
  refine Eq.trans_le ?_ (le_ratio rounds normal)
  rw [zpow_add₀ (by norm_num), mul_comm]
  norm_cast

/-- A quotient of at most the largest finite magnitude rounds to a finite one. -/
theorem roundedMag_le (neg : Bool) (rounds : Rounds n d e) (finite : ratio n d e ≤ 2 ^ 128 - 2 ^ 104) :
    roundedMag neg n d e ≤ FFmt.f32.maxMag := by
  have most := places_le (n := n) (e := e) neg rounds.1
  have largest : FFmt.f32.maxMag = 2139095039 := rfl
  rw [largest, roundedMag]
  rcases lt_trichotomy (lastPlace n d e) 104 with below | at_ | above
  · omega
  · have fewer : places neg n d e ≤ 2 ^ 24 - 1 := by
      refine nearest_le (places_near neg rounds.1) ?_
      rw [at_, div_le_iff₀ (two_zpow_pos _)]
      refine finite.trans (le_of_eq ?_)
      norm_num
    omega
  · have large := (le_ratio rounds (by omega)).trans finite
    have larger : (2 : ℚ) ^ (128 : Int) ≤ 2 ^ (lastPlace n d e + 23) := zpow_le_zpow_right₀ (by norm_num) (by omega)
    have absurd_ := larger.trans large
    norm_num at absurd_

/-- A finite rounded magnitude takes the sign. -/
theorem roundRat_finite {f : FFmt} {mode : RMode} {sat neg : Bool} {mag : Nat} (finite : mag ≤ f.maxMag)
    (count : (quantize mode neg (ratScale n d (e - (max (ratLog2 n d + e) f.emin - f.frac))).1
        (ratScale n d (e - (max (ratLog2 n d + e) f.emin - f.frac))).2).1 +
      (max (ratLog2 n d + e) f.emin - f.emin).toNat * 2 ^ f.frac = mag) :
    (roundRat f ⟨mode, sat, false⟩ neg n d e).1 = withSign f neg mag := by
  simp only [roundRat, count, if_neg (Nat.not_lt.2 finite), Bool.false_and, Bool.false_eq_true, if_false]

theorem roundRat_bits (neg : Bool) (finite : roundedMag neg n d e ≤ FFmt.f32.maxMag) :
    (roundRat .f32 .rne neg n d e).1 = withSign .f32 neg (roundedMag neg n d e) := by
  have frac : FFmt.f32.frac = 23 := rfl
  have smallest : FFmt.f32.emin = -126 := rfl
  refine roundRat_finite finite ?_
  rw [frac, smallest, roundedMag, places, lastPlace]
  congr 3
  omega

/-- The value of a finite pattern with its sign. -/
theorem val_withSign {neg : Bool} {mag : Nat} (finite : mag ≤ FFmt.f32.maxMag) :
    ∃ m e, FFmt.f32.val (withSign .f32 neg mag) = .fin neg m e ∧ OnGrid .f32 m e mag ∧ withSign .f32 neg mag < 2 ^ 32 := by
  have largest : FFmt.f32.maxMag = 2139095039 := rfl
  have weight : FFmt.f32.signBit = 2147483648 := rfl
  rw [largest] at finite
  have parts : withSign .f32 neg mag % FFmt.f32.signBit = mag ∧ decide (withSign .f32 neg mag / FFmt.f32.signBit % 2 = 1) = neg ∧
      withSign .f32 neg mag < 2 ^ 32 := by
    rw [withSign_finite neg (by rw [largest]; exact finite), weight]
    cases neg
    · simp only [Bool.false_eq_true, if_false, decide_eq_false_iff_not]
      omega
    · simp only [if_true, decide_eq_true_iff]
      omega
  obtain ⟨low, sign, bound⟩ := parts
  obtain ⟨m, e, value, grid⟩ := val_onGrid (f := .f32) (bits := withSign .f32 neg mag) (by rw [low, largest]; exact finite)
  rw [low] at grid
  rw [sign] at value
  exact ⟨m, e, value, grid, bound⟩

/-- What a value of the grid with these bits is: as many places, or half as many of twice the weight. -/
theorem onGrid_places {m k : Nat} {e u : Int} (grid : OnGrid .f32 m e (k + (u + 149).toNat * 2 ^ 23)) (least : -149 ≤ u) (most : k ≤ 2 ^ 24)
    (normal : -149 < u → 2 ^ 23 ≤ k) : m = k ∧ e = u ∨ m = 2 ^ 23 ∧ k = 2 ^ 24 ∧ e = u + 1 := by
  obtain ⟨place, count⟩ := grid
  have smallest : FFmt.f32.emin = -126 := rfl
  have frac : FFmt.f32.frac = 23 := rfl
  rw [smallest, frac] at place count
  have log : m.log2 ≤ 23 := by omega
  have upper : m < 2 ^ 24 := Nat.lt_log2_self.trans_le (Nat.pow_le_pow_right (by decide) (by omega))
  have lower (large : -149 < e) : 2 ^ 23 ≤ m := by
    have exact_ : m.log2 = 23 := by omega
    have nonzero : m ≠ 0 := by
      rintro rfl
      simp at exact_
    exact exact_ ▸ Nat.log2_self_le nonzero
  omega

/-- The value of a quotient rounded to .f32. -/
theorem roundRat_value (neg : Bool) (rounds : Rounds n d e) (finite : ratio n d e ≤ 2 ^ 128 - 2 ^ 104) :
    ∃ m e', FFmt.f32.val (roundRat .f32 .rne neg n d e).1 = .fin neg m e' ∧ (m : ℚ) * 2 ^ e' = places neg n d e * 2 ^ lastPlace n d e ∧
      lastPlace n d e ≤ e' ∧ (roundRat .f32 .rne neg n d e).1 < 2 ^ 32 := by
  have small := roundedMag_le neg rounds finite
  obtain ⟨m, e', value, grid, bound⟩ := val_withSign (neg := neg) small
  rw [← roundRat_bits neg small] at value bound
  refine ⟨m, e', value, ?_, ?_, bound⟩
  all_goals rcases onGrid_places grid (lastPlace_ge n d e) (places_le neg rounds.1) (le_places neg rounds) with ⟨hm, he⟩ | ⟨hm, hk, he⟩
  · rw [hm, he]
  · rw [hm, hk, he, zpow_add_one₀ (by norm_num)]
    push_cast
    ring
  · omega
  · omega

end

end Sys2Proof.QuotientRounding

/-! SUPPORT. The results of a function with a reference (R158, log entry 3), for O20. -/

namespace Sys2Proof.AccurateResults

open Sys2Proof.Machine Sys2Proof.Rounding Sys2Proof.QuotientRounding

/-! Within the accuracy, as rationals. -/

/-- What an accuracy counts. -/
def unitOf (r : Ref) : Accuracy → Int
  | .ulp _ => max (ratLog2 r.n r.d + r.e) FFmt.f32.emin - 23
  | .abs n => -(n : Int)

/-- How many of it the accuracy allows. -/
def tolerance : Accuracy → Nat
  | .ulp n => n
  | .abs _ => 1

/-- The exponent that `within` compares at. -/
def compareAt (r : Ref) (acc : Accuracy) (e : Int) : Int := min (min r.e e) (unitOf r acc)

section

variable {r : Ref} {acc : Accuracy} {bits m : Nat} {e : Int}

theorem within_eq {neg : Bool} (value : FFmt.f32.val bits = .fin neg m e) :
    within r acc bits = decide ((r.scaled (compareAt r acc e) - scaledInt neg m e (compareAt r acc e) * r.d).natAbs ≤
      (tolerance acc * r.d) <<< (unitOf r acc - compareAt r acc e).toNat) := by
  unfold within
  rw [value]
  cases acc <;> rfl

/-- The difference of two numbers of one sign. -/
theorem natAbs_signed (neg : Bool) (x y d : Nat) :
    ((if neg then -(x : Int) else x) - (if neg then -(y : Int) else y) * d).natAbs = ((x : Int) - y * d).natAbs := by
  cases neg
  · rfl
  · simp only [if_true]
    rw [← Int.natAbs_neg]
    congr 1
    ring

theorem within_of_near (hd : r.d ≠ 0) (value : FFmt.f32.val bits = .fin r.neg m e)
    (near : |(m : ℚ) * 2 ^ e - ratio r.n r.d r.e| ≤ tolerance acc * 2 ^ unitOf r acc) : within r acc bits = true := by
  set q := compareAt r acc e with hq
  have below : q ≤ r.e ∧ q ≤ e ∧ q ≤ unitOf r acc := by
    rw [hq, compareAt]
    omega
  obtain ⟨belowRef, belowValue, belowUnit⟩ := below
  have pos : (0 : ℚ) < r.d := by exact_mod_cast Nat.pos_of_ne_zero hd
  have scale := two_zpow_pos q
  rw [within_eq value, ← hq, decide_eq_true_iff, Ref.scaled, scaledInt, natAbs_signed, ← Nat.cast_le (α := ℚ), Nat.cast_natAbs,
    cast_shiftLeft _ (by omega)]
  have left : ((r.n <<< (r.e - q).toNat : Nat) : ℚ) = r.n * 2 ^ r.e / 2 ^ q := by
    rw [cast_shiftLeft _ (by omega), zpow_sub₀ (by norm_num), mul_div_assoc]
  have right : ((m <<< (e - q).toNat : Nat) : ℚ) = m * 2 ^ e / 2 ^ q := by
    rw [cast_shiftLeft _ (by omega), zpow_sub₀ (by norm_num), mul_div_assoc]
  rw [Int.cast_abs, Int.cast_sub, Int.cast_mul, Int.cast_natCast, Int.cast_natCast, Int.cast_natCast, left, right,
    zpow_sub₀ (by norm_num)]
  have same : (r.n : ℚ) * 2 ^ r.e / 2 ^ q - m * 2 ^ e / 2 ^ q * r.d = -((m * 2 ^ e - ratio r.n r.d r.e) * (r.d / 2 ^ q)) := by
    rw [ratio]
    field_simp
    ring
  rw [same, abs_neg, abs_mul, abs_of_pos (div_pos pos scale)]
  calc |(m : ℚ) * 2 ^ e - ratio r.n r.d r.e| * (r.d / 2 ^ q)
    _ ≤ tolerance acc * 2 ^ unitOf r acc * (r.d / 2 ^ q) := mul_le_mul_of_nonneg_right near (div_pos pos scale).le
    _ = ((tolerance acc * r.d : Nat) : ℚ) * (2 ^ unitOf r acc / 2 ^ q) := by
      push_cast
      ring

/-- A reference that rounding serves: where an ulp is its unit, or where its magnitude is below 2 and a tolerance of at least 2^-24 is. -/
def Serves (r : Ref) : Accuracy → Prop
  | .ulp n => n ≠ 0
  | .abs n => n ≤ 24 ∧ ratLog2 r.n r.d + r.e ≤ 0

theorem unit_allows (serves : Serves r acc) : (2 : ℚ) ^ (lastPlace r.n r.d r.e - 1) ≤ tolerance acc * 2 ^ unitOf r acc := by
  cases acc with
  | ulp n =>
    have one : (1 : ℚ) ≤ n := by exact_mod_cast Nat.one_le_iff_ne_zero.2 serves
    calc (2 : ℚ) ^ (lastPlace r.n r.d r.e - 1)
      _ ≤ 2 ^ lastPlace r.n r.d r.e := zpow_le_zpow_right₀ (by norm_num) (by omega)
      _ ≤ n * 2 ^ lastPlace r.n r.d r.e := le_mul_of_one_le_left (two_zpow_pos _).le one
  | abs n =>
    obtain ⟨fine, small⟩ := serves
    rw [tolerance, unitOf, Nat.cast_one, one_mul]
    exact zpow_le_zpow_right₀ (by norm_num) (by unfold lastPlace; omega)

/-- The rounded reference lies within the accuracy. -/
theorem within_rounded (rounds : Rounds r.n r.d r.e) (finite : ratio r.n r.d r.e ≤ 2 ^ 128 - 2 ^ 104) (serves : Serves r acc) :
    within r acc (roundRat .f32 .rne r.neg r.n r.d r.e).1 = true ∧ (roundRat .f32 .rne r.neg r.n r.d r.e).1 < 2 ^ 32 := by
  obtain ⟨m, e, value, rounded, -, bound⟩ := roundRat_value r.neg rounds finite
  refine ⟨within_of_near rounds.1 value ?_, bound⟩
  rw [rounded]
  exact (places_error r.neg rounds.1).trans (unit_allows serves)

end

/-! The result. -/

/-- A result as a lane takes it. -/
def asLane (x : Nat × Fl) : BitVec 32 × Fl := (BitVec.ofNat 32 x.1, x.2)

theorem asLane_toNat {x : Nat} {fl : Fl} (bound : x < 2 ^ 32) : (asLane (x, fl)).1.toNat = x := by
  rw [asLane, BitVec.toNat_ofNat]
  exact Nat.mod_eq_of_lt bound

/-- The results that R158 allows for a reference. -/
def Fits (ftz : Bool) (o : BitVec 32 × Fl) (r : Ref) (acc : Accuracy) : Prop :=
  if (2 ^ 128 - 2 ^ 104) * (ratScale r.n r.d r.e).2 < (ratScale r.n r.d r.e).1 then
    o = (if r.neg then 0xFF800000 else 0x7F800000, { ovf := true })
  else ∃ v : BitVec 32, within r acc v.toNat = true ∧
    o = if ftz && FFmt.f32.subnormal v.toNat then (BitVec.ofNat 32 (v.toNat / 2 ^ 31 * 2 ^ 31), { uf := true }) else (v, {})

/-- The largest finite magnitude bounds a reference that does not overflow. -/
theorem ratio_finite {n d : Nat} {e : Int} (hd : d ≠ 0) (finite : (ratScale n d e).1 ≤ (2 ^ 128 - 2 ^ 104) * (ratScale n d e).2) :
    ratio n d e ≤ 2 ^ 128 - 2 ^ 104 := by
  have pos : (0 : ℚ) < (ratScale n d e).2 := by exact_mod_cast Nat.pos_of_ne_zero (ratScale_den hd n e)
  rw [← ratScale_ratio, div_le_iff₀ pos]
  have cast : ((ratScale n d e).1 : ℚ) ≤ ((2 ^ 128 - 2 ^ 104 : Nat) : ℚ) * (ratScale n d e).2 := by exact_mod_cast finite
  refine cast.trans_eq ?_
  norm_num

theorem accurate_fits {fresh src : Nat} {fn : BitVec 7} {ftz : Bool} {r : Ref} {acc : Accuracy} (rounds : Rounds r.n r.d r.e)
    (serves : Serves r acc) : Fits ftz (asLane (accurate fresh fn src ftz r acc)) r acc := by
  unfold Fits accurate
  dsimp only
  by_cases overflow : (2 ^ 128 - 2 ^ 104) * (ratScale r.n r.d r.e).2 < (ratScale r.n r.d r.e).1
  · rw [if_pos overflow, if_pos overflow]
    cases r.neg <;> rfl
  · rw [if_neg overflow, if_neg overflow]
    obtain ⟨rounded, bound⟩ := within_rounded rounds (ratio_finite rounds.1 (Nat.not_lt.1 overflow)) serves
    set free := (Config.freeUlp fresh fn (BitVec.ofNat 32 src)).toNat with chosen
    set res := if within r acc free then free else (roundRat .f32 .rne r.neg r.n r.d r.e).1 with result
    have allowed : within r acc res = true ∧ res < 2 ^ 32 := by
      by_cases fits : within r acc free = true
      · rw [result, if_pos fits]
        exact ⟨fits, (Config.freeUlp fresh fn (BitVec.ofNat 32 src)).isLt⟩
      · rw [result, if_neg fits]
        exact ⟨rounded, bound⟩
    have bits : (BitVec.ofNat 32 res).toNat = res := Nat.mod_eq_of_lt allowed.2
    refine ⟨BitVec.ofNat 32 res, by rw [bits]; exact allowed.1, ?_⟩
    rw [bits]
    split <;> rfl

end Sys2Proof.AccurateResults

/-! SUPPORT. The references of R158, for O20: each has a quotient that rounding serves. -/

namespace Sys2Proof.SpecialReferences

open Sys2Proof.Machine Sys2Proof.Rounding Sys2Proof.QuotientRounding Sys2Proof.AccurateResults

/-! A finite source. -/

/-- What a finite source's significand and exponent are. -/
structure Source (m : Nat) (e : Int) : Prop where
  place : e + 23 = max (m.log2 + e) (-126)
  most : m < 2 ^ 24
  largest : e ≤ 105

theorem val_source {neg : Bool} {bits m : Nat} {e : Int} (value : FFmt.f32.val bits = .fin neg m e) : Source m e := by
  have finite : bits % FFmt.f32.signBit ≤ FFmt.f32.maxMag := by
    by_contra beyond
    rw [FFmt.val] at value
    simp only [if_pos (Nat.not_le.1 beyond)] at value
    split at value <;> cases value
  obtain ⟨m', e', read, grid⟩ := val_onGrid finite
  rw [value, Val.fin.injEq] at read
  obtain ⟨-, rfl, rfl⟩ := read
  have largest : FFmt.f32.maxMag = 2139095039 := rfl
  have smallest : FFmt.f32.emin = -126 := rfl
  have frac : FFmt.f32.frac = 23 := rfl
  obtain ⟨place, count⟩ := grid
  rw [smallest, frac] at place count
  rw [largest] at finite
  have log : m.log2 ≤ 23 := by omega
  exact ⟨place, Nat.lt_log2_self.trans_le (Nat.pow_le_pow_right (by decide) (by omega)), by omega⟩

/-! The integer square root. -/

theorem isqrtFrom_spec {x : Nat} (n r : Nat) (low : r * r ≤ x) (high : x < (r + 2 ^ n) * (r + 2 ^ n)) :
    isqrtFrom x n r * isqrtFrom x n r ≤ x ∧ x < (isqrtFrom x n r + 1) * (isqrtFrom x n r + 1) := by
  induction n generalizing r with
  | zero => exact ⟨low, high⟩
  | succ n ih =>
    have twice : r + 2 ^ (n + 1) = r + 2 ^ n + 2 ^ n := by ring
    rw [isqrtFrom]
    split
    · next fits => exact ih _ fits (twice ▸ high)
    · next large => exact ih _ low (Nat.not_le.1 large)

theorem isqrt_spec (x : Nat) : isqrt x * isqrt x ≤ x ∧ x < (isqrt x + 1) * (isqrt x + 1) := by
  refine isqrtFrom_spec _ 0 (Nat.zero_le x) ?_
  rw [Nat.zero_add, ← Nat.pow_add]
  exact Nat.lt_log2_self.trans_le (Nat.pow_le_pow_right (by decide) (by omega))

theorem isqrt_ne_zero {x : Nat} (h : x ≠ 0) : isqrt x ≠ 0 := by
  intro zero
  have above := (isqrt_spec x).2
  rw [zero] at above
  omega

/-! The exponential. -/

theorem term_le_expSeries (t k term : Nat) {fuel : Nat} (h : fuel ≠ 0) : term ≤ expSeries t fuel k term := by
  obtain ⟨n, rfl⟩ := Nat.exists_eq_succ_of_ne_zero h
  exact Nat.le_add_right _ _

theorem two_terms_le_expSeries (t : Nat) {fuel : Nat} (h : fuel ≠ 0) (one : Nat) (unit : one = 2 ^ 160) :
    one + t ≤ expSeries t (fuel + 1) 0 one := by
  have first : one * t / 2 ^ 160 / (0 + 1) = t := by
    rw [unit, Nat.mul_div_cancel_left _ (Nat.two_pow_pos 160), Nat.zero_add, Nat.div_one]
  rw [expSeries, first]
  exact Nat.add_le_add_left (term_le_expSeries _ _ _ h) one

/-- The fraction of a fixed-point exponent times ln 2. -/
def exponentAngle (y : Int) : Nat := (y - y.fdiv ((2 ^ 160 : Nat) : Int) * ((2 ^ 160 : Nat) : Int)).toNat * ln2x160 / 2 ^ 160

theorem exp2Fix_ge (y : Int) : 2 ^ 160 + exponentAngle y ≤ (exp2Fix y).1 :=
  two_terms_le_expSeries (exponentAngle y) (fuel := 63) (by decide) (2 ^ 160) rfl

/-- 2^y is above one for y > 0 of more than the least fixed-point step. -/
theorem exp2Fix_gt {y : Int} (large : 2 ≤ y) : 2 ^ 160 < (exp2Fix y).1 * 2 ^ (exp2Fix y).2.toNat := by
  have least := exp2Fix_ge y
  have exponent : (exp2Fix y).2 = y.fdiv ((2 ^ 160 : Nat) : Int) := rfl
  rw [exponent]
  have floor : y.fdiv ((2 ^ 160 : Nat) : Int) = y / ((2 ^ 160 : Nat) : Int) := Int.fdiv_eq_ediv_of_nonneg _ (Int.natCast_nonneg _)
  have nonneg : 0 ≤ y.fdiv ((2 ^ 160 : Nat) : Int) := by
    rw [floor]
    exact Int.ediv_nonneg (by omega) (Int.natCast_nonneg _)
  rcases nonneg.eq_or_lt with zero | positive
  · have angle : 1 ≤ exponentAngle y := by
      rw [exponentAngle, ← zero, Int.zero_mul, Int.sub_zero, Nat.le_div_iff_mul_le (Nat.two_pow_pos 160)]
      calc 1 * 2 ^ 160
        _ ≤ 2 * ln2x160 := by decide
        _ ≤ y.toNat * ln2x160 := Nat.mul_le_mul_right _ (by omega)
    rw [← zero, Int.toNat_zero, Nat.pow_zero, Nat.mul_one]
    omega
  · have double : 2 ≤ 2 ^ (y.fdiv ((2 ^ 160 : Nat) : Int)).toNat := Nat.le_self_pow (by omega) 2
    calc 2 ^ 160
      _ < 2 ^ 160 * 2 := by decide
      _ ≤ (exp2Fix y).1 * 2 := Nat.mul_le_mul_right _ (by omega)
      _ ≤ _ := Nat.mul_le_mul_left _ double

theorem exp2Fix_ne_zero (y : Int) : (exp2Fix y).1 ≠ 0 := by
  have least := exp2Fix_ge y
  omega

/-! The references. -/

section

variable {m : Nat} {e : Int}

/-- A source cut at 2^9. -/
theorem clampSrc_ge (hm : m ≠ 0) (large : -20 ≤ (m.log2 : Int) + e) :
    (clampSrc m e).1 ≠ 0 ∧ -20 ≤ ((clampSrc m e).1.log2 : Int) + (clampSrc m e).2 := by
  unfold clampSrc
  split
  · refine ⟨one_ne_zero, ?_⟩
    rw [show Nat.log2 1 = 0 from Nat.log2_two_pow (n := 0)]
    decide
  · exact ⟨hm, large⟩

theorem mulConst_ge (hm : m ≠ 0) (large : -20 ≤ (m.log2 : Int) + e) {c : Nat} (hc : 2 ^ 21 ≤ c) : 2 ≤ mulConst false m (e + 1) c := by
  have least := Nat.log2_self_le hm
  have product : 2 ^ (m.log2 + 21) ≤ m * c := by
    rw [Nat.pow_add]
    exact Nat.mul_le_mul least hc
  unfold mulConst
  dsimp only
  rw [if_neg Bool.false_ne_true]
  split
  · have power : 1 ≤ 2 ^ (e + 1).toNat := Nat.one_le_two_pow
    have two : 2 ≤ m * c := (Nat.le_self_pow (by omega) 2).trans product
    exact_mod_cast Nat.mul_le_mul two power
  · rw [Int.fdiv_eq_ediv_of_nonneg _ (Int.natCast_nonneg _), Int.le_ediv_iff_mul_le (by exact_mod_cast Nat.two_pow_pos _)]
    have divisor : 2 * 2 ^ (-(e + 1)).toNat ≤ m * c := by
      refine le_trans ?_ product
      rw [← Nat.pow_succ']
      exact Nat.pow_le_pow_right (by decide) (by omega)
    exact_mod_cast divisor

theorem rounds_recip (hm : m ≠ 0) : Rounds 1 m (-e) := ⟨hm, .inl one_ne_zero⟩

/-- A source with an even exponent. -/
def evenPair (m : Nat) (e : Int) : Nat × Int := if e % 2 = 0 then (m, e) else (2 * m, e - 1)

theorem evenPair_spec (hm : m ≠ 0) (most : m < 2 ^ 24) :
    (evenPair m e).1 ≠ 0 ∧ (evenPair m e).1 < 2 ^ 25 ∧ (evenPair m e).2 % 2 = 0 := by
  unfold evenPair
  split
  · next even => exact ⟨hm, by omega, even⟩
  · next odd => exact ⟨by omega, by omega, by omega⟩

theorem isqrt_div_ne_zero {n x : Nat} (hx : x ≠ 0) (h : x ≤ n) : isqrt (n / x) ≠ 0 :=
  isqrt_ne_zero (Nat.div_pos h (Nat.pos_of_ne_zero hx)).ne'

theorem le_two_pow {x k l : Nat} (bound : x < 2 ^ k) (h : k ≤ l) : x ≤ 2 ^ l := bound.le.trans (Nat.pow_le_pow_right Nat.two_pos h)

theorem rounds_rsqrt (hm : m ≠ 0) (most : m < 2 ^ 24) : Rounds (refRsqrt m e).n (refRsqrt m e).d (refRsqrt m e).e := by
  obtain ⟨hx, bound, -⟩ := evenPair_spec (e := e) hm most
  exact ⟨one_ne_zero, .inl (isqrt_div_ne_zero hx (le_two_pow bound (by decide)))⟩

theorem rounds_exp2 (neg : Bool) : Rounds (refExp2 neg m e).n (refExp2 neg m e).d (refExp2 neg m e).e :=
  ⟨one_ne_zero, .inl (exp2Fix_ne_zero _)⟩

theorem rounds_log2 : Rounds (refLog2 m e).n (refLog2 m e).d (refLog2 m e).e :=
  ⟨one_ne_zero, .inr (by decide : (-160 : Int) ≤ -125)⟩

theorem rounds_trig (cosine neg : Bool) : Rounds (refTrig cosine neg m e).n (refTrig cosine neg m e).d (refTrig cosine neg m e).e :=
  ⟨one_ne_zero, .inr (by decide : (-160 : Int) ≤ -125)⟩

/-- The sum of a series is kept between -1 and 1. -/
theorem natAbs_clamped (x one : Int) (h : 0 ≤ one) : (max (-one) (min one x)).natAbs ≤ one.natAbs := by omega

theorem refTrig_le (cosine neg : Bool) : (refTrig cosine neg m e).n ≤ 2 ^ 160 := by
  refine (natAbs_clamped _ (2 ^ 160) (by decide)).trans_eq ?_
  rfl

theorem ratLog2_one_le {n l : Nat} (h : n ≤ 2 ^ l) : ratLog2 n 1 ≤ l := by
  rcases eq_or_ne n 0 with rfl | hn
  · have := ratLog2_zero one_ne_zero
    omega
  · rw [ratLog2_one hn]
    exact_mod_cast (Nat.pow_le_pow_iff_right (by decide)).1 ((Nat.log2_self_le hn).trans h)

theorem serves_trig (cosine neg : Bool) {k : Nat} (hk : k ≤ 24) : Serves (refTrig cosine neg m e) (.abs k) := by
  have log := ratLog2_one_le (refTrig_le (m := m) (e := e) cosine neg)
  have den : (refTrig cosine neg m e).d = 1 := rfl
  have exponent : (refTrig cosine neg m e).e = -160 := rfl
  refine ⟨hk, ?_⟩
  rw [den, exponent]
  omega

theorem rounds_tanh (neg : Bool) (hm : m ≠ 0) (source : Source m e) : Rounds (refTanh neg m e).n (refTanh neg m e).d (refTanh neg m e).e := by
  have place := source.place
  unfold refTanh
  rw [ratLog2_one hm]
  split
  · next small => exact ⟨(by decide : 15 ≠ 0), .inr (by dsimp only; omega)⟩
  · next large =>
    obtain ⟨hm', large'⟩ := clampSrc_ge hm (Int.not_lt.1 large)
    have above := exp2Fix_gt (mulConst_ge hm' large' (c := log2ex160) (by decide))
    refine ⟨?_, .inl ?_⟩
    · dsimp only
      omega
    · dsimp only
      omega

/-- The two forms of 1 / (1 + 2^y). -/
theorem refSigm_cases (neg : Bool) :
    ∃ n x, refSigm neg m e = ⟨false, n, n + x, 0⟩ ∧ n ≠ 0 := by
  unfold refSigm
  dsimp only
  split
  · exact ⟨_, _, rfl, (Nat.two_pow_pos 160).ne'⟩
  · exact ⟨_, _, rfl, (Nat.mul_pos (Nat.two_pow_pos 160) (Nat.two_pow_pos _)).ne'⟩

theorem rounds_sigm (neg : Bool) : Rounds (refSigm neg m e).n (refSigm neg m e).d (refSigm neg m e).e := by
  obtain ⟨n, x, form, hn⟩ := refSigm_cases (m := m) (e := e) neg
  rw [form]
  exact ⟨Nat.ne_of_gt (Nat.add_pos_left (Nat.pos_of_ne_zero hn) x), .inl hn⟩

theorem serves_sigm (neg : Bool) : Serves (refSigm neg m e) (.abs 24) := by
  have rounds := rounds_sigm (m := m) (e := e) neg
  obtain ⟨n, x, form, -⟩ := refSigm_cases (m := m) (e := e) neg
  rw [form] at rounds ⊢
  exact ⟨le_rfl, by simpa using ratLog2_nonpos rounds.1 (Nat.le_add_right n x)⟩

end

theorem rounds_one : Rounds Ref.one.n Ref.one.d Ref.one.e := ⟨one_ne_zero, .inl one_ne_zero⟩

theorem rounds_zero (neg : Bool) : Rounds (Ref.zero neg).n (Ref.zero neg).d (Ref.zero neg).e :=
  ⟨one_ne_zero, .inr (by decide : (-200 : Int) ≤ -125)⟩

theorem rounds_half : Rounds 1 2 0 := ⟨two_ne_zero, .inl one_ne_zero⟩

theorem serves_one {k : Nat} (hk : k ≤ 24) : Serves Ref.one (.abs k) := ⟨hk, by decide⟩

theorem serves_zero (neg : Bool) {k : Nat} (hk : k ≤ 24) : Serves (Ref.zero neg) (.abs k) := ⟨hk, (by decide : ratLog2 0 1 + -200 ≤ 0)⟩

theorem serves_half : Serves ⟨false, 1, 2, 0⟩ (.abs 24) := ⟨le_rfl, by decide⟩

end Sys2Proof.SpecialReferences

/-! SUPPORT. The results of VSFU that are exact or correctly rounded (R158), for O20: the logarithm of a power of two and the square
root. -/

namespace Sys2Proof.SpecialRoots

open Sys2Proof.Machine Sys2Proof.Rounding Sys2Proof.QuotientRounding Sys2Proof.SpecialReferences

/-! The order of values. -/

section

variable {a b : Nat} {ea eb : Int}

theorem cast_scaledInt (neg : Bool) (m : Nat) {e q : Int} (h : q ≤ e) :
    (scaledInt neg m e q : ℚ) = (if neg then -1 else 1) * (m * 2 ^ e / 2 ^ q) := by
  have magnitude : ((m <<< (e - q).toNat : Nat) : ℚ) = m * 2 ^ e / 2 ^ q := by
    rw [cast_shiftLeft _ (by omega), zpow_sub₀ (by norm_num), mul_div_assoc]
  unfold scaledInt
  cases neg
  · rw [if_neg Bool.false_ne_true, if_neg Bool.false_ne_true, one_mul, ← magnitude]
    exact Int.cast_natCast _
  · rw [if_pos rfl, if_pos rfl, neg_one_mul, ← magnitude, Int.cast_neg]
    rfl

theorem cmpV_neg (less : (a : ℚ) * 2 ^ ea < b * 2 ^ eb) : cmpV (.fin false a ea) (.fin false b eb) < 0 := by
  have scale := two_zpow_pos (min ea eb)
  rw [cmpV, ← Int.cast_lt_zero (R := ℚ), Int.cast_sub, cast_scaledInt _ _ (min_le_left ..), cast_scaledInt _ _ (min_le_right ..),
    if_neg Bool.false_ne_true, one_mul, one_mul, sub_neg, div_lt_div_iff_of_pos_right scale]
  exact less

theorem cmpV_zero (neg : Bool) (same : (a : ℚ) * 2 ^ ea = b * 2 ^ eb) : cmpV (.fin neg a ea) (.fin neg b eb) = 0 := by
  rw [cmpV, ← Int.cast_eq_zero (α := ℚ), Int.cast_sub, cast_scaledInt _ _ (min_le_left ..), cast_scaledInt _ _ (min_le_right ..), same, sub_self]

end

/-! Small integers. -/

theorem rounds_small_int {n : Nat} (nonzero : n ≠ 0) (small : n < 2 ^ 24) : Rounds n 1 0 ∧ ratio n 1 0 ≤ 2 ^ 128 - 2 ^ 104 := by
  have bound : (n : ℚ) ≤ 2 ^ 24 := by exact_mod_cast small.le
  refine ⟨⟨one_ne_zero, .inl nonzero⟩, ?_⟩
  rw [ratio, Nat.cast_one, div_one, zpow_zero, mul_one]
  refine bound.trans ?_
  norm_num

/-- The pattern of a small integer fits a lane. -/
theorem roundTo_lt (x : Int) (small : x.natAbs < 2 ^ 24) : (roundTo .f32 .rne (Val.ofInt x)).1 < 2 ^ 32 := by
  rw [Val.ofInt, roundTo]
  split
  · next zero => cases decide (x < 0) <;> decide
  · next nonzero =>
    obtain ⟨rounds, finite⟩ := rounds_small_int nonzero small
    obtain ⟨-, -, -, -, -, bound⟩ := roundRat_value (decide (x < 0)) rounds finite
    exact bound

/-- An integer of fewer than 24 bits is a value of .f32, and rounds to itself. -/
theorem roundTo_small_int (x : Int) (small : x.natAbs < 2 ^ 24) : cmpV (FFmt.f32.val (roundTo .f32 .rne (Val.ofInt x)).1) (Val.ofInt x) = 0 := by
  rw [Val.ofInt, roundTo]
  split
  · next zero =>
    have positive : decide (x < 0) = false := decide_eq_false (by omega)
    rw [zero, positive]
    decide
  · next nonzero =>
    obtain ⟨rounds, finite⟩ := rounds_small_int nonzero small
    have value : ratio x.natAbs 1 0 = x.natAbs := by rw [ratio, Nat.cast_one, div_one, zpow_zero, mul_one]
    obtain ⟨m, e, read, same, -, -⟩ := roundRat_value (decide (x < 0)) rounds finite
    have place : lastPlace x.natAbs 1 0 ≤ 0 := by
      have log := (Nat.log2_lt nonzero).2 small
      rw [lastPlace, ratLog2_one nonzero]
      omega
    have exact_ : places (decide (x < 0)) x.natAbs 1 0 = x.natAbs * 2 ^ (-lastPlace x.natAbs 1 0).toNat := by
      have near := places_near (n := x.natAbs) (e := 0) (decide (x < 0)) one_ne_zero
      have whole : ratio x.natAbs 1 0 / 2 ^ lastPlace x.natAbs 1 0 = ((x.natAbs * 2 ^ (-lastPlace x.natAbs 1 0).toNat : Nat) : ℚ) := by
        rw [value, Nat.cast_mul, Nat.cast_pow, Nat.cast_ofNat, ← zpow_natCast, Int.toNat_of_nonneg (by omega), zpow_neg, div_eq_mul_inv]
      rw [whole] at near
      exact le_antisymm (nearest_le near le_rfl) (le_nearest near le_rfl)
    rw [read]
    refine cmpV_zero _ ?_
    rw [same, exact_, zpow_zero, mul_one, Nat.cast_mul, Nat.cast_pow, Nat.cast_ofNat, ← zpow_natCast, Int.toNat_of_nonneg (by omega), mul_assoc,
      ← zpow_add₀ (by norm_num), neg_add_cancel, zpow_zero, mul_one]

/-! The square root. -/

/-- The root to one more bit, its last bit set where the root is not exact. -/
def stickyRoot (x : Nat) : Nat := 2 * isqrt x + if isqrt x * isqrt x = x then 0 else 1

/-- An odd factor of a root divides the odd part of the square. -/
theorem odd_root_small {o h m n : Nat} (odd : o % 2 = 1) (hm : m ≠ 0) (square : o * h * (o * h) = m * 2 ^ n) : o * o ≤ m := by
  have coprime : Nat.Coprime (o * o) (2 ^ n) := by
    have single : Nat.Coprime o (2 ^ n) := Nat.Coprime.pow_right n (Nat.coprime_two_right.2 (Nat.odd_iff.2 odd))
    exact single.mul_left single
  refine Nat.le_of_dvd (Nat.pos_of_ne_zero hm) (coprime.dvd_of_dvd_mul_right ⟨h * h, ?_⟩)
  rw [← square]
  ring

/-- The root lies strictly between the midpoints beside its rounded value. -/
theorem root_between {m n k p : Nat} (hm : m ≠ 0) (most : m < 2 ^ 25) (normal : 2 ^ 23 ≤ k)
    (low : k * 2 ^ (p + 2) ≤ stickyRoot (m * 2 ^ n) + 2 ^ (p + 1)) (high : stickyRoot (m * 2 ^ n) ≤ k * 2 ^ (p + 2) + 2 ^ (p + 1)) :
    ((2 * k - 1) * 2 ^ p) ^ 2 < m * 2 ^ n ∧ m * 2 ^ n < ((2 * k + 1) * 2 ^ p) ^ 2 := by
  obtain ⟨floor, ceil⟩ := isqrt_spec (m * 2 ^ n)
  have twice : k * 2 ^ (p + 2) = 2 * (2 * k * 2 ^ p) := by ring
  have half : 2 ^ (p + 1) = 2 * 2 ^ p := by ring
  have below : (2 * k - 1) * 2 ^ p = 2 * k * 2 ^ p - 2 ^ p := by rw [Nat.sub_mul, Nat.one_mul]
  have above : (2 * k + 1) * 2 ^ p = 2 * k * 2 ^ p + 2 ^ p := by rw [Nat.add_mul, Nat.one_mul]
  unfold stickyRoot at low high
  rw [twice, half] at low high
  by_cases exact_ : isqrt (m * 2 ^ n) * isqrt (m * 2 ^ n) = m * 2 ^ n
  · rw [if_pos exact_] at low high
    have apart (o : Nat) (odd : o % 2 = 1) (large : 2 ^ 24 - 1 ≤ o) : isqrt (m * 2 ^ n) ≠ o * 2 ^ p := by
      intro same
      have small := odd_root_small odd hm (n := n) (h := 2 ^ p) (by rw [← same, exact_])
      have large2 := Nat.mul_le_mul large large
      omega
    have left := apart (2 * k - 1) (by omega) (by omega)
    have right := apart (2 * k + 1) (by omega) (by omega)
    rw [← exact_, ← Nat.pow_two]
    exact ⟨Nat.pow_lt_pow_left (by omega) two_ne_zero, Nat.pow_lt_pow_left (by omega) two_ne_zero⟩
  · rw [if_neg exact_] at low high
    constructor
    · refine lt_of_le_of_lt ?_ (lt_of_le_of_ne floor exact_)
      rw [← Nat.pow_two]
      exact Nat.pow_le_pow_left (by omega) 2
    · refine lt_of_lt_of_le ceil ?_
      rw [← Nat.pow_two]
      exact Nat.pow_le_pow_left (by omega) 2

section

variable {m : Nat} {e : Int}

theorem evenPair_value (m : Nat) (e : Int) : ((evenPair m e).1 : ℚ) * 2 ^ (evenPair m e).2 = m * 2 ^ e := by
  unfold evenPair
  split
  · rfl
  · rw [zpow_sub_one₀ (by norm_num)]
    push_cast
    ring

/-- The radicand of VSFU's square root. -/
def radicand (m : Nat) (e : Int) : Nat := (evenPair m e).1 * 2 ^ 80

/-- The exponent of the root's last bit. -/
def rootExp (m : Nat) (e : Int) : Int := (evenPair m e).2 / 2 - 41

theorem radicand_value (even : (evenPair m e).2 % 2 = 0) : (radicand m e : ℚ) * 4 * (2 ^ rootExp m e) ^ 2 = m * 2 ^ e := by
  have twice : (2 : ℚ) ^ (evenPair m e).2 = (2 ^ rootExp m e) ^ 2 * 2 ^ (82 : Int) := by
    rw [← zpow_natCast, ← zpow_mul, ← zpow_add₀ (by norm_num)]
    congr 1
    unfold rootExp
    push_cast
    omega
  rw [← evenPair_value m e, twice, radicand]
  push_cast
  ring

/-- The size of the root. -/
theorem stickyRoot_bounds (hm : m ≠ 0) (most : m < 2 ^ 24) : 2 ^ 41 ≤ stickyRoot (radicand m e) ∧ stickyRoot (radicand m e) ≤ 2 ^ 54 := by
  obtain ⟨nonzero, bound, -⟩ := evenPair_spec (e := e) hm most
  obtain ⟨floor, ceil⟩ := isqrt_spec (radicand m e)
  have lower : 2 ^ 40 < isqrt (radicand m e) + 1 := by
    refine Nat.mul_self_lt_mul_self_iff.1 (lt_of_le_of_lt ?_ ceil)
    rw [radicand]
    omega
  have upper : isqrt (radicand m e) < 2 ^ 53 := by
    refine Nat.mul_self_lt_mul_self_iff.1 (lt_of_le_of_lt floor ?_)
    rw [radicand]
    omega
  unfold stickyRoot
  split <;> omega

/-- What is rounded, and at which place. -/
theorem sqrt_rounds (hm : m ≠ 0) (source : Source m e) :
    Rounds (stickyRoot (radicand m e)) 1 (rootExp m e) ∧ ratio (stickyRoot (radicand m e)) 1 (rootExp m e) ≤ 2 ^ 128 - 2 ^ 104 ∧
      -149 < lastPlace (stickyRoot (radicand m e)) 1 (rootExp m e) ∧
      rootExp m e + 2 ≤ lastPlace (stickyRoot (radicand m e)) 1 (rootExp m e) := by
  obtain ⟨place, most, largest⟩ := source
  obtain ⟨lower, upper⟩ := stickyRoot_bounds (e := e) hm most
  have nonzero : stickyRoot (radicand m e) ≠ 0 := by omega
  have log : 41 ≤ (stickyRoot (radicand m e)).log2 := (Nat.le_log2 nonzero).2 lower
  have exponent : -116 ≤ rootExp m e ∧ rootExp m e ≤ 12 := by
    unfold rootExp evenPair
    split <;> dsimp only <;> omega
  refine ⟨⟨one_ne_zero, .inl nonzero⟩, ?_, ?_, ?_⟩
  · rw [ratio, Nat.cast_one, div_one]
    calc (stickyRoot (radicand m e) : ℚ) * 2 ^ rootExp m e
      _ ≤ 2 ^ 54 * 2 ^ (12 : Int) := by
        refine mul_le_mul (by exact_mod_cast upper) (zpow_le_zpow_right₀ (by norm_num) exponent.2) (two_zpow_pos _).le (by norm_num)
      _ ≤ 2 ^ 128 - 2 ^ 104 := by norm_num
  · rw [lastPlace, ratLog2_one nonzero]
    omega
  · rw [lastPlace, ratLog2_one nonzero]
    omega

/-- The error of the rounded root, in its last bits. -/
theorem sqrt_error {n p k : Nat} {e0 : Int} (near : |(k : ℚ) * 2 ^ (e0 + (p + 2)) - ratio n 1 e0| ≤ 2 ^ (e0 + (p + 2) - 1)) :
    k * 2 ^ (p + 2) ≤ n + 2 ^ (p + 1) ∧ n ≤ k * 2 ^ (p + 2) + 2 ^ (p + 1) := by
  have scale := two_zpow_pos e0
  have whole : (2 : ℚ) ^ (e0 + (p + 2)) = 2 ^ e0 * ((2 ^ (p + 2) : Nat) : ℚ) := by
    rw [zpow_add₀ (by norm_num)]
    norm_cast
  have half : (2 : ℚ) ^ (e0 + (p + 2) - 1) = 2 ^ e0 * ((2 ^ (p + 1) : Nat) : ℚ) := by
    rw [show e0 + (p + 2) - 1 = e0 + (p + 1) by ring, zpow_add₀ (by norm_num)]
    norm_cast
  have factored : (k : ℚ) * 2 ^ (e0 + (p + 2)) - ratio n 1 e0 = 2 ^ e0 * ((k * 2 ^ (p + 2) : Nat) - (n : ℚ)) := by
    rw [whole, ratio, Nat.cast_one, div_one, Nat.cast_mul]
    ring
  rw [factored, half, abs_mul, abs_of_pos scale, mul_le_mul_iff_right₀ scale, abs_le] at near
  obtain ⟨below, above⟩ := near
  constructor
  · have : ((k * 2 ^ (p + 2) : Nat) : ℚ) ≤ (n + 2 ^ (p + 1) : Nat) := by
      rw [Nat.cast_add]
      linarith
    exact_mod_cast this
  · have : (n : ℚ) ≤ (k * 2 ^ (p + 2) + 2 ^ (p + 1) : Nat) := by
      rw [Nat.cast_add]
      linarith
    exact_mod_cast this

/-- A value of k places of weight 2^u, written with fewer places: its own midpoints are no nearer. -/
theorem midpoints_of_places {q k : Nat} {eq u : Int} (hk : k ≠ 0) (same : (q : ℚ) * 2 ^ eq = k * 2 ^ u) (coarser : u ≤ eq) :
    (((2 * q - 1 : Nat) ^ 2 : Nat) : ℚ) * 2 ^ (2 * eq - 2) ≤ (((2 * k - 1 : Nat) : ℚ) * 2 ^ (u - 1)) ^ 2 ∧
      (((2 * k + 1 : Nat) : ℚ) * 2 ^ (u - 1)) ^ 2 ≤ (((2 * q + 1) ^ 2 : Nat) : ℚ) * 2 ^ (2 * eq - 2) := by
  have squared (x : Nat) : ((x ^ 2 : Nat) : ℚ) * 2 ^ (2 * eq - 2) = ((x : ℚ) * 2 ^ (eq - 1)) ^ 2 := by
    rw [mul_pow, ← zpow_natCast, ← zpow_natCast, ← zpow_mul, Nat.cast_pow]
    push_cast
    rw [show (eq - 1) * 2 = 2 * eq - 2 by ring]
    norm_cast
  have pos : (0 : ℚ) < q * 2 ^ eq := by
    rw [same]
    exact mul_pos (by exact_mod_cast Nat.pos_of_ne_zero hk) (two_zpow_pos u)
  have hq : 1 ≤ q := by
    rcases Nat.eq_zero_or_pos q with rfl | h
    · simp at pos
    · exact h
  have finer : (2 : ℚ) ^ (u - 1) ≤ 2 ^ (eq - 1) := zpow_le_zpow_right₀ (by norm_num) (by omega)
  have weight (y : Int) : (2 : ℚ) ^ y = 2 * 2 ^ (y - 1) := by rw [← zpow_one_add₀ (by norm_num), add_sub_cancel]
  have scale := two_zpow_pos (eq - 1)
  have scale' := two_zpow_pos (u - 1)
  rw [weight eq, weight u] at same
  rw [squared, squared]
  have left : (((2 * q - 1 : Nat) : ℚ)) = 2 * q - 1 := by rw [Nat.cast_sub (by omega)]; push_cast; ring
  have left' : (((2 * k - 1 : Nat) : ℚ)) = 2 * k - 1 := by rw [Nat.cast_sub (by omega)]; push_cast; ring
  have one : (1 : ℚ) ≤ q := by exact_mod_cast hq
  constructor
  · rw [left, left']
    exact pow_le_pow_left₀ (mul_nonneg (by linarith) scale.le) (by linarith) 2
  · push_cast
    exact pow_le_pow_left₀ (by positivity) (by linarith) 2

/-- The square root lies strictly between the midpoints beside its result: it is correctly rounded. -/
theorem sqrt_result (hm : m ≠ 0) (source : Source m e) :
    ∃ q eq, FFmt.f32.val (roundRat .f32 .rne false (stickyRoot (radicand m e)) 1 (rootExp m e)).1 = .fin false q eq ∧
      cmpV (.fin false ((2 * q - 1) ^ 2) (2 * eq - 2)) (.fin false m e) < 0 ∧
      cmpV (.fin false m e) (.fin false ((2 * q + 1) ^ 2) (2 * eq - 2)) < 0 := by
  obtain ⟨nonzero, most, even⟩ := evenPair_spec (e := e) hm source.most
  obtain ⟨rounds, finite, normal, coarse⟩ := sqrt_rounds hm source
  obtain ⟨q, eq, read, same, coarser, -⟩ := roundRat_value false rounds finite
  have error := places_error (n := stickyRoot (radicand m e)) (e := rootExp m e) false one_ne_zero
  have many := le_places false rounds normal
  have value := radicand_value even
  obtain ⟨p, place⟩ := Int.le.dest coarse
  have place : lastPlace (stickyRoot (radicand m e)) 1 (rootExp m e) = rootExp m e + (p + 2) := by omega
  rw [place] at error same coarser
  set k := places false (stickyRoot (radicand m e)) 1 (rootExp m e)
  obtain ⟨low, high⟩ := sqrt_error error
  obtain ⟨left, right⟩ := root_between nonzero most many low high
  obtain ⟨below, above⟩ := midpoints_of_places (by omega) same coarser
  have scale := two_zpow_pos (rootExp m e)
  have spread (x : Nat) : ((x : ℚ) * 2 ^ (rootExp m e + (p + 2) - 1)) ^ 2 = ((x * 2 ^ p) ^ 2 : Nat) * 4 * (2 ^ rootExp m e) ^ 2 := by
    rw [show rootExp m e + (p + 2) - 1 = rootExp m e + p + 1 by ring, zpow_add_one₀ (by norm_num), zpow_add₀ (by norm_num), zpow_natCast]
    push_cast
    ring
  have factor : (0 : ℚ) < 4 * (2 ^ rootExp m e) ^ 2 := by positivity
  refine ⟨q, eq, read, cmpV_neg (lt_of_le_of_lt below ?_), cmpV_neg (lt_of_lt_of_le ?_ above)⟩
  · rw [spread, ← value, mul_assoc, mul_assoc]
    exact mul_lt_mul_of_pos_right (by exact_mod_cast left) factor
  · rw [spread, ← value, mul_assoc, mul_assoc]
    exact mul_lt_mul_of_pos_right (by exact_mod_cast right) factor

end

end Sys2Proof.SpecialRoots

/-! SUPPORT. VSFU (R158), and the settling of O20. -/

namespace Sys2Proof.SpecialFunctions

open Sys2Proof.Machine Sys2Proof.Laws Sys2Proof.VectorLanes Sys2Proof.AccurateResults Sys2Proof.SpecialReferences Sys2Proof.SpecialRoots
open Sys2Proof.QuotientRounding Sys2Proof.Rounding Sys2Proof.VectorConversions

/-! The lanes. -/

section

variable {s : State} {d a : BitVec 5} {f : BitVec 7} {m : BitVec 3} {z : BitVec 1}

/-- The result that VSFU gives a lane. -/
def special (s : State) (a : BitVec 5) (f : BitVec 7) (k : Nat) : BitVec 32 × Fl :=
  asLane (sfuLane (s.fresh * 1024 + k) (s.core.ctx.vmode.getLsbD 2) f (lane s a k).toNat)

theorem effVsfu_eq :
    effVsfu d a f m z (vecOps s 0 0) s =
      vecDone s (verdictFree (mreg s.core.ctx m) ([a].map (vreg s.core.ctx)) (laneWise s d m z (special s a f))) := rfl

theorem vsfu_laneWise (starts : Starts (.vsfu d a f m z) s) (free : VerdictFree s (mreg s.core.ctx m) a) :
    LaneWise (.vsfu d a f m z) s d (mreg s.core.ctx m) z (special s a f) := by
  have effect := effVsfu_eq (s := s) (d := d) (a := a) (f := f) (m := m) (z := z)
  rw [verdictFree_pass (by simpa using free)] at effect
  exact laneWise_of_vecIssue (e := effVsfu d a f m z) (o := vecOps s 0 0) rfl starts effect

theorem vsfu_stops (starts : Starts (.vsfu d a f m z) s) (verdict : ¬ VerdictFree s (mreg s.core.ctx m) a) :
    TrapsCounted (.vsfu d a f m z) s (Trap.of .verdictOperand) := by
  have effect := effVsfu_eq (s := s) (d := d) (a := a) (f := f) (m := m) (z := z)
  rw [verdictFree_trap (r := a) (by simp) verdict] at effect
  exact traps_of_vecIssue (e := effVsfu d a f m z) (o := vecOps s 0 0) rfl starts effect

end

/-! One lane, by the value of its source. -/

section

variable {fresh bits : Nat} {ftz n : Bool} {f : BitVec 7}

theorem sfuLane_nan (value : FFmt.f32.val (FFmt.f32.flushSrc ftz bits) = .nan) :
    asLane (sfuLane fresh ftz f bits) = (0x7FC00000, { nv := FFmt.f32.snan bits }) := by
  unfold sfuLane
  dsimp only
  rw [value]
  rfl

/-- The table's row of infinities. -/
theorem sfuLane_inf (value : FFmt.f32.val (FFmt.f32.flushSrc ftz bits) = .inf n) :
    (f = 0 → asLane (sfuLane fresh ftz f bits) = (if n then 0x80000000 else 0, {})) ∧
    (f = 1 → asLane (sfuLane fresh ftz f bits) = if n then (0x7FC00000, { nv := true }) else (0, {})) ∧
    (f = 2 ∨ f = 4 → asLane (sfuLane fresh ftz f bits) = if n then (0x7FC00000, { nv := true }) else (0x7F800000, {})) ∧
    (f = 3 → asLane (sfuLane fresh ftz f bits) = if n then (0, {}) else (0x7F800000, {})) ∧
    (f = 5 ∨ f = 6 → asLane (sfuLane fresh ftz f bits) = (0x7FC00000, { nv := true })) ∧
    (f = 7 → asLane (sfuLane fresh ftz f bits) = (if n then 0xBF800000 else 0x3F800000, {})) ∧
    (f = 8 → asLane (sfuLane fresh ftz f bits) = if n then (0, {}) else (0x3F800000, {})) := by
  unfold sfuLane
  dsimp only
  rw [value]
  refine ⟨?_, ?_, ?_, ?_, ?_, ?_, ?_⟩
  · rintro rfl
    cases n <;> rfl
  · rintro rfl
    cases n <;> rfl
  · rintro (rfl | rfl) <;> cases n <;> rfl
  · rintro rfl
    cases n <;> rfl
  · rintro (rfl | rfl) <;> rfl
  · rintro rfl
    cases n <;> rfl
  · rintro rfl
    cases n <;> rfl

end

/-! Finite sources, one function at a time. -/

section

variable {fresh bits m : Nat} {ftz n : Bool} {e : Int} (value : FFmt.f32.val (FFmt.f32.flushSrc ftz bits) = .fin n m e)

include value

theorem recip_fin :
    (m = 0 → asLane (sfuLane fresh ftz 0 bits) = (if n then 0xFF800000 else 0x7F800000, { dz := true })) ∧
    (m ≠ 0 → Fits ftz (asLane (sfuLane fresh ftz 0 bits)) ⟨n, 1, m, -e⟩ (.ulp 1)) := by
  have run : sfuLane fresh ftz 0 bits = if m = 0 then (withSign .f32 n FFmt.f32.infMag, { dz := true })
      else accurate fresh 0 (FFmt.f32.flushSrc ftz bits) ftz ⟨n, 1, m, -e⟩ (.ulp 1) := by
    unfold sfuLane
    dsimp only
    rw [value]
    rfl
  rw [run]
  constructor
  · intro zero
    rw [if_pos zero]
    cases n <;> rfl
  · intro hm
    rw [if_neg hm]
    exact accurate_fits (rounds_recip hm) one_ne_zero

theorem rsqrt_fin :
    (m = 0 → asLane (sfuLane fresh ftz 1 bits) = (if n then 0xFF800000 else 0x7F800000, { dz := true })) ∧
    (m ≠ 0 → n = true → asLane (sfuLane fresh ftz 1 bits) = (0x7FC00000, { nv := true })) ∧
    (m ≠ 0 → n = false → Fits ftz (asLane (sfuLane fresh ftz 1 bits)) (refRsqrt m e) (.ulp 1)) := by
  have run : sfuLane fresh ftz 1 bits = if m = 0 then (withSign .f32 n FFmt.f32.infMag, { dz := true })
      else if n then (FFmt.f32.nan, { nv := true }) else accurate fresh 1 (FFmt.f32.flushSrc ftz bits) ftz (refRsqrt m e) (.ulp 1) := by
    unfold sfuLane
    dsimp only
    rw [value]
    rfl
  rw [run]
  refine ⟨fun zero => ?_, fun hm negative => ?_, fun hm positive => ?_⟩
  · rw [if_pos zero]
    cases n <;> rfl
  · rw [if_neg hm, if_pos negative]
    rfl
  · rw [if_neg hm, if_neg (Bool.eq_false_iff.1 positive)]
    exact accurate_fits (rounds_rsqrt hm (val_source value).most) one_ne_zero

theorem sqrt_fin :
    (m = 0 → asLane (sfuLane fresh ftz 2 bits) = (if n then 0x80000000 else 0, {})) ∧
    (m ≠ 0 → n = true → asLane (sfuLane fresh ftz 2 bits) = (0x7FC00000, { nv := true })) ∧
    (m ≠ 0 → n = false → (asLane (sfuLane fresh ftz 2 bits)).2 = {} ∧
      ∃ q eq, FFmt.f32.val (asLane (sfuLane fresh ftz 2 bits)).1.toNat = .fin false q eq ∧
        cmpV (.fin false ((2 * q - 1) ^ 2) (2 * eq - 2)) (.fin false m e) < 0 ∧
        cmpV (.fin false m e) (.fin false ((2 * q + 1) ^ 2) (2 * eq - 2)) < 0) := by
  have run : sfuLane fresh ftz 2 bits = if m = 0 then (withSign .f32 n 0, {})
      else if n then (FFmt.f32.nan, { nv := true })
      else ((roundRat .f32 .rne false (stickyRoot (radicand m e)) 1 (rootExp m e)).1, {}) := by
    unfold sfuLane stickyRoot radicand rootExp evenPair
    dsimp only
    rw [value]
    rfl
  rw [run]
  refine ⟨fun zero => ?_, fun hm negative => ?_, fun hm positive => ?_⟩
  · rw [if_pos zero]
    cases n <;> rfl
  · rw [if_neg hm, if_pos negative]
    rfl
  · rw [if_neg hm, if_neg (Bool.eq_false_iff.1 positive)]
    obtain ⟨rounds, finite, -, -⟩ := sqrt_rounds hm (val_source value)
    obtain ⟨-, -, -, -, -, bound⟩ := roundRat_value false rounds finite
    refine ⟨rfl, ?_⟩
    rw [asLane_toNat bound]
    exact sqrt_result hm (val_source value)

theorem exp2_fin :
    (m = 0 → Fits ftz (asLane (sfuLane fresh ftz 3 bits)) .one (.ulp 2)) ∧
    (m ≠ 0 → if n = false ∧ 7 ≤ ratLog2 m 1 + e then asLane (sfuLane fresh ftz 3 bits) = (0x7F800000, { ovf := true })
      else Fits ftz (asLane (sfuLane fresh ftz 3 bits)) (refExp2 n m e) (.ulp 2)) := by
  have run : sfuLane fresh ftz 3 bits =
      if (decide (ratLog2 (max m 1) 1 + e ≥ 7) && !n && m != 0) = true then (withSign .f32 false FFmt.f32.infMag, { ovf := true })
      else accurate fresh 3 (FFmt.f32.flushSrc ftz bits) ftz (if m = 0 then .one else refExp2 n m e) (.ulp 2) := by
    unfold sfuLane
    dsimp only
    rw [value]
    rfl
  rw [run]
  constructor
  · rintro rfl
    rw [if_neg (by simp), if_pos rfl]
    exact accurate_fits rounds_one two_ne_zero
  · intro hm
    have least : max m 1 = m := by omega
    have test : (decide (ratLog2 m 1 + e ≥ 7) && !n && m != 0) = true ↔ n = false ∧ 7 ≤ ratLog2 m 1 + e := by
      simp [hm, and_comm]
    rw [least, if_neg hm]
    by_cases large : n = false ∧ 7 ≤ ratLog2 m 1 + e
    · rw [if_pos large, if_pos (test.2 large)]
      rfl
    · rw [if_neg large, if_neg (large ∘ test.1)]
      exact accurate_fits (rounds_exp2 n) two_ne_zero

theorem log2_fin :
    (m = 0 → asLane (sfuLane fresh ftz 4 bits) = (0xFF800000, { dz := true })) ∧
    (m ≠ 0 → n = true → asLane (sfuLane fresh ftz 4 bits) = (0x7FC00000, { nv := true })) ∧
    (m ≠ 0 → n = false → if 2 ^ m.log2 = m then
        (asLane (sfuLane fresh ftz 4 bits)).2 = {} ∧
          cmpV (FFmt.f32.val (asLane (sfuLane fresh ftz 4 bits)).1.toNat) (Val.ofInt (m.log2 + e)) = 0
      else Fits ftz (asLane (sfuLane fresh ftz 4 bits)) (refLog2 m e) (.ulp 2)) := by
  have run : sfuLane fresh ftz 4 bits = if m = 0 then (withSign .f32 true FFmt.f32.infMag, { dz := true })
      else if n then (FFmt.f32.nan, { nv := true })
      else if 2 ^ m.log2 = m then ((roundTo .f32 .rne (Val.ofInt ((m.log2 : Int) + e))).1, {})
      else accurate fresh 4 (FFmt.f32.flushSrc ftz bits) ftz (refLog2 m e) (.ulp 2) := by
    unfold sfuLane
    dsimp only
    rw [value]
    rfl
  rw [run]
  refine ⟨fun zero => ?_, fun hm negative => ?_, fun hm positive => ?_⟩
  · rw [if_pos zero]
    rfl
  · rw [if_neg hm, if_pos negative]
    rfl
  · rw [if_neg hm, if_neg (Bool.eq_false_iff.1 positive)]
    by_cases power : 2 ^ m.log2 = m
    · rw [if_pos power, if_pos power]
      obtain ⟨place, most, largest⟩ := val_source value
      have log := (Nat.log2_lt hm).2 most
      have small : ((m.log2 : Int) + e).natAbs < 2 ^ 24 := by omega
      refine ⟨rfl, ?_⟩
      rw [asLane_toNat (roundTo_lt _ small)]
      exact roundTo_small_int _ small
    · rw [if_neg power, if_neg power]
      exact accurate_fits rounds_log2 two_ne_zero

/-- The bits of the absolute accuracy of sine and cosine. -/
def trigBits (m : Nat) (e : Int) : Nat := if ratLog2 m 1 + e < 15 ∨ (2 ^ m.log2 = m ∧ ratLog2 m 1 + e = 15) then 22 else 10

omit value in
theorem trigBits_le (m : Nat) (e : Int) : trigBits m e ≤ 24 := by
  unfold trigBits
  split <;> decide

theorem sin_fin :
    (m = 0 → Fits ftz (asLane (sfuLane fresh ftz 5 bits)) (.zero n) (.abs (trigBits m e))) ∧
    (m ≠ 0 → Fits ftz (asLane (sfuLane fresh ftz 5 bits)) (refTrig false n m e) (.abs (trigBits m e))) := by
  have run : sfuLane fresh ftz 5 bits =
      accurate fresh 5 (FFmt.f32.flushSrc ftz bits) ftz (if m = 0 then .zero n else refTrig false n m e) (.abs (trigBits m e)) := by
    unfold sfuLane
    dsimp only
    rw [value]
    rfl
  rw [run]
  constructor
  · intro zero
    rw [if_pos zero]
    exact accurate_fits (rounds_zero n) (serves_zero n (trigBits_le m e))
  · intro hm
    rw [if_neg hm]
    exact accurate_fits (rounds_trig false n) (serves_trig false n (trigBits_le m e))

theorem cos_fin :
    (m = 0 → Fits ftz (asLane (sfuLane fresh ftz 6 bits)) .one (.abs (trigBits m e))) ∧
    (m ≠ 0 → Fits ftz (asLane (sfuLane fresh ftz 6 bits)) (refTrig true n m e) (.abs (trigBits m e))) := by
  have run : sfuLane fresh ftz 6 bits =
      accurate fresh 6 (FFmt.f32.flushSrc ftz bits) ftz (if m = 0 then .one else refTrig true n m e) (.abs (trigBits m e)) := by
    unfold sfuLane
    dsimp only
    rw [value]
    rfl
  rw [run]
  constructor
  · intro zero
    rw [if_pos zero]
    exact accurate_fits rounds_one (serves_one (trigBits_le m e))
  · intro hm
    rw [if_neg hm]
    exact accurate_fits (rounds_trig true n) (serves_trig true n (trigBits_le m e))

theorem tanh_fin :
    (m = 0 → Fits ftz (asLane (sfuLane fresh ftz 7 bits)) (.zero n) (.ulp 2)) ∧
    (m ≠ 0 → Fits ftz (asLane (sfuLane fresh ftz 7 bits)) (refTanh n m e) (.ulp 2)) := by
  have run : sfuLane fresh ftz 7 bits =
      accurate fresh 7 (FFmt.f32.flushSrc ftz bits) ftz (if m = 0 then .zero n else refTanh n m e) (.ulp 2) := by
    unfold sfuLane
    dsimp only
    rw [value]
    rfl
  rw [run]
  constructor
  · intro zero
    rw [if_pos zero]
    exact accurate_fits (rounds_zero n) two_ne_zero
  · intro hm
    rw [if_neg hm]
    exact accurate_fits (rounds_tanh n hm (val_source value)) two_ne_zero

theorem sigm_fin :
    (m = 0 → Fits ftz (asLane (sfuLane fresh ftz 8 bits)) ⟨false, 1, 2, 0⟩ (.abs 24)) ∧
    (m ≠ 0 → Fits ftz (asLane (sfuLane fresh ftz 8 bits)) (refSigm n m e) (.abs 24)) := by
  have run : sfuLane fresh ftz 8 bits =
      accurate fresh 8 (FFmt.f32.flushSrc ftz bits) ftz (if m = 0 then ⟨false, 1, 2, 0⟩ else refSigm n m e) (.abs 24) := by
    unfold sfuLane
    dsimp only
    rw [value]
    rfl
  rw [run]
  constructor
  · intro zero
    rw [if_pos zero]
    exact accurate_fits rounds_half serves_half
  · intro hm
    rw [if_neg hm]
    exact accurate_fits (rounds_sigm n) (serves_sigm n)

end

/-- Settles O20: each member's effect on sources without a verdict word is lane by lane, and VSFU's lanes follow R158's table and
accuracies. -/
theorem vectorComparesAndConversionsComplete : Obligations.VectorComparesAndConversionsComplete := by
  unfold Obligations.VectorComparesAndConversionsComplete
  intro s d a b md c ty sv t f m z act vm ftz nar x bits holds w stops verdictAt live liveFree scale four group writesD
  refine ⟨fun starts => ⟨vcmp_completes starts, vcmp_stops starts⟩, fun src dst hs ht source target starts =>
    ⟨vcvt_converts hs ht source target starts, vcvt_stops hs ht starts⟩, fun starts => ⟨vcvt_encodes starts, vcvt_encode_stops starts⟩,
    fun starts => ⟨vcvt_decodes starts, vcvt_conflicts starts, vcvt_decode_stops starts⟩,
    fun starts => ⟨vsplit_splits starts, vsplit_stops starts⟩,
    fun starts => ⟨vpack_packs starts, fun k j hk active within hj verdict => vpack_stops starts hk active within hj verdict.2⟩,
    fun starts => ⟨vunpk_unpacks starts, fun k hk active verdict => vunpk_stops starts hk active verdict.2⟩,
    fun starts => ⟨vsfu_stops starts, fun free => ⟨special s a f, vsfu_laneWise starts free, fun k => ?_⟩⟩⟩
  cases value : FFmt.f32.val (FFmt.f32.flushSrc ftz (x k)) with
  | nan => exact sfuLane_nan value
  | inf n => exact sfuLane_inf value
  | fin n mm e =>
    refine ⟨fun zero => ⟨?_, ?_, ?_, ?_, ?_, ?_, ?_, ?_⟩, fun hm => ⟨?_, ?_, ?_, ?_, ?_, ?_, ?_, ?_, ?_, ?_⟩⟩
    · rintro (rfl | rfl)
      · exact (recip_fin value).1 zero
      · exact (rsqrt_fin value).1 zero
    · rintro rfl
      exact (sqrt_fin value).1 zero
    · rintro rfl
      exact (log2_fin value).1 zero
    · rintro rfl
      exact (exp2_fin value).1 zero
    · rintro rfl
      exact (sin_fin value).1 zero
    · rintro rfl
      exact (cos_fin value).1 zero
    · rintro rfl
      exact (tanh_fin value).1 zero
    · rintro rfl
      exact (sigm_fin value).1 zero
    · rintro rfl
      exact (recip_fin value).2 hm
    · rintro negative (rfl | rfl | rfl)
      · exact (rsqrt_fin value).2.1 hm negative
      · exact (sqrt_fin value).2.1 hm negative
      · exact (log2_fin value).2.1 hm negative
    · rintro positive rfl
      exact (rsqrt_fin value).2.2 hm positive
    · rintro positive rfl
      exact (sqrt_fin value).2.2 hm positive
    · rintro rfl
      exact (exp2_fin value).2 hm
    · rintro positive rfl
      exact (log2_fin value).2.2 hm positive
    · rintro rfl
      exact (sin_fin value).2 hm
    · rintro rfl
      exact (cos_fin value).2 hm
    · rintro rfl
      exact (tanh_fin value).2 hm
    · rintro rfl
      exact (sigm_fin value).2 hm

end Sys2Proof.SpecialFunctions
